-- ==== Sys2Proof/Word.lean ====
section
/-! DEFINITION. The words of Borlu: bytes, 32-bit register words, byte strings, and which of the two builds of the block
is meant (R2). -/

namespace Sys2Proof

/-- One byte. -/
abbrev Byte := BitVec 8

/-- One register word (R462). -/
abbrev Word := BitVec 32

/-- A byte string, the byte at the lowest offset first. -/
abbrev Bytes := List Byte

/-- The two builds (R2): `D` on a compute die, `T` on a tray. -/
inductive Build
  | D | T
deriving DecidableEq, Repr

/-- The path a register access takes (R467, R469): the host's BAR0, a steward, the tray's class 1 records to a die, the
die's local management port; `msix` names the MSI-X table of BAR4 (R367). -/
inductive Path
  | host | steward | tray | localPort | msix
deriving DecidableEq, Repr

end Sys2Proof
end

