-- ==== Sys2Proof/Syntax.lean ====
section
/-! DEFINITION. The commands of the block: one constructor per row of spec/opcode_table.json, with the row's operands.
A command that exists in both builds names the build it is given to. -/

namespace Sys2Proof

/-- The operands of LANE_LOCK beside the port (R132): the physical lane, and three of its words at a spacing of 4,096 super-blocks, the latest
last. -/
structure LaneWords where
  lane : Fin 4
  words : List Bytes
deriving DecidableEq, Repr

/-- What the tree store reports of a SCORE_STEP: the contexts and vector positions whose fetch returned an uncorrected error (R257), and the
number of errors that it corrected (R260). -/
structure ScoreErrs where
  failed : List (Nat × Nat) := []
  corrected : Nat := 0
deriving DecidableEq, Repr

/-- The straps of a Borlu-T (R487). -/
structure TrayStraps where
  pkg : Bool
  mfr : BitVec 11 := 0
deriving DecidableEq, Repr

/-- The column of an AUDIT_STEP, and the reference images that returned an uncorrected error, by store (0 trees, 1 groups) and slot (R253). -/
structure AuditCol where
  col : Fin 32
  failed : List (Nat × Nat) := []
deriving DecidableEq, Repr

/-- The column of a RULE_STEP, the contexts and vector positions whose search met a check word mismatch or an uncorrected error, and the number
of leaf errors that it corrected (R277). -/
structure RuleCol where
  col : Fin 32
  failed : List (Nat × Nat) := []
  corrected : Nat := 0
deriving DecidableEq, Repr

/-- The row of a SEARCH_ENTRY (R311), and the positions of the rescored vectors whose fetch from the ledger failed (R257). -/
structure SearchRow where
  row : Fin 6400
  failed : List Nat := []
deriving DecidableEq, Repr

/-- What each of the 32 channels presents at a SENSOR_SAMPLE, none where its valid indication is deasserted or its read is not acknowledged
(R454, R482); in a Borlu-D `again` is what it presents in the cycle after (R477). The corrected and uncorrected errors of the memories of a
Borlu-D since the latest sample (R93). -/
structure Samples where
  codes : List (Option (BitVec 16))
  again : List (Option (BitVec 16)) := []
  errors : Nat × Nat := (0, 0)
deriving DecidableEq, Repr

/-- A command. Each constructor's docstring names the row's rule and says what the command is. -/
inductive Instr
  /-- R39. A write to TIM_INCR_FRAC holds the new fraction of the increment in a staging latch. -/
  | timIncrFracWrite (b : Build) (v : Word)
  /-- R39. A write to TIM_INCR_INT commits the integer part and the staged fraction together, or keeps the previous increment and sets CFG_REFUSED
  when the pair would be zero. -/
  | timIncrIntWrite (b : Build) (v : Word)
  /-- R43. A write to TIM_STEP_HI applies a signed step of D ticks to fleet time: direct, as a hold, as a backstep, or refused. -/
  | ftStep (b : Build) (hi : Word)
  /-- R48. A write to TIM_CTL.MODE requests a switch between OFF, BEACON and COUNTED; the switch takes effect at once, at the next beacon, or is
  refused. -/
  | timModeWrite (b : Build) (mode : BitVec 2)
  /-- R45. When FT crosses a multiple of PER times 2,048 ticks, a Borlu-T with BCN_TX queues a beacon to each die and to the tree ports that use it
  as source. -/
  | beaconDue
  /-- R46. A received beacon is measured against the block's FT, and loaded as a step in beacon mode from a tempered source link. -/
  | beaconReceive (b : Build) (port : Fin 8) (link : Fin 64) (frame : Bytes)
  /-- R47. After LOSS consecutive beacon periods without a beacon on the source link, BEACON_LOST is set and a health crumb is raised. -/
  | beaconLost (b : Build)
  /-- R50. A write of TIM_TEMPER with START = 1 begins a tempering run of COUNT exchanges on the named link. -/
  | temperStart (v : Word)
  /-- R54. A far end receives a TEMPER_REQ, stamps t2 and t3, and answers with TEMPER_RESP at its first egress opportunity. -/
  | temperReqReceive (b : Build) (port : Fin 8) (link : Fin 64) (frame : Bytes)
  /-- R51. The near end receives a TEMPER_RESP, stamps t4, computes the round trip and offset, and starts the next exchange. -/
  | temperRespReceive (port : Fin 8) (link : Fin 64) (frame : Bytes)
  /-- R52. A reply that has not arrived within 64 µs of its request ends the run with FAIL_NO_REPLY. -/
  | temperReplyTimeout
  /-- R52. A far end writes the received link delay to its entry, sets TEMPERED, clears NEAR, and answers TEMPER_ACK. -/
  | temperSetReceive (b : Build) (port : Fin 8) (link : Fin 64) (frame : Bytes)
  /-- R54. The near end receives the TEMPER_ACK of a TEMPER_SET. -/
  | temperAckReceive (port : Fin 8) (link : Fin 64) (frame : Bytes)
  /-- R63. A rising edge of time_pulse latches FT into TIM_PULSE_FT while PULSE_EN is set. -/
  | timePulse (b : Build)
  /-- R59. A change of a region's Gray-coded stretch count adds to TIM_STR_CNT and may insert a STRETCH event word. -/
  | regionStretch (p : Fin 64) (gray : BitVec 4)
  /-- R60. The synchronised rising edge of region_stop inserts a STOP word and sets the region's STOPPED trace state. -/
  | regionStopRise (p : Fin 64)
  /-- R60. The synchronised falling edge of region_stop inserts a two-word RESUME with the operating point and the stopped span. -/
  | regionStopFall (p : Fin 64) (opp : BitVec 4)
  /-- R62. Every 2^m BCLK cycles each enabled crossing-queue pair with fresh events on both sides enters its lateness in the LATE or LEAD sieve. -/
  | pairSample
  /-- R68. A transmit timestamp-point pulse is resolved to a port stamp and pushed into the transmit stamp FIFO. -/
  | ptpTxStamp (port : Fin 2) (phase : Fin 24) (frame : Bytes)
  /-- R68. A receive timestamp-point pulse is resolved to a port stamp, corrected for asymmetry, and pushed into the receive stamp FIFO. -/
  | ptpRxStamp (port : Fin 2) (phase : Fin 24) (frame : Bytes)
  /-- R72. A one-step Sync entering the MAC has its originTimestamp, correctionField and UDP checksum rewritten from the predicted departure stamp. -/
  | onestepSyncEdit (port : Fin 2) (frame : Bytes)
  /-- R70. A read of PTP_TS_META pops the head record of the selected stamp FIFO. -/
  | ptpTsMetaRead
  /-- R74. A write to PTP_TLQ_PUSH queues a launch buffer with the staged launch time, or refuses it. -/
  | ptpTlqPush (port : Fin 2) (v : Word) (frame : Bytes)
  /-- R75. At the hand-over cycle of the head entry, the frame is handed to the MAC, or handled under the late policy. -/
  | timedLaunch (port : Fin 2)
  /-- R65. A frame received from an Ethernet MAC is stamped when it is a PTP event message and passed to the steward that handles it. -/
  | ethFrameReceive (port : Fin 2) (frame : Bytes) (err : Bool)
  /-- R79. A region writes one event word and plan cycle into its tap queue. -/
  | tapEntryWrite (p : Fin 64) (word : BitVec 64) (pc : BitVec 48)
  /-- R87. A dequeued COUNT word adds to the matching general, light, command-scoped or transaction counters, or reports a crossing-queue level. -/
  | tapCount (p : Fin 64)
  /-- R96. The second word of a COMMAND_START closes any open command as UNENDED, resets the region's command-scoped counters, and opens the new
  command. -/
  | tapCommandStart (p : Fin 64)
  /-- R96. A COMMAND_END matching the open command closes it with an ENDED record. -/
  | tapCommandEnd (p : Fin 64)
  /-- R98. A TXN_OPEN opens a closed transaction slot with zero accumulators, or is refused on an open slot. -/
  | tapTxnOpen (p : Fin 64)
  /-- R98. A TXN_COMMIT adds each accumulator of an open slot to its general counter and closes the slot. -/
  | tapTxnCommit (p : Fin 64)
  /-- R98. A TXN_ABORT adds each accumulator of an open slot to its slag counter and closes the slot. -/
  | tapTxnAbort (p : Fin 64)
  /-- R83. A POWER word reports the region's power state and is counted by selection. -/
  | tapPower (p : Fin 64)
  /-- R86. A DIGEST_PART word adds one 16-bit part to a digest assembly, and part 7 completes and sends the digest. -/
  | tapDigestPart (p : Fin 64)
  /-- R101. A CANCEL word aborts every open slot of its request as CANCELLED and closes every command carrying that request. -/
  | tapCancel (p : Fin 64)
  /-- R105. A CNT_CLR write with GO clears one group of a counter bank, or is refused. -/
  | cntClrWrite (v : Word)
  /-- R100. A write of 1 to TXN_CTL.ABORT_ALL aborts every open slot to slag with verdict ABORTED. -/
  | txnAbortAll
  /-- R102. At a context's window boundary Borlu-D snapshots its groups, emits interim command records, reports crossing-queue marks, and sends
  frames. -/
  | dieWindowBoundary (c : Fin 9) (ports : List (Fin 64))
  /-- R106. A region writes one 128-bit entry into its trace feed. -/
  | feedEntryWrite (p : Fin 64) (entry : BitVec 128)
  /-- R107. A dequeued STEP entry is encoded as STEP packets with any owed sync, PCREF, TIME or JUMP. -/
  | feedStep (p : Fin 64)
  /-- R107. A dequeued DIVERT entry is encoded as a DIVERT packet. -/
  | feedDivert (p : Fin 64)
  /-- R107. A dequeued LOAD entry is filtered and encoded as a delta or full LOAD packet. -/
  | feedLoad (p : Fin 64)
  /-- R107. A dequeued STORE entry is filtered and encoded as a delta or full STORE packet. -/
  | feedStore (p : Fin 64)
  /-- R107. A dequeued DATA entry is filtered by tag and encoded as a DATA packet. -/
  | feedData (p : Fin 64)
  /-- R107. A dequeued MARK entry is encoded as a MARK packet and may act as a trigger source. -/
  | feedMark (p : Fin 64)
  /-- R121. A write of TRC_CTL.EN starts the trace unit in RUN or ARMED, or returns it to OFF, ending the loaf FINAL. -/
  | trcCtlEnWrite (v : Word)
  /-- R115. A write of 1 to TRC_CMD.FLUSH ends the open loaf FLUSHED and starts a new one. -/
  | trcCmdFlush
  /-- R120. A write of 1 to TRC_CMD.START presents the command start source to the trigger state machine. -/
  | trcCmdStart
  /-- R120. A write of 1 to TRC_CMD.STOP presents the command stop source to the trigger state machine. -/
  | trcCmdStop
  /-- R121. A start or stop condition seen in the previous cycle moves the trace state machine and places a TRIGGER packet. -/
  | triggerTransition
  /-- R121. The post counter reaches zero in POST, the state becomes DONE and the loaf ends FINAL. -/
  | postCountExpire
  /-- R115. A loaf open for TRC_FLUSH.AGE µs ends FLUSHED and a new loaf starts. -/
  | loafAgeExpire
  /-- R122. A change of region_secure starts or ends suppression of the region's feed, placing EXCLUDED or owing a sync. -/
  | regionSecureChange (p : Fin 64) (level : Bool)
  /-- R123. Borlu-D checks a grant record from its tray, stores it in a slot or refuses it, and answers GRANT_RESP. -/
  | grantReceive (link : Fin 64) (frame : Bytes)
  /-- R124. When FT reaches a grant's expiry the grant is removed and covered regions may become suppressed. -/
  | grantExpire
  /-- R430. A REVOKE record clears its mask bits in every grant of the context and removes grants whose mask becomes zero. -/
  | revokeReceive (link : Fin 64) (frame : Bytes)
  /-- R125. Once the feed of a region reporting a low-power state is empty, the POWER packet is placed and POWERED_DOWN is set. -/
  | powerPacketPlace (p : Fin 64)
  /-- R127. When the staging area is empty and enough buffer is free, drop mode ends and a loaf starts with AFTER_DROP and an OVERFLOW. -/
  | dropModeEnd
  /-- R129. In stall mode, buffer free space below the ON level asserts trace_stall for every eligible region. -/
  | traceStallAssert
  /-- R129. When buffer free space reaches the OFF level, every trace_stall is released. -/
  | traceStallRelease
  /-- R130. When sched_debug falls during a stall, trace_stall is released and STALL_DENIED is set. -/
  | schedDebugFall (level : Bool)
  /-- R148. A compressor engine finishes a trace loaf, which becomes ready to leave in sequence order. -/
  | loafCompressed (engine : Fin 4)
  /-- R149. The last stored byte of a loaf leaves the trace port and its buffer space is freed. -/
  | loafDeparted
  /-- R131. A change of trc_link_up starts or stops the serial trace port and restarts its counts. -/
  | trcLinkUpChange (level : Bool)
  /-- R132. An ingest lane locks after finding its alignment pattern three times at the correct spacing. -/
  | laneLock (p : Fin 32) (lane : LaneWords)
  /-- R132. An ingest port reassembles a whole loaf and writes it into its flight-ring segment. -/
  | ingestLoafReceive (p : Fin 32) (words : Bytes)
  /-- R150. A decompressor finishes decoding a loaf and releases its output after the trailer matches. -/
  | decompressLoaf (p : Fin 32)
  /-- R168. A windowed frame is checked, deduplicated and placed in its window, the annex, or discarded. -/
  | windowedFrameReceive (port : Fin 8) (link : Fin 64) (frame : Bytes)
  /-- R162. A class 0 frame is forwarded toward the job hearth and written to the host where the rule requires. -/
  | alarmFrameReceive (port : Fin 8) (link : Fin 64) (frame : Bytes)
  /-- R169. At C_L(w) a Borlu-T node closes a window, sorts its inputs, assigns presence codes and discards outputs still incomplete. -/
  | windowClose (c : Fin 64)
  /-- R174. A node receives job statistics with DOWN = 1 and forwards them unchanged to its children. -/
  | jobStatsReceive (port : Fin 8) (link : Fin 64) (frame : Bytes)
  /-- R197. A node checks a PREPARE, takes a context and forwards split maps, or refuses with an ACK carrying its reasons. -/
  | prepareReceive (b : Build) (port : Fin 8) (link : Fin 64) (frame : Bytes)
  /-- R198. A node merges a child's complete ACK and sends its own when every child has delivered. -/
  | ackReceive (port : Fin 8) (link : Fin 64) (frame : Bytes)
  /-- R198. At A(h) a node gives code absent to the ranks of children whose ACK is incomplete and sends its ACK. -/
  | ackDeadline (c : Fin 64)
  /-- R199. At A(0) the job hearth decides from the ACKs it holds. -/
  | hearthDecisionDeadline (c : Fin 64)
  /-- R200. A PREPARED node that accepts a COMMIT by S − 2 µs forwards it and enters ARMED. -/
  | commitReceive (b : Build) (port : Fin 8) (link : Fin 64) (frame : Bytes)
  /-- R200. A PREPARED node forwards an ABORT and frees its context. -/
  | abortReceive (b : Build) (port : Fin 8) (link : Fin 64) (frame : Bytes)
  /-- R200. A node still PREPARED at S − 2 µs frees its context, sends LATE_COMMIT and writes a crumb. -/
  | lateCommitDeadline (b : Build) (c : Fin 64)
  /-- R202. A LATE_COMMIT received at the job hearth is written to its host event ring. -/
  | lateCommitReceive (port : Fin 8) (link : Fin 64) (frame : Bytes)
  /-- R201. When FT crosses S, every ARMED context becomes ACTIVE with a fresh sequence counter. -/
  | contextStart (b : Build) (c : Fin 64)
  /-- R204. A node receives TEARDOWN with L', enters DRAINING and forwards it. -/
  | teardownReceive (b : Build) (port : Fin 8) (link : Fin 64) (frame : Bytes)
  /-- R204. A parent receives RELEASED from a child, and the job hearth completes the teardown when its own context is released. -/
  | releasedReceive (port : Fin 8) (link : Fin 64) (frame : Bytes)
  /-- R206. At each 1,024 µs switch boundary a node applies up to four context arms and releases. -/
  | switchBoundary (b : Build)
  /-- R208. At each ember period multiple a block sends EMBER to its tray, parent role, standbys and group members. -/
  | emberDue (b : Build)
  /-- R209. An accepted ember counts as EMBER evidence for its sender. -/
  | emberReceive (port : Fin 8) (link : Fin 64) (frame : Bytes)
  /-- R210. At each check point the tray evaluates evidence and moves each rank's member state. -/
  | checkPoint
  /-- R211. A MEMBER record with RETIRE, UNRETIRE or REPORT_LIVE is recorded for the next check point. -/
  | memberReceive (port : Fin 8) (link : Fin 64) (frame : Bytes)
  /-- R212. A node on the path receives a REMAP naming a new die for a rank from window W. -/
  | remapReceive (b : Build) (port : Fin 8) (link : Fin 64) (frame : Bytes)
  /-- R212. At E(W − 1) the old die's context is released and the new die is prepared and armed. -/
  | remapApply (b : Build) (c : Fin 64)
  /-- R213. A standby that misses LOSS + 2i hearth ember periods sends TAKEOVER and becomes active at the next boundary. -/
  | hearthLossTimeout (l : Fin 4)
  /-- R215. A TAKEOVER of higher generation demotes the losing role, and children resend held outputs. -/
  | takeoverReceive (port : Fin 8) (link : Fin 64) (frame : Bytes)
  /-- R322. A MERGE step forms leaf operands or takes child partials and merges reduction items in a kneader. -/
  | mergeStep (row : Fin 6400) (col : Fin 32)
  /-- R233. A FEATURISE step forms feature vectors, updates drift detectors and emits vector records. -/
  | featuriseStep (row : Fin 6400) (col : Fin 32)
  /-- R247. A SCORE step evaluates a batch of vectors through an ensemble's groups and forms verdicts. -/
  | scoreStep (row : Fin 6400) (col : Fin 32) (errs : ScoreErrs)
  /-- R253. An AUDIT step re-evaluates audited vectors at full precision and counts tree and verdict flips. -/
  | auditStep (row : Fin 6400) (col : AuditCol)
  /-- R275. A RULE step searches a rule bank for a vector's group leaf. -/
  | ruleStep (row : Fin 6400) (col : RuleCol)
  /-- R289. An ANVIL step closes a window's comparison, writes coverage records and forms straggler scores. -/
  | anvilStep (row : Fin 6400) (col : Fin 32)
  /-- R306. A WITNESS step files received vote records into the conditioning sieves. -/
  | witnessStep (row : Fin 6400) (col : Fin 32)
  /-- R251. A DIGEST step computes verdict digests for a batch. -/
  | digestStep (row : Fin 6400) (col : Fin 32)
  /-- R322. A SEND step sends partials upward, or job statistics down from the job hearth. -/
  | sendStep (row : Fin 6400) (col : Fin 32)
  /-- R334. A RESULT step writes the window's records to the ledger and host rings and forms the window output digest. -/
  | resultStep (row : Fin 6400) (col : Fin 32)
  /-- R337. A CKPT step writes a state image of the cut after the window to the checkpoint region. -/
  | ckptStep (row : Fin 6400) (col : Fin 32)
  /-- R458. A TEST entry runs the next known-answer step of the in-service test on a unit. -/
  | testEntry (row : Fin 6400) (col : Fin 32) (faulty : List (Fin 64))
  /-- R288. A RING entry compares loaves of one port from the flight ring. -/
  | ringEntry (row : Fin 6400)
  /-- R311. A SEARCH entry gives one search slot to an active scan, replay or catch-up pass. -/
  | searchEntry (row : SearchRow)
  /-- R459. At the next boundary after a failure, a failed lane, anvil, kneader or bank is retired to a spare or marked lost. -/
  | unitRetire
  /-- R284. An anvil compares a decoded loaf against the plan image and writes deviations. -/
  | anvilCompareLoaf (p : Fin 32)
  /-- R298. A digest presented on a witness channel is stamped and sent as a digest record, or discarded. -/
  | witnessDigest (c : Fin 8) (region : Fin 64) (cmd : BitVec 22) (digest : BitVec 128)
  /-- R302. A digest record is held, forwarded toward its vote node, or entered in a key. -/
  | digestRecordReceive (port : Fin 8) (link : Fin 64) (frame : Bytes)
  /-- R303. At the deciding close the vote node decides a key and sends vote records. -/
  | voteDecide (c : Fin 64) (group : Fin 65536) (cmd : BitVec 22)
  /-- R304. A vote record is forwarded toward member trays and held for filing. -/
  | voteReceive (port : Fin 8) (link : Fin 64) (frame : Bytes)
  /-- R301. A held digest record is dropped two windows after its key's last possible decision. -/
  | digestHoldExpire (c : Fin 64)
  /-- R265. Every 2^m BCLK cycles the trigger engine scores its ensembles and may start trace or send TRG_ALARM. -/
  | triggerEval
  /-- R264. A write to ENS_TSTORE_DATA stores a trigger-store word and checks the tree when its last word is written. -/
  | ensTstoreDataWrite (v : Word)
  /-- R265. A write of ENS_TRG_CTL.EN starts or stops the trigger engine, or is refused. -/
  | ensTrgCtlWrite (v : Word)
  /-- R260. An uncorrected tree-store error puts the slot in BAD and raises a health crumb. -/
  | storeUe (slot : Fin 16384)
  /-- R277. An idle slot checks a rule entry and puts its group in BAD on a mismatch. -/
  | ruleScrub (slot : Fin 4096) (entry : Fin 16384) (bad fixed : Bool)
  /-- R316. A divider phase mismatch halts the analysis plane and raises a health crumb. -/
  | phaseError (d : Fin 5)
  /-- R328. A CFG_WRITE record stages a register write in a die's staging set. -/
  | cfgWriteReceive (link : Fin 64) (frame : Bytes)
  /-- R329. A write of 1 to PLN_TXN_CTL.COMMIT checks the staging set and CFT and makes the commit pending, or refuses it. -/
  | plnTxnCommit (b : Build)
  /-- R329. A write of 1 to PLN_TXN_CTL.ABORT discards the staging set and any pending commit. -/
  | plnTxnAbort (b : Build)
  /-- R329. A CFG_COMMIT record commits a die's staging set with its CFT, and the die answers CFG_RESULT. -/
  | cfgCommitReceive (link : Fin 64) (frame : Bytes)
  /-- R329. A CFG_ABORT record discards a die's staging set and pending commit. -/
  | cfgAbortReceive (link : Fin 64) (frame : Bytes)
  /-- R330. When FT crosses CFT every staged write takes effect together and PLN_TXN_SEQ advances. -/
  | cfgApply (b : Build)
  /-- R383. A CFG_RESULT from a die completes the DIE_REG COMMIT that awaits it. -/
  | cfgResultReceive (port : Fin 8) (link : Fin 64) (frame : Bytes)
  /-- R352. An assembler stages a peer's data segment for its stripe. -/
  | shareDataReceive (port : Fin 8) (link : Fin 64) (frame : Bytes)
  /-- R352. HIS_EC_HOLD µs after its oldest staged segment arrived, a stripe closes short. -/
  | stripeHoldExpire (cls : Fin 3)
  /-- R354. A parity holder stores a parity column and answers SHARE_ACK. -/
  | shareParityReceive (port : Fin 8) (link : Fin 64) (frame : Bytes)
  /-- R353. An assembler receives a parity holder's SHARE_ACK toward making its stripe CODED. -/
  | shareAckReceive (port : Fin 8) (link : Fin 64) (frame : Bytes)
  /-- R353. A contributor receives the stripe record, and its segment becomes CODED. -/
  | stripeReceive (port : Fin 8) (link : Fin 64) (frame : Bytes)
  /-- R353. A parity holder records a released column and frees parity when every column is released. -/
  | releaseReceive (port : Fin 8) (link : Fin 64) (frame : Bytes)
  /-- R353. A contributor learns that its segment's parity was evicted. -/
  | notCodedReceive (port : Fin 8) (link : Fin 64) (frame : Bytes)
  /-- R358. A member answers a degraded-read request with the bytes of its column. -/
  | readReqReceive (port : Fin 8) (link : Fin 64) (frame : Bytes)
  /-- R358. A degraded reader decodes the lost column once 8 columns have arrived. -/
  | readRespReceive (port : Fin 8) (link : Fin 64) (frame : Bytes)
  /-- R344. An uncorrected memory error on a read is repaired by a degraded read or counted as lost. -/
  | memoryUe (place : Fin 9) (id : Nat)
  /-- R356. The heir declares a member LOST after LOSS silent periods, sends LOSS and begins rebuild. -/
  | memberLossDeclare (cls : Fin 3) (m : Fin 16)
  /-- R357. A LOSS notice marks the named member LOST and its sender as heir. -/
  | lossReceive (port : Fin 8) (link : Fin 64) (frame : Bytes)
  /-- R359. The heir completes rebuilding the lost member's critical set. -/
  | rebuildDone (cls : Fin 3) (m : Fin 16)
  /-- R361. A write of HIS_GRP_CTL.REJOIN makes a member live again or starts a replacement rebuild. -/
  | hisRejoinWrite (v : Word)
  /-- R361. A replacement Borlu-T completes rebuilding its ledger, replay log, checkpoints and parity. -/
  | replacementRebuildDone (cls : Fin 3) (m : Fin 16)
  /-- R374. A command doorbell publishes a new tail, or is ignored and counted. -/
  | commandDoorbell (n : Fin 16) (v : Word)
  /-- R374. A doorbell of a block-written ring frees consumed positions, or is ignored and counted. -/
  | consumerDoorbell (ring : Fin 21) (v : Word)
  /-- R377. The host steward takes one pending descriptor per eligible ring in a turn and reserves its completion entry. -/
  | descriptorTake
  /-- R381. A NOP descriptor completes at once. -/
  | nop (id : Nat)
  /-- R382. A CANCEL descriptor ends a running compress, decompress, search or replay job. -/
  | cancel (id : Nat)
  /-- R195. A JOB_START descriptor at the job hearth is checked and sends PREPARE down the tree. -/
  | jobStart (id : Nat)
  /-- R204. A JOB_TEARDOWN descriptor sends TEARDOWN with L', or ABORT for an undecided start. -/
  | jobTeardown (id : Nat)
  /-- R212. A REMAP descriptor at the job hearth sends REMAP for a rank. -/
  | remap (id : Nat)
  /-- R211. A MEMBER descriptor sends a MEMBER record from the job hearth. -/
  | member (id : Nat)
  /-- R213. A TAKEOVER descriptor makes this block's standby of a level take over at once. -/
  | takeover (id : Nat)
  /-- R338. A QUENCH descriptor runs passes up to L', freezes the context and writes its state image. -/
  | quench (id : Nat)
  /-- R340. A RESTORE descriptor checks a state image, loads it and starts catch-up. -/
  | restore (id : Nat)
  /-- R336. A REPLAY descriptor starts a replay job over a window range. -/
  | replay (id : Nat)
  /-- R429. A GRANT descriptor is checked and sends GRANT records to the dies whose ranks lie in its ranges. -/
  | grant (id : Nat)
  /-- R430. A REVOKE descriptor sends REVOKE records to every die of the job on the tray. -/
  | revoke (id : Nat)
  /-- R152. A COMPRESS descriptor starts cutting a byte range into loaves. -/
  | compress (id : Nat)
  /-- R153. A DECOMPRESS descriptor starts decoding a run of loaves. -/
  | decompress (id : Nat)
  /-- R308. A SEARCH descriptor starts a scan, or fails with CONTEXT_FULL or BAD_DESCRIPTOR. -/
  | search (id : Nat)
  /-- R259. A TREE_LOAD descriptor checks and loads a tree and reference image into a slot. -/
  | treeLoad (id : Nat)
  /-- R259. A TREE_FREE descriptor frees a tree-store slot, or is refused. -/
  | treeFree (id : Nat)
  /-- R274. A GROUP_LOAD descriptor checks and loads a rule group into a bank range. -/
  | groupLoad (id : Nat)
  /-- R274. A GROUP_FREE descriptor frees a group slot and its range. -/
  | groupFree (id : Nat)
  /-- R281. An IMAGE_LOAD descriptor checks and loads a plan image. -/
  | imageLoad (id : Nat)
  /-- R281. An IMAGE_FREE descriptor frees a plan image slot. -/
  | imageFree (id : Nat)
  /-- R318. A PLAN_LOAD descriptor checks and loads an analysis plan. -/
  | planLoad (id : Nat)
  /-- R317. A PLAN_FREE descriptor frees a plan slot. -/
  | planFree (id : Nat)
  /-- R323. A SCHED_LOAD descriptor checks and loads a schedule image into a slot. -/
  | schedLoad (id : Nat)
  /-- R383. A DIE_REG READ sends REG_READ to a die. -/
  | dieRegRead (id : Nat)
  /-- R383. A DIE_REG WRITE sends REG_WRITE to a die. -/
  | dieRegWrite (id : Nat)
  /-- R383. A DIE_REG STAGE sends CFG_WRITE to a die. -/
  | dieRegStage (id : Nat)
  /-- R383. A DIE_REG COMMIT sends CFG_COMMIT to a die. -/
  | dieRegCommit (id : Nat)
  /-- R383. A DIE_REG ABORT sends CFG_ABORT to a die. -/
  | dieRegAbort (id : Nat)
  /-- R433. A LEASE_ACQUIRE takes a resource or reports it held or broken. -/
  | leaseAcquire (id : Nat)
  /-- R433. A LEASE_RELEASE frees a resource held under the ring's key. -/
  | leaseRelease (id : Nat)
  /-- R370. An OWNER_TRANSFER cancels other work and hands ownership to a named identity. -/
  | ownerTransfer (id : Nat)
  /-- R417. A LOG_CLEAR flushes queued crumbs, erases the log and rewrites pinned crumbs. -/
  | logClear (id : Nat)
  /-- R452. A POWER descriptor chooses T and schedules a power transition of this block or of dies. -/
  | power (id : Nat)
  /-- R447. A FW_ACTIVATE verifies images, writes the directory and restarts the named stewards. -/
  | fwActivate (id : Nat)
  /-- R443. A STW_RESTART descriptor requests a planned restart of one steward. -/
  | stwRestart (id : Nat)
  /-- R460. A TEST descriptor in mode INJECT forces a unit's next two test steps to mismatch. -/
  | testInject (id : Nat)
  /-- R152. A compress job finishes and completes, or fails with NO_SPACE. -/
  | compressDone (id : Nat)
  /-- R153. A decompress job finishes and completes, or fails at the first faulting loaf. -/
  | decompressDone (id : Nat)
  /-- R312. A scan finishes, writes its summary record and completes. -/
  | searchDone (n : Fin 16)
  /-- R336. A replay job finishes and completes OK, REPLAY_DIVERGED or DEADLINE. -/
  | replayDone (n : Fin 16)
  /-- R383. A die carries out a REG_READ and answers REG_RESP. -/
  | regReadReceive (link : Fin 64) (frame : Bytes)
  /-- R383. A die carries out a REG_WRITE as a local write and answers REG_RESP. -/
  | regWriteReceive (link : Fin 64) (frame : Bytes)
  /-- R383. A REG_RESP completes the DIE_REG descriptor that awaits it. -/
  | regRespReceive (port : Fin 8) (link : Fin 64) (frame : Bytes)
  /-- R383. A die answer not received within DIE_TMO completes the descriptor with DEADLINE or counts dies as refused. -/
  | dieAnswerTimeout (id : Nat)
  /-- R429. A GRANT_RESP is counted, and the GRANT descriptor completes when every die has answered. -/
  | grantRespReceive (port : Fin 8) (link : Fin 64) (frame : Bytes)
  /-- R452. A die receives a POWER record, schedules the transition and answers POWER_RESP. -/
  | powerRecordReceive (link : Fin 64) (frame : Bytes)
  /-- R452. A POWER_RESP is counted toward the completion of the POWER descriptor. -/
  | powerRespReceive (port : Fin 8) (link : Fin 64) (frame : Bytes)
  /-- R452. At T the block enters its new power state. -/
  | powerTransition (b : Build)
  /-- R414. A tray stores a die's crumb with FROM_DIE and sends it on as the rule requires. -/
  | crumbReceive (port : Fin 8) (link : Fin 64) (frame : Bytes)
  /-- R455. A tray accepts a SENSOR record for use as feature sources of its window. -/
  | sensorRecordReceive (link : Fin 64) (frame : Bytes)
  /-- R368. A write of 1 to HST_OWN.CLAIM takes ownership with the latched identity, or is refused. -/
  | hstOwnClaim
  /-- R369. A write of 1 to HST_OWN.RELEASE gives up ownership. -/
  | hstOwnRelease
  /-- R369. A Function Level Reset ends ownership. -/
  | pcieFlr
  /-- R369. A hot reset ends ownership. -/
  | pcieHotReset
  /-- R369. A link-down ends ownership. -/
  | pcieLinkDown
  /-- R370. When no claim succeeds within OWN_TMO seconds, STATE becomes UNOWNED. -/
  | transferTimeout
  /-- R366. A change of Bus Master Enable stops or resumes every request on the link. -/
  | busMasterEnableChange (level : Bool)
  /-- R372. A ring CFG write enables, disables or configures a ring, or is refused. -/
  | ringCfgWrite (ring : Fin 37) (v : Word)
  /-- R367. A BAR0 or BAR2 access that is not 4 bytes aligned has no effect and sets ACC_ERR. -/
  | barMalformedAccess (isRead : Bool)
  /-- R388. When event ring positions free, held alarms, then crumbs and notices, then EVENTS_LOST are written. -/
  | eventHoldDrain
  /-- R391. When an export ring frees space, held bundles and GAP entries are written. -/
  | exportHoldDrain (e : Fin 4)
  /-- R392. MOD_US µs after the first unsignalled entry, the ring signals its MSI-X vector. -/
  | msixModExpire (ring : Fin 17)
  /-- R400. In a decision cycle the arbiter grants the eligible requester of the lowest tier by round robin. -/
  | egressDecision (b : Build) (p : Fin 9)
  /-- R399. In a frame's last beat the arbiter decides whether the grant continues or ends. -/
  | frameLastBeat (b : Build) (p : Fin 9)
  /-- R401. A write of EGR_PORT_CTL.FREEZE stops or resumes new grants on the port. -/
  | egrFreezeWrite (b : Build) (p : Fin 9) (v : Word)
  /-- R403. A write to a bucket's RATE, BURST or CFG reconfigures it and resets its tokens. -/
  | egrBktReconfig (b : Build) (which : Fin 3) (v : Word)
  /-- R416. The health steward programs the next queued H crumb into the flash log. -/
  | flashCrumbProgram
  /-- R413. Every HPER units of HOURS the health steward writes an HOURS crumb. -/
  | hoursCrumbDue
  /-- R425. A taken press of the tray button opens or restarts the presence window, or reseals. -/
  | buttonPress (pressed : Bool)
  /-- R425. A change of the jumper's taken level enters or leaves service mode. -/
  | jumperChange (fitted : Bool)
  /-- R426. The seal loop's taken level becoming open latches SEAL_BROKEN and writes a pinned crumb. -/
  | sealLoopOpen (isOpen : Bool)
  /-- R425. The presence window closes 120 s after the press that opened it. -/
  | presenceWindowExpire
  /-- R425. A write of 1 to SEC_CTL.CLOSE closes the presence window. -/
  | secCloseWrite (v : Word)
  /-- R442. The boot verifier finishes a steward's image check and loads and releases it, or leaves it FAILED_BOOT. -/
  | stewardVerifyDone (n : Fin 6)
  /-- R443. A write of STW_CMD.RESTART requests a planned restart of a steward. -/
  | stwCmdRestart (v : Word)
  /-- R443. A restarted steward runs again and takes up or discards its handoff. -/
  | stewardRestartDone (n : Fin 6)
  /-- R448. A steward's watchdog expires WDOG_MS after its last kick and faults the steward. -/
  | watchdogExpire (n : Fin 6) (core : Bytes)
  /-- R448. A steward faults, is stopped, dumps and may restart or be held. -/
  | stewardFault (n : Fin 6) (cause : Fin 4) (core : Bytes)
  /-- R448. A steward's write of STW_WDOG restarts its watchdog. -/
  | stwWdogWrite (n : Fin 6)
  /-- R449. A write of STW_DUMP_ACK frees a steward's dump buffer. -/
  | stwDumpAckWrite (v : Word)
  /-- R450. A read of STW_DUMP_DATA returns a dump word and advances WORD. -/
  | stwDumpDataRead
  /-- R450. An access to STW_FL_BUF stores or returns 4 bytes of the window buffer and advances its position. -/
  | stwFlBufAccess (isRead : Bool) (v : Word)
  /-- R446. STW_FL_CMD erase starts a 64 KiB sector erase, or is refused. -/
  | flashErase
  /-- R446. STW_FL_CMD program writes 256 bytes from the buffer and verifies them, or is refused. -/
  | flashProgram
  /-- R450. STW_FL_CMD read places 256 flash bytes in the window buffer. -/
  | flashRead
  /-- R446. A flash window command finishes, setting DONE and VERIFY_ERR on a mismatch. -/
  | flashCmdDone
  /-- R454. Every 2^m BCLK cycles, and at boundaries, each enabled sensor channel is sampled. -/
  | sensorSample (b : Build) (samples : Samples)
  /-- R470. A write to ID_DA.PLACE sets the die's place and PLACED, unless locked. -/
  | idDaPlaceWrite (path : Path) (v : Word)
  /-- R470. A write of 1 to ID_CTL.LOCK locks ID_DA.PLACE. -/
  | idCtlLockWrite (path : Path)
  /-- R469. A write of 1 to ID_CTL.LOCAL_RO makes local port writes ineffective. -/
  | idCtlLocalRoWrite (path : Path)
  /-- R8. A read of an RC field returns its value and clears it to reset. -/
  | rcFieldRead (b : Build) (path : Path) (off : Nat) (hw : Word)
  /-- R63. A read of a LO half returns its bits and latches the HI half from the same cycle. -/
  | loReadLatch (b : Build) (path : Path) (off : Nat)
  /-- R419. A read of EVR_RD_DATA[0] latches all eight words of the selected crumb slot. -/
  | evrRdDataRead (b : Build)
  /-- R6. A write to a register without a row of its own stores its fields, or stages them while a context is active. -/
  | registerWrite (b : Build) (path : Path) (off : Nat) (v hw : Word)
  /-- R484. Assertion of rst_n holds Borlu-D in reset with every output low. -/
  | borluDResetAssert
  /-- R484. Synchronised release of rst_n returns every Borlu-D unit to its reset values. -/
  | borluDResetRelease (slot : BitVec 5) (localEn : Bool)
  /-- R485. Assertion of por_n or rst_n stops every divider and holds every steward. -/
  | borluTResetAssert (por : Bool)
  /-- R485. Release samples the straps and waits for the alignment pulse. -/
  | borluTResetRelease (straps : TrayStraps)
  /-- R315. The first sampled edge of align_pulse releases every divider, after which the record is applied and stewards boot. -/
  | alignPulse
  /-- R485. A memory controller completes PHY training and zeroing of its stack. -/
  | stackReady (stack : Fin 24) (good : Bool)
  /-- R43. The hold balance is absorbed to zero by the increments of later cycles, and TIM_STS.HOLDING returns to 0. -/
  | holdAbsorbed (b : Build)
  /-- R27. The fabric router presents an alarm slot to Borlu-D, which measures the gap since the previous one and raises ALARM_SLOT_GAP when it
  exceeds 128 ns. -/
  | alarmSlotArrival
  /-- R213. A standby that has sent TAKEOVER becomes the active hearth at the next window boundary of each context it carries and rebuilds the
  context state. -/
  | hearthActivation (l : Fin 4)
  /-- R340. At a window boundary with no window behind, a restored context leaves catch-up and runs live again. -/
  | catchupEnd (c : Fin 64)
  /-- R160. A class 7 test or loopback frame is received, counted and discarded unless a test mode names it. -/
  | testFrameReceive (b : Build) (port : Fin 8) (link : Fin 64) (frame : Bytes)
deriving DecidableEq, Repr

end Sys2Proof
end

