-- ==== Sys2Proof/Machine/Crc.lean ====
section
/-! DEFINITION. CRC-32C as R136 defines it (Castagnoli polynomial, reflected form 0x82F6_3B78, initial value and final
exclusive-or 0xFFFF_FFFF). -/

namespace Sys2Proof.Machine

/-- One bit of the CRC: shift right, and add the polynomial when a one leaves. -/
def crcBit (c : Word) : Word := if c.getLsbD 0 then (c >>> 1) ^^^ 0x82F63B78 else c >>> 1

/-- `n` bits of the CRC. -/
def crcBits : Nat → Word → Word
  | 0, c => c
  | n + 1, c => crcBits n (crcBit c)

/-- One byte of the CRC. -/
def crcByte (c : Word) (b : Byte) : Word := crcBits 8 (c ^^^ b.setWidth 32)

/-- CRC-32C of a byte string (R136). -/
def crc32c (bs : Bytes) : Word := (bs.foldl crcByte 0xFFFFFFFF) ^^^ 0xFFFFFFFF

end Sys2Proof.Machine
end

