-- ==== Sys2Proof/Machine/Bytes.lean ====
section
/-! DEFINITION. Byte strings of the spec's structures: little-endian fields (R5), bit fields (R4), padding. -/

namespace Sys2Proof.Machine

/-- A number as `n` bytes, the least significant first (R5). -/
def leBytes : Nat → Nat → Bytes
  | 0, _ => []
  | n + 1, v => BitVec.ofNat 8 v :: leBytes n (v / 256)

/-- The number that a byte string spells, the least significant byte first (R5). -/
def leNat : Bytes → Nat
  | [] => 0
  | b :: bs => b.toNat + 256 * leNat bs

/-- The number that a byte string spells, the most significant byte first: fields of published standards (R5). -/
def beNat (bs : Bytes) : Nat := bs.foldl (fun a b => 256 * a + b.toNat) 0

/-- A number as `n` bytes, the most significant first. -/
def beBytes (n v : Nat) : Bytes := (leBytes n v).reverse

/-- `n` bytes from offset `off`; bytes beyond the end are absent. -/
def slice (bs : Bytes) (off n : Nat) : Bytes := (bs.drop off).take n

/-- The little-endian field of `n` bytes at offset `off` (R5). -/
def fieldAt (bs : Bytes) (off n : Nat) : Nat := leNat (slice bs off n)

/-- The byte at an offset, 0 beyond the end. -/
def byteAt (bs : Bytes) (off : Nat) : Nat := fieldAt bs off 1

/-- Bits `hi` down to `lo` of a number (R4). -/
def bitsOf (v hi lo : Nat) : Nat := v / 2 ^ lo % 2 ^ (hi - lo + 1)

/-- Bit `i` of a number. -/
def bitOf (v i : Nat) : Bool := v / 2 ^ i % 2 == 1

/-- `n` zero bytes. -/
def zeros (n : Nat) : Bytes := List.replicate n 0

/-- A byte string filled with zero bytes to a multiple of `m` (R159). -/
def padTo (m : Nat) (bs : Bytes) : Bytes := bs ++ zeros ((m - bs.length % m) % m)

/-- Every byte of a slice is zero: the reserved bytes of a structure. -/
def zeroAt (bs : Bytes) (off n : Nat) : Bool := (slice bs off n).all (· == 0)

/-- A number truncated to a two's complement width, as a signed number. -/
def signed (w v : Nat) : Int := (BitVec.ofNat w v).toInt

/-- A signed number as `n` bytes of two's complement. -/
def leSigned (n : Nat) (v : Int) : Bytes := leBytes n (BitVec.ofInt (8 * n) v).toNat

/-- Saturate a number at a greatest value. -/
def satTo (m v : Nat) : Nat := if v ≤ m then v else m

/-- A signed number saturated at 32 bits. -/
def sat32 (v : Int) : Int := max (-(2 ^ 31)) (min (2 ^ 31 - 1) v)

/-- Bits of a Boolean as 0 or 1. -/
def bit (b : Bool) : Nat := if b then 1 else 0

/-- The ceiling of a quotient; 0 for a divisor of 0. -/
def ceilDiv (a b : Nat) : Nat := if b = 0 then 0 else (a + b - 1) / b

/-- The first position at which a list entry meets a test. -/
def indexOf? {α : Type} (p : α → Bool) : List α → Nat → Option Nat
  | [], _ => none
  | x :: xs, i => if p x then some i else indexOf? p xs (i + 1)

/-- Cut a byte string into pieces of `n` bytes, with fuel for the number of pieces. -/
def chunks (n : Nat) : Nat → Bytes → List Bytes
  | 0, _ => []
  | _ + 1, [] => []
  | k + 1, bs => bs.take n :: chunks n k (bs.drop n)

end Sys2Proof.Machine
end

