-- ==== Sys2Proof/Config.lean ====
section
/-! DEFINITION. What the spec leaves open: free values. None has a body, so nothing can be proved of them but what the
rules that use them enforce. Each is named in the assumption log. -/

namespace Sys2Proof

/-- A value that the spec does not fix, a fresh one for each number (log 4). -/
opaque Config.freeValue : Nat → BitVec 64

/-- The TOPK key of a number that does not fit 32 bits (log 4). -/
opaque Config.wideKey : Int → Nat

/-- Which of several causes CAUSE of an INVALID verdict names (R250, log 18). -/
opaque Config.causeOf : List Nat → Nat

/-- The quad of the engine that rescores a vector record (R309, log 4). -/
opaque Config.rescoreQuad : Bytes → Nat

/-- The barrier and the score in the straggler record of a persistent rank in a window without a score (R296, log 4). -/
opaque Config.noScore : Nat → Nat → Nat × Nat

/-- Whether an ECDSA P-384 signature verifies under the ROM key of an index: the signed bytes, r and s (R441, R472). The
ROM keys are not in the spec (log 5). -/
opaque Config.signatureVerifies : Nat → Bytes → Bytes → Bool

/-- The tree port on which a frame to a destination leaves (R394), as a number that is taken modulo 8 (log 6). -/
opaque Config.treePortOf : Nat → Nat → Nat

/-- The fixed number of cycles between the arrival stamp of a beacon and its load (R46), per build (log 7). -/
opaque Config.beaconLoadCycles : Build → Nat

/-- The match that an encoder proposes at a position of a loaf's input: length and offset, for an EFFORT (R143, R145). The spec
fixes how a match is written and that its bytes are earlier output, not which match is found (log 14). -/
opaque Config.encoderMatch : Nat → Bytes → Nat → Nat × Nat

/-- The PERIOD of an operating point of the die on an ingest port, in 2^-20 tick, as Borlu-T applies it (R111). TIM_OPP is a register of
Borlu-D; the spec does not say how Borlu-T learns it (log 20). -/
opaque Config.oppPeriod : Nat → Nat → Nat

/-- The decompressor, modulo 32, to which the plan gives the search slot of a row: the layout of those slots is in no image of the spec
(R149, R459; log 4). -/
opaque Config.slotDecompressor : Bytes → Nat → Nat

/-- Whether a slot of the model store lies in a stack: the kind of slot, its number, the stack. Regions are interleaved over the stacks at 4 KiB,
and where a slot lies in its region is in no rule (R343, R490; log 84). -/
opaque Config.inStack : Nat → Nat → Nat → Bool

/-- Whether a PREPARE record comes from a REMAP, so that its start lies outside the reservation check (R212). The record has no field for it
(log 48). -/
opaque Config.fromRemap : Bytes → Bool

/-- The bytes that the budget of HIS_EC_RATE lets a block admit at once, beside what its rate gives (R355, log 4). -/
opaque Config.ecBurst : Nat

/-- What the instruction register of the test access port captures, and the instruction that a code of it is: 1 SAMPLE/PRELOAD, 2 EXTEST,
3 IDCODE, any other number BYPASS. The spec names the instructions and gives neither their codes nor the register's length (R483; log 80). -/
opaque Config.tapCapture : List Bool
opaque Config.tapCode : List Bool → Nat

end Sys2Proof
end

