-- ==== Sys2Proof/Machine/State.lean ====
section
/-! DEFINITION. The state of the machine: one Borlu-D, one Borlu-T and the queue of waiting commands. Registers are held
as the words that differ from their reset values (the register map gives those); everything the rules name beside the
registers has a field of its own. All of it is plain data. -/

namespace Sys2Proof.Machine

/-- A sparse table: the entries that differ from a default, at strictly rising keys. An unlisted key reads as the
default that the table's reader names. -/
abbrev Sparse (α : Type) := List (Nat × α)

/-- No command of the table stops the block with a fault: there is none. -/
inductive Fault
deriving DecidableEq, Repr

/-- Why a command has no meaning. -/
inductive Refusal
  /-- Raised by `exec` for a command that the model gives no meaning yet. Safe: the model stops. -/
  | notModelled (mnemonic : String)
deriving DecidableEq, Repr

/-! ### Frames, egress -/

/-- Where a frame or host write goes when it leaves the block. -/
inductive Dest
  /-- From a die to its tray, on the protected channel. -/
  | tray
  /-- From a tray to the die in a slot. -/
  | die (slot : Nat)
  /-- To the Borlu-T at the far end of a tree port. -/
  | treePort (port : Nat)
  /-- To the parent role of a context in its job tree, or to the job hearth when the context is at the tray. -/
  | parent (ctx : Nat)
  /-- To the child role at an address in the job tree of a context. -/
  | child (ctx : Nat) (addr : Nat)
  /-- To the blocks that hold a role at a level: its active hearth and its standbys. -/
  | role (level : Nat)
  /-- To the Borlu-T of a tray, by its tray address. -/
  | peer (addr : Nat)
  /-- A write to host memory at an address. -/
  | host (addr : Nat)
  /-- The next entry of a ring that the block writes, by its doorbell number (R367): its position is known when it leaves (R373). -/
  | ring (d : Nat)
deriving DecidableEq, Repr

/-- One frame or host write waiting in a requester's queue (R394): its bytes, where it goes, the fleet time at which it
was whole at the queue (R404), the MSI-X vector that follows its last write (R392), the descriptor whose output or completion it is, and
whether it leaves with Relaxed Ordering (R365). -/
structure EgItem where
  dest : Dest
  bytes : Bytes
  whole : BitVec 64
  msix : Option Nat := none
  desc : Option Nat := none
  relaxed : Bool := false
deriving DecidableEq, Repr

/-- A grant that runs on an egress port (R399). -/
structure Grant where
  owner : Nat
  sent : Nat
deriving DecidableEq, Repr

/-- One entry of an alarm coalescing table (R397, R388): its context or job tag, its alarm record, and whether it is
the catch-all entry of its key. -/
structure CoalEntry where
  key : Nat
  record : Bytes
  dest : Dest
  catchAll : Bool
deriving DecidableEq, Repr

/-- One egress port (R394 to R404): the queues of its requesters, their buckets (values that differ from reset), the
round-robin pointers, the running grant, the buckets reconfigured in this cycle, the costs of the first beats that the next cycle brings
(R402) and the coalescing table. -/
structure EgPort where
  queues : Sparse (List EgItem) := []
  rate : Sparse Word := []
  burst : Sparse Word := []
  cfg : Sparse Word := []
  tok : Sparse Int := []
  qhwm : Sparse Word := []
  shwm : Sparse Word := []
  rr0 : Nat := 0
  rr1 : Nat := 0
  rr2 : Nat := 0
  grant : Option Grant := none
  latestOwner : Nat := 0
  reconf : List Nat := []
  debits : Sparse Nat := []
  coal : List CoalEntry := []
deriving DecidableEq, Repr

/-- A frame as its receiver reads its header (R156); `raw` is the whole frame. -/
structure Frame where
  cls : Nat
  job : Nat
  rank : Nat
  level : Nat
  noRank : Bool
  down : Bool
  seq : Nat
  window : Nat
  flags : Nat
  part : Nat
  parts : Nat
  ft : Nat
  srcDa : Nat
  epoch : Nat
  payload : Bytes
  raw : Bytes
deriving DecidableEq, Repr

/-- Duplicate state of one source key (R164): the highest accepted sequence value and the accepted values among the
4,096 up to it. -/
structure DupState where
  key : List Nat
  high : Nat
  seen : List Nat
deriving DecidableEq, Repr

/-- The frames that a node has placed for one window (R168, R169): its inputs, its annex inputs (late for the window
before), the parts of outputs not complete yet, and whether the node has closed it. -/
structure WinSlot where
  w : Nat
  inputs : List Frame := []
  annex : List Frame := []
  held : List Frame := []
  closed : Bool := false
deriving DecidableEq, Repr

/-- A reduction item (R175): identifier, operation, form, the IFLAGS SAT, NAN and LATE, and its whole body. -/
structure Item where
  id : Nat
  op : Nat
  form : Nat
  sat : Bool
  nan : Bool
  late : Bool
  body : Bytes
deriving DecidableEq, Repr

/-- The exact content of a sieve (R183): shift, contributing ranks, counts by bin, OVF, SAT. -/
structure Sieve where
  shift : Nat := 0
  n : Nat := 0
  bins : Sparse Nat := []
  ovf : Nat := 0
  sat : Bool := false
deriving DecidableEq, Repr

/-! ### Analysis state of a context (R337) -/

/-- A drift detector of a rank (R232): its two sums, SAT, and the code of its latest output (3 before the first). -/
structure Detector where
  up : Nat := 0
  down : Nat := 0
  sat : Bool := false
  out : Nat := 3
deriving DecidableEq, Repr

/-- What a tray keeps of a rank from pass to pass: detectors; their outputs at the end of the pass before (R228); runs and
latches of the acceptance-collapse rules (R234) and of the ensembles (R249); the straggler MASK and latest score (R295); whether it
has had a vector. -/
structure RankState where
  dets : Sparse Detector := []
  kept : Sparse Nat := []
  acr : Sparse (Nat × Bool) := []
  ens : Sparse (Nat × Bool) := []
  mask : Nat := 0
  score : Option Nat := none
  anvilTo : Option Nat := none
  seen : Bool := false
deriving DecidableEq, Repr

/-- A feature vector (R218): its rank, whether it is late and audited, its record, and the binary32 values of its features, by
slot, upper halves at 256 + slot; the ensembles for which its fetch failed; those for which a search found its group BAD. -/
structure FeatVec where
  rank : Nat
  late : Bool
  audited : Bool
  record : Bytes
  feats : Sparse Nat := []
  fetchErr : List Nat := []
  bankErr : List Nat := []
deriving DecidableEq, Repr

/-- A verdict (R248, R250): whose it is, the code, accumulators, SAT mask, cause; what the audit and the digest step added. -/
structure Verdict where
  rank : Nat
  late : Bool
  ens : Nat
  code : Nat
  acc : List Int := []
  satMask : Nat := 0
  cause : Nat := 0
  audited : Bool := false
  digest : Option Bytes := none
deriving DecidableEq, Repr

/-- What the reference lane found of one vector and ensemble (R236, R254): trees skipped, the reference verdict where none was, and whether
it differs from the narrow one. -/
structure AuditMark where
  rank : Nat
  late : Bool
  ens : Nat
  short : Bool
  flip : Bool
  ref : Option Nat := none
deriving DecidableEq, Repr

/-- The comparison of one rank's loaves of a window (R289, R294): loaves compared, skipped, faulted; the CFLAGS; by region the plan
cycles, cost and whether it is unplanned; the mark times by barrier, each with the SEQ of its loaf. -/
structure Coverage where
  compared : Nat := 0
  skipped : Nat := 0
  faulted : Nat := 0
  flags : Nat := 0
  regions : Sparse (Nat × Int × Bool) := []
  marks : Sparse (Nat × Nat) := []
deriving DecidableEq, Repr

/-- What the passes of one window of a context hold: ranks a class 3 output of which was not complete; presence codes and member state with M (code
+ 8 M) of each rank at the close; the job statistics of the window before that came in time; partials, and those formed from annex inputs; list
entries merged and sent; tray rank indices featurised; vectors; groups scored and rule positions searched by ensemble, with the ensembles that a
lost lane or bank touches; verdicts, the class 0 alarms that wait for the verdicts before them (rank, ensemble, PARAM), and audit marks; audit sums,
whether the last audit step has run and whether the audit has ended; comparison by rank, deviation counts by 16 × rank + class, deviation records;
anvil records written; straggler records; at a vote node the digest records of the keys decided; votes filed; conditioning sieves by 8 × rank +
index; disagreements by 8 × rank + channel; job results; whether the result step has run; digest. -/
structure PassWin where
  w : Nat
  closed : Bool := false
  eventsLost : List Nat := []
  presence : Sparse Nat := []
  states : Sparse Nat := []
  sensors : Sparse Bytes := []
  stats : Option (List Item) := none
  parts : List Item := []
  lateParts : List Item := []
  merged : List Nat := []
  sent : List Nat := []
  featured : List Nat := []
  vectors : List FeatVec := []
  scored : Sparse (List Nat) := []
  ruled : Sparse (List Nat) := []
  laneLost : List Nat := []
  bankLost : List Nat := []
  verdicts : List Verdict := []
  alarms : List (Nat × Nat × Nat) := []
  audits : List AuditMark := []
  auditUsed : Sparse Nat := []
  trees : Nat := 0
  treeFlips : Nat := 0
  verdictFlips : Nat := 0
  auditReady : Bool := false
  auditDone : Bool := false
  cover : Sparse Coverage := []
  devCount : Sparse Nat := []
  devs : List Bytes := []
  coverage : List Bytes := []
  scores : Sparse Nat := []
  stragglers : List Bytes := []
  witnessed : Bool := false
  digests : List Bytes := []
  votes : List Bytes := []
  sieves : Sparse Sieve := []
  disagree : Sparse Nat := []
  results : List Item := []
  digest : Option Bytes := none
deriving DecidableEq, Repr

/-- An open key at a vote node (R302): group, CMD, the digest records that have come, in their order, the FT of the latest. -/
structure VoteKey where
  group : Nat
  cmd : Nat
  records : List Bytes
  last : BitVec 64
deriving DecidableEq, Repr

/-- The analysis state of a context (R337): by rank; the windows in work, the oldest first; the job statistics received, by
window; digest records held; vote records not filed yet, each with the FT at which it came; open keys; keys decided with
their window; the latest swap recommendation by rank (R297); the loaves compared of each window, in their order (R291). -/
structure Analysis where
  ranks : Sparse RankState := []
  wins : List PassWin := []
  stats : List (Nat × List Item) := []
  held : List Bytes := []
  votes : List (Nat × Bytes) := []
  keys : List VoteKey := []
  decided : List (Nat × Nat × Nat) := []
  swaps : Sparse Nat := []
  loaves : List (Nat × Bytes) := []
  lateDevs : List Bytes := []
deriving DecidableEq, Repr

/-! ### Job contexts -/

/-- The states of a job context (R190). -/
inductive CtxPhase
  | free | prepared | armed | active | draining | releaseQueued
deriving DecidableEq, Repr

/-- Member states of a rank (R210). -/
inductive MemberPhase
  | live | suspect | contested | silent | retired
deriving DecidableEq, Repr

/-- What a tray holds of one of its ranks (R209, R210): state, missed check points, evidence of the latest check point,
check points since the latest alternate evidence, evidence since the latest check point, link evidence of the latest window
close, whether a MEMBER record with RETIRE or with UNRETIRE waits for the next check point. -/
structure Member where
  phase : MemberPhase := .live
  missed : Nat := 0
  evidence : Nat := 0
  sinceAlt : Nat := 0
  fresh : Nat := 0
  link : Bool := false
  retire : Bool := false
  unretire : Bool := false
deriving DecidableEq, Repr

/-- A child of a node in a job tree: the child's level, its address field, the ranks of its subtree, and its complete
ACK where it has delivered one (presence codes by rank, REFUSED, REASONS; R198). -/
structure Child where
  level : Nat
  addr : Nat
  ranks : List Nat
  acked : Bool := false
  present : Sparse Nat := []
  refused : Nat := 0
  reasons : Nat := 0
  released : Bool := false
  releasedRanks : Nat := 0
deriving DecidableEq, Repr

/-- A rewritten map entry that waits for its window (R212); `armed` once the tray has committed the new die. -/
structure RemapWait where
  rank : Nat
  addr : Nat
  window : Nat
  desc : Option Nat := none
  done : Bool := false
  armed : Bool := false
deriving DecidableEq, Repr

/-- A job context (R189): the fixed items of the context, its rank-to-address map, its children in the job tree, and
what the two-phase start, the windows, the members (the armed ranks of a tray, R210) and the teardown keep; the generation of the
takeover under which a new active hearth has taken it up (R213); the windows that forward steps passed over whole, as first window and
number (R44). -/
structure Ctx where
  phase : CtxPhase := .free
  job : Nat := 0
  epoch : Nat := 0
  k : Nat := 0
  start : BitVec 64 := 0
  ranks : Nat := 0
  policy : Nat := 0
  hop : Nat := 0
  depth : Nat := 0
  height : Nat := 0
  hlevel : Nat := 0
  close : Nat := 0
  allow : List Nat := []
  plan : Bytes := []
  rank : Nat := 0
  level : Nat := 0
  isHearth : Bool := false
  map : Sparse Nat := []
  children : List Child := []
  ackSent : Bool := false
  armedRanks : Option (List Nat) := none
  partialStart : Bool := false
  prepare : Bytes := []
  decision : Option Bool := none
  seq : Nat := 0
  jseq : Nat := 0
  dups : List DupState := []
  openWin : Nat := 0
  lastWin : Option Nat := none
  wins : List WinSlot := []
  members : Sparse Member := []
  remaps : List RemapWait := []
  queuedAt : Nat := 0
  bind : Option Nat := none
  quenched : Bool := false
  catchup : Bool := false
  behind : Nat := 0
  startDesc : Option Nat := none
  endDesc : Option Nat := none
  outputs : List Frame := []
  an : Analysis := {}
  quenchAt : Option Nat := none
  quenchDesc : Option Nat := none
  settings : List (Nat × Word) := []
  passed : Option Nat := none
  parked : Bytes := []
  takenUp : Option Nat := none
  skipped : List (Nat × Nat) := []
deriving DecidableEq, Repr

/-- The frames of one multi-frame record that have been received (R193). -/
structure PartSet where
  key : List Nat
  parts : Nat
  got : List (Nat × Bytes)
deriving DecidableEq, Repr

/-- A level role of a Borlu-T (R213): 0 none, 1 active, 2 standby; its standby index, generation, missed ember periods,
a takeover waiting for its window boundary with the FT of its TAKEOVER, and the role codes before earlier assignments, each with
the FT of the assignment, the oldest first (R25). -/
structure Role where
  role : Nat := 0
  index : Nat := 0
  gen : Nat := 0
  missed : Nat := 0
  pending : Bool := false
  mark : BitVec 64 := 0
  desc : Option Nat := none
  past : List (BitVec 64 × Nat) := []
deriving DecidableEq, Repr

/-- The ember periods and check points of a block (R208, R209, R216): MBR_EMBER.PER, GRACE, SUSPECT and SILENT, MBR_HEARTH.LOSS,
MBR_CTL.AUTO_TAKEOVER and MBR_RANK_SEL as they are in force, and the FT of the next period multiple and of the next check point. -/
structure PeriodUnit where
  per : Nat := 4
  grace : Nat := 4
  suspect : Nat := 3
  silent : Nat := 32
  loss : Nat := 4
  auto : Bool := true
  sel : Word := 0
  emberNext : BitVec 64 := 512000
  checkNext : BitVec 64 := 64000
deriving DecidableEq, Repr

/-! ### Fleet time -/

/-- A running tempering (R50, R51): link, exchanges to run, exchanges done, t1 of the open exchange, the smallest
and largest round trip with the delay of the earliest smallest one, and the offset of each exchange. -/
structure TemperRun where
  link : Nat
  count : Nat
  done : Nat := 0
  t1 : BitVec 64
  minRt : Option Int := none
  maxRt : Int := 0
  delay : Int := 0
  offsets : List Int := []
deriving DecidableEq, Repr

/-- The time accumulator and what goes with it (R35 to R52). `hold` is the hold balance in units of 2^-32 tick; `incrHeld` the increment
that is still in force in the cycle of a write that replaces it (R39); `beaconNext` the next multiple of the beacon period (R45). -/
structure TimeUnit where
  acc : BitVec 96 := 0
  hold : Nat := 0
  fracStage : Word := 0
  stepLo : Word := 0
  modeNow : Nat := 0
  modeNext : Option Nat := none
  valid : Bool := false
  beaconMark : Option Nat := some 0
  beaconNext : BitVec 64 := 16384
  incrHeld : Option Nat := none
  temper : Option TemperRun := none
  backsteps : Nat := 0
  pulse : BitVec 64 := 0
  cycles : Nat := 0
  healthSpan : Nat := 0
  healthSeen : List (List Nat) := []
deriving DecidableEq, Repr

/-! ### Event recorder -/

/-- A crumb ring in memory (R410, R414): its slots that have been written, the next slot, the LAP of the running pass
and whether the ring has wrapped. -/
structure CrumbRing where
  slots : Sparse Bytes := []
  head : Nat := 0
  lap : Bool := true
  wrapped : Bool := false
deriving DecidableEq, Repr

/-- The recorder of a block (R413 to R417). `ring` is the local ring of a die or the health ring of a tray; the queue,
position and failure flag are the tray's flash log. -/
structure Recorder where
  ring : CrumbRing := {}
  jrings : Sparse CrumbRing := []
  queue : List Bytes := []
  dropped : Nat := 0
  head : Nat := 0
  logFail : Bool := false
  hours : Nat := 0
  hourCycles : Nat := 0
  hoursWritten : Nat := 0
  pcyc : Nat := 0
deriving DecidableEq, Repr

/-! ### Configuration transactions, power, sensors -/

/-- The staging set of a block and its pending commits, in the order of their writes (R328, R329), and the writes that commits applied, in their
order: CFT, offset, old and new value (R330). -/
structure CfgTxn where
  staged : List (Nat × Word) := []
  poisoned : Bool := false
  pending : List (BitVec 64 × List (Nat × Word)) := []
  log : List (BitVec 64 × Nat × Word × Word) := []
deriving DecidableEq, Repr

/-- Power state and pending transition (R451 to R453), and the TRC_CTL.EN that comes back at RUN. -/
structure PowerUnit where
  phase : Nat := 0
  target : Option Nat := none
  time : BitVec 64 := 0
  offReady : Bool := false
  heldTrc : Bool := false
  desc : Option Nat := none
deriving DecidableEq, Repr

/-! ### Host rings and descriptors (Borlu-T) -/

/-- A descriptor that has been taken and has not completed (R376, R377): its identity in the order of taking, its ring and position, the completion
ring in which it reserved an entry, its 64 bytes, and what its work keeps: the dies that still have to answer, counts of answers, a deadline, an
output position, and the values of LOF_CTL that a running compress job has met, each with the loaf from which on it applies (R155). -/
structure Taken where
  id : Nat
  ring : Nat
  index : Nat
  cpl : Nat
  bytes : Bytes
  begun : Bool := false
  waitDies : List Nat := []
  accepted : Nat := 0
  refused : Nat := 0
  deadline : BitVec 64 := 0
  out : Bytes := []
  progress : Nat := 0
  note : Nat := 0
  later : List (Nat × Nat) := []
deriving DecidableEq, Repr

/-- A command ring (R372, R377, R378): head, tail, whether enabled, and the deduplication window, oldest first, each
entry a request identifier with the status of its descriptor once that has completed. -/
structure CmdRing where
  head : Nat := 0
  tail : Nat := 0
  dedup : List (Nat × Nat × Option Nat) := []
deriving DecidableEq, Repr

/-- A ring that the block writes (R373): tail, head, the phase of the running pass, entries held while it is disabled or
full, entries that wait at the host port, entries reserved for descriptors that have not completed, and the message moderation of R392. -/
structure OutRing where
  tail : Nat := 0
  head : Nat := 0
  phase : Bool := true
  held : List (Nat × Bytes) := []
  queued : Nat := 0
  reserved : Nat := 0
  unsignalled : Nat := 0
  firstUnsignalled : BitVec 64 := 0
deriving DecidableEq, Repr

/-- A window bundle on its way to an export ring (R389, R391): its stream, window and loaves. -/
structure Bundle where
  stream : Nat
  fleet : Bool
  window : Nat
  loaves : List Bytes
deriving DecidableEq, Repr

/-- One entry of an export ring's gap list (R391). -/
structure GapEntry where
  stream : Nat
  lo : Nat
  hi : Nat
  count : Nat
deriving DecidableEq, Repr

/-- An export ring (R391): the write offset of its data area, the data extents that entries in use name, the held
bundles and the gap list, and the bundles and gaps whose last entry still waits at the host port (R372). -/
structure ExpRing where
  ring : OutRing := {}
  offset : Nat := 0
  extents : List (Nat × Nat) := []
  hold : List Bundle := []
  gaps : List GapEntry := []
  flying : List Bundle := []
  flyingGaps : List GapEntry := []
deriving DecidableEq, Repr

/-- The holder key of a lease (R432). -/
structure LeaseKey where
  owner : Nat
  epoch : Nat
  ring : Nat
  ringEpoch : Nat
deriving DecidableEq, Repr

/-- A leased resource (R432): 0 FREE, 1 HELD, 2 BROKEN, with the latest key. -/
structure Lease where
  phase : Nat := 0
  key : LeaseKey := ⟨0, 0, 0, 0⟩
deriving DecidableEq, Repr

/-- The input levels that describe the PCI Express link (R480): link state, speed and width codes, Relaxed Ordering enabled, the codes of
the largest payload and of the largest read request. -/
structure PcieLink where
  up : Bool := false
  speed : Nat := 0
  width : Nat := 0
  relaxed : Bool := false
  mps : Nat := 0
  mrrs : Nat := 0
deriving DecidableEq, Repr

/-- The host interface of a Borlu-T (R366 to R392, R431 to R434). Host memory is the environment's, kept here because
descriptors read it and completions write it. `evtQueue` names the requesters of the event entries that wait at the host port, in the order in
which they were queued, each with its HELD (R388). -/
structure HostUnit where
  memory : Sparse Byte := []
  owner : Nat := 0
  ownerId : BitVec 64 := 0
  claimLatch : BitVec 64 := 0
  ownerEpoch : Nat := 0
  transferEnd : BitVec 64 := 0
  busMaster : Bool := false
  cmd : Sparse CmdRing := []
  cpl : Sparse OutRing := []
  evt : OutRing := {}
  exp : Sparse ExpRing := []
  taken : List Taken := []
  nextId : Nat := 0
  eseq : Nat := 0
  alarmHold : List CoalEntry := []
  fifo : List Bytes := []
  expSeq : Sparse Nat := []
  lostEvents : Nat := 0
  leases : Sparse Lease := []
  msixTable : Sparse Word := []
  msixPending : BitVec 64 := 0
  evtQueue : List (Nat × Bool) := []
  pcie : PcieLink := {}
deriving DecidableEq, Repr

/-! ### Presence, stewards, flash (Borlu-T) -/

/-- One presence input (R424): its sampled level, and the TIM cycle since which it has that level. -/
structure Debounce where
  level : Bool := false
  since : Nat := 0
deriving DecidableEq, Repr

/-- Presence (R424 to R428): the taken levels and the inputs behind them, whether the loop was taken open before the reset scan, the seal
latch, the TIM cycle in which the presence window ends, whether the reset scan of R426 has run, and whether the health steward has still to
write the SEAL_BROKEN crumb. -/
structure Presence where
  button : Bool := false
  jumper : Bool := false
  loopOpen : Bool := false
  buttonIn : Debounce := {}
  jumperIn : Debounce := {}
  loopIn : Debounce := {}
  firstOpen : Bool := false
  sealBroken : Bool := true
  windowEnd : Option Nat := none
  scanned : Bool := false
  crumbDue : Bool := false
deriving DecidableEq, Repr

/-- A steward (R437 to R449): its state code, the slot, version and handoff format of the image that runs, the format of the handoff that
it left (none after a fault), whether its latest restart took the handoff up, the latest refusal, the TIM cycles of its faults in the
fault window and of its latest watchdog kick, its dump buffer, and the STW_RESTART descriptor that waits for it. -/
structure Steward where
  phase : Nat := 0
  slot : Nat := 0
  version : Nat := 0
  imageHandoff : Nat := 0
  handoffVer : Option Nat := none
  handoffTaken : Bool := false
  cause : Nat := 0
  faultTimes : List Nat := []
  wdogStart : Nat := 0
  dump : Option Bytes := none
  desc : Option Nat := none
deriving DecidableEq, Repr

/-- The flash window of the STW_ registers (R446, R450): the buffer, its position, the running command with its address and what a program
writes: the flash changes when the command ends, so that one that a reset cuts off counts as not written (R486). -/
structure FlashWindow where
  buf : Sparse Byte := []
  pos : Nat := 0
  op : Nat := 0
  addr : Nat := 0
  data : Bytes := []
deriving DecidableEq, Repr

/-- The in-service test (R458 to R460). Physical units are keyed by kind × 512 + quad × 64 + unit, and the units that are tested together
by 0 to 3 ensemble lanes, 4 to 7 reference lanes, 8 to 11 banks, 12 to 27 kneaders, 28 to 59 decompressors, 60 to 93 anvils. It holds the
next step of each test, the units with a first mismatch, the failed ones with the FT of their retirement, those whose next steps report
mismatches, the TEST descriptors by unit, the tests that have passed their sequence in this sweep, the rotations (12 kneaders, 30 column
30), the FT at which the sweep began, the ingest port whose decompressor or anvil is under test, and the units retired. -/
structure TestUnit where
  steps : Sparse Nat := []
  missed : List Nat := []
  failing : List (Nat × BitVec 64) := []
  injected : Sparse Nat := []
  descs : Sparse Nat := []
  passed : List Nat := []
  rotation : Sparse Nat := []
  sweepStart : BitVec 64 := 0
  under : Option Nat := none
  retired : List Nat := []
deriving DecidableEq, Repr

/-! ### Network time ports (Borlu-T) -/

/-- A stamp record of a stamp FIFO (R70). -/
structure StampRec where
  stamp : BitVec 64
  msgType : Nat
  domain : Nat
  seq : Nat
  transport : Nat
  asym : Bool
deriving DecidableEq, Repr

/-- An entry of a timed launch queue (R74): buffer, launch time, the frame in the buffer, whether its hand-over cycle had
passed when it reached the head (R75), and FT and the count of its hand-over cycle, once that has come. -/
structure Launch where
  buf : Nat
  time : BitVec 64
  frame : Bytes
  late : Bool := false
  due : Option (BitVec 64 × Nat) := none
deriving DecidableEq, Repr

/-- A Sync with twoStepFlag 0 on its way to the timestamp point: its domainNumber and sequenceId, and the stamp predicted for
it when its time was inserted (R72, R73). -/
structure Predicted where
  domain : Nat
  seq : Nat
  stamp : Option (BitVec 64)
deriving DecidableEq, Repr

/-- The network time ports (R64 to R75): the four stamp FIFOs and their discard counts (index 2 × port + transmit), the
launch buffers (index 16 × port + buffer) and queues, the one-step Syncs on their way, the frames that a port holds back, the frames
handed to the MACs, the frames that wait for the time and the host steward, FT of the cycle before, and the values that
latency and asymmetry registers written in this cycle still have for its stamps (R78). -/
structure PtpUnit where
  fifo : Sparse (List StampRec) := []
  ovfl : Sparse Nat := []
  bufs : Sparse Bytes := []
  tlq : Sparse (List Launch) := []
  predicted : Sparse (List Predicted) := []
  waiting : Sparse (List Bytes) := []
  ftBefore : BitVec 64 := 0
  held : List (Nat × Nat) := []
  sent : List (Nat × Bytes) := []
  toTime : List (Nat × Bytes) := []
  toHost : List (Nat × Bytes) := []
deriving DecidableEq, Repr

/-! ### Regions (Borlu-D) -/

/-- What Borlu-D holds of a region (R58 to R62): anchor, operating point, the stop that runs, the two words of the latest RESUME, the Gray count
last seen, the run of stretches and the cycle of its latest sample, and whether an event came since the latest pair sample. -/
structure Region where
  anchored : Bool := false
  anchorStamp : BitVec 64 := 0
  anchorPc : BitVec 48 := 0
  opp : Nat := 0
  stopAt : Option (BitVec 64) := none
  resume : Option (BitVec 64 × BitVec 64) := none
  gray : BitVec 4 := 0
  run : Nat := 0
  runCycle : Nat := 0
  freshEvent : Bool := false
deriving DecidableEq, Repr

/-! ### Stores, schedules and history (Borlu-T) -/

/-- A slot of a store (R258, R267, R281, R317): 0 FREE, 1 LOADED, 2 BOUND, 3 BAD; its image; a tree's reference image; a group's
bank and first entry. -/
structure StoreSlot where
  phase : Nat := 0
  bytes : Bytes := []
  refs : Bytes := []
  bank : Nat := 0
  base : Nat := 0
deriving DecidableEq, Repr

/-- A scan of the search sequencer (R308): its descriptor, specification, the FT of its start, the loaves that it has to read (rank, port,
SEQ, window), the loaves and records that it has read, its matches with their ranks, the vectors that it has still to rescore, what it could
not read, the share it was given at the latest boundary, and whether it has had a slot. -/
structure Scan where
  desc : Nat
  spec : Bytes
  start : BitVec 64
  loaves : List (Nat × Nat × Nat × Nat) := []
  read : Nat := 0
  hits : List (Nat × Bytes) := []
  unscored : List (Nat × Bytes) := []
  lost : List Bytes := []
  share : Nat := 0
  slots : Nat := 0
deriving DecidableEq, Repr

/-- A replay job (R336): its descriptor, job, epoch, first window, the window to run next, the last window, mode, the context as the
replay sees it, its output so far, how it ended (status and window), windows replayed, its share of the search slots. -/
structure ReplayJob where
  desc : Nat
  job : Nat
  epoch : Nat
  first : Nat
  next : Nat
  last : Nat
  mode : Nat
  ctx : Ctx
  out : Bytes := []
  ended : Option (Nat × Nat) := none
  count : Nat := 0
  share : Nat := 0
deriving DecidableEq, Repr

/-- What a state image holds (R337, R339): the cut, the analysis state, the member states, the sequence counter and duplicate state, the
settings in force. -/
structure Snapshot where
  w : Nat := 0
  an : Analysis := {}
  members : Sparse Member := []
  seq : Nat := 0
  dups : List DupState := []
  settings : List (Nat × Word) := []
deriving DecidableEq, Repr, Inhabited

/-- The stores, the two schedule slots, the first period that the schedule in force runs whole, the period and the row that run, with FT and the
cycle at the start of the row, and the columns it has run, scans, replay jobs, those that share the search slots of the period (R311), the state
images written, by DIGEST, with the state they stand for (R339), the contexts given back of which the history may still hold records (log 60; the
model's own field). -/
structure PlaneUnit where
  trees : Sparse StoreSlot := []
  groups : Sparse StoreSlot := []
  images : Sparse StoreSlot := []
  plans : Sparse StoreSlot := []
  scheds : Sparse Bytes := []
  since : Nat := 0
  period : Nat := 0
  row : Nat := 0
  rowFt : BitVec 64 := 0
  rowCycle : Nat := 0
  ran : List Nat := []
  scans : Sparse Scan := []
  replays : Sparse ReplayJob := []
  sharers : List Nat := []
  saved : List (Bytes × Snapshot) := []
  past : List Ctx := []
deriving DecidableEq, Repr

/-- A record of a history region: job, epoch, level of the role that wrote it, window, kind, sequence (a loaf's SEQ), time (a loaf's ANCHOR FT),
bytes; of a record that is larger than a segment its part number and whether more parts follow. -/
structure HistRec where
  job : Nat
  epoch : Nat
  w : Nat
  kind : Nat
  level : Nat := 0
  seq : Nat := 0
  ft : Nat := 0
  part : Nat := 0
  more : Bool := false
  bytes : Bytes
deriving DecidableEq, Repr

/-- A segment (R348, R349): number, region 0 flight 1 ledger 2 replay 3 checkpoints, the ingest port of a flight segment, coding class,
records, sealed; once admitted its number n, its stripe (assembler, stripe number) with the members and the n of its columns, CODED; whether its
content was lost to an uncorrected memory error (R344); whether its stripe is lost (R360). -/
structure Segment where
  id : Nat
  region : Nat
  port : Nat := 0
  cls : Nat := 0
  recs : List HistRec := []
  isSealed : Bool := false
  n : Option Nat := none
  stripe : Option (Nat × Nat) := none
  columns : List Nat := []
  ns : List Nat := []
  coded : Bool := false
  faulted : Bool := false
  lost : Bool := false
deriving DecidableEq, Repr

/-- A peer's segment in staging (R352): class, origin, n, length, the pieces that came, the FT at which the latest came. -/
structure Staged where
  cls : Nat
  origin : Nat
  n : Nat
  len : Nat
  pieces : Sparse Bytes := []
  came : BitVec 64
deriving DecidableEq, Repr

/-- A stripe at its assembler (R352, R353): class, number, members and n by column, acknowledgements, CODED. -/
structure Stripe where
  cls : Nat
  number : Nat
  members : List Nat
  ns : List Nat
  acks : List Nat := []
  coded : Bool := false
deriving DecidableEq, Repr

/-- A parity column that this block holds (R352, R353): class, column j, assembler, stripe number, length, pieces, contributors that
released it, and the contributors that the stripe record names. -/
structure Parity where
  cls : Nat
  j : Nat
  assembler : Nat
  number : Nat
  len : Nat
  pieces : Sparse Bytes := []
  released : List Nat := []
  members : Option (List Nat) := none
deriving DecidableEq, Repr

/-- A degraded read that waits for its columns (R358): class, lost member, assembler, stripe, column, the member's n, length, the columns asked for
and those without a contributor, the pieces that came by column × 2^32 + offset, the member of each column, and the segment of this block that it
repairs; none where it reads a column of a LOST member for the rebuild region. -/
structure DegradedRead where
  cls : Nat
  member : Nat
  assembler : Nat
  number : Nat
  column : Nat
  n : Nat := 0
  len : Nat
  asked : List Nat := []
  empty : List Nat := []
  got : Sparse Bytes := []
  columns : List Nat := []
  segment : Option Nat := none
deriving DecidableEq, Repr

/-- A column of a LOST member in the rebuild region (R343, R359): class, member, assembler, stripe, column, the member's number n, bytes. -/
structure Rebuilt where
  cls : Nat
  member : Nat
  assembler : Nat
  number : Nat
  column : Nat
  n : Nat
  bytes : Bytes
deriving DecidableEq, Repr

/-- A locked lane of an ingest port (R132): its physical number, the index that its alignment super-blocks give, the position of the
first word in its queue, counted in super-blocks from link up, and the words that wait for those of the other lanes. -/
structure IngestLane where
  lane : Nat
  index : Nat
  head : Nat
  queue : List Bytes := []
deriving DecidableEq, Repr

/-- An ingest port (R132, R147, R288, R348): locked lanes; the loaf that is being reassembled; framing errors and decode errors counted; whether the
receiver searches for a loaf header; ing_link_up; SEQ of its latest loaf; SEQs of the loaves that wait for a ring slot; the loaf in its
decompressor; the loaf that has been decoded and waits for the anvil. -/
structure IngestPort where
  lanes : List IngestLane := []
  loaf : Bytes := []
  framing : Nat := 0
  decodeErr : Nat := 0
  searching : Bool := false
  up : Bool := true
  prevSeq : Option Nat := none
  deferred : List Nat := []
  decoding : Option Bytes := none
  decoded : Option Bytes := none
deriving DecidableEq, Repr

/-- History (R343 to R361): segments, the oldest first; numbers for segments, admissions by class and stripes by class; staging,
stripes, parity, degraded reads; members that this block serves for as their heir, by class × 16 + member, and the cycle of each declaration; those of
them whose critical set is rebuilt; the rebuild region; bytes admitted to class 0 stripes that the budget of HIS_EC_RATE has not covered yet, and
the cycle up to which it is counted (R355). -/
structure HistoryUnit where
  segs : List Segment := []
  nextId : Nat := 0
  nextN : Sparse Nat := []
  nextStripe : Sparse Nat := []
  staging : List Staged := []
  stripes : List Stripe := []
  parity : List Parity := []
  reads : List DegradedRead := []
  heirOf : List Nat := []
  declared : Sparse Nat := []
  rebuilt : List Nat := []
  content : List Rebuilt := []
  ecDebt : Nat := 0
  ecCycle : Nat := 0
  ports : Sparse IngestPort := []
deriving DecidableEq, Repr

/-! ### Taps, counters and transactions (Borlu-D) -/

/-- An entry of a tap queue (R79, R56): event word, plan cycle, arrival stamp, and whether that was taken while fleet time was not
valid (R37). -/
structure TapWord where
  word : BitVec 64
  pc : BitVec 48
  stamp : BitVec 64
  invalid : Bool := false
deriving DecidableEq, Repr

/-- The command of a region (R81, R96): whether it is open, its tag and attribution, where it started and whether that stamp was taken
while fleet time was not valid (R37), the commits and aborts of its request. -/
structure Cmd where
  opened : Bool := false
  tag : Nat := 0
  layer : Nat := 0
  operator : Nat := 0
  model : Nat := 0
  request : Nat := 0
  startFt : BitVec 64 := 0
  startInvalid : Bool := false
  startPc : Nat := 0
  commits : Nat := 0
  aborts : Nat := 0
deriving DecidableEq, Repr

/-- A tap port (R79 to R81): its queue; what the next entry written is (0 any, 1 a second word with its entry reserved, 2 a
second word that is lost); a first word that waits for its second word, with whether it acts; the region's command; the plan
cycle of its latest word; the tag of the last command that CANCEL closed. -/
structure TapPort where
  queue : List TapWord := []
  writeSecond : Nat := 0
  first : Option (TapWord × Bool) := none
  cmd : Cmd := {}
  latestPc : Nat := 0
  cancelledTag : Option Nat := none
deriving DecidableEq, Repr

/-- A 48-bit counter and its SAT indication (R89). -/
structure Counter where
  v : Nat := 0
  sat : Bool := false
deriving DecidableEq, Repr

/-- A transaction slot (R98): class, request, opening region and stamp, whether that was taken while fleet time was not valid (R37), its
accumulators by counter (64 t + i), the sticky saturation bit and the words counted into it. -/
structure TxnSlot where
  opened : Bool := false
  cls : Nat := 0
  request : Nat := 0
  region : Nat := 0
  openFt : BitVec 64 := 0
  openInvalid : Bool := false
  acc : Sparse Nat := []
  sat : Bool := false
  words : Nat := 0
deriving DecidableEq, Repr

/-- A digest assembly (R86): parts received, their command tag, the digest so far. -/
structure Assembly where
  parts : Nat := 0
  cmd : Nat := 0
  value : Nat := 0
deriving DecidableEq, Repr

/-- A window boundary of a context of Borlu-D that is being carried out (R102): the context, the window that ends, its class 2 and class 3
records, whether a loss was seen in the window (R80) and whether a record holds a stamp taken while fleet time was not valid (R37), whether
the interim records come with it, whether the context was ACTIVE, and whether it is the teardown boundary (R204). The frames leave when
the words of the cycle have been processed. -/
structure Closing where
  ctx : Nat
  window : Nat
  recs : List Bytes
  events : List Bytes
  lossy : Bool
  invalid : Bool
  interim : Bool
  sensor : Bool
  last : Bool
deriving DecidableEq, Repr

/-- The taps, counters and transactions of Borlu-D. Counters are keyed by bank × 4,096 + index (0 general, 1 light, 2 command-scoped, 3 slag);
assemblies by region × 8 + channel; `events` holds the class 3 records of each context that wait for their frame, `eventsInvalid` the contexts for
which one of them holds a stamp taken while fleet time was not valid; `lossy` the contexts in whose open window a loss was seen; `due` the interim
records of a boundary that is being carried out, `closing` those boundaries (R102); `digests` the tap digests that this cycle completed, by channel,
region, command tag, digest, stamp and whether fleet time was not valid (R298). -/
structure TapUnit where
  ports : Sparse TapPort := []
  counters : Sparse Counter := []
  slots : Sparse TxnSlot := []
  assemblies : Sparse Assembly := []
  events : Sparse (List Bytes) := []
  eventsInvalid : BitVec 9 := 0
  lossy : BitVec 9 := 0
  due : Sparse Bytes := []
  closing : List Closing := []
  digests : List (Nat × Nat × Nat × Nat × BitVec 64 × Bool) := []
deriving DecidableEq, Repr

/-- The increase of the light counter of WIT_LOAD over periods of 2^m cycles (R298): CNT and PER as they were, the running period, the counter
at its start where it runs whole under them, and the increase over the latest complete period. -/
structure LoadMeter where
  cfg : Nat := 4
  period : Nat := 0
  start : Option Nat := some 0
  last : Option Nat := none
deriving DecidableEq, Repr

/-! ### Trace (Borlu-D) -/

/-- An entry of a trace feed (R106) with its stamp. -/
structure FeedEntry where
  entry : BitVec 128
  stamp : BitVec 64
deriving DecidableEq, Repr

/-- The reference state of a region (R111), its condition (R114), and what is owed before its next packet: a sync with a
cause, a STALLED with its span and release FT; the low-power POWER words that wait for its empty feed, each with its stamp (R125). -/
structure TraceRegion where
  feed : List FeedEntry := []
  pc : Nat := 0
  a : Nat := 0
  d : Nat := 0
  n : Nat := 0
  fta : BitVec 64 := 0
  pca : Nat := 0
  gated : Bool := false
  down : Bool := false
  stopped : Bool := false
  power : Nat := 0
  powerWait : List (Nat × BitVec 64) := []
  owed : Option Nat := none
  stalled : Option (Nat × BitVec 64) := none
deriving DecidableEq, Repr

/-- A trace loaf that has ended (R113, R148): sequence, flags, block size code, input, the encoder settings it started with, and
its stored form once an engine has compressed it. -/
structure TraceLoaf where
  seq : Nat
  flags : Nat := 8
  blk : Nat
  rawOnly : Bool
  effort : Nat
  startFt : BitVec 64
  input : Bytes := []
  stored : Option Bytes := none
deriving DecidableEq, Repr

/-- A trace grant (R123). -/
structure TraceGrant where
  ctx : Nat
  mask : BitVec 64
  expiry : BitVec 64
deriving DecidableEq, Repr

/-- The losses since the latest OVERFLOW (R127, R128). -/
structure TraceLoss where
  bytes : Nat := 0
  entries : Nat := 0
  firstFt : BitVec 64 := 0
  regions : BitVec 64 := 0
  seen : Bool := false
deriving DecidableEq, Repr

/-- The trace unit (R106 to R134): state code, start and stop sources seen with the cycle in which they were, those of the cycle before, the cycle
of the latest transition and that in which POST began, whether a feed loss of the cycle is still to be reported (R128), the open loaf, the loaves
that have ended and not left, those that have left the port, the super-blocks since link up and those up to the end of the latest loaf, the words of
the latest loaf on the lab port with lab_sol and the cycle in which it had left (R133), the next loaf sequence, the staging area, drop mode, input
levels, suppressed regions, stalls and grants. -/
structure TraceUnit where
  regions : Sparse TraceRegion := []
  phase : Nat := 0
  starts : Nat := 0
  stops : Nat := 0
  seenAt : Nat := 0
  pastStarts : Nat := 0
  pastStops : Nat := 0
  pastAt : Nat := 0
  movedAt : Option Nat := none
  postMark : Nat := 0
  lossDue : Bool := false
  loaf : Option TraceLoaf := none
  ended : List TraceLoaf := []
  sent : List Bytes := []
  superCount : Nat := 0
  wire : List Bytes := []
  lab : List (Word × Bool) := []
  labFree : Nat := 0
  seq : Nat := 0
  staging : Nat := 0
  stagingCycle : Nat := 0
  dropping : Bool := false
  loss : TraceLoss := {}
  linkUp : Bool := false
  schedDebug : Bool := false
  secure : BitVec 64 := 0
  suppressed : BitVec 64 := 0
  stall : BitVec 64 := 0
  stallMark : Nat := 0
  grants : Sparse (Option TraceGrant) := []
deriving DecidableEq, Repr

/-! ### A block, and the machine -/

/-- The trigger engine of Borlu-D (R262 to R265): the words of its tree store; counter values at the latest evaluation (a clear takes
them to 0); entries lost by port since then; levels reported by crossing queue, plus one; the cycle in which EN was written 1, the
evaluation periods since then at the latest evaluation, the ensembles evaluated since then, whether none has been. -/
structure TriggerUnit where
  store : Sparse Word := []
  counts : Sparse Nat := []
  losses : Sparse Nat := []
  levels : Sparse Nat := []
  start : Nat := 0
  period : Nat := 0
  evaluated : List Nat := []
  first : Bool := true
deriving DecidableEq, Repr

/-- The units that only a Borlu-D has; what its sensor port presents (R454), none where the valid indication is deasserted; the beats that it drove
in the latest alarm slot or for the latest bulk frame, with their fill bits (R478); the cycle of the latest alarm slot, and the largest slot gap in
ns of a health interval (R27). -/
structure DieUnit where
  regions : Sparse Region := []
  pairLate : Sparse Sieve := []
  pairLead : Sparse Sieve := []
  pairCycle : Nat := 0
  taps : TapUnit := {}
  trace : TraceUnit := {}
  load : LoadMeter := {}
  trig : TriggerUnit := {}
  sensors : Sparse (Option (BitVec 16)) := []
  beats : List (Bytes × Nat) := []
  slotMark : Option Nat := none
  slotSpan : Nat := 0
  slotGap : Nat := 0
deriving DecidableEq, Repr

/-- What a Borlu-T keeps of a member of one of its erasure groups (R350, R356, R361): tray address, 0 live 1 LOST 2
rebuilding, incarnation number, missed ember periods, its heir, and whether the host lets it rejoin. -/
structure Peer where
  da : Nat := 0
  phase : Nat := 0
  incarn : Nat := 0
  missed : Nat := 0
  heir : Nat := 0
  rejoin : Bool := false
deriving DecidableEq, Repr

/-- The loaf faults of a cycle (R155): its count, the faults in it, each with its unit, STREAM, SEQ, status and offset, whether
one of them is captured, and whether a write of the cycle has cleared LOF_ERR_INFO.VALID. -/
structure LoafFaults where
  cycle : Nat := 0
  faults : List (Nat × Nat × Nat × Nat × Nat) := []
  captured : Bool := false
  cleared : Bool := false
deriving DecidableEq, Repr

/-! ### Test access port -/

/-- The states of the controller of a test access port (IEEE 1149.1, R483). -/
inductive TapState
  | reset | idle | selectDr | captureDr | shiftDr | exit1Dr | pauseDr | exit2Dr | updateDr
  | selectIr | captureIr | shiftIr | exit1Ir | pauseIr | exit2Ir | updateIr
deriving DecidableEq, Repr

/-- The instructions of the test access port (R483). -/
inductive TapInstr
  | bypass | sample | extest | idcode
deriving DecidableEq, Repr

/-- The test access port (R483): its controller, the shift paths of the instruction and the data registers with the bit next to TDO first,
the instruction in force, the boundary values that an update put in place, and the straps jtag_mfr. -/
structure TestPort where
  state : TapState := .reset
  irPath : List Bool := []
  drPath : List Bool := []
  instr : TapInstr := .idcode
  boundary : List Bool := []
  mfr : BitVec 11 := 0
deriving DecidableEq, Repr

/-- What the JESD216 parameter table of the flash lists: a quad fast read, 4-byte addressing (R482), a 64 KiB erase type (R415). -/
structure FlashTable where
  quad : Bool := true
  fourByte : Bool := true
  erase64 : Bool := true
deriving DecidableEq, Repr

/-- The units that only a Borlu-T has; the dies present and those whose place has been written (R470, R494); the devices on its I3C bus in the order
of their provisioned identifiers and what the flash lists (R482); whether its latest reset was a power-on reset (R486) and the copy of the
configuration record that it chose (R438, R446). -/
structure TrayUnit where
  present : BitVec 32 := 0
  placed : BitVec 32 := 0
  i3c : List (BitVec 48) := []
  flashTable : FlashTable := {}
  ptp : PtpUnit := {}
  host : HostUnit := {}
  presence : Presence := {}
  stewards : Sparse Steward := []
  flash : Sparse Byte := []
  powerOn : Bool := true
  recordCopy : Option Nat := none
  window : FlashWindow := {}
  roles : Sparse Role := []
  seenGen : Sparse Nat := []
  peers : Sparse Peer := []
  test : TestUnit := {}
  plane : PlaneUnit := {}
  history : HistoryUnit := {}
  loafFaults : LoafFaults := {}
  jtag : TestPort := {}
  stacksReady : BitVec 24 := 0
  stacksFailed : BitVec 24 := 0
deriving DecidableEq, Repr

/-- The register accesses of the running cycle (R467): the paths that have made theirs, and each write by its path, its offset, what the
register read as before the cycle's writes, and the value written; and ID_DA and ID_CTL.PLACED as they were before a write of PLACE in it
(R470). -/
structure CycleAccess where
  seen : List Path := []
  writes : List (Path × Nat × Word × Word) := []
  place : Option (Word × Bool) := none
deriving DecidableEq, Repr

/-- One block, of either build. Registers are the words that differ from their reset values; `wide` holds the 64-bit counters that a LO and a HI
register show (keyed by the LO offset); `rdata` is what the latest read returned. The units of the other build stay as at reset. -/
structure Block where
  build : Build
  strapSlot : BitVec 5 := 0
  strapLocal : Bool := false
  strapPkg : Bool := false
  regs : Sparse Word := []
  wide : Sparse Nat := []
  rdata : Word := 0
  access : CycleAccess := {}
  fresh : Nat := 0
  time : TimeUnit := {}
  ctxs : Sparse Ctx := []
  parts : List PartSet := []
  released : List (Nat × Nat × Nat) := []
  blockDups : List DupState := []
  prepDups : List DupState := []
  blockSeq : Nat := 0
  egress : Sparse EgPort := []
  recorder : Recorder := {}
  txn : CfgTxn := {}
  power : PowerUnit := {}
  switchMark : Nat := 0
  periods : PeriodUnit := {}
  die : DieUnit := {}
  tray : TrayUnit := {}
deriving DecidableEq, Repr

/-- A change at an input that no row of the opcode table brings (R480): it waits in State and acts in a cycle in which no command does
(log 85). -/
inductive Pin
  /-- A rising edge of TCK with TMS, TDI and the levels of the boundary cells (R483). -/
  | tck (tms tdi : Bool) (cells : List Bool)
  /-- trst_n goes low or high (R483). -/
  | trst (low : Bool)
  /-- pcie_link_up, pcie_speed and pcie_width (R480). -/
  | pcieState (up : Bool) (speed : Fin 8) (width : Fin 32)
  /-- pcie_ro_en (R365, R480). -/
  | pcieRelaxed (on : Bool)
  /-- pcie_mps and pcie_mrrs (R364, R480). -/
  | pcieSizes (mps : Fin 4) (mrrs : Fin 8)
  /-- ing_link_up of an ingest port (R488). -/
  | ingestUp (port : Fin 32) (up : Bool)
  /-- sns_code and sns_valid of a channel of Borlu-D (R454): none where it is not valid. -/
  | sensor (channel : Fin 32) (code : Option (BitVec 16))
  /-- The devices that answer on the I3C bus, by their provisioned identifiers (R482). -/
  | i3cDevices (ids : List (BitVec 48))
  /-- The flash that the integrator fits lists other commands in its JESD216 table (R415, R482); Borlu-T reads the table at reset. -/
  | flashFitted (table : FlashTable)
  /-- pres_btn_n, pres_jmp_n or pres_seal_open (R424): asserted or not. -/
  | presence (input : Fin 3) (asserted : Bool)
  /-- A 4-byte host access that reaches no register: a read of BAR2, any access to an offset of BAR2 that names no doorbell, and an access to
  BAR 3 (R367, R480). -/
  | barNothing (isRead : Bool)
deriving DecidableEq, Repr

/-- The machine: a Borlu-D, a Borlu-T, whether each is held in reset (rst_n of the die; por_n or rst_n of the tray), whether the tray has
had its first alignment pulse since (R485), whether trst_n is low, the changes at inputs without a command that wait, and the commands that
wait, each the oldest first. -/
structure State where
  d : Block
  t : Block
  dReset : Bool := false
  tReset : Bool := false
  tAligned : Bool := false
  trstLow : Bool := false
  pins : List Pin := []
  pending : List Instr
deriving DecidableEq, Repr

/-- A block right after block reset: every register at its reset value (nothing listed), every queue, window, ring and
store empty (R36, R188, R216, R342, R363, R393, R408, R419, R436, R450, R461, R484, R485). Straps and the flash contents are
the environment's: straps low and the flash erased (DESIGN CHOICE, log 2). -/
def Block.reset (b : Build) : Block := { build := b }

/-- The machine right after reset: both blocks after block reset, the Borlu-T before its first alignment pulse (R485), no
command waiting. -/
def State.reset : State := { d := Block.reset .D, t := Block.reset .T, pending := [] }

end Sys2Proof.Machine
end

