-- ==== Sys2Proof/Machine/RegMap.lean ====
section
/-! DEFINITION. The register map (R462 to R466): the offset of every register (R465), and for each build the fields,
access codes (R6), legal values (R11) and reset values (R466) of every register it has, from the field tables of the
chapters. Every offset is a byte offset in the register space of R462. -/

namespace Sys2Proof.Machine

/-- The access codes of R6. -/
inductive Acc
  | rw | ro | wo | w1c | w1s | rc | rwl
deriving DecidableEq, Repr

/-- Which written values of a RW field are not reserved (R11): a reserved value leaves the field as it was. -/
inductive Legal
  | any | nonzero | atMost (n : Nat) | within (lo hi : Nat)
deriving DecidableEq, Repr

/-- A field's reset value (R466): a constant, or one of the per-entry values that a chapter's table states. -/
inductive FieldReset
  | const (n : Nat) | lane (j : Nat) | budget | snsEn | snsKind | snsHigh
deriving DecidableEq, Repr

/-- How a write to the register is staged (R328): never, only while its chapter's condition holds, or always. -/
inductive Staging
  | no | whileActive | always
deriving DecidableEq, Repr

/-- One field of a register table. -/
structure RegField where
  hi : Nat
  lo : Nat
  acc : Acc
  reset : FieldReset
  legal : Legal := .any
deriving DecidableEq, Repr

/-- One row of the layout (R465): `count` registers from `base`, `stride` bytes apart; of each `blk` consecutive ones
the first `used` exist. -/
structure RegRow where
  base : Nat
  count : Nat := 1
  stride : Nat := 4
  blk : Nat := 1
  used : Nat := 1
  staging : Staging := .no
  fields : List RegField
deriving DecidableEq, Repr

namespace Reg

/-- Offset of ID_BLOCK (R465). -/
abbrev ID_BLOCK : Nat := 0x00000
/-- Offset of ID_BUILD (R465). -/
abbrev ID_BUILD : Nat := 0x00004
/-- Offset of ID_DA (R465). -/
abbrev ID_DA : Nat := 0x00008
/-- Offset of ID_STRAP (R465). -/
abbrev ID_STRAP : Nat := 0x0000C
/-- Offset of ID_CTL (R465). -/
abbrev ID_CTL : Nat := 0x00010
/-- Offset of ID_CFG (R465). -/
abbrev ID_CFG : Nat := 0x00014
/-- Offset of ID_CFG_SEQ (R465). -/
abbrev ID_CFG_SEQ : Nat := 0x00018
/-- Offset of TIM_CTL (R465). -/
abbrev TIM_CTL : Nat := 0x10000
/-- Offset of TIM_STS (R465). -/
abbrev TIM_STS : Nat := 0x10004
/-- Offset of TIM_FT_LO (R465). -/
abbrev TIM_FT_LO : Nat := 0x10008
/-- Offset of TIM_FT_HI (R465). -/
abbrev TIM_FT_HI : Nat := 0x1000C
/-- Offset of TIM_PULSE_FT_LO (R465). -/
abbrev TIM_PULSE_FT_LO : Nat := 0x10010
/-- Offset of TIM_PULSE_FT_HI (R465). -/
abbrev TIM_PULSE_FT_HI : Nat := 0x10014
/-- Offset of TIM_INCR_INT (R465). -/
abbrev TIM_INCR_INT : Nat := 0x10018
/-- Offset of TIM_INCR_FRAC (R465). -/
abbrev TIM_INCR_FRAC : Nat := 0x1001C
/-- Offset of TIM_STEP_LO (R465). -/
abbrev TIM_STEP_LO : Nat := 0x10020
/-- Offset of TIM_STEP_HI (R465). -/
abbrev TIM_STEP_HI : Nat := 0x10024
/-- Offset of TIM_HOLD_MAX (R465). -/
abbrev TIM_HOLD_MAX : Nat := 0x10028
/-- Offset of TIM_HOLD_LEFT (R465). -/
abbrev TIM_HOLD_LEFT : Nat := 0x1002C
/-- Offset of TIM_BCN (R465). -/
abbrev TIM_BCN : Nat := 0x10030
/-- Offset of TIM_BCN_LIM (R465). -/
abbrev TIM_BCN_LIM : Nat := 0x10034
/-- Offset of TIM_BCN_ERR (R465). -/
abbrev TIM_BCN_ERR : Nat := 0x10038
/-- Offset of TIM_BCN_ERR_MAX (R465). -/
abbrev TIM_BCN_ERR_MAX : Nat := 0x1003C
/-- Offset of TIM_TEMPER (R465). -/
abbrev TIM_TEMPER : Nat := 0x10040
/-- Offset of TIM_TEMPER_LIM (R465). -/
abbrev TIM_TEMPER_LIM : Nat := 0x10044
/-- Offset of TIM_TEMPER_RES (R465). -/
abbrev TIM_TEMPER_RES : Nat := 0x10048
/-- Offset of TIM_PAIR_CTL (R465). -/
abbrev TIM_PAIR_CTL : Nat := 0x1004C
/-- Offset of TIM_PAIR_SKIP (R465). -/
abbrev TIM_PAIR_SKIP : Nat := 0x10050
/-- Offset of TIM_LINK_DELAY (R465). -/
abbrev TIM_LINK_DELAY : Nat := 0x10100
/-- Offset of TIM_LINK_ASYM (R465). -/
abbrev TIM_LINK_ASYM : Nat := 0x10200
/-- Offset of TIM_OPP (R465). -/
abbrev TIM_OPP : Nat := 0x10300
/-- Offset of TIM_TAP_COMP (R465). -/
abbrev TIM_TAP_COMP : Nat := 0x10400
/-- Offset of TIM_SLIP (R465). -/
abbrev TIM_SLIP : Nat := 0x10500
/-- Offset of TIM_STR_CNT (R465). -/
abbrev TIM_STR_CNT : Nat := 0x10600
/-- Offset of TIM_PAIR (R465). -/
abbrev TIM_PAIR : Nat := 0x10700
/-- Offset of PTP_CTL (R465). -/
abbrev PTP_CTL : Nat := 0x20000
/-- Offset of PTP_STS (R465). -/
abbrev PTP_STS : Nat := 0x20004
/-- Offset of PTP_ONESTEP_TOL (R465). -/
abbrev PTP_ONESTEP_TOL : Nat := 0x20008
/-- Offset of PTP_TS_SEL (R465). -/
abbrev PTP_TS_SEL : Nat := 0x2000C
/-- Offset of PTP_TS_LO (R465). -/
abbrev PTP_TS_LO : Nat := 0x20010
/-- Offset of PTP_TS_HI (R465). -/
abbrev PTP_TS_HI : Nat := 0x20014
/-- Offset of PTP_TS_META (R465). -/
abbrev PTP_TS_META : Nat := 0x20018
/-- Offset of PTP_TS_OVFL (R465). -/
abbrev PTP_TS_OVFL : Nat := 0x2001C
/-- Offset of PTP_EPOCH_SEC_LO (R465). -/
abbrev PTP_EPOCH_SEC_LO : Nat := 0x20020
/-- Offset of PTP_EPOCH_SEC_HI (R465). -/
abbrev PTP_EPOCH_SEC_HI : Nat := 0x20024
/-- Offset of PTP_EPOCH_NS (R465). -/
abbrev PTP_EPOCH_NS : Nat := 0x20028
/-- Offset of PTP_LAT_TX (R465). -/
abbrev PTP_LAT_TX : Nat := 0x20100
/-- Offset of PTP_LAT_RX (R465). -/
abbrev PTP_LAT_RX : Nat := 0x20104
/-- Offset of PTP_TXPATH (R465). -/
abbrev PTP_TXPATH : Nat := 0x20108
/-- Offset of PTP_ASYM (R465). -/
abbrev PTP_ASYM : Nat := 0x2010C
/-- Offset of PTP_TLQ_CTL (R465). -/
abbrev PTP_TLQ_CTL : Nat := 0x20110
/-- Offset of PTP_TLQ_GUARD (R465). -/
abbrev PTP_TLQ_GUARD : Nat := 0x20114
/-- Offset of PTP_TLQ_TOL (R465). -/
abbrev PTP_TLQ_TOL : Nat := 0x20118
/-- Offset of PTP_TLQ_TIME_LO (R465). -/
abbrev PTP_TLQ_TIME_LO : Nat := 0x2011C
/-- Offset of PTP_TLQ_TIME_HI (R465). -/
abbrev PTP_TLQ_TIME_HI : Nat := 0x20120
/-- Offset of PTP_TLQ_PUSH (R465). -/
abbrev PTP_TLQ_PUSH : Nat := 0x20124
/-- Offset of PTP_TLQ_STS (R465). -/
abbrev PTP_TLQ_STS : Nat := 0x20128
/-- Offset of TAP_CTL (R465). -/
abbrev TAP_CTL : Nat := 0x30000
/-- Offset of TAP_EN_LO (R465). -/
abbrev TAP_EN_LO : Nat := 0x30004
/-- Offset of TAP_EN_HI (R465). -/
abbrev TAP_EN_HI : Nat := 0x30008
/-- Offset of TAP_STS (R465). -/
abbrev TAP_STS : Nat := 0x3000C
/-- Offset of TAP_ERR (R465). -/
abbrev TAP_ERR : Nat := 0x30010
/-- Offset of TAP_CMD_MISMATCH (R465). -/
abbrev TAP_CMD_MISMATCH : Nat := 0x30014
/-- Offset of TAP_LOSS (R465). -/
abbrev TAP_LOSS : Nat := 0x30100
/-- Offset of TAP_QHWM (R465). -/
abbrev TAP_QHWM : Nat := 0x30200
/-- Offset of TAP_XQ (R465). -/
abbrev TAP_XQ : Nat := 0x30300
/-- Offset of CNT_CMD_CTL (R465). -/
abbrev CNT_CMD_CTL : Nat := 0x40000
/-- Offset of CNT_RD_SEL (R465). -/
abbrev CNT_RD_SEL : Nat := 0x40004
/-- Offset of CNT_RD_LO (R465). -/
abbrev CNT_RD_LO : Nat := 0x40008
/-- Offset of CNT_RD_HI (R465). -/
abbrev CNT_RD_HI : Nat := 0x4000C
/-- Offset of CNT_CLR (R465). -/
abbrev CNT_CLR : Nat := 0x40010
/-- Offset of CNT_STS (R465). -/
abbrev CNT_STS : Nat := 0x40014
/-- Offset of CNT_GRP_CTL (R465). -/
abbrev CNT_GRP_CTL : Nat := 0x40100
/-- Offset of CNT_CSEL (R465). -/
abbrev CNT_CSEL : Nat := 0x40400
/-- Offset of CNT_CMD_CUR (R465). -/
abbrev CNT_CMD_CUR : Nat := 0x40800
/-- Offset of CNT_SEL (R465). -/
abbrev CNT_SEL : Nat := 0x44000
/-- Offset of TXN_CTL (R465). -/
abbrev TXN_CTL : Nat := 0x50000
/-- Offset of TXN_STS (R465). -/
abbrev TXN_STS : Nat := 0x50004
/-- Offset of TXN_COMMITS (R465). -/
abbrev TXN_COMMITS : Nat := 0x50008
/-- Offset of TXN_ABORTS (R465). -/
abbrev TXN_ABORTS : Nat := 0x5000C
/-- Offset of TXN_CANCELS (R465). -/
abbrev TXN_CANCELS : Nat := 0x50010
/-- Offset of TXN_SLOT (R465). -/
abbrev TXN_SLOT : Nat := 0x50100
/-- Offset of TRC_CTL (R465). -/
abbrev TRC_CTL : Nat := 0x60000
/-- Offset of TRC_STS (R465). -/
abbrev TRC_STS : Nat := 0x60004
/-- Offset of TRC_EN_LO (R465). -/
abbrev TRC_EN_LO : Nat := 0x60008
/-- Offset of TRC_EN_HI (R465). -/
abbrev TRC_EN_HI : Nat := 0x6000C
/-- Offset of TRC_EVT (R465). -/
abbrev TRC_EVT : Nat := 0x60010
/-- Offset of TRC_XCL_LO (R465). -/
abbrev TRC_XCL_LO : Nat := 0x60014
/-- Offset of TRC_XCL_HI (R465). -/
abbrev TRC_XCL_HI : Nat := 0x60018
/-- Offset of TRC_CFILT (R465). -/
abbrev TRC_CFILT : Nat := 0x6001C
/-- Offset of TRC_CFILT_LO (R465). -/
abbrev TRC_CFILT_LO : Nat := 0x60020
/-- Offset of TRC_CFILT_HI (R465). -/
abbrev TRC_CFILT_HI : Nat := 0x60024
/-- Offset of TRC_AF_CTL (R465). -/
abbrev TRC_AF_CTL : Nat := 0x60028
/-- Offset of TRC_DF (R465). -/
abbrev TRC_DF : Nat := 0x6002C
/-- Offset of TRC_TIME (R465). -/
abbrev TRC_TIME : Nat := 0x60030
/-- Offset of TRC_FLUSH (R465). -/
abbrev TRC_FLUSH : Nat := 0x60034
/-- Offset of TRC_OVF (R465). -/
abbrev TRC_OVF : Nat := 0x60038
/-- Offset of TRC_STALL (R465). -/
abbrev TRC_STALL : Nat := 0x6003C
/-- Offset of TRC_TRG (R465). -/
abbrev TRC_TRG : Nat := 0x60040
/-- Offset of TRC_TRG_WIN_LO (R465). -/
abbrev TRC_TRG_WIN_LO : Nat := 0x60044
/-- Offset of TRC_TRG_WIN_HI (R465). -/
abbrev TRC_TRG_WIN_HI : Nat := 0x60048
/-- Offset of TRC_CMD (R465). -/
abbrev TRC_CMD : Nat := 0x6004C
/-- Offset of TRC_PORT (R465). -/
abbrev TRC_PORT : Nat := 0x60050
/-- Offset of TRC_LOST_BYTES (R465). -/
abbrev TRC_LOST_BYTES : Nat := 0x60054
/-- Offset of TRC_LOST_ENT (R465). -/
abbrev TRC_LOST_ENT : Nat := 0x60058
/-- Offset of TRC_ERR (R465). -/
abbrev TRC_ERR : Nat := 0x6005C
/-- Offset of TRC_STALL_CYC (R465). -/
abbrev TRC_STALL_CYC : Nat := 0x60060
/-- Offset of TRC_LOAVES (R465). -/
abbrev TRC_LOAVES : Nat := 0x60064
/-- Offset of TRC_BUF_HWM (R465). -/
abbrev TRC_BUF_HWM : Nat := 0x60068
/-- Offset of TRC_AF_BASE (R465). -/
abbrev TRC_AF_BASE : Nat := 0x60100
/-- Offset of TRC_AF_LIMIT (R465). -/
abbrev TRC_AF_LIMIT : Nat := 0x60120
/-- Offset of TRC_TRG_EV (R465). -/
abbrev TRC_TRG_EV : Nat := 0x60140
/-- Offset of TRC_TRG_MARK (R465). -/
abbrev TRC_TRG_MARK : Nat := 0x60148
/-- Offset of TRC_GRANT_CTL (R465). -/
abbrev TRC_GRANT_CTL : Nat := 0x60180
/-- Offset of TRC_GRANT_MASK_LO (R465). -/
abbrev TRC_GRANT_MASK_LO : Nat := 0x60190
/-- Offset of TRC_GRANT_MASK_HI (R465). -/
abbrev TRC_GRANT_MASK_HI : Nat := 0x601A0
/-- Offset of TRC_GRANT_EXP_LO (R465). -/
abbrev TRC_GRANT_EXP_LO : Nat := 0x601B0
/-- Offset of TRC_GRANT_EXP_HI (R465). -/
abbrev TRC_GRANT_EXP_HI : Nat := 0x601C0
/-- Offset of TRC_FEED_LOSS (R465). -/
abbrev TRC_FEED_LOSS : Nat := 0x60200
/-- Offset of LOF_CTL (R465). -/
abbrev LOF_CTL : Nat := 0x70000
/-- Offset of LOF_STS (R465). -/
abbrev LOF_STS : Nat := 0x70004
/-- Offset of LOF_IN_LO (R465). -/
abbrev LOF_IN_LO : Nat := 0x70008
/-- Offset of LOF_IN_HI (R465). -/
abbrev LOF_IN_HI : Nat := 0x7000C
/-- Offset of LOF_OUT_LO (R465). -/
abbrev LOF_OUT_LO : Nat := 0x70010
/-- Offset of LOF_OUT_HI (R465). -/
abbrev LOF_OUT_HI : Nat := 0x70014
/-- Offset of LOF_RAW (R465). -/
abbrev LOF_RAW : Nat := 0x70018
/-- Offset of LOF_DEC_CNT (R465). -/
abbrev LOF_DEC_CNT : Nat := 0x7001C
/-- Offset of LOF_ERR_INFO (R465). -/
abbrev LOF_ERR_INFO : Nat := 0x70020
/-- Offset of LOF_ERR_OFS (R465). -/
abbrev LOF_ERR_OFS : Nat := 0x70024
/-- Offset of LOF_ERR_SEQ (R465). -/
abbrev LOF_ERR_SEQ : Nat := 0x70028
/-- Offset of FRM_CTL (R465). -/
abbrev FRM_CTL : Nat := 0x80000
/-- Offset of FRM_STS (R465). -/
abbrev FRM_STS : Nat := 0x80004
/-- Offset of FRM_TX (R465). -/
abbrev FRM_TX : Nat := 0x80008
/-- Offset of FRM_RX (R465). -/
abbrev FRM_RX : Nat := 0x8000C
/-- Offset of FRM_CRC_ERR (R465). -/
abbrev FRM_CRC_ERR : Nat := 0x80010
/-- Offset of FRM_BAD (R465). -/
abbrev FRM_BAD : Nat := 0x80014
/-- Offset of FRM_DUP (R465). -/
abbrev FRM_DUP : Nat := 0x80018
/-- Offset of FRM_STALE (R465). -/
abbrev FRM_STALE : Nat := 0x8001C
/-- Offset of FRM_ANNEX (R465). -/
abbrev FRM_ANNEX : Nat := 0x80020
/-- Offset of FRM_TOO_LATE (R465). -/
abbrev FRM_TOO_LATE : Nat := 0x80024
/-- Offset of FRM_FUTURE (R465). -/
abbrev FRM_FUTURE : Nat := 0x80028
/-- Offset of FRM_CTX (R465). -/
abbrev FRM_CTX : Nat := 0x80100
/-- Offset of FRM_ALLOW (R465). -/
abbrev FRM_ALLOW : Nat := 0x80200
/-- Offset of FRM_SEQ (R465). -/
abbrev FRM_SEQ : Nat := 0x80300
/-- Offset of FRM_EPOCH (R465). -/
abbrev FRM_EPOCH : Nat := 0x80400
/-- Offset of KND_STS (R465). -/
abbrev KND_STS : Nat := 0x90000
/-- Offset of KND_MAP_LO (R465). -/
abbrev KND_MAP_LO : Nat := 0x90004
/-- Offset of KND_MAP_HI (R465). -/
abbrev KND_MAP_HI : Nat := 0x90008
/-- Offset of KND_ERR (R465). -/
abbrev KND_ERR : Nat := 0x9000C
/-- Offset of KND_SAT_CNT (R465). -/
abbrev KND_SAT_CNT : Nat := 0x90010
/-- Offset of KND_NAN_CNT (R465). -/
abbrev KND_NAN_CNT : Nat := 0x90014
/-- Offset of KND_WIDE_CNT (R465). -/
abbrev KND_WIDE_CNT : Nat := 0x90018
/-- Offset of KND_OPS_LO (R465). -/
abbrev KND_OPS_LO : Nat := 0x9001C
/-- Offset of KND_OPS_HI (R465). -/
abbrev KND_OPS_HI : Nat := 0x90020
/-- Offset of MBR_CTL (R465). -/
abbrev MBR_CTL : Nat := 0xA0000
/-- Offset of MBR_EMBER (R465). -/
abbrev MBR_EMBER : Nat := 0xA0004
/-- Offset of MBR_HEARTH (R465). -/
abbrev MBR_HEARTH : Nat := 0xA0008
/-- Offset of MBR_STS (R465). -/
abbrev MBR_STS : Nat := 0xA000C
/-- Offset of MBR_RANK_SEL (R465). -/
abbrev MBR_RANK_SEL : Nat := 0xA0010
/-- Offset of MBR_RANK_STS (R465). -/
abbrev MBR_RANK_STS : Nat := 0xA0014
/-- Offset of MBR_SWITCH (R465). -/
abbrev MBR_SWITCH : Nat := 0xA0018
/-- Offset of MBR_REFUSED (R465). -/
abbrev MBR_REFUSED : Nat := 0xA001C
/-- Offset of MBR_LATE_COMMIT (R465). -/
abbrev MBR_LATE_COMMIT : Nat := 0xA0020
/-- Offset of MBR_LATE_ACK (R465). -/
abbrev MBR_LATE_ACK : Nat := 0xA0024
/-- Offset of MBR_TRANSITIONS (R465). -/
abbrev MBR_TRANSITIONS : Nat := 0xA0028
/-- Offset of MBR_RETIRED_RX (R465). -/
abbrev MBR_RETIRED_RX : Nat := 0xA002C
/-- Offset of MBR_CTX (R465). -/
abbrev MBR_CTX : Nat := 0xA0100
/-- Offset of MBR_CTX_RANKS (R465). -/
abbrev MBR_CTX_RANKS : Nat := 0xA0200
/-- Offset of MBR_STATE_CNT (R465). -/
abbrev MBR_STATE_CNT : Nat := 0xA0300
/-- Offset of MBR_ROLE (R465). -/
abbrev MBR_ROLE : Nat := 0xA0400
/-- Offset of MBR_GEN (R465). -/
abbrev MBR_GEN : Nat := 0xA0410
/-- Offset of FTZ_STS (R465). -/
abbrev FTZ_STS : Nat := 0xB0000
/-- Offset of FTZ_AUDIT (R465). -/
abbrev FTZ_AUDIT : Nat := 0xB0004
/-- Offset of FTZ_AUDIT_SALT (R465). -/
abbrev FTZ_AUDIT_SALT : Nat := 0xB0008
/-- Offset of FTZ_AUDIT_LIM (R465). -/
abbrev FTZ_AUDIT_LIM : Nat := 0xB000C
/-- Offset of FTZ_DET_SEL (R465). -/
abbrev FTZ_DET_SEL : Nat := 0xB0010
/-- Offset of FTZ_DET_IDX (R465). -/
abbrev FTZ_DET_IDX : Nat := 0xB0014
/-- Offset of FTZ_DET_SPOS (R465). -/
abbrev FTZ_DET_SPOS : Nat := 0xB0018
/-- Offset of FTZ_DET_SNEG (R465). -/
abbrev FTZ_DET_SNEG : Nat := 0xB001C
/-- Offset of FTZ_VECTORS (R465). -/
abbrev FTZ_VECTORS : Nat := 0xB0020
/-- Offset of FTZ_LATE_VEC (R465). -/
abbrev FTZ_LATE_VEC : Nat := 0xB0024
/-- Offset of FTZ_MISSING (R465). -/
abbrev FTZ_MISSING : Nat := 0xB0028
/-- Offset of FTZ_CLAMPS (R465). -/
abbrev FTZ_CLAMPS : Nat := 0xB002C
/-- Offset of FTZ_CUSUM_HOLD (R465). -/
abbrev FTZ_CUSUM_HOLD : Nat := 0xB0030
/-- Offset of FTZ_AUDITED (R465). -/
abbrev FTZ_AUDITED : Nat := 0xB0034
/-- Offset of FTZ_TREE_FLIPS (R465). -/
abbrev FTZ_TREE_FLIPS : Nat := 0xB0038
/-- Offset of FTZ_VERDICT_FLIPS (R465). -/
abbrev FTZ_VERDICT_FLIPS : Nat := 0xB003C
/-- Offset of FTZ_ACR_ALARMS (R465). -/
abbrev FTZ_ACR_ALARMS : Nat := 0xB0040
/-- Offset of ENS_CTL (R465). -/
abbrev ENS_CTL : Nat := 0xC0000
/-- Offset of ENS_STS (R465). -/
abbrev ENS_STS : Nat := 0xC0004
/-- Offset of ENS_STORE_SEL (R465). -/
abbrev ENS_STORE_SEL : Nat := 0xC0008
/-- Offset of ENS_STORE_STS (R465). -/
abbrev ENS_STORE_STS : Nat := 0xC000C
/-- Offset of ENS_STORE_FREE (R465). -/
abbrev ENS_STORE_FREE : Nat := 0xC0010
/-- Offset of ENS_DIGEST_SEL (R465). -/
abbrev ENS_DIGEST_SEL : Nat := 0xC0014
/-- Offset of ENS_RUN_SEL (R465). -/
abbrev ENS_RUN_SEL : Nat := 0xC0018
/-- Offset of ENS_RUN_STS (R465). -/
abbrev ENS_RUN_STS : Nat := 0xC001C
/-- Offset of ENS_EVALS_LO (R465). -/
abbrev ENS_EVALS_LO : Nat := 0xC0020
/-- Offset of ENS_EVALS_HI (R465). -/
abbrev ENS_EVALS_HI : Nat := 0xC0024
/-- Offset of ENS_VERDICTS (R465). -/
abbrev ENS_VERDICTS : Nat := 0xC0028
/-- Offset of ENS_ALARMS (R465). -/
abbrev ENS_ALARMS : Nat := 0xC002C
/-- Offset of ENS_SAT_CNT (R465). -/
abbrev ENS_SAT_CNT : Nat := 0xC0030
/-- Offset of ENS_INVALID (R465). -/
abbrev ENS_INVALID : Nat := 0xC0034
/-- Offset of ENS_DIGESTS (R465). -/
abbrev ENS_DIGESTS : Nat := 0xC0038
/-- Offset of ENS_AUDIT_SKIP (R465). -/
abbrev ENS_AUDIT_SKIP : Nat := 0xC003C
/-- Offset of ENS_STORE_CE (R465). -/
abbrev ENS_STORE_CE : Nat := 0xC0040
/-- Offset of ENS_DIGEST (R465). -/
abbrev ENS_DIGEST : Nat := 0xC0080
/-- Offset of ENS_LANE_MAP (R465). -/
abbrev ENS_LANE_MAP : Nat := 0xC0100
/-- Offset of ENS_LANE_FAIL (R465). -/
abbrev ENS_LANE_FAIL : Nat := 0xC0180
/-- Offset of ENS_LANE_STS (R465). -/
abbrev ENS_LANE_STS : Nat := 0xC0190
/-- Offset of ENS_TRG_CTL (R465). -/
abbrev ENS_TRG_CTL : Nat := 0xC1000
/-- Offset of ENS_TRG_STS (R465). -/
abbrev ENS_TRG_STS : Nat := 0xC1004
/-- Offset of ENS_TSTORE_ADDR (R465). -/
abbrev ENS_TSTORE_ADDR : Nat := 0xC1008
/-- Offset of ENS_TSTORE_DATA (R465). -/
abbrev ENS_TSTORE_DATA : Nat := 0xC100C
/-- Offset of ENS_TSTORE_VALID_LO (R465). -/
abbrev ENS_TSTORE_VALID_LO : Nat := 0xC1010
/-- Offset of ENS_TSTORE_VALID_HI (R465). -/
abbrev ENS_TSTORE_VALID_HI : Nat := 0xC1014
/-- Offset of ENS_TRG_ENS (R465). -/
abbrev ENS_TRG_ENS : Nat := 0xC1100
/-- Offset of ENS_TRG_THR (R465). -/
abbrev ENS_TRG_THR : Nat := 0xC1120
/-- Offset of ENS_TRG_SCORE (R465). -/
abbrev ENS_TRG_SCORE : Nat := 0xC1140
/-- Offset of ENS_TRG_FEAT (R465). -/
abbrev ENS_TRG_FEAT : Nat := 0xC1200
/-- Offset of ENS_TRG_EDGE (R465). -/
abbrev ENS_TRG_EDGE : Nat := 0xC2000
/-- Offset of RUL_CTL (R465). -/
abbrev RUL_CTL : Nat := 0xD0000
/-- Offset of RUL_STS (R465). -/
abbrev RUL_STS : Nat := 0xD0004
/-- Offset of RUL_GRP_SEL (R465). -/
abbrev RUL_GRP_SEL : Nat := 0xD0008
/-- Offset of RUL_GRP_STS (R465). -/
abbrev RUL_GRP_STS : Nat := 0xD000C
/-- Offset of RUL_GRP_ID (R465). -/
abbrev RUL_GRP_ID : Nat := 0xD0010
/-- Offset of RUL_SEARCH_LO (R465). -/
abbrev RUL_SEARCH_LO : Nat := 0xD0014
/-- Offset of RUL_SEARCH_HI (R465). -/
abbrev RUL_SEARCH_HI : Nat := 0xD0018
/-- Offset of RUL_NOMATCH (R465). -/
abbrev RUL_NOMATCH : Nat := 0xD001C
/-- Offset of RUL_CE (R465). -/
abbrev RUL_CE : Nat := 0xD0020
/-- Offset of RUL_SCRUBBED (R465). -/
abbrev RUL_SCRUBBED : Nat := 0xD0024
/-- Offset of RUL_BANK_FREE (R465). -/
abbrev RUL_BANK_FREE : Nat := 0xD0100
/-- Offset of ANV_CTL (R465). -/
abbrev ANV_CTL : Nat := 0xE0000
/-- Offset of ANV_STS (R465). -/
abbrev ANV_STS : Nat := 0xE0004
/-- Offset of ANV_FAIL (R465). -/
abbrev ANV_FAIL : Nat := 0xE0008
/-- Offset of ANV_LSTS (R465). -/
abbrev ANV_LSTS : Nat := 0xE000C
/-- Offset of ANV_STRAG_SEL (R465). -/
abbrev ANV_STRAG_SEL : Nat := 0xE0010
/-- Offset of ANV_STRAG_STS (R465). -/
abbrev ANV_STRAG_STS : Nat := 0xE0014
/-- Offset of ANV_STRAG_SCORE (R465). -/
abbrev ANV_STRAG_SCORE : Nat := 0xE0018
/-- Offset of ANV_LOAVES (R465). -/
abbrev ANV_LOAVES : Nat := 0xE001C
/-- Offset of ANV_SKIPPED (R465). -/
abbrev ANV_SKIPPED : Nat := 0xE0020
/-- Offset of ANV_FAULTED (R465). -/
abbrev ANV_FAULTED : Nat := 0xE0024
/-- Offset of ANV_LOST (R465). -/
abbrev ANV_LOST : Nat := 0xE0028
/-- Offset of ANV_PORT (R465). -/
abbrev ANV_PORT : Nat := 0xE0100
/-- Offset of ANV_MAP (R465). -/
abbrev ANV_MAP : Nat := 0xE0180
/-- Offset of ANV_SCAN (R465). -/
abbrev ANV_SCAN : Nat := 0xE01C0
/-- Offset of ANV_DEV (R465). -/
abbrev ANV_DEV : Nat := 0xE0200
/-- Offset of WIT_CTL (R465). -/
abbrev WIT_CTL : Nat := 0xF0000
/-- Offset of WIT_STS (R465). -/
abbrev WIT_STS : Nat := 0xF0004
/-- Offset of WIT_OPEN (R465). -/
abbrev WIT_OPEN : Nat := 0xF0008
/-- Offset of WIT_RX (R465). -/
abbrev WIT_RX : Nat := 0xF000C
/-- Offset of WIT_VOTES (R465). -/
abbrev WIT_VOTES : Nat := 0xF0010
/-- Offset of WIT_DISSENT (R465). -/
abbrev WIT_DISSENT : Nat := 0xF0014
/-- Offset of WIT_SPLIT (R465). -/
abbrev WIT_SPLIT : Nat := 0xF0018
/-- Offset of WIT_ABSENT (R465). -/
abbrev WIT_ABSENT : Nat := 0xF001C
/-- Offset of WIT_LATE (R465). -/
abbrev WIT_LATE : Nat := 0xF0020
/-- Offset of WIT_DUP (R465). -/
abbrev WIT_DUP : Nat := 0xF0024
/-- Offset of WIT_OVF (R465). -/
abbrev WIT_OVF : Nat := 0xF0028
/-- Offset of WIT_LOAD (R465). -/
abbrev WIT_LOAD : Nat := 0xF0080
/-- Offset of WIT_DSTS (R465). -/
abbrev WIT_DSTS : Nat := 0xF0084
/-- Offset of WIT_DSENT (R465). -/
abbrev WIT_DSENT : Nat := 0xF0088
/-- Offset of WIT_DDROP (R465). -/
abbrev WIT_DDROP : Nat := 0xF008C
/-- Offset of WIT_DCH (R465). -/
abbrev WIT_DCH : Nat := 0xF0100
/-- Offset of PLN_CTL (R465). -/
abbrev PLN_CTL : Nat := 0x100000
/-- Offset of PLN_STS (R465). -/
abbrev PLN_STS : Nat := 0x100004
/-- Offset of PLN_PHASE (R465). -/
abbrev PLN_PHASE : Nat := 0x100008
/-- Offset of PLN_ROW (R465). -/
abbrev PLN_ROW : Nat := 0x10000C
/-- Offset of PLN_SCHED (R465). -/
abbrev PLN_SCHED : Nat := 0x100010
/-- Offset of PLN_PLAN_SEL (R465). -/
abbrev PLN_PLAN_SEL : Nat := 0x100014
/-- Offset of PLN_PLAN_STS (R465). -/
abbrev PLN_PLAN_STS : Nat := 0x100018
/-- Offset of PLN_CKPT (R465). -/
abbrev PLN_CKPT : Nat := 0x10001C
/-- Offset of PLN_ROWS_LOST (R465). -/
abbrev PLN_ROWS_LOST : Nat := 0x100020
/-- Offset of PLN_CKPTS (R465). -/
abbrev PLN_CKPTS : Nat := 0x100024
/-- Offset of PLN_REPLAYS (R465). -/
abbrev PLN_REPLAYS : Nat := 0x100028
/-- Offset of PLN_SCHED_DIGEST (R465). -/
abbrev PLN_SCHED_DIGEST : Nat := 0x100080
/-- Offset of PLN_CTX (R465). -/
abbrev PLN_CTX : Nat := 0x100100
/-- Offset of PLN_TXN_CTL (R465). -/
abbrev PLN_TXN_CTL : Nat := 0x100800
/-- Offset of PLN_TXN_CFT_LO (R465). -/
abbrev PLN_TXN_CFT_LO : Nat := 0x100804
/-- Offset of PLN_TXN_CFT_HI (R465). -/
abbrev PLN_TXN_CFT_HI : Nat := 0x100808
/-- Offset of PLN_TXN_STS (R465). -/
abbrev PLN_TXN_STS : Nat := 0x10080C
/-- Offset of PLN_TXN_SEQ (R465). -/
abbrev PLN_TXN_SEQ : Nat := 0x100810
/-- Offset of HIS_CTL (R465). -/
abbrev HIS_CTL : Nat := 0x110000
/-- Offset of HIS_STS (R465). -/
abbrev HIS_STS : Nat := 0x110004
/-- Offset of HIS_GRP_SEL (R465). -/
abbrev HIS_GRP_SEL : Nat := 0x110008
/-- Offset of HIS_GRP_DA (R465). -/
abbrev HIS_GRP_DA : Nat := 0x11000C
/-- Offset of HIS_GRP_CTL (R465). -/
abbrev HIS_GRP_CTL : Nat := 0x110010
/-- Offset of HIS_EC_RATE (R465). -/
abbrev HIS_EC_RATE : Nat := 0x110014
/-- Offset of HIS_EC_HOLD (R465). -/
abbrev HIS_EC_HOLD : Nat := 0x110018
/-- Offset of HIS_REBUILD_RATE (R465). -/
abbrev HIS_REBUILD_RATE : Nat := 0x11001C
/-- Offset of HIS_REF (R465). -/
abbrev HIS_REF : Nat := 0x110020
/-- Offset of HIS_REGION_SEL (R465). -/
abbrev HIS_REGION_SEL : Nat := 0x110024
/-- Offset of HIS_REGION_INFO (R465). -/
abbrev HIS_REGION_INFO : Nat := 0x110028
/-- Offset of HIS_OLDEST_FT_LO (R465). -/
abbrev HIS_OLDEST_FT_LO : Nat := 0x11002C
/-- Offset of HIS_OLDEST_FT_HI (R465). -/
abbrev HIS_OLDEST_FT_HI : Nat := 0x110030
/-- Offset of HIS_OLDEST_WIN (R465). -/
abbrev HIS_OLDEST_WIN : Nat := 0x110034
/-- Offset of HIS_SEG_SEALED (R465). -/
abbrev HIS_SEG_SEALED : Nat := 0x110038
/-- Offset of HIS_SEG_CODED (R465). -/
abbrev HIS_SEG_CODED : Nat := 0x11003C
/-- Offset of HIS_SEG_UNCODED (R465). -/
abbrev HIS_SEG_UNCODED : Nat := 0x110040
/-- Offset of HIS_SEG_LOST (R465). -/
abbrev HIS_SEG_LOST : Nat := 0x110044
/-- Offset of HIS_STRIPES (R465). -/
abbrev HIS_STRIPES : Nat := 0x110048
/-- Offset of HIS_SHORT (R465). -/
abbrev HIS_SHORT : Nat := 0x11004C
/-- Offset of HIS_PARITY_EVICT (R465). -/
abbrev HIS_PARITY_EVICT : Nat := 0x110050
/-- Offset of HIS_DEGRADED_RD (R465). -/
abbrev HIS_DEGRADED_RD : Nat := 0x110054
/-- Offset of HIS_UE_FIXED (R465). -/
abbrev HIS_UE_FIXED : Nat := 0x110058
/-- Offset of HIS_UE_LOST (R465). -/
abbrev HIS_UE_LOST : Nat := 0x11005C
/-- Offset of HIS_GRP (R465). -/
abbrev HIS_GRP : Nat := 0x110100
/-- Offset of HST_CTL (R465). -/
abbrev HST_CTL : Nat := 0x120000
/-- Offset of HST_STS (R465). -/
abbrev HST_STS : Nat := 0x120004
/-- Offset of HST_OWN (R465). -/
abbrev HST_OWN : Nat := 0x120008
/-- Offset of HST_OWN_ID_LO (R465). -/
abbrev HST_OWN_ID_LO : Nat := 0x12000C
/-- Offset of HST_OWN_ID_HI (R465). -/
abbrev HST_OWN_ID_HI : Nat := 0x120010
/-- Offset of HST_EVT_BASE_LO (R465). -/
abbrev HST_EVT_BASE_LO : Nat := 0x120014
/-- Offset of HST_EVT_BASE_HI (R465). -/
abbrev HST_EVT_BASE_HI : Nat := 0x120018
/-- Offset of HST_EVT_CFG (R465). -/
abbrev HST_EVT_CFG : Nat := 0x12001C
/-- Offset of HST_EVT_PTR (R465). -/
abbrev HST_EVT_PTR : Nat := 0x120020
/-- Offset of HST_EXP_DEF (R465). -/
abbrev HST_EXP_DEF : Nat := 0x120024
/-- Offset of HST_DESC (R465). -/
abbrev HST_DESC : Nat := 0x120028
/-- Offset of HST_DUP (R465). -/
abbrev HST_DUP : Nat := 0x12002C
/-- Offset of HST_DB_ERR (R465). -/
abbrev HST_DB_ERR : Nat := 0x120030
/-- Offset of HST_EVT_COAL (R465). -/
abbrev HST_EVT_COAL : Nat := 0x120034
/-- Offset of HST_EVT_LOST (R465). -/
abbrev HST_EVT_LOST : Nat := 0x120038
/-- Offset of HST_EXP_GAP (R465). -/
abbrev HST_EXP_GAP : Nat := 0x12003C
/-- Offset of HST_CMD_BASE_LO (R465). -/
abbrev HST_CMD_BASE_LO : Nat := 0x121000
/-- Offset of HST_CMD_BASE_HI (R465). -/
abbrev HST_CMD_BASE_HI : Nat := 0x121004
/-- Offset of HST_CMD_CFG (R465). -/
abbrev HST_CMD_CFG : Nat := 0x121008
/-- Offset of HST_CMD_PTR (R465). -/
abbrev HST_CMD_PTR : Nat := 0x12100C
/-- Offset of HST_CPL_BASE_LO (R465). -/
abbrev HST_CPL_BASE_LO : Nat := 0x121200
/-- Offset of HST_CPL_BASE_HI (R465). -/
abbrev HST_CPL_BASE_HI : Nat := 0x121204
/-- Offset of HST_CPL_CFG (R465). -/
abbrev HST_CPL_CFG : Nat := 0x121208
/-- Offset of HST_CPL_PTR (R465). -/
abbrev HST_CPL_PTR : Nat := 0x12120C
/-- Offset of HST_EXP_BASE_LO (R465). -/
abbrev HST_EXP_BASE_LO : Nat := 0x121400
/-- Offset of HST_EXP_BASE_HI (R465). -/
abbrev HST_EXP_BASE_HI : Nat := 0x121404
/-- Offset of HST_EXP_DATA_LO (R465). -/
abbrev HST_EXP_DATA_LO : Nat := 0x121408
/-- Offset of HST_EXP_DATA_HI (R465). -/
abbrev HST_EXP_DATA_HI : Nat := 0x12140C
/-- Offset of HST_EXP_CFG (R465). -/
abbrev HST_EXP_CFG : Nat := 0x121410
/-- Offset of HST_EXP_PTR (R465). -/
abbrev HST_EXP_PTR : Nat := 0x121414
/-- Offset of HST_EXP_ROUTE (R465). -/
abbrev HST_EXP_ROUTE : Nat := 0x121500
/-- Offset of EGR_SEL (R465). -/
abbrev EGR_SEL : Nat := 0x130000
/-- Offset of EGR_BKT_RATE (R465). -/
abbrev EGR_BKT_RATE : Nat := 0x130004
/-- Offset of EGR_BKT_BURST (R465). -/
abbrev EGR_BKT_BURST : Nat := 0x130008
/-- Offset of EGR_BKT_CFG (R465). -/
abbrev EGR_BKT_CFG : Nat := 0x13000C
/-- Offset of EGR_BKT_TOK (R465). -/
abbrev EGR_BKT_TOK : Nat := 0x130010
/-- Offset of EGR_BKT_QHWM (R465). -/
abbrev EGR_BKT_QHWM : Nat := 0x130014
/-- Offset of EGR_BKT_SHWM (R465). -/
abbrev EGR_BKT_SHWM : Nat := 0x130018
/-- Offset of EGR_STS (R465). -/
abbrev EGR_STS : Nat := 0x13001C
/-- Offset of EGR_LATE (R465). -/
abbrev EGR_LATE : Nat := 0x130020
/-- Offset of EGR_COAL (R465). -/
abbrev EGR_COAL : Nat := 0x130024
/-- Offset of EGR_BKT_TOK_HI (R465). -/
abbrev EGR_BKT_TOK_HI : Nat := 0x130028
/-- Offset of EGR_PORT_CTL (R465). -/
abbrev EGR_PORT_CTL : Nat := 0x130100
/-- Offset of EGR_PORT_STS (R465). -/
abbrev EGR_PORT_STS : Nat := 0x130104
/-- Offset of EGR_ALARM_BUDGET (R465). -/
abbrev EGR_ALARM_BUDGET : Nat := 0x130108
/-- Offset of EGR_GRANTS (R465). -/
abbrev EGR_GRANTS : Nat := 0x13010C
/-- Offset of EVR_CTL (R465). -/
abbrev EVR_CTL : Nat := 0x140000
/-- Offset of EVR_STS (R465). -/
abbrev EVR_STS : Nat := 0x140004
/-- Offset of EVR_HOURS (R465). -/
abbrev EVR_HOURS : Nat := 0x140008
/-- Offset of EVR_PCYC (R465). -/
abbrev EVR_PCYC : Nat := 0x14000C
/-- Offset of EVR_RD_SEL (R465). -/
abbrev EVR_RD_SEL : Nat := 0x140010
/-- Offset of EVR_HEAD (R465). -/
abbrev EVR_HEAD : Nat := 0x140014
/-- Offset of EVR_WRITTEN (R465). -/
abbrev EVR_WRITTEN : Nat := 0x140018
/-- Offset of EVR_OVERWRITTEN (R465). -/
abbrev EVR_OVERWRITTEN : Nat := 0x14001C
/-- Offset of EVR_BAD (R465). -/
abbrev EVR_BAD : Nat := 0x140020
/-- Offset of EVR_FLASH_WR (R465). -/
abbrev EVR_FLASH_WR : Nat := 0x140024
/-- Offset of EVR_FLASH_DROP (R465). -/
abbrev EVR_FLASH_DROP : Nat := 0x140028
/-- Offset of EVR_RD_DATA (R465). -/
abbrev EVR_RD_DATA : Nat := 0x140040
/-- Offset of SEC_CTL (R465). -/
abbrev SEC_CTL : Nat := 0x150000
/-- Offset of SEC_STS (R465). -/
abbrev SEC_STS : Nat := 0x150004
/-- Offset of SEC_WINDOW_LEFT (R465). -/
abbrev SEC_WINDOW_LEFT : Nat := 0x150008
/-- Offset of SEC_PRESSES (R465). -/
abbrev SEC_PRESSES : Nat := 0x15000C
/-- Offset of SEC_DENIED (R465). -/
abbrev SEC_DENIED : Nat := 0x150010
/-- Offset of SEC_GRANTS (R465). -/
abbrev SEC_GRANTS : Nat := 0x150014
/-- Offset of LSE_SEL (R465). -/
abbrev LSE_SEL : Nat := 0x160000
/-- Offset of LSE_STS (R465). -/
abbrev LSE_STS : Nat := 0x160004
/-- Offset of LSE_EPOCH (R465). -/
abbrev LSE_EPOCH : Nat := 0x160008
/-- Offset of LSE_ID_LO (R465). -/
abbrev LSE_ID_LO : Nat := 0x16000C
/-- Offset of LSE_ID_HI (R465). -/
abbrev LSE_ID_HI : Nat := 0x160010
/-- Offset of LSE_STAT (R465). -/
abbrev LSE_STAT : Nat := 0x160014
/-- Offset of LSE_ACQ (R465). -/
abbrev LSE_ACQ : Nat := 0x160018
/-- Offset of LSE_HELD_CNT (R465). -/
abbrev LSE_HELD_CNT : Nat := 0x16001C
/-- Offset of LSE_BREAKS (R465). -/
abbrev LSE_BREAKS : Nat := 0x160020
/-- Offset of LSE_RING_EPOCH (R465). -/
abbrev LSE_RING_EPOCH : Nat := 0x160100
/-- Offset of STW_CTL (R465). -/
abbrev STW_CTL : Nat := 0x170000
/-- Offset of STW_CMD (R465). -/
abbrev STW_CMD : Nat := 0x170004
/-- Offset of STW_STS (R465). -/
abbrev STW_STS : Nat := 0x170008
/-- Offset of STW_WDOG (R465). -/
abbrev STW_WDOG : Nat := 0x17000C
/-- Offset of STW_DUMP_SEL (R465). -/
abbrev STW_DUMP_SEL : Nat := 0x170010
/-- Offset of STW_DUMP_DATA (R465). -/
abbrev STW_DUMP_DATA : Nat := 0x170014
/-- Offset of STW_DUMP_ACK (R465). -/
abbrev STW_DUMP_ACK : Nat := 0x170018
/-- Offset of STW_FL_ADDR (R465). -/
abbrev STW_FL_ADDR : Nat := 0x17001C
/-- Offset of STW_FL_BUF (R465). -/
abbrev STW_FL_BUF : Nat := 0x170020
/-- Offset of STW_FL_CMD (R465). -/
abbrev STW_FL_CMD : Nat := 0x170024
/-- Offset of STW_FL_STS (R465). -/
abbrev STW_FL_STS : Nat := 0x170028
/-- Offset of STW_FAULTS (R465). -/
abbrev STW_FAULTS : Nat := 0x17002C
/-- Offset of STW_RESTARTS (R465). -/
abbrev STW_RESTARTS : Nat := 0x170030
/-- Offset of STW_DUMP_LOST (R465). -/
abbrev STW_DUMP_LOST : Nat := 0x170034
/-- Offset of STW_STATE (R465). -/
abbrev STW_STATE : Nat := 0x170100
/-- Offset of STW_VER (R465). -/
abbrev STW_VER : Nat := 0x170120
/-- Offset of PWR_STS (R465). -/
abbrev PWR_STS : Nat := 0x180000
/-- Offset of PWR_T_LO (R465). -/
abbrev PWR_T_LO : Nat := 0x180004
/-- Offset of PWR_T_HI (R465). -/
abbrev PWR_T_HI : Nat := 0x180008
/-- Offset of PWR_SNS_CTL (R465). -/
abbrev PWR_SNS_CTL : Nat := 0x18000C
/-- Offset of PWR_THERM_CNT (R465). -/
abbrev PWR_THERM_CNT : Nat := 0x180010
/-- Offset of PWR_SNS_MISS (R465). -/
abbrev PWR_SNS_MISS : Nat := 0x180014
/-- Offset of PWR_SNS_CFG (R465). -/
abbrev PWR_SNS_CFG : Nat := 0x180100
/-- Offset of PWR_SNS_VAL (R465). -/
abbrev PWR_SNS_VAL : Nat := 0x180180
/-- Offset of IST_CTL (R465). -/
abbrev IST_CTL : Nat := 0x190000
/-- Offset of IST_LIM (R465). -/
abbrev IST_LIM : Nat := 0x190004
/-- Offset of IST_STS (R465). -/
abbrev IST_STS : Nat := 0x190008
/-- Offset of IST_LAST (R465). -/
abbrev IST_LAST : Nat := 0x19000C
/-- Offset of IST_DEC_FAIL (R465). -/
abbrev IST_DEC_FAIL : Nat := 0x190010
/-- Offset of IST_SWEEP_MS (R465). -/
abbrev IST_SWEEP_MS : Nat := 0x190014
/-- Offset of IST_SWEEPS (R465). -/
abbrev IST_SWEEPS : Nat := 0x190018
/-- Offset of IST_TRANSIENT (R465). -/
abbrev IST_TRANSIENT : Nat := 0x19001C
/-- Offset of IST_FAILS (R465). -/
abbrev IST_FAILS : Nat := 0x190020
end Reg

/-- The ID_ registers of Borlu-D. -/
def regRowsDID : List RegRow := [
  { base := Reg.ID_BLOCK,
    fields := [⟨31, 16, .ro, (.const 0x424C), .any⟩, ⟨15, 8, .ro, (.const 4), .any⟩, ⟨7, 0, .ro, (.const 1), .any⟩] },
  { base := Reg.ID_BUILD,
    fields := [⟨7, 0, .ro, (.const 0x44), .any⟩] },
  { base := Reg.ID_DA,
    fields := [⟨31, 13, .rwl, (.const 0), .any⟩, ⟨12, 8, .ro, (.const 0), .any⟩] },
  { base := Reg.ID_STRAP,
    fields := [⟨5, 5, .ro, (.const 0), .any⟩, ⟨4, 0, .ro, (.const 0), .any⟩] },
  { base := Reg.ID_CTL,
    fields := [⟨2, 2, .ro, (.const 0), .any⟩, ⟨1, 1, .w1s, (.const 0), .any⟩, ⟨0, 0, .w1s, (.const 0), .any⟩] }]

/-- The TIM_ registers of Borlu-D. -/
def regRowsDTIM : List RegRow := [
  { base := Reg.TIM_CTL,
    fields := [⟨11, 11, .rw, (.const 0), .any⟩, ⟨10, 10, .rw, (.const 1), .any⟩, ⟨9, 9, .rw, (.const 0), .any⟩, ⟨8, 8, .ro, (.const 1), .any⟩, ⟨1, 0, .rw, (.const 0), (.atMost 2)⟩] },
  { base := Reg.TIM_STS,
    fields := [⟨31, 31, .w1c, (.const 0), .any⟩, ⟨9, 8, .ro, (.const 0), .any⟩, ⟨7, 7, .w1c, (.const 0), .any⟩, ⟨6, 6, .w1c, (.const 0), .any⟩, ⟨5, 5, .w1c, (.const 0), .any⟩, ⟨4, 4, .w1c, (.const 0), .any⟩, ⟨3, 3, .w1c, (.const 0), .any⟩, ⟨2, 2, .ro, (.const 0), .any⟩, ⟨1, 1, .ro, (.const 0), .any⟩, ⟨0, 0, .ro, (.const 0), .any⟩] },
  { base := Reg.TIM_FT_LO,
    fields := [⟨31, 0, .ro, (.const 0), .any⟩] },
  { base := Reg.TIM_FT_HI,
    fields := [⟨31, 0, .ro, (.const 0), .any⟩] },
  { base := Reg.TIM_PULSE_FT_LO,
    fields := [⟨31, 0, .ro, (.const 0), .any⟩] },
  { base := Reg.TIM_PULSE_FT_HI,
    fields := [⟨31, 0, .ro, (.const 0), .any⟩] },
  { base := Reg.TIM_INCR_INT,
    fields := [⟨7, 0, .rw, (.const 0x10), .any⟩] },
  { base := Reg.TIM_INCR_FRAC,
    fields := [⟨31, 0, .rw, (.const 0), .any⟩] },
  { base := Reg.TIM_STEP_LO,
    fields := [⟨31, 0, .wo, (.const 0), .any⟩] },
  { base := Reg.TIM_STEP_HI,
    fields := [⟨31, 0, .wo, (.const 0), .any⟩] },
  { base := Reg.TIM_HOLD_MAX,
    fields := [⟨15, 0, .rw, (.const 0x1000), .any⟩] },
  { base := Reg.TIM_HOLD_LEFT,
    fields := [⟨31, 0, .ro, (.const 0), .any⟩] },
  { base := Reg.TIM_BCN,
    fields := [⟨15, 8, .rw, (.const 4), .nonzero⟩, ⟨7, 0, .rw, (.const 8), .nonzero⟩] },
  { base := Reg.TIM_BCN_LIM,
    fields := [⟨15, 0, .rw, (.const 0x20), .any⟩] },
  { base := Reg.TIM_BCN_ERR,
    fields := [⟨31, 0, .ro, (.const 0), .any⟩] },
  { base := Reg.TIM_BCN_ERR_MAX,
    fields := [⟨31, 0, .rc, (.const 0), .any⟩] },
  { base := Reg.TIM_PAIR_CTL, staging := .whileActive,
    fields := [⟨8, 4, .rw, (.const 0), (.atMost 16)⟩, ⟨3, 0, .rw, (.const 2), (.atMost 8)⟩] },
  { base := Reg.TIM_PAIR_SKIP,
    fields := [⟨31, 0, .rc, (.const 0), .any⟩] },
  { base := Reg.TIM_LINK_DELAY, count := 1,
    fields := [⟨31, 31, .ro, (.const 0), .any⟩, ⟨30, 30, .ro, (.const 0), .any⟩, ⟨15, 0, .ro, (.const 0), .any⟩] },
  { base := Reg.TIM_LINK_ASYM, count := 1,
    fields := [⟨15, 0, .rw, (.const 0), .any⟩] },
  { base := Reg.TIM_OPP, count := 16, staging := .whileActive,
    fields := [⟨31, 0, .rw, (.const 0x00800000), .any⟩] },
  { base := Reg.TIM_TAP_COMP, count := 64,
    fields := [⟨11, 0, .rw, (.const 0), .any⟩] },
  { base := Reg.TIM_SLIP, count := 64,
    fields := [⟨31, 0, .ro, (.const 0), .any⟩] },
  { base := Reg.TIM_STR_CNT, count := 64,
    fields := [⟨31, 0, .rc, (.const 0), .any⟩] },
  { base := Reg.TIM_PAIR, count := 64, staging := .whileActive,
    fields := [⟨31, 31, .rw, (.const 0), .any⟩, ⟨13, 8, .rw, (.const 0), .any⟩, ⟨5, 0, .rw, (.const 0), .any⟩] }]

/-- The TAP_ registers of Borlu-D. -/
def regRowsDTAP : List RegRow := [
  { base := Reg.TAP_CTL,
    fields := [⟨3, 3, .rw, (.const 1), .any⟩, ⟨2, 0, .rw, (.const 0), .any⟩] },
  { base := Reg.TAP_EN_LO,
    fields := [⟨31, 0, .rw, (.const 0xFFFFFFFF), .any⟩] },
  { base := Reg.TAP_EN_HI,
    fields := [⟨31, 0, .rw, (.const 0xFFFFFFFF), .any⟩] },
  { base := Reg.TAP_STS,
    fields := [⟨31, 31, .w1c, (.const 0), .any⟩, ⟨2, 2, .w1c, (.const 0), .any⟩, ⟨1, 1, .w1c, (.const 0), .any⟩, ⟨0, 0, .w1c, (.const 0), .any⟩] },
  { base := Reg.TAP_ERR,
    fields := [⟨31, 0, .rc, (.const 0), .any⟩] },
  { base := Reg.TAP_CMD_MISMATCH,
    fields := [⟨31, 0, .rc, (.const 0), .any⟩] },
  { base := Reg.TAP_LOSS, count := 64,
    fields := [⟨31, 0, .rc, (.const 0), .any⟩] },
  { base := Reg.TAP_QHWM, count := 64,
    fields := [⟨4, 0, .rc, (.const 0), .any⟩] },
  { base := Reg.TAP_XQ, count := 64,
    fields := [⟨31, 16, .ro, (.const 0), .any⟩, ⟨15, 0, .ro, (.const 0xFFFF), .any⟩] }]

/-- The CNT_ registers of Borlu-D. -/
def regRowsDCNT : List RegRow := [
  { base := Reg.CNT_CMD_CTL, staging := .whileActive,
    fields := [⟨2, 0, .rw, (.const 0), .any⟩] },
  { base := Reg.CNT_RD_SEL,
    fields := [⟨31, 28, .rw, (.const 0), (.atMost 3)⟩, ⟨11, 0, .rw, (.const 0), .any⟩] },
  { base := Reg.CNT_RD_LO,
    fields := [⟨31, 0, .ro, (.const 0), .any⟩] },
  { base := Reg.CNT_RD_HI,
    fields := [⟨31, 31, .ro, (.const 0), .any⟩, ⟨15, 0, .ro, (.const 0), .any⟩] },
  { base := Reg.CNT_CLR,
    fields := [⟨31, 31, .wo, (.const 0), .any⟩, ⟨30, 28, .wo, (.const 0), .any⟩, ⟨5, 0, .wo, (.const 0), .any⟩] },
  { base := Reg.CNT_STS,
    fields := [⟨31, 31, .w1c, (.const 0), .any⟩, ⟨4, 4, .w1c, (.const 0), .any⟩, ⟨3, 3, .w1c, (.const 0), .any⟩, ⟨2, 2, .w1c, (.const 0), .any⟩, ⟨1, 1, .w1c, (.const 0), .any⟩, ⟨0, 0, .w1c, (.const 0), .any⟩] },
  { base := Reg.CNT_GRP_CTL, count := 64, staging := .whileActive,
    fields := [⟨31, 31, .rw, (.const 0), .any⟩, ⟨30, 30, .rw, (.const 1), .any⟩, ⟨29, 29, .rw, (.const 1), .any⟩, ⟨28, 28, .rw, (.const 0), .any⟩, ⟨27, 27, .rw, (.const 0), .any⟩, ⟨26, 24, .rw, (.const 0), .any⟩, ⟨11, 0, .rw, (.const 0xFFF), .any⟩] },
  { base := Reg.CNT_CSEL, count := 256, staging := .whileActive,
    fields := [⟨31, 31, .rw, (.const 0), .any⟩, ⟨30, 30, .rw, (.const 0), .any⟩, ⟨29, 24, .rw, (.const 0), .any⟩, ⟨23, 20, .rw, (.const 0), (.atMost 11)⟩, ⟨11, 0, .rw, (.const 0), .any⟩] },
  { base := Reg.CNT_CMD_CUR, count := 64,
    fields := [⟨31, 31, .ro, (.const 0), .any⟩, ⟨21, 0, .ro, (.const 0), .any⟩] },
  { base := Reg.CNT_SEL, count := 4096, staging := .whileActive,
    fields := [⟨31, 31, .rw, (.const 0), .any⟩, ⟨30, 30, .rw, (.const 0), .any⟩, ⟨29, 29, .rw, (.const 0), .any⟩, ⟨28, 23, .rw, (.const 0), .any⟩, ⟨22, 19, .rw, (.const 0), (.atMost 11)⟩, ⟨11, 0, .rw, (.const 0), .any⟩] }]

/-- The TXN_ registers of Borlu-D. -/
def regRowsDTXN : List RegRow := [
  { base := Reg.TXN_CTL,
    fields := [⟨31, 31, .wo, (.const 0), .any⟩, ⟨3, 3, .rw, (.const 1), .any⟩, ⟨2, 0, .rw, (.const 0), .any⟩] },
  { base := Reg.TXN_STS,
    fields := [⟨31, 31, .w1c, (.const 0), .any⟩, ⟨1, 1, .w1c, (.const 0), .any⟩, ⟨0, 0, .w1c, (.const 0), .any⟩] },
  { base := Reg.TXN_COMMITS,
    fields := [⟨31, 0, .rc, (.const 0), .any⟩] },
  { base := Reg.TXN_ABORTS,
    fields := [⟨31, 0, .rc, (.const 0), .any⟩] },
  { base := Reg.TXN_CANCELS,
    fields := [⟨31, 0, .rc, (.const 0), .any⟩] },
  { base := Reg.TXN_SLOT, count := 8,
    fields := [⟨31, 31, .ro, (.const 0), .any⟩, ⟨30, 30, .ro, (.const 0), .any⟩, ⟨25, 20, .ro, (.const 0), .any⟩, ⟨19, 12, .ro, (.const 0), .any⟩, ⟨11, 0, .ro, (.const 0), .any⟩] }]

/-- The TRC_ registers of Borlu-D. -/
def regRowsDTRC : List RegRow := [
  { base := Reg.TRC_CTL,
    fields := [⟨31, 31, .rw, (.const 0), .any⟩, ⟨30, 30, .rw, (.const 0), .any⟩, ⟨29, 29, .rw, (.const 1), .any⟩, ⟨28, 28, .rw, (.const 0), .any⟩, ⟨27, 27, .rw, (.const 0), .any⟩, ⟨26, 26, .rw, (.const 0), .any⟩, ⟨25, 23, .rw, (.const 0), .any⟩, ⟨22, 20, .rw, (.const 3), (.atMost 4)⟩] },
  { base := Reg.TRC_STS,
    fields := [⟨31, 31, .w1c, (.const 0), .any⟩, ⟨12, 10, .ro, (.const 0), .any⟩, ⟨9, 9, .ro, (.const 0), .any⟩, ⟨8, 8, .ro, (.const 0), .any⟩, ⟨7, 7, .ro, (.const 0), .any⟩, ⟨6, 6, .w1c, (.const 0), .any⟩, ⟨5, 5, .w1c, (.const 0), .any⟩, ⟨4, 4, .w1c, (.const 0), .any⟩, ⟨3, 3, .w1c, (.const 0), .any⟩, ⟨2, 2, .w1c, (.const 0), .any⟩, ⟨1, 1, .w1c, (.const 0), .any⟩, ⟨0, 0, .w1c, (.const 0), .any⟩] },
  { base := Reg.TRC_EN_LO,
    fields := [⟨31, 0, .rw, (.const 0), .any⟩] },
  { base := Reg.TRC_EN_HI,
    fields := [⟨31, 0, .rw, (.const 0), .any⟩] },
  { base := Reg.TRC_EVT,
    fields := [⟨11, 0, .rw, (.const 0), .any⟩] },
  { base := Reg.TRC_XCL_LO,
    fields := [⟨31, 0, .ro, (.const 0), .any⟩] },
  { base := Reg.TRC_XCL_HI,
    fields := [⟨31, 0, .ro, (.const 0), .any⟩] },
  { base := Reg.TRC_CFILT,
    fields := [⟨31, 30, .rw, (.const 0), (.atMost 2)⟩, ⟨19, 0, .rw, (.const 0), .any⟩] },
  { base := Reg.TRC_CFILT_LO,
    fields := [⟨21, 0, .rw, (.const 0), .any⟩] },
  { base := Reg.TRC_CFILT_HI,
    fields := [⟨21, 0, .rw, (.const 0), .any⟩] },
  { base := Reg.TRC_AF_CTL,
    fields := [⟨15, 8, .rw, (.const 0), .any⟩, ⟨7, 0, .rw, (.const 0), .any⟩] },
  { base := Reg.TRC_DF,
    fields := [⟨31, 31, .rw, (.const 0), .any⟩, ⟨15, 8, .rw, (.const 0), .any⟩, ⟨7, 0, .rw, (.const 0), .any⟩] },
  { base := Reg.TRC_TIME,
    fields := [⟨15, 0, .rw, (.const 0x10), .any⟩] },
  { base := Reg.TRC_FLUSH,
    fields := [⟨15, 0, .rw, (.const 0x20), .any⟩] },
  { base := Reg.TRC_OVF,
    fields := [⟨7, 0, .rw, (.const 0x10), .any⟩] },
  { base := Reg.TRC_STALL,
    fields := [⟨25, 16, .rw, (.const 0x200), .any⟩, ⟨9, 0, .rw, (.const 0x80), .any⟩] },
  { base := Reg.TRC_TRG,
    fields := [⟨31, 16, .rw, (.const 0), .any⟩, ⟨12, 8, .rw, (.const 0), .any⟩, ⟨4, 0, .rw, (.const 0), .any⟩] },
  { base := Reg.TRC_TRG_WIN_LO,
    fields := [⟨31, 0, .rw, (.const 0), .any⟩] },
  { base := Reg.TRC_TRG_WIN_HI,
    fields := [⟨7, 0, .rw, (.const 0), .any⟩] },
  { base := Reg.TRC_CMD,
    fields := [⟨2, 2, .wo, (.const 0), .any⟩, ⟨1, 1, .wo, (.const 0), .any⟩, ⟨0, 0, .wo, (.const 0), .any⟩] },
  { base := Reg.TRC_PORT,
    fields := [⟨10, 8, .rw, (.const 3), .any⟩, ⟨1, 0, .rw, (.const 0), (.atMost 1)⟩] },
  { base := Reg.TRC_LOST_BYTES,
    fields := [⟨31, 0, .rc, (.const 0), .any⟩] },
  { base := Reg.TRC_LOST_ENT,
    fields := [⟨31, 0, .rc, (.const 0), .any⟩] },
  { base := Reg.TRC_ERR,
    fields := [⟨31, 0, .rc, (.const 0), .any⟩] },
  { base := Reg.TRC_STALL_CYC,
    fields := [⟨31, 0, .rc, (.const 0), .any⟩] },
  { base := Reg.TRC_LOAVES,
    fields := [⟨31, 0, .rc, (.const 0), .any⟩] },
  { base := Reg.TRC_BUF_HWM,
    fields := [⟨10, 0, .rc, (.const 0), .any⟩] },
  { base := Reg.TRC_AF_BASE, count := 8,
    fields := [⟨31, 0, .rw, (.const 0), .any⟩] },
  { base := Reg.TRC_AF_LIMIT, count := 8,
    fields := [⟨31, 0, .rw, (.const 0), .any⟩] },
  { base := Reg.TRC_TRG_EV, count := 2,
    fields := [⟨27, 24, .rw, (.const 0), (.atMost 11)⟩, ⟨23, 12, .rw, (.const 0), .any⟩, ⟨11, 0, .rw, (.const 0), .any⟩] },
  { base := Reg.TRC_TRG_MARK, count := 2,
    fields := [⟨31, 0, .rw, (.const 0), .any⟩] },
  { base := Reg.TRC_GRANT_CTL, count := 4,
    fields := [⟨31, 31, .ro, (.const 0), .any⟩, ⟨2, 0, .ro, (.const 0), .any⟩] },
  { base := Reg.TRC_GRANT_MASK_LO, count := 4,
    fields := [⟨31, 0, .ro, (.const 0), .any⟩] },
  { base := Reg.TRC_GRANT_MASK_HI, count := 4,
    fields := [⟨31, 0, .ro, (.const 0), .any⟩] },
  { base := Reg.TRC_GRANT_EXP_LO, count := 4,
    fields := [⟨31, 0, .ro, (.const 0), .any⟩] },
  { base := Reg.TRC_GRANT_EXP_HI, count := 4,
    fields := [⟨31, 0, .ro, (.const 0), .any⟩] },
  { base := Reg.TRC_FEED_LOSS, count := 64,
    fields := [⟨31, 0, .rc, (.const 0), .any⟩] }]

/-- The LOF_ registers of Borlu-D. -/
def regRowsDLOF : List RegRow := [
  { base := Reg.LOF_CTL,
    fields := [⟨3, 3, .rw, (.const 0), .any⟩, ⟨1, 0, .rw, (.const 1), (.atMost 2)⟩] },
  { base := Reg.LOF_STS,
    fields := [⟨31, 31, .w1c, (.const 0), .any⟩, ⟨3, 3, .w1c, (.const 0), .any⟩, ⟨2, 2, .w1c, (.const 0), .any⟩, ⟨1, 1, .w1c, (.const 0), .any⟩] },
  { base := Reg.LOF_IN_LO,
    fields := [⟨31, 0, .ro, (.const 0), .any⟩] },
  { base := Reg.LOF_IN_HI,
    fields := [⟨31, 0, .ro, (.const 0), .any⟩] },
  { base := Reg.LOF_OUT_LO,
    fields := [⟨31, 0, .ro, (.const 0), .any⟩] },
  { base := Reg.LOF_OUT_HI,
    fields := [⟨31, 0, .ro, (.const 0), .any⟩] },
  { base := Reg.LOF_RAW,
    fields := [⟨31, 0, .rc, (.const 0), .any⟩] }]

/-- The FRM_ registers of Borlu-D. -/
def regRowsDFRM : List RegRow := [
  { base := Reg.FRM_CTL,
    fields := [] },
  { base := Reg.FRM_STS,
    fields := [⟨31, 31, .w1c, (.const 0), .any⟩, ⟨6, 6, .w1c, (.const 0), .any⟩, ⟨5, 5, .w1c, (.const 0), .any⟩, ⟨4, 4, .w1c, (.const 0), .any⟩, ⟨3, 3, .w1c, (.const 0), .any⟩, ⟨2, 2, .w1c, (.const 0), .any⟩, ⟨1, 1, .w1c, (.const 0), .any⟩, ⟨0, 0, .w1c, (.const 0), .any⟩] },
  { base := Reg.FRM_TX,
    fields := [⟨31, 0, .rc, (.const 0), .any⟩] },
  { base := Reg.FRM_RX,
    fields := [⟨31, 0, .rc, (.const 0), .any⟩] },
  { base := Reg.FRM_CRC_ERR,
    fields := [⟨31, 0, .rc, (.const 0), .any⟩] },
  { base := Reg.FRM_BAD,
    fields := [⟨31, 0, .rc, (.const 0), .any⟩] },
  { base := Reg.FRM_DUP,
    fields := [⟨31, 0, .rc, (.const 0), .any⟩] },
  { base := Reg.FRM_STALE,
    fields := [⟨31, 0, .rc, (.const 0), .any⟩] },
  { base := Reg.FRM_ANNEX,
    fields := [⟨31, 0, .rc, (.const 0), .any⟩] },
  { base := Reg.FRM_TOO_LATE,
    fields := [⟨31, 0, .rc, (.const 0), .any⟩] },
  { base := Reg.FRM_FUTURE,
    fields := [⟨31, 0, .rc, (.const 0), .any⟩] },
  { base := Reg.FRM_CTX, count := 8,
    fields := [⟨31, 31, .ro, (.const 0), .any⟩, ⟨30, 27, .ro, (.const 0), .any⟩, ⟨26, 23, .ro, (.const 0), .any⟩, ⟨11, 0, .ro, (.const 0), .any⟩] },
  { base := Reg.FRM_SEQ, count := 8,
    fields := [⟨31, 0, .ro, (.const 0), .any⟩] },
  { base := Reg.FRM_EPOCH, count := 8,
    fields := [⟨31, 0, .ro, (.const 0), .any⟩] }]

/-- The MBR_ registers of Borlu-D. -/
def regRowsDMBR : List RegRow := [
  { base := Reg.MBR_CTL,
    fields := [⟨0, 0, .rw, (.const 1), .any⟩] },
  { base := Reg.MBR_EMBER,
    fields := [⟨7, 0, .rw, (.const 4), .nonzero⟩] },
  { base := Reg.MBR_STS,
    fields := [⟨31, 31, .w1c, (.const 0), .any⟩, ⟨5, 5, .ro, (.const 0), .any⟩, ⟨2, 2, .w1c, (.const 0), .any⟩, ⟨1, 1, .w1c, (.const 0), .any⟩, ⟨0, 0, .w1c, (.const 0), .any⟩] },
  { base := Reg.MBR_SWITCH,
    fields := [⟨15, 8, .ro, (.const 0), .any⟩, ⟨2, 0, .ro, (.const 0), .any⟩] },
  { base := Reg.MBR_REFUSED,
    fields := [⟨31, 0, .rc, (.const 0), .any⟩] },
  { base := Reg.MBR_LATE_COMMIT,
    fields := [⟨31, 0, .rc, (.const 0), .any⟩] },
  { base := Reg.MBR_LATE_ACK,
    fields := [⟨31, 0, .rc, (.const 0), .any⟩] },
  { base := Reg.MBR_TRANSITIONS,
    fields := [⟨31, 0, .rc, (.const 0), .any⟩] },
  { base := Reg.MBR_RETIRED_RX,
    fields := [⟨31, 0, .rc, (.const 0), .any⟩] },
  { base := Reg.MBR_CTX, count := 8,
    fields := [⟨31, 29, .ro, (.const 0), .any⟩, ⟨28, 25, .ro, (.const 0), .any⟩, ⟨24, 24, .ro, (.const 0), .any⟩, ⟨15, 0, .ro, (.const 0), .any⟩] }]

/-- The ENS_ registers of Borlu-D. -/
def regRowsDENS : List RegRow := [
  { base := Reg.ENS_TRG_CTL,
    fields := [⟨31, 31, .rw, (.const 0), .any⟩, ⟨10, 8, .rw, (.const 0), .any⟩, ⟨3, 0, .rw, (.const 2), (.atMost 8)⟩] },
  { base := Reg.ENS_TRG_STS,
    fields := [⟨31, 31, .w1c, (.const 0), .any⟩, ⟨3, 3, .w1c, (.const 0), .any⟩, ⟨2, 2, .w1c, (.const 0), .any⟩, ⟨1, 1, .w1c, (.const 0), .any⟩, ⟨0, 0, .w1c, (.const 0), .any⟩] },
  { base := Reg.ENS_TSTORE_ADDR,
    fields := [⟨16, 2, .rw, (.const 0), .any⟩] },
  { base := Reg.ENS_TSTORE_DATA,
    fields := [⟨31, 0, .wo, (.const 0), .any⟩] },
  { base := Reg.ENS_TSTORE_VALID_LO,
    fields := [⟨31, 0, .ro, (.const 0), .any⟩] },
  { base := Reg.ENS_TSTORE_VALID_HI,
    fields := [⟨31, 0, .ro, (.const 0), .any⟩] },
  { base := Reg.ENS_TRG_ENS, count := 8,
    fields := [⟨31, 31, .rw, (.const 0), .any⟩, ⟨30, 30, .rw, (.const 0), .any⟩, ⟨29, 29, .rw, (.const 0), .any⟩, ⟨28, 27, .rw, (.const 0), .any⟩, ⟨13, 8, .rw, (.const 0), .any⟩, ⟨5, 0, .rw, (.const 0), .any⟩] },
  { base := Reg.ENS_TRG_THR, count := 8,
    fields := [⟨23, 0, .rw, (.const 0), .any⟩] },
  { base := Reg.ENS_TRG_SCORE, count := 8,
    fields := [⟨31, 31, .ro, (.const 0), .any⟩, ⟨23, 0, .ro, (.const 0), .any⟩] },
  { base := Reg.ENS_TRG_FEAT, count := 64,
    fields := [⟨31, 31, .rw, (.const 0), .any⟩, ⟨14, 12, .rw, (.const 0), .any⟩, ⟨11, 0, .rw, (.const 0), .any⟩] },
  { base := Reg.ENS_TRG_EDGE, count := 1024, blk := 16, used := 14,
    fields := [⟨31, 0, .rw, (.const 0), .any⟩] }]

/-- The WIT_ registers of Borlu-D. -/
def regRowsDWIT : List RegRow := [
  { base := Reg.WIT_LOAD, staging := .whileActive,
    fields := [⟨13, 8, .rw, (.const 0), (.atMost 47)⟩, ⟨3, 0, .rw, (.const 4), (.atMost 8)⟩] },
  { base := Reg.WIT_DSTS,
    fields := [⟨31, 31, .w1c, (.const 0), .any⟩, ⟨0, 0, .w1c, (.const 0), .any⟩] },
  { base := Reg.WIT_DSENT,
    fields := [⟨31, 0, .rc, (.const 0), .any⟩] },
  { base := Reg.WIT_DDROP,
    fields := [⟨31, 0, .rc, (.const 0), .any⟩] },
  { base := Reg.WIT_DCH, count := 8, staging := .whileActive,
    fields := [⟨31, 31, .rw, (.const 0), .any⟩, ⟨26, 24, .rw, (.const 0), .any⟩, ⟨20, 16, .rw, (.const 0), .any⟩, ⟨12, 8, .rw, (.const 0), .any⟩, ⟨4, 0, .rw, (.const 0), .any⟩] }]

/-- The PLN_ registers of Borlu-D. -/
def regRowsDPLN : List RegRow := [
  { base := Reg.PLN_TXN_CTL,
    fields := [⟨31, 31, .wo, (.const 0), .any⟩, ⟨30, 30, .wo, (.const 0), .any⟩] },
  { base := Reg.PLN_TXN_CFT_LO,
    fields := [⟨31, 0, .rw, (.const 0), .any⟩] },
  { base := Reg.PLN_TXN_CFT_HI,
    fields := [⟨31, 0, .rw, (.const 0), .any⟩] },
  { base := Reg.PLN_TXN_STS,
    fields := [⟨31, 31, .w1c, (.const 0), .any⟩, ⟨30, 30, .ro, (.const 0), .any⟩, ⟨29, 29, .ro, (.const 0), .any⟩, ⟨28, 28, .w1c, (.const 0), .any⟩, ⟨27, 27, .w1c, (.const 0), .any⟩, ⟨23, 16, .ro, (.const 0), .any⟩, ⟨10, 0, .ro, (.const 0), .any⟩] },
  { base := Reg.PLN_TXN_SEQ,
    fields := [⟨31, 0, .ro, (.const 0), .any⟩] }]

/-- The EGR_ registers of Borlu-D. -/
def regRowsDEGR : List RegRow := [
  { base := Reg.EGR_SEL,
    fields := [⟨27, 24, .rw, (.const 0), (.atMost 8)⟩, ⟨8, 0, .rw, (.const 0), .any⟩] },
  { base := Reg.EGR_BKT_RATE,
    fields := [⟨23, 0, .rw, (.const 0x100), .any⟩] },
  { base := Reg.EGR_BKT_BURST,
    fields := [⟨23, 0, .rw, (.const 0x1000), .any⟩] },
  { base := Reg.EGR_BKT_CFG,
    fields := [⟨31, 31, .rw, (.const 1), .any⟩, ⟨23, 16, .rw, (.const 0), .any⟩, ⟨14, 0, .rw, (.const 0x1000), .any⟩] },
  { base := Reg.EGR_BKT_TOK,
    fields := [⟨31, 0, .ro, (.const 0x100000), .any⟩] },
  { base := Reg.EGR_BKT_QHWM,
    fields := [⟨23, 0, .rc, (.const 0), .any⟩] },
  { base := Reg.EGR_BKT_SHWM,
    fields := [⟨31, 0, .rc, (.const 0), .any⟩] },
  { base := Reg.EGR_STS,
    fields := [⟨31, 31, .w1c, (.const 0), .any⟩, ⟨2, 2, .ro, (.const 0), .any⟩, ⟨1, 1, .w1c, (.const 0), .any⟩, ⟨0, 0, .w1c, (.const 0), .any⟩] },
  { base := Reg.EGR_LATE,
    fields := [⟨31, 0, .rc, (.const 0), .any⟩] },
  { base := Reg.EGR_COAL,
    fields := [⟨31, 0, .rc, (.const 0), .any⟩] },
  { base := Reg.EGR_BKT_TOK_HI,
    fields := [⟨15, 0, .ro, (.const 0), .any⟩] },
  { base := Reg.EGR_PORT_CTL, count := 1, stride := 0x10,
    fields := [⟨0, 0, .rw, (.const 0), .any⟩] },
  { base := Reg.EGR_PORT_STS, count := 1, stride := 0x10,
    fields := [⟨31, 31, .ro, (.const 0), .any⟩, ⟨30, 30, .ro, (.const 0), .any⟩, ⟨8, 0, .ro, (.const 0), .any⟩] },
  { base := Reg.EGR_ALARM_BUDGET, count := 1, stride := 0x10,
    fields := [⟨15, 0, .rw, .budget, .any⟩] },
  { base := Reg.EGR_GRANTS, count := 1, stride := 0x10,
    fields := [⟨31, 0, .rc, (.const 0), .any⟩] }]

/-- The EVR_ registers of Borlu-D. -/
def regRowsDEVR : List RegRow := [
  { base := Reg.EVR_CTL,
    fields := [] },
  { base := Reg.EVR_STS,
    fields := [⟨31, 31, .w1c, (.const 0), .any⟩, ⟨1, 1, .w1c, (.const 0), .any⟩, ⟨0, 0, .w1c, (.const 0), .any⟩] },
  { base := Reg.EVR_HOURS,
    fields := [⟨31, 0, .ro, (.const 0), .any⟩] },
  { base := Reg.EVR_PCYC,
    fields := [⟨23, 0, .ro, (.const 0xFFFFFF), .any⟩] },
  { base := Reg.EVR_RD_SEL,
    fields := [⟨31, 30, .rw, (.const 0), (.atMost 2)⟩, ⟨29, 24, .rw, (.const 0), .any⟩, ⟨17, 0, .rw, (.const 0), .any⟩] },
  { base := Reg.EVR_HEAD,
    fields := [⟨17, 0, .ro, (.const 0), .any⟩] },
  { base := Reg.EVR_WRITTEN,
    fields := [⟨31, 0, .rc, (.const 0), .any⟩] },
  { base := Reg.EVR_OVERWRITTEN,
    fields := [⟨31, 0, .rc, (.const 0), .any⟩] },
  { base := Reg.EVR_BAD,
    fields := [⟨31, 0, .rc, (.const 0), .any⟩] },
  { base := Reg.EVR_FLASH_WR,
    fields := [⟨31, 0, .rc, (.const 0), .any⟩] },
  { base := Reg.EVR_FLASH_DROP,
    fields := [⟨31, 0, .rc, (.const 0), .any⟩] },
  { base := Reg.EVR_RD_DATA, count := 8,
    fields := [⟨31, 0, .ro, (.const 0), .any⟩] }]

/-- The PWR_ registers of Borlu-D. -/
def regRowsDPWR : List RegRow := [
  { base := Reg.PWR_STS,
    fields := [⟨31, 31, .w1c, (.const 0), .any⟩, ⟨8, 8, .ro, (.const 0), .any⟩, ⟨7, 7, .w1c, (.const 0), .any⟩, ⟨6, 6, .w1c, (.const 0), .any⟩, ⟨4, 4, .ro, (.const 0), .any⟩, ⟨3, 2, .ro, (.const 0), .any⟩, ⟨1, 0, .ro, (.const 0), .any⟩] },
  { base := Reg.PWR_T_LO,
    fields := [⟨31, 0, .ro, (.const 0), .any⟩] },
  { base := Reg.PWR_T_HI,
    fields := [⟨31, 0, .ro, (.const 0), .any⟩] },
  { base := Reg.PWR_SNS_CTL,
    fields := [⟨3, 0, .rw, (.const 6), (.atMost 8)⟩] },
  { base := Reg.PWR_THERM_CNT,
    fields := [⟨31, 0, .rc, (.const 0), .any⟩] },
  { base := Reg.PWR_SNS_MISS,
    fields := [⟨31, 0, .rc, (.const 0), .any⟩] },
  { base := Reg.PWR_SNS_CFG, count := 32,
    fields := [⟨31, 31, .rw, .snsEn, .any⟩, ⟨30, 28, .rw, .snsKind, (.atMost 5)⟩, ⟨23, 16, .rw, (.const 4), .any⟩, ⟨15, 0, .rw, .snsHigh, .any⟩] },
  { base := Reg.PWR_SNS_VAL, count := 32,
    fields := [⟨31, 31, .ro, (.const 0), .any⟩, ⟨30, 30, .ro, (.const 0), .any⟩, ⟨15, 0, .ro, (.const 0), .any⟩] }]

/-- The ID_ registers of Borlu-T. -/
def regRowsTID : List RegRow := [
  { base := Reg.ID_BLOCK,
    fields := [⟨31, 16, .ro, (.const 0x424C), .any⟩, ⟨15, 8, .ro, (.const 4), .any⟩, ⟨7, 0, .ro, (.const 1), .any⟩] },
  { base := Reg.ID_BUILD,
    fields := [⟨7, 0, .ro, (.const 0x54), .any⟩] },
  { base := Reg.ID_DA,
    fields := [⟨31, 13, .ro, (.const 0), .any⟩, ⟨12, 8, .ro, (.const 0), .any⟩] },
  { base := Reg.ID_STRAP,
    fields := [⟨4, 0, .ro, (.const 0), .any⟩] },
  { base := Reg.ID_CFG,
    fields := [⟨31, 31, .ro, (.const 0), .any⟩, ⟨30, 30, .ro, (.const 0), .any⟩, ⟨27, 24, .ro, (.const 0), .any⟩, ⟨1, 0, .ro, (.const 0), .any⟩] },
  { base := Reg.ID_CFG_SEQ,
    fields := [⟨31, 0, .ro, (.const 0), .any⟩] }]

/-- The TIM_ registers of Borlu-T. -/
def regRowsTTIM : List RegRow := [
  { base := Reg.TIM_CTL,
    fields := [⟨15, 12, .rw, (.const 0), (.atMost 7)⟩, ⟨11, 11, .rw, (.const 0), .any⟩, ⟨10, 10, .rw, (.const 1), .any⟩, ⟨9, 9, .rw, (.const 0), .any⟩, ⟨8, 8, .rw, (.const 0), .any⟩, ⟨1, 0, .rw, (.const 0), (.atMost 2)⟩] },
  { base := Reg.TIM_STS,
    fields := [⟨31, 31, .w1c, (.const 0), .any⟩, ⟨9, 8, .ro, (.const 0), .any⟩, ⟨7, 7, .w1c, (.const 0), .any⟩, ⟨6, 6, .w1c, (.const 0), .any⟩, ⟨5, 5, .w1c, (.const 0), .any⟩, ⟨4, 4, .w1c, (.const 0), .any⟩, ⟨3, 3, .w1c, (.const 0), .any⟩, ⟨2, 2, .ro, (.const 0), .any⟩, ⟨1, 1, .ro, (.const 1), .any⟩, ⟨0, 0, .ro, (.const 0), .any⟩] },
  { base := Reg.TIM_FT_LO,
    fields := [⟨31, 0, .ro, (.const 0), .any⟩] },
  { base := Reg.TIM_FT_HI,
    fields := [⟨31, 0, .ro, (.const 0), .any⟩] },
  { base := Reg.TIM_PULSE_FT_LO,
    fields := [⟨31, 0, .ro, (.const 0), .any⟩] },
  { base := Reg.TIM_PULSE_FT_HI,
    fields := [⟨31, 0, .ro, (.const 0), .any⟩] },
  { base := Reg.TIM_INCR_INT,
    fields := [⟨7, 0, .rw, (.const 0x28), .any⟩] },
  { base := Reg.TIM_INCR_FRAC,
    fields := [⟨31, 0, .rw, (.const 0), .any⟩] },
  { base := Reg.TIM_STEP_LO,
    fields := [⟨31, 0, .wo, (.const 0), .any⟩] },
  { base := Reg.TIM_STEP_HI,
    fields := [⟨31, 0, .wo, (.const 0), .any⟩] },
  { base := Reg.TIM_HOLD_MAX,
    fields := [⟨15, 0, .rw, (.const 0x1000), .any⟩] },
  { base := Reg.TIM_HOLD_LEFT,
    fields := [⟨31, 0, .ro, (.const 0), .any⟩] },
  { base := Reg.TIM_BCN,
    fields := [⟨15, 8, .rw, (.const 4), .nonzero⟩, ⟨7, 0, .rw, (.const 8), .nonzero⟩] },
  { base := Reg.TIM_BCN_LIM,
    fields := [⟨15, 0, .rw, (.const 0x20), .any⟩] },
  { base := Reg.TIM_BCN_ERR,
    fields := [⟨31, 0, .ro, (.const 0), .any⟩] },
  { base := Reg.TIM_BCN_ERR_MAX,
    fields := [⟨31, 0, .rc, (.const 0), .any⟩] },
  { base := Reg.TIM_TEMPER,
    fields := [⟨31, 31, .wo, (.const 0), .any⟩, ⟨15, 8, .rw, (.const 0x40), .any⟩, ⟨5, 0, .rw, (.const 0), .any⟩] },
  { base := Reg.TIM_TEMPER_LIM,
    fields := [⟨15, 0, .rw, (.const 0x10), .any⟩] },
  { base := Reg.TIM_TEMPER_RES,
    fields := [⟨31, 31, .w1c, (.const 0), .any⟩, ⟨30, 30, .w1c, (.const 0), .any⟩, ⟨29, 28, .ro, (.const 0), .any⟩, ⟨27, 16, .ro, (.const 0), .any⟩, ⟨15, 0, .ro, (.const 0), .any⟩] },
  { base := Reg.TIM_LINK_DELAY, count := 40,
    fields := [⟨31, 31, .ro, (.const 0), .any⟩, ⟨30, 30, .ro, (.const 0), .any⟩, ⟨15, 0, .ro, (.const 0), .any⟩] },
  { base := Reg.TIM_LINK_ASYM, count := 40,
    fields := [⟨15, 0, .rw, (.const 0), .any⟩] }]

/-- The PTP_ registers of Borlu-T. -/
def regRowsTPTP : List RegRow := [
  { base := Reg.PTP_CTL,
    fields := [⟨5, 4, .rw, (.const 0), .any⟩, ⟨3, 2, .rw, (.const 0), .any⟩, ⟨1, 1, .rw, (.const 1), .any⟩, ⟨0, 0, .rw, (.const 0), .any⟩] },
  { base := Reg.PTP_STS,
    fields := [⟨31, 31, .w1c, (.const 0), .any⟩, ⟨5, 4, .w1c, (.const 0), .any⟩, ⟨3, 2, .w1c, (.const 0), .any⟩, ⟨1, 0, .w1c, (.const 0), .any⟩] },
  { base := Reg.PTP_ONESTEP_TOL,
    fields := [⟨15, 0, .rw, (.const 8), .any⟩] },
  { base := Reg.PTP_TS_SEL,
    fields := [⟨1, 0, .rw, (.const 0), .any⟩] },
  { base := Reg.PTP_TS_LO,
    fields := [⟨31, 0, .ro, (.const 0), .any⟩] },
  { base := Reg.PTP_TS_HI,
    fields := [⟨31, 0, .ro, (.const 0), .any⟩] },
  { base := Reg.PTP_TS_META,
    fields := [⟨31, 31, .ro, (.const 0), .any⟩, ⟨30, 30, .ro, (.const 0), .any⟩, ⟨29, 28, .ro, (.const 0), .any⟩, ⟨27, 24, .ro, (.const 0), .any⟩, ⟨23, 16, .ro, (.const 0), .any⟩, ⟨15, 0, .ro, (.const 0), .any⟩] },
  { base := Reg.PTP_TS_OVFL,
    fields := [⟨15, 0, .rc, (.const 0), .any⟩] },
  { base := Reg.PTP_EPOCH_SEC_LO,
    fields := [⟨31, 0, .ro, (.const 0), .any⟩] },
  { base := Reg.PTP_EPOCH_SEC_HI,
    fields := [⟨15, 0, .ro, (.const 0), .any⟩] },
  { base := Reg.PTP_EPOCH_NS,
    fields := [⟨29, 0, .ro, (.const 0), .any⟩] },
  { base := Reg.PTP_LAT_TX, count := 2, stride := 0x40,
    fields := [⟨15, 0, .rw, (.const 0), .any⟩] },
  { base := Reg.PTP_LAT_RX, count := 2, stride := 0x40,
    fields := [⟨15, 0, .rw, (.const 0), .any⟩] },
  { base := Reg.PTP_TXPATH, count := 2, stride := 0x40,
    fields := [⟨15, 0, .rw, (.const 0), .any⟩] },
  { base := Reg.PTP_ASYM, count := 2, stride := 0x40,
    fields := [⟨15, 0, .rw, (.const 0), .any⟩] },
  { base := Reg.PTP_TLQ_CTL, count := 2, stride := 0x40,
    fields := [⟨0, 0, .rw, (.const 0), .any⟩] },
  { base := Reg.PTP_TLQ_GUARD, count := 2, stride := 0x40,
    fields := [⟨15, 0, .rw, (.const 0x800), .any⟩] },
  { base := Reg.PTP_TLQ_TOL, count := 2, stride := 0x40,
    fields := [⟨15, 0, .rw, (.const 0x28), .any⟩] },
  { base := Reg.PTP_TLQ_TIME_LO, count := 2, stride := 0x40,
    fields := [⟨31, 0, .rw, (.const 0), .any⟩] },
  { base := Reg.PTP_TLQ_TIME_HI, count := 2, stride := 0x40,
    fields := [⟨31, 0, .rw, (.const 0), .any⟩] },
  { base := Reg.PTP_TLQ_PUSH, count := 2, stride := 0x40,
    fields := [⟨31, 28, .wo, (.const 0), .any⟩, ⟨11, 0, .wo, (.const 0), .any⟩] },
  { base := Reg.PTP_TLQ_STS, count := 2, stride := 0x40,
    fields := [⟨31, 16, .rc, (.const 0), .any⟩, ⟨15, 8, .rc, (.const 0), .any⟩, ⟨4, 0, .ro, (.const 0), .any⟩] }]

/-- The LOF_ registers of Borlu-T. -/
def regRowsTLOF : List RegRow := [
  { base := Reg.LOF_CTL,
    fields := [⟨3, 3, .rw, (.const 0), .any⟩, ⟨1, 0, .rw, (.const 1), (.atMost 2)⟩] },
  { base := Reg.LOF_STS,
    fields := [⟨31, 31, .w1c, (.const 0), .any⟩, ⟨3, 3, .w1c, (.const 0), .any⟩, ⟨2, 2, .w1c, (.const 0), .any⟩, ⟨1, 1, .w1c, (.const 0), .any⟩] },
  { base := Reg.LOF_IN_LO,
    fields := [⟨31, 0, .ro, (.const 0), .any⟩] },
  { base := Reg.LOF_IN_HI,
    fields := [⟨31, 0, .ro, (.const 0), .any⟩] },
  { base := Reg.LOF_OUT_LO,
    fields := [⟨31, 0, .ro, (.const 0), .any⟩] },
  { base := Reg.LOF_OUT_HI,
    fields := [⟨31, 0, .ro, (.const 0), .any⟩] },
  { base := Reg.LOF_RAW,
    fields := [⟨31, 0, .rc, (.const 0), .any⟩] },
  { base := Reg.LOF_DEC_CNT,
    fields := [⟨29, 24, .rc, (.const 0), .any⟩, ⟨23, 18, .rc, (.const 0), .any⟩, ⟨17, 12, .rc, (.const 0), .any⟩, ⟨11, 6, .rc, (.const 0), .any⟩, ⟨5, 0, .rc, (.const 0), .any⟩] },
  { base := Reg.LOF_ERR_INFO,
    fields := [⟨31, 31, .w1c, (.const 0), .any⟩, ⟨30, 30, .w1c, (.const 0), .any⟩, ⟨29, 24, .ro, (.const 0), .any⟩, ⟨23, 8, .ro, (.const 0), .any⟩, ⟨7, 0, .ro, (.const 0), .any⟩] },
  { base := Reg.LOF_ERR_OFS,
    fields := [⟨16, 0, .ro, (.const 0), .any⟩] },
  { base := Reg.LOF_ERR_SEQ,
    fields := [⟨31, 0, .ro, (.const 0), .any⟩] }]

/-- The FRM_ registers of Borlu-T. -/
def regRowsTFRM : List RegRow := [
  { base := Reg.FRM_CTL,
    fields := [⟨0, 0, .rw, (.const 1), .any⟩] },
  { base := Reg.FRM_STS,
    fields := [⟨31, 31, .w1c, (.const 0), .any⟩, ⟨6, 6, .w1c, (.const 0), .any⟩, ⟨5, 5, .w1c, (.const 0), .any⟩, ⟨4, 4, .w1c, (.const 0), .any⟩, ⟨3, 3, .w1c, (.const 0), .any⟩, ⟨2, 2, .w1c, (.const 0), .any⟩, ⟨1, 1, .w1c, (.const 0), .any⟩, ⟨0, 0, .w1c, (.const 0), .any⟩] },
  { base := Reg.FRM_TX,
    fields := [⟨31, 0, .rc, (.const 0), .any⟩] },
  { base := Reg.FRM_RX,
    fields := [⟨31, 0, .rc, (.const 0), .any⟩] },
  { base := Reg.FRM_CRC_ERR,
    fields := [⟨31, 0, .rc, (.const 0), .any⟩] },
  { base := Reg.FRM_BAD,
    fields := [⟨31, 0, .rc, (.const 0), .any⟩] },
  { base := Reg.FRM_DUP,
    fields := [⟨31, 0, .rc, (.const 0), .any⟩] },
  { base := Reg.FRM_STALE,
    fields := [⟨31, 0, .rc, (.const 0), .any⟩] },
  { base := Reg.FRM_ANNEX,
    fields := [⟨31, 0, .rc, (.const 0), .any⟩] },
  { base := Reg.FRM_TOO_LATE,
    fields := [⟨31, 0, .rc, (.const 0), .any⟩] },
  { base := Reg.FRM_FUTURE,
    fields := [⟨31, 0, .rc, (.const 0), .any⟩] },
  { base := Reg.FRM_CTX, count := 64,
    fields := [⟨31, 31, .ro, (.const 0), .any⟩, ⟨30, 27, .ro, (.const 0), .any⟩, ⟨26, 23, .ro, (.const 0), .any⟩, ⟨11, 0, .ro, (.const 0), .any⟩] },
  { base := Reg.FRM_ALLOW, count := 64,
    fields := [⟨31, 24, .ro, (.const 0), .any⟩, ⟨23, 16, .ro, (.const 0), .any⟩, ⟨15, 8, .ro, (.const 0), .any⟩, ⟨7, 0, .ro, (.const 0), .any⟩] },
  { base := Reg.FRM_SEQ, count := 64,
    fields := [⟨31, 0, .ro, (.const 0), .any⟩] },
  { base := Reg.FRM_EPOCH, count := 64,
    fields := [⟨31, 0, .ro, (.const 0), .any⟩] }]

/-- The KND_ registers of Borlu-T. -/
def regRowsTKND : List RegRow := [
  { base := Reg.KND_STS,
    fields := [⟨31, 31, .w1c, (.const 0), .any⟩, ⟨4, 4, .ro, (.const 0), .any⟩, ⟨3, 3, .w1c, (.const 0), .any⟩, ⟨2, 2, .w1c, (.const 0), .any⟩, ⟨1, 1, .w1c, (.const 0), .any⟩, ⟨0, 0, .w1c, (.const 0), .any⟩] },
  { base := Reg.KND_MAP_LO,
    fields := [⟨31, 0, .ro, (.const 0x76543210), .any⟩] },
  { base := Reg.KND_MAP_HI,
    fields := [⟨31, 28, .ro, (.const 0xF), .any⟩, ⟨27, 0, .ro, (.const 0xEDCBA98), .any⟩] },
  { base := Reg.KND_ERR,
    fields := [⟨31, 0, .rc, (.const 0), .any⟩] },
  { base := Reg.KND_SAT_CNT,
    fields := [⟨31, 0, .rc, (.const 0), .any⟩] },
  { base := Reg.KND_NAN_CNT,
    fields := [⟨31, 0, .rc, (.const 0), .any⟩] },
  { base := Reg.KND_WIDE_CNT,
    fields := [⟨31, 0, .rc, (.const 0), .any⟩] },
  { base := Reg.KND_OPS_LO,
    fields := [⟨31, 0, .ro, (.const 0), .any⟩] },
  { base := Reg.KND_OPS_HI,
    fields := [⟨31, 0, .ro, (.const 0), .any⟩] }]

/-- The MBR_ registers of Borlu-T. -/
def regRowsTMBR : List RegRow := [
  { base := Reg.MBR_CTL,
    fields := [⟨1, 1, .rw, (.const 1), .any⟩, ⟨0, 0, .rw, (.const 1), .any⟩] },
  { base := Reg.MBR_EMBER,
    fields := [⟨31, 24, .rw, (.const 0x20), .any⟩, ⟨23, 16, .rw, (.const 3), .any⟩, ⟨15, 8, .rw, (.const 4), .any⟩, ⟨7, 0, .rw, (.const 4), .nonzero⟩] },
  { base := Reg.MBR_HEARTH,
    fields := [⟨7, 0, .rw, (.const 4), .nonzero⟩] },
  { base := Reg.MBR_STS,
    fields := [⟨31, 31, .w1c, (.const 0), .any⟩, ⟨5, 5, .ro, (.const 0), .any⟩, ⟨4, 4, .w1c, (.const 0), .any⟩, ⟨3, 3, .w1c, (.const 0), .any⟩, ⟨2, 2, .w1c, (.const 0), .any⟩, ⟨1, 1, .w1c, (.const 0), .any⟩, ⟨0, 0, .w1c, (.const 0), .any⟩] },
  { base := Reg.MBR_RANK_SEL,
    fields := [⟨29, 24, .rw, (.const 0), .any⟩, ⟨17, 0, .rw, (.const 0), .any⟩] },
  { base := Reg.MBR_RANK_STS,
    fields := [⟨31, 29, .ro, (.const 5), .any⟩, ⟨28, 25, .ro, (.const 0), .any⟩, ⟨24, 17, .ro, (.const 0), .any⟩] },
  { base := Reg.MBR_SWITCH,
    fields := [⟨15, 8, .ro, (.const 0), .any⟩, ⟨2, 0, .ro, (.const 0), .any⟩] },
  { base := Reg.MBR_REFUSED,
    fields := [⟨31, 0, .rc, (.const 0), .any⟩] },
  { base := Reg.MBR_LATE_COMMIT,
    fields := [⟨31, 0, .rc, (.const 0), .any⟩] },
  { base := Reg.MBR_LATE_ACK,
    fields := [⟨31, 0, .rc, (.const 0), .any⟩] },
  { base := Reg.MBR_TRANSITIONS,
    fields := [⟨31, 0, .rc, (.const 0), .any⟩] },
  { base := Reg.MBR_RETIRED_RX,
    fields := [⟨31, 0, .rc, (.const 0), .any⟩] },
  { base := Reg.MBR_CTX, count := 64,
    fields := [⟨31, 29, .ro, (.const 0), .any⟩, ⟨28, 25, .ro, (.const 0), .any⟩, ⟨24, 24, .ro, (.const 0), .any⟩, ⟨15, 0, .ro, (.const 0), .any⟩] },
  { base := Reg.MBR_CTX_RANKS, count := 64,
    fields := [⟨18, 0, .ro, (.const 0), .any⟩] },
  { base := Reg.MBR_STATE_CNT, count := 64,
    fields := [⟨29, 24, .ro, (.const 0), .any⟩, ⟨23, 18, .ro, (.const 0), .any⟩, ⟨17, 12, .ro, (.const 0), .any⟩, ⟨11, 6, .ro, (.const 0), .any⟩, ⟨5, 0, .ro, (.const 0), .any⟩] },
  { base := Reg.MBR_ROLE, count := 4,
    fields := [⟨31, 30, .ro, (.const 0), .any⟩, ⟨29, 28, .ro, (.const 0), .any⟩] },
  { base := Reg.MBR_GEN, count := 4,
    fields := [⟨31, 0, .ro, (.const 0), .any⟩] }]

/-- The FTZ_ registers of Borlu-T. -/
def regRowsTFTZ : List RegRow := [
  { base := Reg.FTZ_STS,
    fields := [⟨31, 31, .w1c, (.const 0), .any⟩, ⟨4, 4, .w1c, (.const 0), .any⟩, ⟨3, 3, .w1c, (.const 0), .any⟩, ⟨2, 2, .w1c, (.const 0), .any⟩, ⟨1, 1, .w1c, (.const 0), .any⟩, ⟨0, 0, .w1c, (.const 0), .any⟩] },
  { base := Reg.FTZ_AUDIT, staging := .whileActive,
    fields := [⟨31, 31, .rw, (.const 1), .any⟩, ⟨4, 0, .rw, (.const 0xA), (.within 4 20)⟩] },
  { base := Reg.FTZ_AUDIT_SALT, staging := .whileActive,
    fields := [⟨31, 0, .rw, (.const 0), .any⟩] },
  { base := Reg.FTZ_AUDIT_LIM, staging := .whileActive,
    fields := [⟨31, 16, .rw, (.const 0), .any⟩, ⟨15, 0, .rw, (.const 0x40), .any⟩] },
  { base := Reg.FTZ_DET_SEL,
    fields := [⟨29, 24, .rw, (.const 0), .any⟩, ⟨17, 0, .rw, (.const 0), .any⟩] },
  { base := Reg.FTZ_DET_IDX,
    fields := [⟨17, 16, .ro, (.const 3), .any⟩, ⟨9, 0, .rw, (.const 0), .any⟩] },
  { base := Reg.FTZ_DET_SPOS,
    fields := [⟨31, 31, .ro, (.const 0), .any⟩, ⟨30, 0, .ro, (.const 0), .any⟩] },
  { base := Reg.FTZ_DET_SNEG,
    fields := [⟨31, 31, .ro, (.const 0), .any⟩, ⟨30, 0, .ro, (.const 0), .any⟩] },
  { base := Reg.FTZ_VECTORS,
    fields := [⟨31, 0, .rc, (.const 0), .any⟩] },
  { base := Reg.FTZ_LATE_VEC,
    fields := [⟨31, 0, .rc, (.const 0), .any⟩] },
  { base := Reg.FTZ_MISSING,
    fields := [⟨31, 0, .rc, (.const 0), .any⟩] },
  { base := Reg.FTZ_CLAMPS,
    fields := [⟨31, 0, .rc, (.const 0), .any⟩] },
  { base := Reg.FTZ_CUSUM_HOLD,
    fields := [⟨31, 0, .rc, (.const 0), .any⟩] },
  { base := Reg.FTZ_AUDITED,
    fields := [⟨31, 0, .rc, (.const 0), .any⟩] },
  { base := Reg.FTZ_TREE_FLIPS,
    fields := [⟨31, 0, .rc, (.const 0), .any⟩] },
  { base := Reg.FTZ_VERDICT_FLIPS,
    fields := [⟨31, 0, .rc, (.const 0), .any⟩] },
  { base := Reg.FTZ_ACR_ALARMS,
    fields := [⟨31, 0, .rc, (.const 0), .any⟩] }]

/-- The ENS_ registers of Borlu-T. -/
def regRowsTENS : List RegRow := [
  { base := Reg.ENS_CTL, staging := .whileActive,
    fields := [⟨1, 1, .rw, (.const 1), .any⟩, ⟨0, 0, .rw, (.const 1), .any⟩] },
  { base := Reg.ENS_STS,
    fields := [⟨31, 31, .w1c, (.const 0), .any⟩, ⟨7, 7, .ro, (.const 0), .any⟩, ⟨6, 6, .ro, (.const 0), .any⟩, ⟨5, 5, .w1c, (.const 0), .any⟩, ⟨4, 4, .w1c, (.const 0), .any⟩, ⟨3, 3, .w1c, (.const 0), .any⟩, ⟨2, 2, .w1c, (.const 0), .any⟩, ⟨1, 1, .w1c, (.const 0), .any⟩, ⟨0, 0, .w1c, (.const 0), .any⟩] },
  { base := Reg.ENS_STORE_SEL,
    fields := [⟨13, 0, .rw, (.const 0), .any⟩] },
  { base := Reg.ENS_STORE_STS,
    fields := [⟨31, 30, .ro, (.const 0), .any⟩, ⟨23, 16, .ro, (.const 0), .any⟩, ⟨15, 0, .ro, (.const 0), .any⟩] },
  { base := Reg.ENS_STORE_FREE,
    fields := [⟨14, 0, .ro, (.const 0x4000), .any⟩] },
  { base := Reg.ENS_DIGEST_SEL,
    fields := [⟨29, 24, .rw, (.const 0), .any⟩, ⟨3, 0, .rw, (.const 0), .any⟩] },
  { base := Reg.ENS_RUN_SEL,
    fields := [⟨31, 28, .rw, (.const 0), .any⟩, ⟨23, 18, .rw, (.const 0), .any⟩, ⟨17, 0, .rw, (.const 0), .any⟩] },
  { base := Reg.ENS_RUN_STS,
    fields := [⟨31, 31, .ro, (.const 0), .any⟩, ⟨7, 0, .ro, (.const 0), .any⟩] },
  { base := Reg.ENS_EVALS_LO,
    fields := [⟨31, 0, .ro, (.const 0), .any⟩] },
  { base := Reg.ENS_EVALS_HI,
    fields := [⟨31, 0, .ro, (.const 0), .any⟩] },
  { base := Reg.ENS_VERDICTS,
    fields := [⟨31, 0, .rc, (.const 0), .any⟩] },
  { base := Reg.ENS_ALARMS,
    fields := [⟨31, 0, .rc, (.const 0), .any⟩] },
  { base := Reg.ENS_SAT_CNT,
    fields := [⟨31, 0, .rc, (.const 0), .any⟩] },
  { base := Reg.ENS_INVALID,
    fields := [⟨31, 0, .rc, (.const 0), .any⟩] },
  { base := Reg.ENS_DIGESTS,
    fields := [⟨31, 0, .rc, (.const 0), .any⟩] },
  { base := Reg.ENS_AUDIT_SKIP,
    fields := [⟨31, 0, .rc, (.const 0), .any⟩] },
  { base := Reg.ENS_STORE_CE,
    fields := [⟨31, 0, .rc, (.const 0), .any⟩] },
  { base := Reg.ENS_DIGEST, count := 4,
    fields := [⟨31, 0, .ro, (.const 0), .any⟩] },
  { base := Reg.ENS_LANE_MAP, count := 32,
    fields := [⟨29, 24, .ro, (.lane 3), .any⟩, ⟨21, 16, .ro, (.lane 2), .any⟩, ⟨13, 8, .ro, (.lane 1), .any⟩, ⟨5, 0, .ro, (.lane 0), .any⟩] },
  { base := Reg.ENS_LANE_FAIL, count := 4,
    fields := [⟨31, 0, .ro, (.const 0), .any⟩] },
  { base := Reg.ENS_LANE_STS, count := 4,
    fields := [⟨31, 30, .ro, (.const 2), .any⟩, ⟨29, 29, .ro, (.const 0), .any⟩, ⟨28, 28, .ro, (.const 0), .any⟩, ⟨1, 0, .ro, (.const 0), .any⟩] }]

/-- The RUL_ registers of Borlu-T. -/
def regRowsTRUL : List RegRow := [
  { base := Reg.RUL_CTL,
    fields := [⟨0, 0, .rw, (.const 1), .any⟩] },
  { base := Reg.RUL_STS,
    fields := [⟨31, 31, .w1c, (.const 0), .any⟩, ⟨7, 4, .ro, (.const 0), .any⟩, ⟨3, 3, .ro, (.const 0), .any⟩, ⟨2, 2, .w1c, (.const 0), .any⟩, ⟨1, 1, .w1c, (.const 0), .any⟩] },
  { base := Reg.RUL_GRP_SEL,
    fields := [⟨11, 0, .rw, (.const 0), .any⟩] },
  { base := Reg.RUL_GRP_STS,
    fields := [⟨31, 30, .ro, (.const 0), .any⟩, ⟨29, 28, .ro, (.const 0), .any⟩, ⟨27, 14, .ro, (.const 0), .any⟩, ⟨13, 0, .ro, (.const 0), .any⟩] },
  { base := Reg.RUL_GRP_ID,
    fields := [⟨23, 16, .ro, (.const 0), .any⟩, ⟨15, 0, .ro, (.const 0), .any⟩] },
  { base := Reg.RUL_SEARCH_LO,
    fields := [⟨31, 0, .ro, (.const 0), .any⟩] },
  { base := Reg.RUL_SEARCH_HI,
    fields := [⟨31, 0, .ro, (.const 0), .any⟩] },
  { base := Reg.RUL_NOMATCH,
    fields := [⟨31, 0, .rc, (.const 0), .any⟩] },
  { base := Reg.RUL_CE,
    fields := [⟨31, 0, .rc, (.const 0), .any⟩] },
  { base := Reg.RUL_SCRUBBED,
    fields := [⟨31, 0, .rc, (.const 0), .any⟩] },
  { base := Reg.RUL_BANK_FREE, count := 4,
    fields := [⟨14, 0, .ro, (.const 0x4000), .any⟩] }]

/-- The ANV_ registers of Borlu-T. -/
def regRowsTANV : List RegRow := [
  { base := Reg.ANV_CTL, staging := .whileActive,
    fields := [⟨24, 16, .rw, (.const 0), .any⟩, ⟨15, 8, .rw, (.const 0x10), .any⟩, ⟨1, 1, .rw, (.const 1), .any⟩, ⟨0, 0, .rw, (.const 1), .any⟩] },
  { base := Reg.ANV_STS,
    fields := [⟨31, 31, .w1c, (.const 0), .any⟩, ⟨5, 5, .ro, (.const 0), .any⟩, ⟨4, 4, .w1c, (.const 0), .any⟩, ⟨3, 3, .w1c, (.const 0), .any⟩, ⟨2, 2, .w1c, (.const 0), .any⟩, ⟨1, 1, .w1c, (.const 0), .any⟩, ⟨0, 0, .w1c, (.const 0), .any⟩] },
  { base := Reg.ANV_FAIL,
    fields := [⟨31, 0, .ro, (.const 0), .any⟩] },
  { base := Reg.ANV_LSTS,
    fields := [⟨31, 30, .ro, (.const 2), .any⟩, ⟨28, 28, .ro, (.const 0), .any⟩, ⟨1, 0, .ro, (.const 0), .any⟩] },
  { base := Reg.ANV_STRAG_SEL,
    fields := [⟨29, 24, .rw, (.const 0), .any⟩, ⟨17, 0, .rw, (.const 0), .any⟩] },
  { base := Reg.ANV_STRAG_STS,
    fields := [⟨31, 31, .ro, (.const 0), .any⟩, ⟨15, 0, .ro, (.const 0), .any⟩] },
  { base := Reg.ANV_STRAG_SCORE,
    fields := [⟨31, 0, .ro, (.const 0xFFFFFFFF), .any⟩] },
  { base := Reg.ANV_LOAVES,
    fields := [⟨31, 0, .rc, (.const 0), .any⟩] },
  { base := Reg.ANV_SKIPPED,
    fields := [⟨31, 0, .rc, (.const 0), .any⟩] },
  { base := Reg.ANV_FAULTED,
    fields := [⟨31, 0, .rc, (.const 0), .any⟩] },
  { base := Reg.ANV_LOST,
    fields := [⟨31, 0, .rc, (.const 0), .any⟩] },
  { base := Reg.ANV_PORT, count := 32,
    fields := [⟨12, 8, .ro, (.const 0), .any⟩, ⟨7, 4, .ro, (.const 0), .any⟩, ⟨1, 0, .ro, (.const 0), .any⟩] },
  { base := Reg.ANV_MAP, count := 8,
    fields := [⟨29, 24, .ro, (.lane 3), .any⟩, ⟨21, 16, .ro, (.lane 2), .any⟩, ⟨13, 8, .ro, (.lane 1), .any⟩, ⟨5, 0, .ro, (.lane 0), .any⟩] },
  { base := Reg.ANV_SCAN, count := 16,
    fields := [⟨31, 31, .ro, (.const 0), .any⟩, ⟨26, 24, .ro, (.const 0), .any⟩, ⟨17, 16, .ro, (.const 0), .any⟩, ⟨4, 0, .ro, (.const 0), .any⟩] },
  { base := Reg.ANV_DEV, count := 9,
    fields := [⟨31, 0, .rc, (.const 0), .any⟩] }]

/-- The WIT_ registers of Borlu-T. -/
def regRowsTWIT : List RegRow := [
  { base := Reg.WIT_CTL, staging := .whileActive,
    fields := [⟨1, 1, .rw, (.const 1), .any⟩, ⟨0, 0, .rw, (.const 1), .any⟩] },
  { base := Reg.WIT_STS,
    fields := [⟨31, 31, .w1c, (.const 0), .any⟩, ⟨4, 4, .w1c, (.const 0), .any⟩, ⟨3, 3, .w1c, (.const 0), .any⟩, ⟨2, 2, .w1c, (.const 0), .any⟩, ⟨1, 1, .w1c, (.const 0), .any⟩, ⟨0, 0, .w1c, (.const 0), .any⟩] },
  { base := Reg.WIT_OPEN,
    fields := [⟨30, 16, .ro, (.const 0), .any⟩, ⟨6, 0, .ro, (.const 0), .any⟩] },
  { base := Reg.WIT_RX,
    fields := [⟨31, 0, .rc, (.const 0), .any⟩] },
  { base := Reg.WIT_VOTES,
    fields := [⟨31, 0, .rc, (.const 0), .any⟩] },
  { base := Reg.WIT_DISSENT,
    fields := [⟨31, 0, .rc, (.const 0), .any⟩] },
  { base := Reg.WIT_SPLIT,
    fields := [⟨31, 0, .rc, (.const 0), .any⟩] },
  { base := Reg.WIT_ABSENT,
    fields := [⟨31, 0, .rc, (.const 0), .any⟩] },
  { base := Reg.WIT_LATE,
    fields := [⟨31, 0, .rc, (.const 0), .any⟩] },
  { base := Reg.WIT_DUP,
    fields := [⟨31, 0, .rc, (.const 0), .any⟩] },
  { base := Reg.WIT_OVF,
    fields := [⟨31, 0, .rc, (.const 0), .any⟩] }]

/-- The PLN_ registers of Borlu-T. -/
def regRowsTPLN : List RegRow := [
  { base := Reg.PLN_CTL,
    fields := [⟨1, 1, .rw, (.const 1), .any⟩, ⟨0, 0, .rw, (.const 1), .any⟩] },
  { base := Reg.PLN_STS,
    fields := [⟨31, 31, .w1c, (.const 0), .any⟩, ⟨4, 4, .ro, (.const 0), .any⟩, ⟨3, 3, .ro, (.const 0), .any⟩, ⟨2, 2, .w1c, (.const 0), .any⟩, ⟨1, 1, .w1c, (.const 0), .any⟩, ⟨0, 0, .w1c, (.const 0), .any⟩] },
  { base := Reg.PLN_PHASE,
    fields := [⟨31, 31, .ro, (.const 0), .any⟩, ⟨2, 0, .ro, (.const 0), .any⟩] },
  { base := Reg.PLN_ROW,
    fields := [⟨31, 16, .ro, (.const 0), .any⟩, ⟨12, 0, .ro, (.const 0), .any⟩] },
  { base := Reg.PLN_SCHED, staging := .always,
    fields := [⟨5, 4, .ro, (.const 0), .any⟩, ⟨1, 1, .rw, (.const 0), .any⟩, ⟨0, 0, .ro, (.const 0), .any⟩] },
  { base := Reg.PLN_PLAN_SEL,
    fields := [⟨5, 0, .rw, (.const 0), .any⟩] },
  { base := Reg.PLN_PLAN_STS,
    fields := [⟨31, 30, .ro, (.const 0), .any⟩, ⟨7, 0, .ro, (.const 0), .any⟩] },
  { base := Reg.PLN_CKPT,
    fields := [⟨15, 0, .rw, (.const 0x400), .any⟩] },
  { base := Reg.PLN_ROWS_LOST,
    fields := [⟨31, 0, .rc, (.const 0), .any⟩] },
  { base := Reg.PLN_CKPTS,
    fields := [⟨31, 0, .rc, (.const 0), .any⟩] },
  { base := Reg.PLN_REPLAYS,
    fields := [⟨31, 0, .rc, (.const 0), .any⟩] },
  { base := Reg.PLN_SCHED_DIGEST, count := 4,
    fields := [⟨31, 0, .ro, (.const 0), .any⟩] },
  { base := Reg.PLN_CTX, count := 64,
    fields := [⟨31, 31, .ro, (.const 0), .any⟩, ⟨30, 30, .ro, (.const 0), .any⟩, ⟨29, 24, .ro, (.const 0), .any⟩, ⟨15, 0, .ro, (.const 0), .any⟩] },
  { base := Reg.PLN_TXN_CTL,
    fields := [⟨31, 31, .wo, (.const 0), .any⟩, ⟨30, 30, .wo, (.const 0), .any⟩] },
  { base := Reg.PLN_TXN_CFT_LO,
    fields := [⟨31, 0, .rw, (.const 0), .any⟩] },
  { base := Reg.PLN_TXN_CFT_HI,
    fields := [⟨31, 0, .rw, (.const 0), .any⟩] },
  { base := Reg.PLN_TXN_STS,
    fields := [⟨31, 31, .w1c, (.const 0), .any⟩, ⟨30, 30, .ro, (.const 0), .any⟩, ⟨29, 29, .ro, (.const 0), .any⟩, ⟨28, 28, .w1c, (.const 0), .any⟩, ⟨27, 27, .w1c, (.const 0), .any⟩, ⟨23, 16, .ro, (.const 0), .any⟩, ⟨10, 0, .ro, (.const 0), .any⟩] },
  { base := Reg.PLN_TXN_SEQ,
    fields := [⟨31, 0, .ro, (.const 0), .any⟩] }]

/-- The HIS_ registers of Borlu-T. -/
def regRowsTHIS : List RegRow := [
  { base := Reg.HIS_CTL,
    fields := [⟨1, 1, .rw, (.const 1), .any⟩, ⟨0, 0, .rw, (.const 1), .any⟩] },
  { base := Reg.HIS_STS,
    fields := [⟨31, 31, .w1c, (.const 0), .any⟩, ⟨5, 5, .ro, (.const 0), .any⟩, ⟨4, 4, .ro, (.const 0), .any⟩, ⟨3, 3, .w1c, (.const 0), .any⟩, ⟨2, 2, .w1c, (.const 0), .any⟩, ⟨1, 1, .w1c, (.const 0), .any⟩, ⟨0, 0, .w1c, (.const 0), .any⟩] },
  { base := Reg.HIS_GRP_SEL,
    fields := [⟨5, 4, .rw, (.const 0), (.atMost 2)⟩, ⟨3, 0, .rw, (.const 0), .any⟩] },
  { base := Reg.HIS_GRP_DA, staging := .always,
    fields := [⟨31, 0, .rw, (.const 0), .any⟩] },
  { base := Reg.HIS_GRP_CTL,
    fields := [⟨31, 31, .wo, (.const 0), .any⟩, ⟨30, 29, .ro, (.const 0), .any⟩, ⟨15, 0, .rw, (.const 0), .any⟩] },
  { base := Reg.HIS_EC_RATE,
    fields := [⟨7, 0, .rw, (.const 0x2D), .any⟩] },
  { base := Reg.HIS_EC_HOLD,
    fields := [⟨15, 0, .rw, (.const 0x400), .any⟩] },
  { base := Reg.HIS_REBUILD_RATE,
    fields := [⟨7, 0, .rw, (.const 8), .any⟩] },
  { base := Reg.HIS_REF,
    fields := [⟨15, 0, .rw, (.const 0xC00), .any⟩] },
  { base := Reg.HIS_REGION_SEL,
    fields := [⟨3, 0, .rw, (.const 0), (.atMost 8)⟩] },
  { base := Reg.HIS_REGION_INFO,
    fields := [⟨31, 0, .ro, (.const 0x5DC0), .any⟩] },
  { base := Reg.HIS_OLDEST_FT_LO,
    fields := [⟨31, 0, .ro, (.const 0), .any⟩] },
  { base := Reg.HIS_OLDEST_FT_HI,
    fields := [⟨31, 0, .ro, (.const 0), .any⟩] },
  { base := Reg.HIS_OLDEST_WIN,
    fields := [⟨31, 0, .ro, (.const 0), .any⟩] },
  { base := Reg.HIS_SEG_SEALED,
    fields := [⟨31, 0, .rc, (.const 0), .any⟩] },
  { base := Reg.HIS_SEG_CODED,
    fields := [⟨31, 0, .rc, (.const 0), .any⟩] },
  { base := Reg.HIS_SEG_UNCODED,
    fields := [⟨31, 0, .rc, (.const 0), .any⟩] },
  { base := Reg.HIS_SEG_LOST,
    fields := [⟨31, 0, .rc, (.const 0), .any⟩] },
  { base := Reg.HIS_STRIPES,
    fields := [⟨31, 0, .rc, (.const 0), .any⟩] },
  { base := Reg.HIS_SHORT,
    fields := [⟨31, 0, .rc, (.const 0), .any⟩] },
  { base := Reg.HIS_PARITY_EVICT,
    fields := [⟨31, 0, .rc, (.const 0), .any⟩] },
  { base := Reg.HIS_DEGRADED_RD,
    fields := [⟨31, 0, .rc, (.const 0), .any⟩] },
  { base := Reg.HIS_UE_FIXED,
    fields := [⟨31, 0, .rc, (.const 0), .any⟩] },
  { base := Reg.HIS_UE_LOST,
    fields := [⟨31, 0, .rc, (.const 0), .any⟩] },
  { base := Reg.HIS_GRP, count := 3, staging := .always,
    fields := [⟨31, 31, .rw, (.const 0), .any⟩, ⟨19, 16, .rw, (.const 0), .any⟩, ⟨15, 0, .rw, (.const 0), .any⟩] }]

/-- The HST_ registers of Borlu-T. -/
def regRowsTHST : List RegRow := [
  { base := Reg.HST_CTL,
    fields := [⟨23, 16, .rw, (.const 0x3C), .any⟩, ⟨15, 0, .rw, (.const 0x40), .any⟩] },
  { base := Reg.HST_STS,
    fields := [⟨31, 31, .w1c, (.const 0), .any⟩, ⟨7, 7, .ro, (.const 1), .any⟩, ⟨6, 6, .ro, (.const 0), .any⟩, ⟨5, 5, .w1c, (.const 0), .any⟩, ⟨4, 4, .w1c, (.const 0), .any⟩, ⟨3, 3, .w1c, (.const 0), .any⟩, ⟨2, 2, .w1c, (.const 0), .any⟩, ⟨1, 1, .w1c, (.const 0), .any⟩, ⟨0, 0, .w1c, (.const 0), .any⟩] },
  { base := Reg.HST_OWN,
    fields := [⟨31, 31, .wo, (.const 0), .any⟩, ⟨30, 30, .wo, (.const 0), .any⟩, ⟨17, 16, .ro, (.const 0), .any⟩, ⟨15, 0, .ro, (.const 0), .any⟩] },
  { base := Reg.HST_OWN_ID_LO,
    fields := [⟨31, 0, .rw, (.const 0), .any⟩] },
  { base := Reg.HST_OWN_ID_HI,
    fields := [⟨31, 0, .rw, (.const 0), .any⟩] },
  { base := Reg.HST_EVT_BASE_LO,
    fields := [⟨31, 0, .rw, (.const 0), .any⟩] },
  { base := Reg.HST_EVT_BASE_HI,
    fields := [⟨31, 0, .rw, (.const 0), .any⟩] },
  { base := Reg.HST_EVT_CFG,
    fields := [⟨31, 31, .rw, (.const 0), .any⟩, ⟨28, 24, .rw, (.const 6), .any⟩, ⟨21, 16, .rw, (.const 0), .any⟩, ⟨15, 8, .rw, (.const 1), .any⟩, ⟨7, 0, .rw, (.const 0), .any⟩] },
  { base := Reg.HST_EVT_PTR,
    fields := [⟨31, 16, .ro, (.const 0), .any⟩, ⟨15, 0, .ro, (.const 0), .any⟩] },
  { base := Reg.HST_EXP_DEF,
    fields := [⟨1, 0, .rw, (.const 0), .any⟩] },
  { base := Reg.HST_DESC,
    fields := [⟨31, 0, .rc, (.const 0), .any⟩] },
  { base := Reg.HST_DUP,
    fields := [⟨31, 0, .rc, (.const 0), .any⟩] },
  { base := Reg.HST_DB_ERR,
    fields := [⟨31, 0, .rc, (.const 0), .any⟩] },
  { base := Reg.HST_EVT_COAL,
    fields := [⟨31, 0, .rc, (.const 0), .any⟩] },
  { base := Reg.HST_EVT_LOST,
    fields := [⟨31, 0, .rc, (.const 0), .any⟩] },
  { base := Reg.HST_EXP_GAP,
    fields := [⟨31, 0, .rc, (.const 0), .any⟩] },
  { base := Reg.HST_CMD_BASE_LO, count := 16, stride := 0x20,
    fields := [⟨31, 0, .rw, (.const 0), .any⟩] },
  { base := Reg.HST_CMD_BASE_HI, count := 16, stride := 0x20,
    fields := [⟨31, 0, .rw, (.const 0), .any⟩] },
  { base := Reg.HST_CMD_CFG, count := 16, stride := 0x20,
    fields := [⟨31, 31, .rw, (.const 0), .any⟩, ⟨30, 30, .ro, (.const 1), .any⟩, ⟨29, 29, .rw, (.const 0), .any⟩, ⟨28, 28, .rw, (.const 0), .any⟩, ⟨27, 24, .rw, (.const 0), .any⟩, ⟨20, 16, .rw, (.const 6), .any⟩, ⟨15, 0, .rw, (.const 0), .any⟩] },
  { base := Reg.HST_CMD_PTR, count := 16, stride := 0x20,
    fields := [⟨31, 16, .ro, (.const 0), .any⟩, ⟨15, 0, .ro, (.const 0), .any⟩] },
  { base := Reg.HST_CPL_BASE_LO, count := 16, stride := 0x20,
    fields := [⟨31, 0, .rw, (.const 0), .any⟩] },
  { base := Reg.HST_CPL_BASE_HI, count := 16, stride := 0x20,
    fields := [⟨31, 0, .rw, (.const 0), .any⟩] },
  { base := Reg.HST_CPL_CFG, count := 16, stride := 0x20,
    fields := [⟨31, 31, .rw, (.const 0), .any⟩, ⟨28, 24, .rw, (.const 6), .any⟩, ⟨21, 16, .rw, (.const 0), .any⟩, ⟨15, 8, .rw, (.const 1), .any⟩, ⟨7, 0, .rw, (.const 0), .any⟩] },
  { base := Reg.HST_CPL_PTR, count := 16, stride := 0x20,
    fields := [⟨31, 16, .ro, (.const 0), .any⟩, ⟨15, 0, .ro, (.const 0), .any⟩] },
  { base := Reg.HST_EXP_BASE_LO, count := 4, stride := 0x20,
    fields := [⟨31, 0, .rw, (.const 0), .any⟩] },
  { base := Reg.HST_EXP_BASE_HI, count := 4, stride := 0x20,
    fields := [⟨31, 0, .rw, (.const 0), .any⟩] },
  { base := Reg.HST_EXP_DATA_LO, count := 4, stride := 0x20,
    fields := [⟨31, 0, .rw, (.const 0), .any⟩] },
  { base := Reg.HST_EXP_DATA_HI, count := 4, stride := 0x20,
    fields := [⟨31, 0, .rw, (.const 0), .any⟩] },
  { base := Reg.HST_EXP_CFG, count := 4, stride := 0x20,
    fields := [⟨31, 31, .rw, (.const 0), .any⟩, ⟨30, 30, .rw, (.const 0), .any⟩, ⟨28, 24, .rw, (.const 6), .any⟩, ⟨23, 21, .rw, (.const 3), (.atMost 4)⟩, ⟨20, 16, .rw, (.const 0x14), .any⟩, ⟨13, 8, .rw, (.const 0), .any⟩, ⟨7, 0, .rw, (.const 1), .any⟩] },
  { base := Reg.HST_EXP_PTR, count := 4, stride := 0x20,
    fields := [⟨31, 16, .ro, (.const 0), .any⟩, ⟨15, 0, .ro, (.const 0), .any⟩] },
  { base := Reg.HST_EXP_ROUTE, count := 16,
    fields := [⟨31, 31, .rw, (.const 0), .any⟩, ⟨29, 28, .rw, (.const 0), .any⟩, ⟨15, 0, .rw, (.const 0), .any⟩] }]

/-- The EGR_ registers of Borlu-T. -/
def regRowsTEGR : List RegRow := [
  { base := Reg.EGR_SEL,
    fields := [⟨27, 24, .rw, (.const 0), (.atMost 8)⟩, ⟨8, 0, .rw, (.const 0), .any⟩] },
  { base := Reg.EGR_BKT_RATE,
    fields := [⟨23, 0, .rw, (.const 0x100), .any⟩] },
  { base := Reg.EGR_BKT_BURST,
    fields := [⟨23, 0, .rw, (.const 0x1000), .any⟩] },
  { base := Reg.EGR_BKT_CFG,
    fields := [⟨31, 31, .rw, (.const 1), .any⟩, ⟨23, 16, .rw, (.const 0), .any⟩, ⟨14, 0, .rw, (.const 0x1000), .any⟩] },
  { base := Reg.EGR_BKT_TOK,
    fields := [⟨31, 0, .ro, (.const 0x100000), .any⟩] },
  { base := Reg.EGR_BKT_QHWM,
    fields := [⟨23, 0, .rc, (.const 0), .any⟩] },
  { base := Reg.EGR_BKT_SHWM,
    fields := [⟨31, 0, .rc, (.const 0), .any⟩] },
  { base := Reg.EGR_STS,
    fields := [⟨31, 31, .w1c, (.const 0), .any⟩, ⟨2, 2, .ro, (.const 0), .any⟩, ⟨1, 1, .w1c, (.const 0), .any⟩, ⟨0, 0, .w1c, (.const 0), .any⟩] },
  { base := Reg.EGR_LATE,
    fields := [⟨31, 0, .rc, (.const 0), .any⟩] },
  { base := Reg.EGR_COAL,
    fields := [⟨31, 0, .rc, (.const 0), .any⟩] },
  { base := Reg.EGR_BKT_TOK_HI,
    fields := [⟨15, 0, .ro, (.const 0), .any⟩] },
  { base := Reg.EGR_PORT_CTL, count := 9, stride := 0x10,
    fields := [⟨0, 0, .rw, (.const 0), .any⟩] },
  { base := Reg.EGR_PORT_STS, count := 9, stride := 0x10,
    fields := [⟨31, 31, .ro, (.const 0), .any⟩, ⟨30, 30, .ro, (.const 0), .any⟩, ⟨8, 0, .ro, (.const 0), .any⟩] },
  { base := Reg.EGR_ALARM_BUDGET, count := 9, stride := 0x10,
    fields := [⟨15, 0, .rw, .budget, .any⟩] },
  { base := Reg.EGR_GRANTS, count := 9, stride := 0x10,
    fields := [⟨31, 0, .rc, (.const 0), .any⟩] }]

/-- The EVR_ registers of Borlu-T. -/
def regRowsTEVR : List RegRow := [
  { base := Reg.EVR_CTL,
    fields := [⟨15, 8, .rw, (.const 0x10), .any⟩, ⟨2, 0, .rw, (.const 1), (.atMost 4)⟩] },
  { base := Reg.EVR_STS,
    fields := [⟨31, 31, .w1c, (.const 0), .any⟩, ⟨3, 3, .ro, (.const 0), .any⟩, ⟨2, 2, .w1c, (.const 0), .any⟩, ⟨1, 1, .w1c, (.const 0), .any⟩, ⟨0, 0, .w1c, (.const 0), .any⟩] },
  { base := Reg.EVR_HOURS,
    fields := [⟨31, 0, .ro, (.const 0), .any⟩] },
  { base := Reg.EVR_PCYC,
    fields := [⟨23, 0, .ro, (.const 0), .any⟩] },
  { base := Reg.EVR_RD_SEL,
    fields := [⟨31, 30, .rw, (.const 0), (.atMost 2)⟩, ⟨29, 24, .rw, (.const 0), .any⟩, ⟨17, 0, .rw, (.const 0), .any⟩] },
  { base := Reg.EVR_HEAD,
    fields := [⟨17, 0, .ro, (.const 0), .any⟩] },
  { base := Reg.EVR_WRITTEN,
    fields := [⟨31, 0, .rc, (.const 0), .any⟩] },
  { base := Reg.EVR_OVERWRITTEN,
    fields := [⟨31, 0, .rc, (.const 0), .any⟩] },
  { base := Reg.EVR_BAD,
    fields := [⟨31, 0, .rc, (.const 0), .any⟩] },
  { base := Reg.EVR_FLASH_WR,
    fields := [⟨31, 0, .rc, (.const 0), .any⟩] },
  { base := Reg.EVR_FLASH_DROP,
    fields := [⟨31, 0, .rc, (.const 0), .any⟩] },
  { base := Reg.EVR_RD_DATA, count := 8,
    fields := [⟨31, 0, .ro, (.const 0), .any⟩] }]

/-- The SEC_ registers of Borlu-T. -/
def regRowsTSEC : List RegRow := [
  { base := Reg.SEC_CTL,
    fields := [⟨0, 0, .wo, (.const 0), .any⟩] },
  { base := Reg.SEC_STS,
    fields := [⟨31, 31, .w1c, (.const 0), .any⟩, ⟨8, 8, .w1c, (.const 0), .any⟩, ⟨7, 7, .w1c, (.const 0), .any⟩, ⟨6, 6, .ro, (.const 1), .any⟩, ⟨5, 5, .ro, (.const 0), .any⟩, ⟨4, 4, .ro, (.const 0), .any⟩, ⟨3, 3, .ro, (.const 0), .any⟩, ⟨2, 2, .ro, (.const 0), .any⟩, ⟨0, 0, .ro, (.const 0), .any⟩] },
  { base := Reg.SEC_WINDOW_LEFT,
    fields := [⟨16, 0, .ro, (.const 0), .any⟩] },
  { base := Reg.SEC_PRESSES,
    fields := [⟨31, 0, .rc, (.const 0), .any⟩] },
  { base := Reg.SEC_DENIED,
    fields := [⟨31, 0, .rc, (.const 0), .any⟩] },
  { base := Reg.SEC_GRANTS,
    fields := [⟨31, 0, .rc, (.const 0), .any⟩] }]

/-- The LSE_ registers of Borlu-T. -/
def regRowsTLSE : List RegRow := [
  { base := Reg.LSE_SEL,
    fields := [⟨31, 24, .rw, (.const 1), .any⟩, ⟨23, 0, .rw, (.const 0), .any⟩] },
  { base := Reg.LSE_STS,
    fields := [⟨31, 30, .ro, (.const 0), .any⟩, ⟨27, 24, .ro, (.const 0), .any⟩, ⟨15, 0, .ro, (.const 0), .any⟩] },
  { base := Reg.LSE_EPOCH,
    fields := [⟨15, 0, .ro, (.const 0), .any⟩] },
  { base := Reg.LSE_ID_LO,
    fields := [⟨31, 0, .ro, (.const 0), .any⟩] },
  { base := Reg.LSE_ID_HI,
    fields := [⟨31, 0, .ro, (.const 0), .any⟩] },
  { base := Reg.LSE_STAT,
    fields := [⟨31, 31, .w1c, (.const 0), .any⟩, ⟨1, 1, .w1c, (.const 0), .any⟩, ⟨0, 0, .w1c, (.const 0), .any⟩] },
  { base := Reg.LSE_ACQ,
    fields := [⟨31, 0, .rc, (.const 0), .any⟩] },
  { base := Reg.LSE_HELD_CNT,
    fields := [⟨31, 0, .rc, (.const 0), .any⟩] },
  { base := Reg.LSE_BREAKS,
    fields := [⟨31, 0, .rc, (.const 0), .any⟩] },
  { base := Reg.LSE_RING_EPOCH, count := 16,
    fields := [⟨15, 0, .ro, (.const 0), .any⟩] }]

/-- The STW_ registers of Borlu-T. -/
def regRowsTSTW : List RegRow := [
  { base := Reg.STW_CTL,
    fields := [⟨31, 24, .rw, (.const 0xA), .any⟩, ⟨23, 20, .rw, (.const 3), .any⟩, ⟨16, 16, .rw, (.const 1), .any⟩, ⟨15, 0, .rw, (.const 0x64), .any⟩] },
  { base := Reg.STW_CMD,
    fields := [⟨5, 0, .wo, (.const 0), .any⟩] },
  { base := Reg.STW_STS,
    fields := [⟨31, 31, .w1c, (.const 0), .any⟩, ⟨15, 10, .ro, (.const 0), .any⟩, ⟨7, 7, .w1c, (.const 0), .any⟩, ⟨6, 6, .w1c, (.const 0), .any⟩, ⟨5, 0, .ro, (.const 0x3F), .any⟩] },
  { base := Reg.STW_WDOG,
    fields := [⟨31, 0, .wo, (.const 0), .any⟩] },
  { base := Reg.STW_DUMP_SEL,
    fields := [⟨18, 16, .rw, (.const 0), (.atMost 5)⟩, ⟨11, 0, .rw, (.const 0), .any⟩] },
  { base := Reg.STW_DUMP_DATA,
    fields := [⟨31, 0, .ro, (.const 0), .any⟩] },
  { base := Reg.STW_DUMP_ACK,
    fields := [⟨5, 0, .wo, (.const 0), .any⟩] },
  { base := Reg.STW_FL_ADDR,
    fields := [⟨31, 0, .rw, (.const 0), .any⟩] },
  { base := Reg.STW_FL_BUF,
    fields := [⟨31, 0, .rw, (.const 0), .any⟩] },
  { base := Reg.STW_FL_CMD,
    fields := [⟨1, 0, .wo, (.const 0), .any⟩] },
  { base := Reg.STW_FL_STS,
    fields := [⟨31, 31, .w1c, (.const 0), .any⟩, ⟨3, 3, .w1c, (.const 0), .any⟩, ⟨2, 2, .w1c, (.const 0), .any⟩, ⟨1, 1, .w1c, (.const 0), .any⟩, ⟨0, 0, .ro, (.const 0), .any⟩] },
  { base := Reg.STW_FAULTS,
    fields := [⟨31, 0, .rc, (.const 0), .any⟩] },
  { base := Reg.STW_RESTARTS,
    fields := [⟨31, 0, .rc, (.const 0), .any⟩] },
  { base := Reg.STW_DUMP_LOST,
    fields := [⟨31, 0, .rc, (.const 0), .any⟩] },
  { base := Reg.STW_STATE, count := 6,
    fields := [⟨31, 29, .ro, (.const 0), .any⟩, ⟨28, 28, .ro, (.const 0), .any⟩, ⟨27, 27, .ro, (.const 0), .any⟩, ⟨26, 24, .ro, (.const 0), .any⟩, ⟨7, 0, .ro, (.const 0), .any⟩] },
  { base := Reg.STW_VER, count := 6,
    fields := [⟨31, 0, .ro, (.const 0), .any⟩] }]

/-- The PWR_ registers of Borlu-T. -/
def regRowsTPWR : List RegRow := [
  { base := Reg.PWR_STS,
    fields := [⟨31, 31, .w1c, (.const 0), .any⟩, ⟨8, 8, .ro, (.const 0), .any⟩, ⟨7, 7, .w1c, (.const 0), .any⟩, ⟨6, 6, .w1c, (.const 0), .any⟩, ⟨4, 4, .ro, (.const 0), .any⟩, ⟨3, 2, .ro, (.const 0), .any⟩, ⟨1, 0, .ro, (.const 0), .any⟩] },
  { base := Reg.PWR_T_LO,
    fields := [⟨31, 0, .ro, (.const 0), .any⟩] },
  { base := Reg.PWR_T_HI,
    fields := [⟨31, 0, .ro, (.const 0), .any⟩] },
  { base := Reg.PWR_THERM_CNT,
    fields := [⟨31, 0, .rc, (.const 0), .any⟩] },
  { base := Reg.PWR_SNS_MISS,
    fields := [⟨31, 0, .rc, (.const 0), .any⟩] },
  { base := Reg.PWR_SNS_CFG, count := 32,
    fields := [⟨31, 31, .rw, .snsEn, .any⟩, ⟨30, 28, .rw, .snsKind, (.atMost 5)⟩, ⟨23, 16, .rw, (.const 4), .any⟩, ⟨15, 0, .rw, .snsHigh, .any⟩] },
  { base := Reg.PWR_SNS_VAL, count := 32,
    fields := [⟨31, 31, .ro, (.const 0), .any⟩, ⟨30, 30, .ro, (.const 0), .any⟩, ⟨15, 0, .ro, (.const 0), .any⟩] }]

/-- The IST_ registers of Borlu-T. -/
def regRowsTIST : List RegRow := [
  { base := Reg.IST_CTL,
    fields := [⟨0, 0, .rw, (.const 1), .any⟩] },
  { base := Reg.IST_LIM,
    fields := [⟨15, 0, .rw, (.const 0x1F40), .any⟩] },
  { base := Reg.IST_STS,
    fields := [⟨31, 31, .w1c, (.const 0), .any⟩, ⟨5, 5, .ro, (.const 0), .any⟩, ⟨4, 4, .ro, (.const 0), .any⟩, ⟨3, 3, .ro, (.const 0), .any⟩, ⟨2, 2, .w1c, (.const 0), .any⟩, ⟨1, 1, .w1c, (.const 0), .any⟩, ⟨0, 0, .w1c, (.const 0), .any⟩] },
  { base := Reg.IST_LAST,
    fields := [⟨31, 28, .ro, (.const 0), .any⟩, ⟨27, 26, .ro, (.const 0), .any⟩, ⟨5, 0, .ro, (.const 0), .any⟩] },
  { base := Reg.IST_DEC_FAIL,
    fields := [⟨31, 0, .ro, (.const 0), .any⟩] },
  { base := Reg.IST_SWEEP_MS,
    fields := [⟨15, 0, .ro, (.const 0), .any⟩] },
  { base := Reg.IST_SWEEPS,
    fields := [⟨31, 0, .rc, (.const 0), .any⟩] },
  { base := Reg.IST_TRANSIENT,
    fields := [⟨31, 0, .rc, (.const 0), .any⟩] },
  { base := Reg.IST_FAILS,
    fields := [⟨31, 0, .rc, (.const 0), .any⟩] }]

/-- The registers of one 64 KiB unit (R463) of a build: an offset of another build's unit maps none (R464). -/
def regRows (b : Build) (unit : Nat) : List RegRow :=
  match b, unit with
  | .D, 0 => regRowsDID
  | .D, 1 => regRowsDTIM
  | .D, 3 => regRowsDTAP
  | .D, 4 => regRowsDCNT
  | .D, 5 => regRowsDTXN
  | .D, 6 => regRowsDTRC
  | .D, 7 => regRowsDLOF
  | .D, 8 => regRowsDFRM
  | .D, 10 => regRowsDMBR
  | .D, 12 => regRowsDENS
  | .D, 15 => regRowsDWIT
  | .D, 16 => regRowsDPLN
  | .D, 19 => regRowsDEGR
  | .D, 20 => regRowsDEVR
  | .D, 24 => regRowsDPWR
  | .T, 0 => regRowsTID
  | .T, 1 => regRowsTTIM
  | .T, 2 => regRowsTPTP
  | .T, 7 => regRowsTLOF
  | .T, 8 => regRowsTFRM
  | .T, 9 => regRowsTKND
  | .T, 10 => regRowsTMBR
  | .T, 11 => regRowsTFTZ
  | .T, 12 => regRowsTENS
  | .T, 13 => regRowsTRUL
  | .T, 14 => regRowsTANV
  | .T, 15 => regRowsTWIT
  | .T, 16 => regRowsTPLN
  | .T, 17 => regRowsTHIS
  | .T, 18 => regRowsTHST
  | .T, 19 => regRowsTEGR
  | .T, 20 => regRowsTEVR
  | .T, 21 => regRowsTSEC
  | .T, 22 => regRowsTLSE
  | .T, 23 => regRowsTSTW
  | .T, 24 => regRowsTPWR
  | .T, 25 => regRowsTIST
  | _, _ => []

/-- The row `r` holds the register at `off`. -/
def RegRow.covers (r : RegRow) (off : Nat) : Bool :=
  decide (r.base ≤ off) && decide ((off - r.base) % r.stride = 0) && decide ((off - r.base) / r.stride < r.count) &&
    decide ((off - r.base) / r.stride % r.blk < r.used)

/-- The register row at a byte offset; `none` where the offset maps no register (R464). -/
def regRowAt (b : Build) (off : Nat) : Option RegRow :=
  (regRows b (off / 0x10000)).find? (RegRow.covers · off)

/-- The index of an offset in its row. -/
def RegRow.index (r : RegRow) (off : Nat) : Nat := (off - r.base) / r.stride

/-- A field's reset value in entry `i` of a register of build `b` (R466). -/
def FieldReset.value (b : Build) (i : Nat) : FieldReset → Nat
  | .const n => n
  | .lane j => 4 * (i % 8) + j
  | .budget => if b = .D then 0x0280 else if i = 8 then 0x00B1 else 0x01A2
  | .snsEn => if b = .T ∧ i < 24 then 1 else 0
  | .snsKind => if b = .T ∧ i < 24 then 1 else 0
  | .snsHigh => if b = .T ∧ i < 24 then 0x0055 else 0xFFFF

/-- The reset value of the register at `off`: each field's reset value in its bits, reserved bits zero (R466). -/
def regReset (b : Build) (off : Nat) : Word :=
  match regRowAt b off with
  | none => 0
  | some r => BitVec.ofNat 32
      (r.fields.foldl (fun a f => a + (f.reset.value b (r.index off)) % 2 ^ (f.hi - f.lo + 1) * 2 ^ f.lo) 0)

end Sys2Proof.Machine
end

