-- ==== Sys2Proof/Machine/Sparse.lean ====
section
/-! DEFINITION. Sparse tables: reading an entry, writing one so that the canonical form is kept (keys strictly rising, no
entry equal to the default), and the test of that form. -/

namespace Sys2Proof.Machine

/-- The entry at `k`, or the default where the table lists none. -/
def sget {α : Type} (dflt : Nat → α) (m : Sparse α) (k : Nat) : α :=
  match m.find? (fun e => e.1 == k) with
  | some e => e.2
  | none => dflt k

/-- Put an entry before the first greater key. -/
def sinsert {α : Type} (k : Nat) (v : α) : Sparse α → Sparse α
  | [] => [(k, v)]
  | e :: m => if k < e.1 then (k, v) :: e :: m else e :: sinsert k v m

/-- Write the entry at `k`: the old one leaves the table, and the new one enters unless it equals the default. -/
def sput {α : Type} [DecidableEq α] (dflt : Nat → α) (m : Sparse α) (k : Nat) (v : α) : Sparse α :=
  let rest := m.filter (fun e => e.1 != k)
  if v = dflt k then rest else sinsert k v rest

/-- Change the entry at `k`. -/
def smodify {α : Type} [DecidableEq α] (dflt : Nat → α) (m : Sparse α) (k : Nat) (f : α → α) : Sparse α :=
  sput dflt m k (f (sget dflt m k))

/-- The keys rise strictly from above `lo`, and no entry equals the default. -/
def sparseFrom {α : Type} [DecidableEq α] (dflt : Nat → α) : Option Nat → Sparse α → Bool
  | _, [] => true
  | lo, e :: m => (match lo with | none => true | some l => decide (l < e.1)) && decide (e.2 ≠ dflt e.1) &&
      sparseFrom dflt (some e.1) m

/-- The canonical form of a sparse table. -/
def sparseWf {α : Type} [DecidableEq α] (dflt : Nat → α) (m : Sparse α) : Bool := sparseFrom dflt none m

/-- Write consecutive entries from `k` on. -/
def sputList {α : Type} [DecidableEq α] (dflt : Nat → α) : Sparse α → Nat → List α → Sparse α
  | m, _, [] => m
  | m, k, v :: vs => sputList dflt (sput dflt m k v) (k + 1) vs

/-- Read `n` consecutive entries from `k` on. -/
def sgetList {α : Type} (dflt : Nat → α) (m : Sparse α) : Nat → Nat → List α
  | _, 0 => []
  | k, n + 1 => sget dflt m k :: sgetList dflt m (k + 1) n

end Sys2Proof.Machine
end

