-- ==== Sys2Proof/Machine/Operands.lean ====
section
/-! DEFINITION. The operand forms: register words and their fields, and what a write of a value leaves in each kind of field. -/

namespace Sys2Proof.Machine

/-! ### Registers -/

/-- The stored word of the register at an offset. -/
def Block.reg (b : Block) (off : Nat) : Word := sget (regReset b.build) b.regs off

/-- Store a whole register word. -/
def Block.setReg (b : Block) (off : Nat) (v : Word) : Block :=
  { b with regs := sput (regReset b.build) b.regs off v }

/-- A word with bits `hi` to `lo` replaced by a value (R4). -/
def wordPut (w : Word) (hi lo v : Nat) : Word :=
  BitVec.ofNat 32 (w.toNat - bitsOf w.toNat hi lo * 2 ^ lo + v % 2 ^ (hi - lo + 1) * 2 ^ lo)

/-- A register field. -/
def Block.fld (b : Block) (off hi lo : Nat) : Nat := bitsOf (b.reg off).toNat hi lo

/-- A bit mask with bit `i` set. -/
def setB {w : Nat} (x : BitVec w) (i : Nat) : BitVec w := x ||| BitVec.ofNat w (2 ^ i)

/-- A bit mask with bit `i` clear. -/
def clearB {w : Nat} (x : BitVec w) (i : Nat) : BitVec w := x &&& ~~~(BitVec.ofNat w (2 ^ i))

/-- Bit `i` of a register. -/
def Block.isSet (b : Block) (off i : Nat) : Bool := (b.reg off).getLsbD i

/-- Store a register field. -/
def Block.setFld (b : Block) (off hi lo v : Nat) : Block := b.setReg off (wordPut (b.reg off) hi lo v)

/-! ### Register writes (R6, R9 to R11) -/

/-- The value is not reserved (R11). -/
def Legal.holds : Legal → Nat → Bool
  | .any, _ => true
  | .nonzero, v => v != 0
  | .atMost n, v => decide (v ≤ n)
  | .within l h, v => decide (l ≤ v) && decide (v ≤ h)

/-- The bits of a field. -/
def RegField.mask (f : RegField) : Word := BitVec.ofNat 32 ((2 ^ (f.hi - f.lo + 1) - 1) * 2 ^ f.lo)

/-- What a write of `v` leaves of a field of the word `old` (R6): a reserved value leaves a RW field (R11), a locked RWL field does not
change (R9), and WO, RO and RC fields store nothing. -/
def RegField.write (f : RegField) (locked : Bool) (old v : Word) : Word :=
  let put := (old &&& ~~~f.mask) ||| (v &&& f.mask)
  match f.acc with
  | .rw => if f.legal.holds (bitsOf v.toNat f.hi f.lo) then put else old
  | .w1c => old &&& ~~~(v &&& f.mask)
  | .w1s => old ||| (v &&& f.mask)
  | .rwl => if locked then old else put
  | _ => old

/-- The word that a write of `v` leaves in a register; an offset that maps none keeps what it reads (R464). -/
def Block.fieldsAfter (b : Block) (off : Nat) (v : Word) : Word :=
  match regRowAt b.build off with
  | none => b.reg off
  | some r => r.fields.foldl (fun w f => f.write (b.isSet Reg.ID_CTL 0) w v) (b.reg off)

/-- A write of the fields of a register. -/
def Block.writeFields (b : Block) (off : Nat) (v : Word) : Block := b.setReg off (b.fieldsAfter off v)

end Sys2Proof.Machine
end

