-- ==== Sys2Proof/Machine/Flags.lean ====
section
/-! DEFINITION. Flags, status bits, counters and high-water marks. -/

namespace Sys2Proof.Machine

/-- Hardware sets a flag (R6, R7). -/
def Block.flag (b : Block) (off i : Nat) : Block := b.setReg off (setB (b.reg off) i)

/-- Hardware sets or clears a status bit. -/
def Block.putBit (b : Block) (off i : Nat) (v : Bool) : Block := b.setFld off i i (bit v)

/-- The block is in RETAIN or P2, or in OFF (R451). -/
def Block.asleep (b : Block) : Bool := decide (2 ≤ b.power.phase)

/-- A Borlu-D in RETAIN or OFF, in which nothing counts and nothing is sent (R451). -/
def Block.hushed (b : Block) : Bool := b.build == .D && b.asleep

/-- A saturating counter in bits `hi` to `lo` advances by `n`; none does in a die in RETAIN or OFF (R451). -/
def Block.countF (b : Block) (off hi lo n : Nat) : Block :=
  if b.hushed then b else
  b.setFld off hi lo (satTo (2 ^ (hi - lo + 1) - 1) (b.fld off hi lo + n))

/-- A saturating 32-bit counter register advances by `n`. -/
def Block.count (b : Block) (off n : Nat) : Block := b.countF off 31 0 n

/-- A high-water mark in bits `hi` to `lo` rises to `v` (R8). -/
def Block.raiseF (b : Block) (off hi lo v : Nat) : Block :=
  if b.fld off hi lo < v ∧ !b.hushed then b.setFld off hi lo (satTo (2 ^ (hi - lo + 1) - 1) v) else b

/-- A received frame or record that holds a reserved value is discarded and counted (R11, R188). -/
def Block.recordBad (b : Block) : Block := (b.count Reg.FRM_BAD 1).flag Reg.FRM_STS 1

/-- A 64-bit counter that a LO and a HI register show advances by `n`, modulo 2^64. -/
def Block.countWide (b : Block) (lo n : Nat) : Block :=
  { b with wide := smodify (fun _ => 0) b.wide lo (fun v => (v + n) % 2 ^ 64) }

/-- Borlu-D is past the four cycles after its reset in which tap queues and trace feeds take nothing (R484). -/
def Block.settled (b : Block) : Bool := decide (4 ≤ b.time.cycles)

/-- Counter `i` of a bank of Borlu-D adds, saturating under R89 with its flag in CNT_STS (banks 0 general, 1 light, 2
command-scoped, 3 slag). Nothing counts in RETAIN or OFF (R451). -/
def Block.addCounter (b : Block) (bank i v : Nat) : Block :=
  if b.asleep then b else
  let c := sget (fun _ => ({} : Counter)) b.die.taps.counters (4096 * bank + i)
  let past := decide (2 ^ 48 - 1 < c.v + v)
  let c' : Counter := { v := satTo (2 ^ 48 - 1) (c.v + v), sat := c.sat || past }
  let b := { b with die := { b.die with taps := { b.die.taps with
    counters := sput (fun _ => ({} : Counter)) b.die.taps.counters (4096 * bank + i) c' } } }
  if past then b.flag Reg.CNT_STS bank else b

/-- Light counter `n` of Borlu-D adds (R93). -/
def Block.lightAdd (b : Block) (n v : Nat) : Block := b.addCounter 1 n v

end Sys2Proof.Machine
end

