-- ==== Sys2Proof/Machine/Ops.lean ====
section
/-! DEFINITION. The operations that every family shares: fleet time, windows, job contexts, free values, and the lifting of an
effect on one block to the machine. -/

namespace Sys2Proof.Machine

/-! ### Fleet time -/

/-- Fleet time: bits 95:32 of the accumulator (R35). -/
def Block.ft (b : Block) : BitVec 64 := (b.time.acc >>> 32).setWidth 64

/-- The increment in force, in units of 2^-32 tick (R38, R39): in the cycle of a write that commits a new one, still the old one. -/
def Block.incr (b : Block) : Nat :=
  b.time.incrHeld.getD (b.fld Reg.TIM_INCR_INT 7 0 * 2 ^ 32 + b.fld Reg.TIM_INCR_FRAC 31 0)

/-- The difference of two fleet times as a signed number (R34). -/
def ftDiff (x y : BitVec 64) : Int := (x - y).toInt

/-- `x` is at or after `y` (R34). -/
def ftGe (x y : BitVec 64) : Bool := decide (0 ≤ ftDiff x y)

/-- Ticks of a microsecond. -/
def ticksPerUs : Nat := 16000

/-- Ticks between two switch boundaries, and of a schedule period: 1,024 µs (R206, R320). -/
def switchTicks : Nat := 16384000

/-- The period index π of a fleet time (R320). -/
def periodOf (ft : BitVec 64) : Nat := ft.toNat / switchTicks

/-- The nominal start of row `r` of a period (R320). -/
def rowStart (period r : Nat) : BitVec 64 := BitVec.ofNat 64 (period * switchTicks + 2560 * r)

/-- The ticks of a window of exponent `k` (R29, R30). -/
def windowTicks (k : Nat) : Nat := ticksPerUs * 2 ^ k

/-- The window index of a fleet time (R30). -/
def windowOf (k : Nat) (ft : BitVec 64) : Nat := ft.toNat / windowTicks k % 2 ^ 40

/-- Window indices are compared modulo 2^40 (R30): how far `x` lies above `y`. -/
def windowDiff (x y : Nat) : Int := (BitVec.ofNat 40 x - BitVec.ofNat 40 y).toInt

/-- The window that an index modulo 2^40 names at a fleet time, counted from the fleet epoch: of the windows with that index the one
nearest to the window of `now` (R30). -/
def windowAbs (k : Nat) (now : BitVec 64) (w : Nat) : Int :=
  let cur := now.toNat / windowTicks k
  cur + windowDiff w cur

/-- The fleet time at which window `w` starts, E(w − 1), as seen at `now`. -/
def windowStart (k : Nat) (now : BitVec 64) (w : Nat) : BitVec 64 := BitVec.ofInt 64 (windowAbs k now w * windowTicks k)

/-- The fleet time at which window `w` ends, E(w), as seen at `now`. -/
def windowEnd (k : Nat) (now : BitVec 64) (w : Nat) : BitVec 64 := BitVec.ofInt 64 ((windowAbs k now w + 1) * windowTicks k)

/-- A fleet time some ticks later. -/
def ftAdd (x : BitVec 64) (n : Nat) : BitVec 64 := x + BitVec.ofNat 64 n

/-- The lowest multiple of a period above a fleet time. -/
def nextMultiple (period : Nat) (now : BitVec 64) : BitVec 64 := BitVec.ofNat 64 ((now.toNat / period + 1) * period)

/-- The ember period in force, in ticks (R208). -/
def PeriodUnit.ticks (p : PeriodUnit) : Nat := p.per * 8 * ticksPerUs

/-- The check-point delay in force, in ticks: a value at or above the period acts as one µs below it (R216). -/
def PeriodUnit.delay (p : PeriodUnit) : Nat := min p.grace (p.per * 8 - 1) * ticksPerUs

/-- FT has gone back: the next period multiple and check point are those above it (R208, R209). -/
def Block.remarkPeriods (b : Block) : Block :=
  let p := b.periods
  let since := BitVec.ofNat 64 (b.ft.toNat - p.delay)
  { b with periods := { p with
      emberNext := nextMultiple p.ticks b.ft,
      checkNext := ftAdd (if b.ft.toNat < p.delay then 0 else nextMultiple p.ticks since) p.delay } }

/-! ### Contexts -/

/-- Job context `c`; an unlisted one is FREE. -/
def Block.ctx (b : Block) (c : Nat) : Ctx := sget (fun _ => ({} : Ctx)) b.ctxs c

/-- Store a context. -/
def Block.setCtx (b : Block) (c : Nat) (x : Ctx) : Block :=
  { b with ctxs := sput (fun _ => ({} : Ctx)) b.ctxs c x }

/-- Change a context. -/
def Block.modCtx (b : Block) (c : Nat) (f : Ctx → Ctx) : Block := b.setCtx c (f (b.ctx c))

/-- Contexts that a block can hold: 8 job contexts and the fleet context's own slot, 8, in Borlu-D (R189, R194); 64 in
Borlu-T. -/
def Block.ctxCount (b : Block) : Nat := match b.build with | .D => 9 | .T => 64

/-- The indices of the contexts of a block. -/
def Block.ctxIds (b : Block) : List Nat := List.range b.ctxCount

/-- A context of a job tag that is not FREE, the lowest index first (R158, R197). -/
def Block.ctxOfJob (b : Block) (job : Nat) : Option Nat :=
  (b.ctxs.find? (fun e => e.2.phase != .free && e.2.job == job)).map (·.1)

/-- The contexts of a job tag that are not FREE, in ascending index: a Borlu-T holds one for each of its roles in the job tree (R24). -/
def Block.jobNodes (b : Block) (job : Nat) : List Nat :=
  (b.ctxs.filter (fun e => e.2.phase != .free && e.2.job == job)).map Prod.fst

/-- The context of a job tag at a level of the job tree. -/
def Block.ctxAt (b : Block) (job level : Nat) : Option Nat :=
  (b.ctxs.find? (fun e => e.2.phase != .free && e.2.job == job && e.2.level == level)).map Prod.fst

/-- The context of a job tag at the lowest level that this block holds: the tray's, where it has one. -/
def Block.lowestNode (b : Block) (job : Nat) : Option Nat :=
  ((List.range 5).map (· + 5)).findSome? (b.ctxAt job) |>.orElse (fun _ => b.ctxOfJob job)

/-- A context is active while it is ACTIVE or DRAINING (R37). -/
def Ctx.isActive (x : Ctx) : Bool := x.phase == .active || x.phase == .draining

/-- Some context of the block is active (R43). DESIGN CHOICE (log 40): the fleet context, slot 8 of a Borlu-D, counts like a job context, so it alone
stages CNT_ writes (R92) and turns a backward step away. -/
def Block.anyActive (b : Block) : Bool := b.ctxs.any (fun e => e.2.isActive)

/-- The largest window exponent of the contexts that are not FREE (R329). -/
def Block.kMax (b : Block) : Nat := b.ctxs.foldl (fun a e => if e.2.phase != .free then max a e.2.k else a) 0

/-- The index that the requesters of a context use (R395): the fleet context takes 8 in Borlu-D and 64 in Borlu-T. -/
def Block.egressCtx (b : Block) (c : Nat) : Nat :=
  match b.build with
  | .D => c
  | .T => if (b.ctx c).job = 0 then 64 else c

/-- The close delay of a node of the context at its level, in ticks after the end of a window: D plus A_L (R167). -/
def Ctx.closeDelay (x : Ctx) : Nat :=
  x.close * ticksPerUs + (if x.level ≤ 5 then 0 else x.allow.getD (x.level - 6) 0 * 4 * ticksPerUs)

/-- The fleet time C_L(w) at which a node of the context closes window `w` (R167), as seen at `now`. -/
def Ctx.closeTime (x : Ctx) (now : BitVec 64) (w : Nat) : BitVec 64 := ftAdd (windowEnd x.k now w) x.closeDelay

/-- A forward step passed over the whole of window `w` (R44). -/
def Ctx.skips (x : Ctx) (w : Nat) : Bool := x.skipped.any (fun e => decide (0 ≤ windowDiff w e.1) && decide (windowDiff w e.1 < e.2))

/-- The window that opens after window `w`: the next one, or the one after those that a forward step passed over (R44). -/
def Ctx.windowAfter (x : Ctx) (w : Nat) : Nat :=
  let next := (w + 1) % 2 ^ 40
  match x.skipped.find? (fun e => e.1 == next) with
  | some e => (next + e.2) % 2 ^ 40
  | none => next

/-- The window that was open before window `w`: the one before it, or the one before those that a forward step passed over (R44). -/
def Ctx.windowBefore (x : Ctx) (w : Nat) : Nat :=
  match x.skipped.find? (fun e => (e.1 + e.2) % 2 ^ 40 == w) with
  | some e => (e.1 + 2 ^ 40 - 1) % 2 ^ 40
  | none => (w + 2 ^ 40 - 1) % 2 ^ 40

/-- The traversal bound T = H × HOP, in ticks. -/
def Ctx.traversal (x : Ctx) : Nat := x.height * x.hop * ticksPerUs

/-! ### Free values -/

/-- A fresh free value (log 4), and the block with its counter advanced. -/
def Block.freeNat (b : Block) : Nat × Block := ((Config.freeValue b.fresh).toNat, { b with fresh := b.fresh + 1 })

/-! ### Identity -/

/-- The die address of the block (R13, R468): PLACE and the slot strap in Borlu-D, the record's tray address in
Borlu-T. -/
def Block.da (b : Block) : Nat :=
  b.fld Reg.ID_DA 31 13 * 2 ^ 13 + (match b.build with | .D => b.strapSlot.toNat * 256 | .T => 0)

/-- The unit index of R418 of an offset. -/
def unitOf (off : Nat) : Nat := off / 0x10000

/-! ### Lifting -/

/-- One of the two blocks. -/
def State.block (s : State) : Build → Block
  | .D => s.d
  | .T => s.t

/-- Store one of the two blocks. -/
def State.setBlock (s : State) (b : Build) (x : Block) : State :=
  match b with
  | .D => { s with d := x }
  | .T => { s with t := x }

/-- A block acts on commands while it is out of reset, and a Borlu-T from its first alignment pulse on (R484, R485). -/
def State.running (s : State) : Build → Bool
  | .D => !s.dReset
  | .T => !s.tReset && s.tAligned

/-- A command that acts on one block: the block's new value while the block runs, and nothing while it is in reset. -/
def onBlock (b : Build) (f : Block → Block) (s : State) : Host.Outcome State Fault Refusal :=
  .next (if s.running b then s.setBlock b (f (s.block b)) else s)

/-- A command of Borlu-D. -/
def onDie (f : Block → Block) (s : State) : Host.Outcome State Fault Refusal := onBlock .D f s

/-- A command that brings the level of an input of Borlu-D: while the block is in reset the level alone is taken, `keep` (R476). -/
def onDieLevel (keep f : Block → Block) (s : State) : Host.Outcome State Fault Refusal :=
  .next (s.setBlock .D (if s.running .D then f s.d else keep s.d))

/-- A command of Borlu-T. -/
def onTray (f : Block → Block) (s : State) : Host.Outcome State Fault Refusal := onBlock .T f s

/-- The trigger of an event holds: the event acts; otherwise the command changes nothing (log 3). -/
def Block.when (b : Block) (c : Bool) (f : Block → Block) : Block := if c then f b else b

/-- A write to PLACE in the cycle of its lock has no effect (R470): PLACE and PLACED stand as before the cycle's first write. -/
def Block.undoPlace (b : Block) : Block :=
  match b.access.place with
  | some (da, placed) => (b.setReg Reg.ID_DA da).putBit Reg.ID_CTL 2 placed
  | none => b

/-- Fold an effect over a list of indices. -/
def Block.forEach {α : Type} (b : Block) (xs : List α) (f : Block → α → Block) : Block := xs.foldl f b

/-! ### Rows of the schedule (R325) -/

/-- A row starts: no column of it has run, and the test of the row before it is over (R325, R458). -/
def Block.startRow (b : Block) (period row : Nat) : Block :=
  let u := b.tray.plane
  { b with tray := { b.tray with plane := { u with period := period, row := row, rowFt := b.ft, rowCycle := b.time.cycles, ran := [] },
                                 test := { b.tray.test with under := none } } }

/-- The next row starts once 256 ANL cycles, 64 TIM cycles, have passed since the start of the row that runs and FT has reached its nominal
start (R325). -/
def Block.nextRow (b : Block) : Block :=
  let u := b.tray.plane
  if u.row < 6399 ∧ u.rowCycle + 64 ≤ b.time.cycles ∧ periodOf b.ft = u.period ∧ ftGe b.ft (rowStart u.period (u.row + 1)) then
    b.startRow u.period (u.row + 1)
  else b

end Sys2Proof.Machine
end

