-- ==== Sys2Proof/Machine/Send.lean ====
section
/-! DEFINITION. What leaves a block: the queues of the egress requesters (R394, R395), frame headers (R156, R157), control
records (R191, R193) and alarm frames with their coalescing (R161, R397). -/

namespace Sys2Proof.Machine

/-! ### Egress queues -/

/-- Egress port `p` of a block. -/
def Block.port (b : Block) (p : Nat) : EgPort := sget (fun _ => ({} : EgPort)) b.egress p

/-- Store an egress port. -/
def Block.setPort (b : Block) (p : Nat) (x : EgPort) : Block :=
  { b with egress := sput (fun _ => ({} : EgPort)) b.egress p x }

/-- The queue of a requester. -/
def EgPort.queue (x : EgPort) (r : Nat) : List EgItem := sget (fun _ => []) x.queues r

/-- Store the queue of a requester. -/
def EgPort.setQueue (x : EgPort) (r : Nat) (q : List EgItem) : EgPort :=
  { x with queues := sput (fun _ => []) x.queues r q }

/-- The BURST of a bucket (R402, R408). -/
def EgPort.burstOf (x : EgPort) (r : Nat) : Nat := (sget (fun _ => (0x1000 : Word)) x.burst r).toNat % 2 ^ 24

/-- The RATE of a bucket. -/
def EgPort.rateOf (x : EgPort) (r : Nat) : Nat := (sget (fun _ => (0x100 : Word)) x.rate r).toNat % 2 ^ 24

/-- The EGR_BKT_CFG word of a bucket. -/
def EgPort.cfgOf (x : EgPort) (r : Nat) : Word := sget (fun _ => (0x80001000 : Word)) x.cfg r

/-- The OVERHEAD of a bucket. -/
def EgPort.overheadOf (x : EgPort) (r : Nat) : Nat := bitsOf (x.cfgOf r).toNat 23 16

/-- The burst limit of a requester: values below 64 act as 64, above 16,384 as 16,384 (R408). -/
def EgPort.limitOf (x : EgPort) (r : Nat) : Nat := min 16384 (max 64 (bitsOf (x.cfgOf r).toNat 14 0))

/-- The tokens of a bucket in 1/256 byte; a bucket no one has touched is full at its reset BURST. -/
def EgPort.tokOf (x : EgPort) (r : Nat) : Int := sget (fun _ => (0x100000 : Int)) x.tok r

/-- Store the tokens of a bucket. -/
def EgPort.setTok (x : EgPort) (r : Nat) (t : Int) : EgPort :=
  { x with tok := sput (fun _ => (0x100000 : Int)) x.tok r t }

/-- The cost of an item: its bytes plus OVERHEAD (R398). -/
def EgPort.costOf (x : EgPort) (r : Nat) (i : EgItem) : Nat := i.bytes.length + x.overheadOf r

/-- The cost of the first beats that the next cycle brings and the bucket has not paid yet (R402). -/
def EgPort.debitOf (x : EgPort) (r : Nat) : Nat := sget (fun _ => (0 : Nat)) x.debits r

/-- A first beat of the next cycle owes its cost. -/
def EgPort.debit (x : EgPort) (r cost : Nat) : EgPort :=
  { x with debits := sput (fun _ => (0 : Nat)) x.debits r (x.debitOf r + cost) }

/-- The bucket of a requester holds at least min(cost, BURST) tokens beside what it owes (R398). -/
def EgPort.tokensFor (x : EgPort) (r cost : Nat) : Bool :=
  decide ((256 * min cost (x.burstOf r) : Int) ≤ x.tokOf r - 256 * x.debitOf r)

/-- The bytes of a queue, in 64-byte units. -/
def queuedUnits (q : List EgItem) : Nat := ceilDiv (q.foldl (fun a j => a + j.bytes.length) 0) 64

/-- Put an item at the end of a requester's queue, and raise its queued-bytes mark, in 64-byte units (R404). -/
def EgPort.enqueue (x : EgPort) (r : Nat) (i : EgItem) : EgPort :=
  let q := x.queue r ++ [i]
  let units := satTo (2 ^ 24 - 1) (queuedUnits q)
  let x := x.setQueue r q
  if (sget (fun _ => (0 : Word)) x.qhwm r).toNat < units
  then { x with qhwm := sput (fun _ => (0 : Word)) x.qhwm r (BitVec.ofNat 32 units) } else x

/-- The port on which an item to a destination leaves (R394): port 0 in Borlu-D; in Borlu-T the named tree port, the host
port 8, or a tree port that the spec leaves to the fabric (log 6). -/
def Block.portFor (b : Block) (d : Dest) : Nat :=
  match b.build with
  | .D => 0
  | .T =>
    match d with
    | .host _ | .ring _ => 8
    | .treePort i => i % 8
    | .die s => Config.treePortOf 0 s % 8
    | .parent c => Config.treePortOf 1 c % 8
    | .child _ a => Config.treePortOf 2 a % 8
    | .role l => Config.treePortOf 3 l % 8
    | .peer a => Config.treePortOf 4 a % 8
    | .tray => Config.treePortOf 5 0 % 8

/-- The requester of frames of class `cls` (R395). `c` is the egress context index. -/
def Block.requester (b : Block) (c cls : Nat) : Nat :=
  match b.build with
  | .D => if cls = 7 then 36 else 4 * c + cls
  | .T => if 5 ≤ cls then 325 + (cls - 5) else 5 * c + cls

/-- The egress context index of block frames: that of the fleet context (log 8). -/
def Block.blockCtx (b : Block) : Nat := match b.build with | .D => 8 | .T => 64

/-- Queue an item at the requester of its class. Nothing is sent in RETAIN or OFF, and the tree ports are idle in P2 (R451). -/
def Block.queueItem (b : Block) (c cls : Nat) (d : Dest) (bytes : Bytes) : Block :=
  let p := b.portFor d
  if b.asleep && p != 8 then b else
  b.setPort p ((b.port p).enqueue (b.requester c cls) { dest := d, bytes := bytes, whole := b.ft })

/-! ### Frame headers (R156) -/

/-- The 64-byte header and payload of a frame, with its CRC (R136, R156). `source` is the SOURCE word. -/
def frameBytes (cls job source seq window flags part parts ft srcDa epoch : Nat) (payload : Bytes) : Bytes :=
  let head := leBytes 1 4 ++ leBytes 1 cls ++ leBytes 2 job ++ leBytes 4 source ++ leBytes 4 seq ++ leBytes 5 window ++
    leBytes 1 flags ++ leBytes 2 part ++ leBytes 2 parts ++ leBytes 2 payload.length ++ leBytes 8 ft ++ leBytes 4 srcDa ++
    leBytes 4 epoch ++ zeros 20
  head ++ leBytes 4 (crc32c (head ++ payload)).toNat ++ payload

/-- The SOURCE word of R156 from its fields. -/
def sourceWord (rank level : Nat) (noRank down : Bool) : Nat :=
  rank % 2 ^ 18 + level % 16 * 2 ^ 18 + bit noRank * 2 ^ 22 + bit down * 2 ^ 23

/-- What a sender puts into the headers of one output. -/
structure Send where
  ctx : Option Nat
  cls : Nat
  dest : Dest
  window : Nat
  ft : BitVec 64
  down : Bool := false
  late : Bool := false
  replay : Bool := false
  level : Option Nat := none
  invalid : Bool := false

/-- The FLAGS byte (R156): LATE, TIME_INVALID, REPLAY, PARTIAL_START. TIME_INVALID also marks a frame that carries a stamp taken while
fleet time was not valid (R37). -/
def Block.flagsFor (b : Block) (w : Send) : Nat :=
  bit w.late + bit (!b.time.valid || w.invalid) * 2 + bit w.replay * 4 +
    (match w.ctx with | some c => bit (b.ctx c).partialStart * 8 | none => 0)

/-- The SOURCE word of a sender (R157): a role or die of a context carries its rank; a block frame carries NO_RANK. -/
def Block.sourceFor (b : Block) (w : Send) : Nat :=
  match w.ctx with
  | some c => sourceWord (b.ctx c).rank (match b.build with | .D => 3 | .T => (b.ctx c).level) false w.down
  | none => sourceWord 0 (match b.build with | .D => 3 | .T => w.level.getD 5) true w.down

/-- The next sequence number of the sender (R163, R194). -/
def Block.seqFor (b : Block) (c : Option Nat) : Nat :=
  match c with | some c => (b.ctx c).seq | none => b.blockSeq

/-- The sequence counter advances by one, modulo 2^32 (R163). -/
def Block.seqNext (b : Block) (c : Option Nat) : Block :=
  match c with
  | some c => b.modCtx c (fun x => { x with seq := (x.seq + 1) % 2 ^ 32 })
  | none => { b with blockSeq := (b.blockSeq + 1) % 2 ^ 32 }

/-- The bytes of one frame of an output. -/
def Block.frameFor (b : Block) (w : Send) (part parts : Nat) (payload : Bytes) : Bytes :=
  let (job, epoch) := match w.ctx with | some c => ((b.ctx c).job, (b.ctx c).epoch) | none => (0, 0)
  frameBytes w.cls job (b.sourceFor w) (b.seqFor w.ctx) w.window (b.flagsFor w) part parts w.ft.toNat b.da epoch payload

/-- The egress context index of a sender. -/
def Block.sendCtx (b : Block) (c : Option Nat) : Nat := match c with | some c => b.egressCtx c | none => b.blockCtx

/-- A frame is formed for sending: FRM_TX, and light counter 55 in Borlu-D (R93, R188). -/
def Block.frameSent (b : Block) : Block :=
  if b.asleep then b else
  let b := b.count Reg.FRM_TX 1
  match b.build with | .D => b.lightAdd 55 1 | .T => b

/-- Send the frames of one output (R159): each payload in a frame of its own with its own SEQ. -/
def Block.sendOutput (b : Block) (w : Send) (payloads : List Bytes) : Block :=
  let n := payloads.length
  (payloads.foldl (fun (a : Block × Nat) p =>
    let x := a.1
    let x := x.queueItem (x.sendCtx w.ctx) w.cls w.dest (x.frameFor w a.2 n p)
    ((x.seqNext w.ctx).frameSent, a.2 + 1)) (b, 0)).1

/-- Records of a multiple of 8 bytes packed into payloads of at most 4,032 bytes; a record never spans two (R159). -/
def packRecords (rs : List Bytes) : List Bytes :=
  rs.foldl (fun acc r =>
    match acc.reverse with
    | [] => [r]
    | l :: before => if l.length + r.length ≤ 4032 then before.reverse ++ [l ++ r] else acc ++ [r]) []

/-! ### Control records (R191, R193) -/

/-- A control record: CTYPE, reserved bytes, RLEN, and the bytes from 8. -/
def controlRecord (ctype : Nat) (body : Bytes) : Bytes :=
  leBytes 2 ctype ++ zeros 2 ++ leBytes 4 (8 + body.length) ++ body

/-- Send one control record in class 1: in one frame, or in the frames of one output (R193). The window of a class 1 frame
is not fixed by the spec: a free value (log 4). -/
def Block.sendControl (b : Block) (c : Option Nat) (d : Dest) (ctype : Nat) (body : Bytes)
    (level : Option Nat := none) (invalid : Bool := false) : Block :=
  let (w, b) := b.freeNat
  b.sendOutput { ctx := c, cls := 1, dest := d, window := w % 2 ^ 40, ft := b.ft, level := level, invalid := invalid }
    (chunks 4032 (body.length / 4032 + 2) (padTo 8 (controlRecord ctype body)))

/-! ### Alarms (R161, R397) -/

/-- An alarm record (R161). A record without a rank carries NO_RANK. -/
def alarmRecord (code unit : Nat) (timeInvalid : Bool) (rank : Option Nat) (window : Nat) (ft : BitVec 64)
    (count param : Nat) : Bytes :=
  leBytes 2 code ++ leBytes 1 unit ++ leBytes 1 (bit timeInvalid * 2) ++
    leBytes 4 (match rank with | some r => r % 2 ^ 18 | none => 2 ^ 31) ++ leBytes 5 window ++ zeros 3 ++
    leBytes 8 ft.toNat ++ leBytes 4 count ++ leBytes 4 param

/-- Two alarm records have the same CODE and rank. -/
def sameAlarm (x y : Bytes) : Bool := slice x 0 2 == slice y 0 2 && slice x 4 4 == slice y 4 4

/-- Add an alarm record's COUNT to an entry's record and set COALESCED (R388). -/
def alarmMerge (into rec : Bytes) : Bytes :=
  slice into 0 3 ++ leBytes 1 (byteAt into 3 / 2 * 2 + 1) ++ slice into 4 20 ++
    leBytes 4 (satTo (2 ^ 32 - 1) (fieldAt into 24 4 + fieldAt rec 24 4)) ++ slice into 28 4

/-- The record of a catch-all entry: NO_RANK in place of the rank (R388, R397). -/
def alarmNoRank (rec : Bytes) : Bytes := slice rec 0 4 ++ leBytes 4 (2 ^ 31) ++ rec.drop 8

/-- Enter an alarm in a coalescing table of `cap` entries keyed by `key`, CODE and rank, with catch-all entries keyed by
`anyKey` and CODE when it is full (R388, R397). No alarm is discarded. -/
def coalesce (cap key anyKey : Nat) (dest : Dest) (rec : Bytes) (t : List CoalEntry) : List CoalEntry :=
  let same (e : CoalEntry) := !e.catchAll && e.key == key && sameAlarm e.record rec
  if t.any same then t.map (fun e => if same e then { e with record := alarmMerge e.record rec } else e)
  else if (t.filter (fun e => !e.catchAll)).length < cap then t ++ [⟨key, rec, dest, false⟩]
  else
    let any (e : CoalEntry) := e.catchAll && e.key == anyKey && slice e.record 0 2 == slice rec 0 2
    if t.any any then t.map (fun e => if any e then { e with record := alarmMerge e.record rec } else e)
    else t ++ [⟨anyKey, alarmNoRank rec, dest, true⟩]

/-- The entries of a port's coalescing table: 32 in Borlu-D, 256 per tree port (R397). -/
def Block.coalCap (b : Block) : Nat := match b.build with | .D => 32 | .T => 256

/-- The alarm records of a class 0 payload. Zero bytes fill the space after the last (R159). -/
def alarmRecords (payload : Bytes) : List Bytes :=
  ((chunks 32 (payload.length / 32) payload).reverse.dropWhile (fun r => zeroAt r 0 32)).reverse

/-- The place of an egress context for a class 0 frame on a port is free, no entry of the context waits for it in the table, and its
tokens suffice (R397). -/
def Block.alarmReady (b : Block) (p c len : Nat) : Bool :=
  let x := b.port p
  let r := b.requester c 0
  (x.queue r).isEmpty && !x.coal.any (fun e => e.key == c) && x.tokensFor r (len + x.overheadOf r)

/-- Queue a class 0 frame in the waiting place of its context: a frame sent (R397). -/
def Block.placeAlarm (b : Block) (p c : Nat) (d : Dest) (bytes : Bytes) : Block :=
  (b.setPort p ((b.port p).enqueue (b.requester c 0) { dest := d, bytes := bytes, whole := b.ft })).frameSent

/-- Records of class 0 enter the coalescing table of a port (R397, R407): no frame is sent. -/
def Block.coalesceAlarms (b : Block) (p c : Nat) (d : Dest) (recs : List Bytes) : Block :=
  let x := b.port p
  let b := b.setPort p { x with coal := recs.foldl (fun t a => coalesce b.coalCap c c d a t) x.coal }
  (b.count Reg.EGR_COAL recs.length).flag Reg.EGR_STS 0

/-- Pass a received class 0 frame on, unchanged, with the records that it carries (R162, R397). -/
def Block.forwardAlarm (b : Block) (c : Nat) (d : Dest) (bytes : Bytes) (recs : List Bytes) : Block :=
  let p := b.portFor d
  if b.asleep then b
  else if b.alarmReady p c bytes.length then b.placeAlarm p c d bytes
  else b.coalesceAlarms p c d recs

/-- The alarms that records of class 0 stand for (R161). -/
def alarmTotal (recs : List Bytes) : Nat := recs.foldl (fun a r => a + fieldAt r 24 4) 0

/-- Light counter 54 of Borlu-D counts the alarms of a class 0 frame that it sends (R93). -/
def Block.alarmsSent (b : Block) (recs : List Bytes) : Block :=
  match b.build with | .D => b.lightAdd 54 (alarmTotal recs) | .T => b

/-- Form a class 0 frame of a context's alarm records and queue it (R32, R161): through `via`, the context by whose role it leaves the
block. A sequence value is taken only where a frame is sent (R163). -/
def Block.sendAlarm (b : Block) (c via : Option Nat) (d : Dest) (window : Nat) (recs : List Bytes) : Block :=
  let f := b.frameFor { ctx := c, cls := 0, dest := d, window := window, ft := b.ft } 0 1 recs.flatten
  let p := b.portFor d
  let k := b.sendCtx via
  if b.asleep then b
  else if b.alarmReady p k f.length then ((b.placeAlarm p k d f).seqNext c).alarmsSent recs
  else b.coalesceAlarms p k d recs

end Sys2Proof.Machine
end

