-- ==== Sys2Proof/Machine/HostOut.lean ====
section
/-! DEFINITION. What Borlu-T writes into the rings of host memory: block-written rings (R373), message moderation (R392),
events and the hold store (R386 to R388), completions (R384). -/

namespace Sys2Proof.Machine

/-- Change the host interface. -/
def Block.modHost (b : Block) (f : HostUnit → HostUnit) : Block :=
  { b with tray := { b.tray with host := f b.tray.host } }

/-- The number of entries of a ring of exponent LOG2. -/
def ringSize (log2 : Nat) : Nat := 2 ^ log2

/-- The entries of a ring that are not consumed. -/
def OutRing.unread (r : OutRing) (log2 : Nat) : Nat := (r.tail + ringSize log2 - r.head) % ringSize log2

/-- The position at the tail is free: at most size − 1 entries are unconsumed (R373). -/
def OutRing.tailFree (r : OutRing) (log2 : Nat) : Bool := decide (r.unread log2 + 1 < ringSize log2)

/-- A ring that the block writes has a free position beside those of the entries that wait at the host port (R373). -/
def OutRing.hasSpace (r : OutRing) (log2 : Nat) : Bool := decide (r.unread log2 + r.queued + 1 < ringSize log2)

/-- An entry with its PHASE in bit 0 of its last byte (R373). -/
def withPhase (phase : Bool) (entry : Bytes) : Bytes :=
  entry.dropLast ++ [((entry.getLast?.getD 0) &&& 0xFE) ||| BitVec.ofNat 8 (bit phase)]

/-- The ring after an entry is written at its tail: the tail advances, and a wrap inverts the phase (R373). -/
def OutRing.advance (r : OutRing) (log2 : Nat) : OutRing :=
  let t := (r.tail + 1) % ringSize log2
  { r with tail := t, phase := if t = 0 then !r.phase else r.phase, queued := r.queued - 1 }

/-- Message moderation of a completion or event ring (R392): whether this entry signals, and the ring after it. -/
def OutRing.moderate (r : OutRing) (cnt us : Nat) (ft : BitVec 64) : Bool × OutRing :=
  if cnt = 0 ∨ us = 0 ∨ cnt ≤ r.unsignalled + 1 then (true, { r with unsignalled := 0 })
  else (false, { r with unsignalled := r.unsignalled + 1,
                        firstUnsignalled := if r.unsignalled = 0 then ft else r.firstUnsignalled })

/-- Message moderation of an export ring (R392): it signals when MOD_CNT entries have been written, and at every entry with LAST and every
GAP. -/
def OutRing.moderateExport (r : OutRing) (cnt : Nat) (entry : Bytes) : Bool × OutRing :=
  if byteAt entry 10 = 2 ∨ bitOf (byteAt entry 11) 1 ∨ cnt ≤ r.unsignalled + 1 then (true, { r with unsignalled := 0 })
  else (false, { r with unsignalled := r.unsignalled + 1 })

/-- The 64-bit base of a ring from its LO and HI registers. -/
def Block.base64 (b : Block) (lo : Nat) : Nat := b.fld lo 31 0 + b.fld (lo + 4) 31 0 * 2 ^ 32

/-! ### The rings by their doorbell numbers (R367) -/

/-- The registers of command or completion ring `r`. -/
def cmdReg (reg r : Nat) : Nat := reg + 0x20 * r

/-- The registers of export ring `e`. -/
def expReg (reg e : Nat) : Nat := reg + 0x20 * e

/-- The CFG register of a ring by its doorbell number (R367): 0 to 15 command, 16 to 31 completion, 32 event, 33 to 36 export. -/
def ringCfg (d : Nat) : Nat :=
  if d < 16 then cmdReg Reg.HST_CMD_CFG d else if d < 32 then cmdReg Reg.HST_CPL_CFG (d - 16) else if d = 32 then Reg.HST_EVT_CFG
  else expReg Reg.HST_EXP_CFG (d - 33)

/-- The LO register of the base of a block-written ring. -/
def ringBaseLo (d : Nat) : Nat :=
  if d < 32 then cmdReg Reg.HST_CPL_BASE_LO (d - 16) else if d = 32 then Reg.HST_EVT_BASE_LO else expReg Reg.HST_EXP_BASE_LO (d - 33)

/-- A ring is enabled. -/
def Block.ringOn (b : Block) (d : Nat) : Bool := b.isSet (ringCfg d) 31

/-- A completion ring's state. -/
def HostUnit.cplRing (h : HostUnit) (r : Nat) : OutRing := sget (fun _ => ({} : OutRing)) h.cpl r

/-- Change a completion ring. -/
def HostUnit.modCpl (h : HostUnit) (r : Nat) (f : OutRing → OutRing) : HostUnit :=
  { h with cpl := smodify (fun _ => ({} : OutRing)) h.cpl r f }

/-- An export ring's state. -/
def HostUnit.expRing (h : HostUnit) (e : Nat) : ExpRing := sget (fun _ => ({} : ExpRing)) h.exp e

/-- Change an export ring. -/
def Block.modExp (b : Block) (e : Nat) (f : ExpRing → ExpRing) : Block :=
  b.modHost (fun h => { h with exp := smodify (fun _ => ({} : ExpRing)) h.exp e f })

/-- A block-written ring by its doorbell number. -/
def HostUnit.outRing (h : HostUnit) (d : Nat) : OutRing :=
  if d < 32 then h.cplRing (d - 16) else if d = 32 then h.evt else (h.expRing (d - 33)).ring

/-- Change a block-written ring. -/
def Block.modOut (b : Block) (d : Nat) (f : OutRing → OutRing) : Block :=
  if d < 32 then b.modHost (fun h => h.modCpl (d - 16) f) else if d = 32 then b.modHost (fun h => { h with evt := f h.evt })
  else b.modExp (d - 33) (fun x => { x with ring := f x.ring })

/-- Queue an entry of a block-written ring at a requester of the host port; a completion names its descriptor. Its position, its phase and
its message are those of the moment at which it leaves (R373, R392). -/
def Block.queueEntry (b : Block) (d req : Nat) (entry : Bytes) (desc : Option Nat := none) : Block :=
  let i : EgItem := { dest := .ring d, bytes := entry, whole := b.ft, desc := desc }
  (b.setPort 8 ((b.port 8).enqueue req i)).modOut d (fun r => { r with queued := r.queued + 1 })

/-! ### Events -/

/-- An event entry as it waits, with ESEQ, FT and PHASE still zero (R386). -/
def eventEntry (body : Bytes) (etype eflags job : Nat) : Bytes :=
  body ++ zeros (32 - body.length) ++ leBytes 1 etype ++ leBytes 1 eflags ++ leBytes 2 job ++ zeros 28

/-- An event entry as it is written: ESEQ and the fleet time of the moment (R386). -/
def eventWritten (entry : Bytes) (eseq : Nat) (ft : BitVec 64) : Bytes := entry.take 36 ++ leBytes 4 eseq ++ leBytes 8 ft.toNat ++ entry.drop 48

/-- The event ring takes an entry now: owned, bus master on, enabled, a free position (R366, R388). -/
def Block.eventOpen (b : Block) : Bool :=
  b.tray.host.owner == 1 && b.tray.host.busMaster && b.isSet Reg.HST_EVT_CFG 31 &&
    b.tray.host.evt.hasSpace (b.fld Reg.HST_EVT_CFG 28 24)

/-- Nothing is held back for the event ring. -/
def HostUnit.nothingHeld (h : HostUnit) : Bool := h.alarmHold.isEmpty && h.fifo.isEmpty && h.lostEvents == 0

/-- Queue one event entry: it is written in its turn (R386, R395). -/
def Block.writeEvent (b : Block) (req etype eflags job : Nat) (body : Bytes) : Block :=
  (b.queueEntry 32 req (eventEntry body etype eflags job)).modHost (fun h => { h with evtQueue := h.evtQueue ++ [(req, bitOf eflags 0)] })

/-- A crumb (ETYPE 2) or notice (ETYPE 3) for the event ring: written when the ring takes it and nothing is held, else
into the FIFO of 1,024, else discarded and counted (R388). The FIFO keeps ETYPE and job tag before the body. -/
def Block.pushEvent (b : Block) (etype job : Nat) (body : Bytes) : Block :=
  if b.eventOpen && b.tray.host.nothingHeld then b.writeEvent 65 etype 0 job body
  else if b.tray.host.fifo.length < 1024
  then b.modHost (fun h => { h with fifo := h.fifo ++ [leBytes 1 etype ++ leBytes 2 job ++ body] })
  else ((b.count Reg.HST_EVT_LOST 1).flag Reg.HST_STS 4).modHost (fun h => { h with lostEvents := h.lostEvents + 1 })

/-- Hold an alarm in the store of 512 entries keyed by job tag, CODE and rank (R388). -/
def Block.holdAlarm (b : Block) (job : Nat) (rec : Bytes) : Block :=
  let t := b.tray.host.alarmHold
  let known := t.any (fun e => !e.catchAll && e.key == job && sameAlarm e.record rec)
  let b := if known || 512 ≤ (t.filter (fun e => !e.catchAll)).length then b.count Reg.HST_EVT_COAL 1 else b
  b.modHost (fun h => { h with alarmHold := coalesce 512 job 0 (.host 0) rec h.alarmHold })

/-- A class 0 alarm for the event ring (R162, R386): an entry of requester c when the ring takes it, nothing is held, and
the context's waiting place and tokens on the host port allow it (R397); otherwise the hold store. -/
def Block.pushAlarm (b : Block) (c job : Nat) (rec : Bytes) : Block :=
  let x := b.port 8
  let ready := (x.queue c).isEmpty && x.tokensFor c (64 + x.overheadOf c)
  if b.eventOpen && b.tray.host.nothingHeld && ready then b.writeEvent c 1 0 job rec
  else (if ready then b else (b.count Reg.EGR_COAL 1).flag Reg.EGR_STS 0).holdAlarm job rec

/-- A notice (R387): CODE, reserved bytes, then its parameters. -/
def Block.pushNotice (b : Block) (code job : Nat) (params : Bytes) : Block :=
  b.pushEvent 3 job (leBytes 2 code ++ zeros 2 ++ params)

end Sys2Proof.Machine
end

