-- ==== Sys2Proof/Machine/Crumb.lean ====
section
/-! DEFINITION. Crumbs (R409 to R418): their layout, the rings that keep them, what is sent of them, and the once-an-interval
rule of health crumbs (R495). Raising a class 0 alarm (R32, R161, R162). -/

namespace Sys2Proof.Machine

/-- Change the recorder. -/
def Block.modRec (b : Block) (f : Recorder → Recorder) : Block := { b with recorder := f b.recorder }

/-- Steward `i` runs (R437): its state is RUNNING. -/
def Block.stewardRuns (b : Block) (i : Nat) : Bool := (sget (fun _ => ({} : Steward)) b.tray.stewards i).phase == 2

/-- The SEVERITY of a code (R418). -/
def severityOf (code : Nat) : Nat :=
  if code ∈ [0x1401, 0x1402] then 0
  else if code ∈ [0x0A03, 0x0B02, 0x0E02, 0x1403, 0x1502] then 1
  else if code ∈ [0x0101, 0x0102, 0x0104, 0x0105, 0x0B03, 0x1201, 0x1301, 0x1404, 0x1702] then 2
  else if code ∈ [0x1001, 0x1501, 0x1801] then 4
  else 3

/-- Bytes 0 to 30 of a crumb (R409). -/
def crumbBytes (code : Nat) (health pinned fromDie : Bool) (source p0 p1 p2 : Nat) (time : Bytes) (job : Nat) : Bytes :=
  leBytes 2 code ++ leBytes 1 (bit health * 128 + severityOf code) ++ leBytes 1 (bit fromDie + bit pinned * 2) ++
    leBytes 4 source ++ leBytes 4 p0 ++ leBytes 4 p1 ++ leBytes 4 p2 ++ time ++ leBytes 2 job ++ zeros 1

/-- Write a crumb into a ring of `size` slots: its MARK is 0xA4 OR LAP (R410); whether an older crumb was overwritten. -/
def CrumbRing.write (r : CrumbRing) (size : Nat) (body : Bytes) : CrumbRing × Bool :=
  let next := (r.head + 1) % size
  ({ slots := sput (fun _ => []) r.slots r.head (body ++ leBytes 1 (0xA4 + bit r.lap)), head := next,
     lap := if next = 0 then !r.lap else r.lap, wrapped := r.wrapped || next == 0 }, r.wrapped)

/-- Count a crumb that a ring took, and an overwrite (R414). -/
def Block.crumbCounted (b : Block) (lost : Bool) : Block :=
  let b := b.count Reg.EVR_WRITTEN 1
  if lost then (b.count Reg.EVR_OVERWRITTEN 1).flag Reg.EVR_STS 1 else b

/-- Store a crumb in the local ring of a die (4,096 slots) or the health ring of a tray (8,192 slots) (R414). -/
def Block.ringCrumb (b : Block) (body : Bytes) : Block :=
  let (r, lost) := b.recorder.ring.write (match b.build with | .D => 4096 | .T => 8192) body
  (b.modRec (fun x => { x with ring := r })).crumbCounted lost

/-- Store a J crumb in a context's J ring of 16,384 slots (R414). -/
def Block.jringCrumb (b : Block) (c : Nat) (body : Bytes) : Block :=
  let (r, lost) := (sget (fun _ => ({} : CrumbRing)) b.recorder.jrings c).write 16384 body
  (b.modRec (fun x => { x with jrings := sput (fun _ => ({} : CrumbRing)) x.jrings c r })).crumbCounted lost

/-- Entries in ascending rank, for the crumbs of one code that arise in one cycle (R414); of one rank, in the order given. -/
def rankOrder {α : Type} (rank : α → Nat) (xs : List α) : List α :=
  (xs.foldl (fun (a : List (Nat × α)) x => sinsert (rank x) x a) []).map Prod.snd

/-- Queue an H crumb for the flash log: a queue of 1,024; a crumb that finds it full misses flash (R416); without a usable
log none is queued (R415). -/
def Block.flashCrumb (b : Block) (body : Bytes) : Block :=
  if b.recorder.logFail then b
  else if b.recorder.queue.length < 1024 then b.modRec (fun x => { x with queue := x.queue ++ [body] })
  else ((b.count Reg.EVR_FLASH_DROP 1).flag Reg.EVR_STS 2).modRec (fun x => { x with dropped := x.dropped + 1 })

/-- The TIME bytes of an H crumb (R409, R413): PCYC of a die reads 0xFF_FFFF. -/
def Block.healthTime (b : Block) : Bytes :=
  leBytes 4 b.recorder.hours ++ leBytes 3 (match b.build with | .D => 0xFFFFFF | .T => b.recorder.pcyc) ++ zeros 1

/-- A Borlu-T keeps an H crumb in the health ring and for the flash log, and sends it to the host when its severity is at
least HOST_MIN (R414). -/
def Block.storeHealth (b : Block) (body : Bytes) : Block :=
  let b := (b.ringCrumb body).flashCrumb body
  if b.fld Reg.EVR_CTL 2 0 ≤ byteAt body 2 % 8 then b.pushEvent 2 0 (body ++ leBytes 1 0xA4) else b

/-- A Borlu-T keeps a J crumb in the context's J ring and sends it to the host (R414). -/
def Block.storeJob (b : Block) (c : Nat) (body : Bytes) : Block :=
  (b.jringCrumb c body).pushEvent 2 (fieldAt body 28 2) (body ++ leBytes 1 0xA4)

/-- Write an H crumb (R409, R414). -/
def Block.healthCrumb (b : Block) (code p0 p1 p2 : Nat) (pinned : Bool := false) : Block :=
  let body := crumbBytes code true pinned false b.da p0 p1 p2 b.healthTime 0
  match b.build with
  | .D => (b.ringCrumb body).sendControl none .tray 0x0701 (body ++ leBytes 1 0xA4)
  | .T => b.storeHealth body

/-- Write a J crumb of a context (R409, R412, R414); its SEQ advances. -/
def Block.jobCrumb (b : Block) (c code : Nat) (rank : Option Nat) (p0 p1 p2 : Nat) : Block :=
  let x := b.ctx c
  let body := crumbBytes code false false false (match rank with | some r => r % 2 ^ 18 | none => 2 ^ 31) p0 p1 p2
    (leBytes 6 x.jseq ++ zeros 2) x.job
  let b := b.modCtx c (fun x => { x with jseq := (x.jseq + 1) % 2 ^ 48 })
  match b.build with
  | .D => (b.ringCrumb body).sendControl (some c) .tray 0x0701 (body ++ leBytes 1 0xA4)
  | .T => b.storeJob c body

/-- The health interval that the block is in (R495): spans of 1,024 µs of FT while VALID is 1, of 2^20 cycles while it is
0. -/
def Block.healthSpanNow (b : Block) : Nat :=
  if b.time.valid then 2 * (b.ft.toNat / switchTicks) + 1 else 2 * (b.time.cycles / 2 ^ 20)

/-- A health crumb under R495: at most one for each condition in each health interval. `cond` names the condition. -/
def Block.healthOnce (b : Block) (cond : List Nat) (code p0 p1 p2 : Nat) : Block :=
  let span := b.healthSpanNow
  let seen := if b.time.healthSpan = span then b.time.healthSeen else []
  if (code :: cond) ∈ seen then b
  else { b with time := { b.time with healthSpan := span, healthSeen := (code :: cond) :: seen } }.healthCrumb code p0 p1 p2

/-- VALID changes: the health interval ends in that cycle (R495). -/
def Block.setValid (b : Block) (v : Bool) : Block :=
  if b.time.valid = v then b else { b with time := { b.time with valid := v, healthSeen := [] } }

/-- Where the class 0 frames and the upward control of a context go: a die to its tray, a role to its parent. -/
def Block.upward (b : Block) (c : Nat) : Dest := match b.build with | .D => .tray | .T => .parent c

/-- The context at the highest level that this block reaches from a context through its own roles in the job tree (R24, R405). -/
def Block.climb (b : Block) (c : Nat) : Nat :=
  [6, 7, 8, 9].foldl (fun t l => if (b.ctx t).level + 1 = l then (b.ctxAt (b.ctx t).job l).getD t else t) c

/-- Raise a class 0 alarm in a context (R32, R161, R162): a die sends it to its tray; a Borlu-T writes it to its host's event
ring, once though it be the tray and the job hearth, and, unless it holds the job hearth, sends it toward the job hearth by the highest
of its roles. -/
def Block.raiseAlarm (b : Block) (c code unit : Nat) (rank : Option Nat) (window param : Nat) : Block :=
  let rec_ := alarmRecord code unit (!b.time.valid) rank window b.ft 1 param
  match b.build with
  | .D => b.sendAlarm (some c) (some c) .tray window [rec_]
  | .T =>
    let b := b.pushAlarm (b.egressCtx c) (b.ctx c).job rec_
    let top := b.climb c
    if (b.ctx top).isHearth then b else b.sendAlarm (some c) (some top) (.parent top) window [rec_]

end Sys2Proof.Machine
end

