-- ==== Sys2Proof/Machine/Receive.lean ====
section
/-! DEFINITION. Receiving a frame: reading its header (R156), the receive checks in their order (R158), duplicate suppression
(R164), the records of a control payload (R191) and records that span frames (R193). -/

namespace Sys2Proof.Machine

/-- The header fields of a frame of at least 64 bytes; the payload is LENGTH bytes from byte 64 (R156). -/
def readFrame (raw : Bytes) : Frame :=
  let src := fieldAt raw 4 4
  { cls := byteAt raw 1 % 8, job := fieldAt raw 2 2, rank := bitsOf src 17 0, level := bitsOf src 21 18,
    noRank := bitOf src 22, down := bitOf src 23, seq := fieldAt raw 8 4, window := fieldAt raw 12 5, flags := byteAt raw 17,
    part := fieldAt raw 18 2, parts := fieldAt raw 20 2, ft := fieldAt raw 24 8, srcDa := fieldAt raw 32 4,
    epoch := fieldAt raw 36 4, payload := slice raw 64 (fieldAt raw 22 2), raw := raw.take (64 + fieldAt raw 22 2) }

/-- Check 1 of R158: the CRC of header bytes 0 to 59 and the payload. -/
def crcGood (raw : Bytes) : Bool :=
  decide (64 ≤ raw.length) &&
    fieldAt raw 60 4 == (crc32c (raw.take 60 ++ slice raw 64 (fieldAt raw 22 2))).toNat

/-- The classes that a build accepts (R160). -/
def acceptsClass (b : Build) (cls : Nat) : Bool := match b with | .D => cls == 1 || cls == 7 | .T => true

/-- A block frame (R194): JOB 0x0000, NO_RANK 1, EPOCH 0. -/
def Frame.isBlockFrame (f : Frame) : Bool := f.job == 0 && f.noRank && f.epoch == 0

/-! ### The context that receives a frame (R24, R158) -/

/-- The control records that travel down a job tree: PREPARE, COMMIT, ABORT, TEARDOWN, REMAP, MEMBER, vote records (R196, R204, R211,
R212, R304). -/
def downRecords : List Nat := [0x0101, 0x0103, 0x0104, 0x0106, 0x010A, 0x010B, 0x0302]

/-- The context of a frame's job that a frame from a child reaches: in Borlu-T that of the role one level above its sender, the tray for
a die. -/
def Block.fromChild (b : Block) (f : Frame) : Option Nat :=
  match b.build with | .D => b.ctxOfJob f.job | .T => b.ctxAt f.job (if f.level ≤ 4 then 5 else f.level + 1)

/-- The context of a frame's job that a frame from a parent reaches: in Borlu-T that of the role one level below its sender. -/
def Block.fromParent (b : Block) (f : Frame) : Option Nat :=
  match b.build with | .D => b.ctxOfJob f.job | .T => b.ctxAt f.job (f.level - 1)

/-- The context at the lowest level of a job tree whose subtree holds a rank: where an alarm of that rank enters this block. -/
def Block.entryNode (b : Block) (job rank : Nat) : Option Nat :=
  ((List.range 5).map (· + 5)).findSome? (fun l => (b.ctxAt job l).filter (fun c => (b.ctx c).map.any (fun e => e.1 == rank)))
    |>.orElse (fun _ => b.lowestNode job)

/-- The context at the highest level of a job tree that this block holds. -/
def Block.topNode (b : Block) (job : Nat) : Option Nat :=
  ([9, 8, 7, 6, 5].findSome? (b.ctxAt job)).orElse (fun _ => b.ctxOfJob job)

/-- The receiver's context for a frame: none for a block frame (R194); for a control record of CTYPE `ctype` the role that its direction
names; for an alarm the role by which it enters this block; for job statistics on their way down the highest role (R24, R162, R174). -/
def Block.receiver (b : Block) (f : Frame) (ctype : Nat) : Option Nat :=
  if f.isBlockFrame then none
  else if b.build = .D then b.ctxOfJob f.job
  else if f.cls = 0 then b.entryNode f.job f.rank
  else if f.cls = 1 ∧ ctype ∈ downRecords then b.fromParent f
  else if f.cls = 2 ∧ f.down then b.topNode f.job
  else b.fromChild f

/-- The rank count that a PREPARE frame is checked against (R19): that of its record's part 0, here or held, or that of a context of its job and
epoch; none where a receiver does not know it yet. -/
def Block.prepareRanks (b : Block) (f : Frame) : Option Nat :=
  if f.part = 0 then some (fieldAt f.payload 16 4)
  else
    let first := b.parts.findSome? (fun p => if p.key.take 2 == [f.job, f.epoch] then
      (p.got.find? (fun e => e.1 == 0 && fieldAt e.2 0 2 == 0x0101)).map (fun e => fieldAt e.2 16 4) else none)
    match first, b.build with
    | some n, _ => some n
    | none, .T => (b.ctxs.find? (fun e => e.2.phase != .free && e.2.job == f.job && e.2.epoch == f.epoch)).map (fun e => e.2.ranks)
    | none, .D => none

/-- Check 2 of R158: VERSION, CLASS, LENGTH, PART and PARTS, reserved bits, LEVEL, DA bits, JOB, and RANK below the rank
count of the context; for a PREPARE below the RANKS of its record, which part 0 carries. `known` is the receiver's context for JOB;
Borlu-D holds no rank count (R189). -/
def formGood (b : Block) (f : Frame) (known : Option Nat) (isPrepare : Bool) : Bool :=
  let raw := f.raw
  byteAt raw 0 == 4 && byteAt raw 1 / 8 == 0 && acceptsClass b.build f.cls && fieldAt raw 22 2 % 8 == 0 &&
    decide (fieldAt raw 22 2 ≤ 4032) && decide (1 ≤ f.parts) && decide (f.parts ≤ 4096) && decide (f.part < f.parts) &&
    byteAt raw 7 == 0 && decide (f.flags < 16) && zeroAt raw 40 20 && decide (f.level ≤ 9) && f.srcDa % 256 == 0 &&
    f.job != 0xFFFF &&
    (f.noRank || if isPrepare then (match b.prepareRanks f with | some n => decide (f.rank < n) | none => true)
      else match b.build, known with
      | .T, some c => decide (f.rank < (b.ctx c).ranks)
      | _, _ => true)

/-- The new die of a rewritten map entry that has not taken effect sends a control record (R212): the ACK of its PREPARE. -/
def Block.newDie (b : Block) (f : Frame) (known : Option Nat) : Bool :=
  match b.build, known with
  | .T, some c => f.cls == 1 && f.level == 3 && !f.noRank &&
      (b.ctx c).remaps.any (fun m => m.rank == f.rank && m.addr == f.srcDa && !m.done)
  | _, _ => false

/-- Check 3 of R158: a die frame of a job context comes from the die that the map names for its rank, or, in class 1, from the new die of
a rewritten entry that waits for its window (R212). -/
def mapGood (b : Block) (f : Frame) (known : Option Nat) : Bool :=
  match b.build, known with
  | .T, some c => if f.level = 3 ∧ !f.noRank
      then sget (fun _ => (2 ^ 32 : Nat)) (b.ctx c).map f.rank == f.srcDa || b.newDie f known else true
  | _, _ => true

/-- Check 4 of R158: EPOCH equals the epoch of the receiver's context for JOB. -/
def epochGood (b : Block) (f : Frame) (known : Option Nat) : Bool :=
  match known with | some c => (b.ctx c).epoch == f.epoch | none => false

/-- The key of duplicate suppression (R164). -/
def Frame.dupKey (f : Frame) : List Nat :=
  if f.noRank then [f.job, f.epoch, f.level, f.srcDa, f.cls, 1] else [f.job, f.epoch, f.level, f.rank]

/-- The outcome of R164: accepted, duplicate, stale. -/
inductive DupResult
  | accepted | duplicate | stale
deriving DecidableEq, Repr

/-- One sequence value against the state of its key (R164). -/
def DupState.take (d : DupState) (s : Nat) : DupResult × DupState :=
  let diff : Int := (BitVec.ofNat 32 d.high - BitVec.ofNat 32 s).toInt
  let kept := d.seen.filter (fun v => decide ((BitVec.ofNat 32 s - BitVec.ofNat 32 v).toNat ≤ 4095))
  if diff < 0 then (.accepted, { d with high := s, seen := s :: kept })
  else if 4095 < diff then (.stale, d)
  else if s ∈ d.seen then (.duplicate, d)
  else (.accepted, { d with seen := s :: d.seen })

/-- Duplicate suppression over the keys a receiver holds (R164). -/
def dupStep (key : List Nat) (s : Nat) : List DupState → DupResult × List DupState
  | [] => (.accepted, [⟨key, s, [s]⟩])
  | d :: ds => if d.key = key then (let (r, d') := d.take s; (r, d' :: ds))
               else (let (r, ds') := dupStep key s ds; (r, d :: ds'))

/-- The key under which a frame is checked: the new die of a rewritten map entry has a key of its own until the entry takes effect
(R165, R212). -/
def Block.dupKeyOf (b : Block) (f : Frame) (known : Option Nat) : List Nat :=
  if b.newDie f known then f.dupKey ++ [f.srcDa] else f.dupKey

/-- Check 5 of R158 on the block's duplicate state of a context, or of its block frames. A PREPARE of a job or epoch that the receiver
holds no context for is checked against the state that such PREPAREs have left (R193, R197); an older epoch of its job leaves it. -/
def Block.dupCheck (b : Block) (f : Frame) (known : Option Nat) : DupResult × Block :=
  if f.isBlockFrame then
    let (r, t) := dupStep f.dupKey f.seq b.blockDups
    (r, { b with blockDups := t })
  else match known.filter (fun c => (b.ctx c).epoch == f.epoch) with
    | some c => let (r, t) := dupStep (b.dupKeyOf f known) f.seq (b.ctx c).dups
                (r, b.modCtx c (fun x => { x with dups := t }))
    | none =>
      let mine := b.prepDups.filter (fun d => d.key.head? != some f.job || d.key[1]? == some f.epoch)
      let (r, t) := dupStep f.dupKey f.seq mine
      (r, { b with prepDups := t })

/-- A die frame from a die whose context the tray has already released: the last window that TEARDOWN named (R204). -/
def Block.releasedWindow (b : Block) (f : Frame) : Option Nat :=
  if b.build = .T ∧ f.level = 3 then
    (b.released.find? (fun e => e.1 == f.job && e.2.1 == f.epoch)).map (fun e => e.2.2)
  else none

/-- A control record in a frame of a context that this block no longer holds: JOB and EPOCH of that context, NO_RANK 0, SEQ 0
(R204; the sequence counter left with the context, log 9). -/
def Block.sendForeign (b : Block) (d : Dest) (job epoch rank level : Nat) (parts : List Bytes) : Block :=
  let (w, b) := b.freeNat
  (parts.foldl (fun (a : Block × Nat) p =>
    let x := a.1
    let f := frameBytes 1 job (sourceWord rank level false false) a.2 (w % 2 ^ 40) (bit (!x.time.valid) * 2) a.2 parts.length
      x.ft.toNat x.da epoch p
    ((x.queueItem x.blockCtx 1 d f).frameSent, a.2 + 1)) (b, 0)).1

/-- The die slot of a tray-local die address. -/
def slotOf (da : Nat) : Nat := bitsOf da 12 8

/-- A frame that fails check 2, 3 or 4 (R158); one from a die of a released context makes the tray send TEARDOWN again
(R204). -/
def Block.badFrame (b : Block) (f : Frame) : Block :=
  let b := b.recordBad
  match b.releasedWindow f with
  | some l => b.sendForeign (.die (slotOf f.srcDa)) f.job f.epoch 0 5 [padTo 8 (controlRecord 0x0106 (leBytes 5 l ++ zeros 3))]
  | none => b

/-- The health steward writes ID_DA.PLACE of a die, from the tray's own ID_DA (R470). -/
def Block.writePlace (b : Block) (slot : Nat) : Block :=
  ({ b with tray := { b.tray with placed := setB b.tray.placed slot } } : Block).sendControl none (.die slot) 0x0602
    (leBytes 4 Reg.ID_DA ++ leBytes 4 (b.fld Reg.ID_DA 31 13 * 2 ^ 13))

/-- The first frame of a die link that passes check 1 makes the die present (R494), and the health steward writes its place. -/
def Block.markPresent (b : Block) (link : Nat) : Block :=
  if b.build = .T ∧ link < 32 ∧ !b.tray.present.getLsbD link then
    let b := { b with tray := { b.tray with present := setB b.tray.present link } }
    if b.stewardRuns 4 then b.writePlace link else b
  else b

/-- An accepted frame of a die is EMBER evidence for every rank that the maps of ACTIVE contexts give that die (R209). A frame that is
discarded because its rank is RETIRED is no accepted frame (R211). -/
def Block.markEvidence (b : Block) (da : Nat) : Block :=
  { b with ctxs := b.ctxs.map (fun e =>
      if e.2.phase = .active then
        (e.1, { e.2 with members := e.2.members.map (fun m =>
          if sget (fun _ => (2 ^ 32 : Nat)) e.2.map m.1 = da then (m.1, { m.2 with fresh := m.2.fresh ||| 1 }) else m) })
      else e) }

/-- A frame of a context that waits for its release, or one beyond the last window of its context (R204, R206). A control frame carries
no window that the spec fixes, so the window of class 1 is not looked at (log 49). -/
def leftContext (b : Block) (f : Frame) (known : Option Nat) : Bool :=
  match known with
  | none => false
  | some c =>
    let x := b.ctx c
    x.phase == .releaseQueued || ((f.cls == 0 || (decide (2 ≤ f.cls) && decide (f.cls ≤ 4))) &&
      (match x.lastWin with | some l => decide (0 < windowDiff f.window l) | none => false))

/-- A frame of a rank in RETIRED (R211). -/
def retiredRank (b : Block) (f : Frame) (known : Option Nat) : Bool :=
  match known with
  | some c => b.build == .T && f.level == 3 && !f.noRank &&
      (sget (fun _ => ({} : Member)) (b.ctx c).members f.rank).phase == .retired
  | none => false

/-- The receive checks 1 to 5 of R158 in their order: the frame where it passes, and the block with what was counted; `ctype` is the CTYPE
of the control record that the frame is taken for. Checks 3 and 4 do not apply to PREPARE (R192).
A link code from 33 to 63 is discarded (R480). A tray in P2 receives on its die links only, and a block in OFF nothing (R451). -/
def Block.rx (b : Block) (link : Nat) (raw : Bytes) (ctype : Nat := 0) : Option Frame × Block :=
  if b.power.phase = 3 ∨ (b.build = .T ∧ b.asleep ∧ 32 ≤ link) then (none, b)
  else if b.build = .T ∧ 33 ≤ link then (none, b.recordBad)
  else if !crcGood raw then (none, (b.count Reg.FRM_CRC_ERR 1).flag Reg.FRM_STS 0)
  else
    let b := b.markPresent link
    let f := readFrame raw
    let known := b.receiver f ctype
    let isPrepare := ctype == 0x0101
    if !formGood b f known isPrepare || (!isPrepare && leftContext b f known) then (none, b.recordBad)
    else if !f.isBlockFrame && !isPrepare && !(mapGood b f known && epochGood b f known) then (none, b.badFrame f)
    else
      let (r, b) := b.dupCheck f known
      match r with
      | .duplicate => (none, (b.count Reg.FRM_DUP 1).flag Reg.FRM_STS 2)
      | .stale => (none, (b.count Reg.FRM_STALE 1).flag Reg.FRM_STS 3)
      | .accepted =>
        if retiredRank b f known then (none, b.count Reg.MBR_RETIRED_RX 1)
        else (some f, (if b.build = .T ∧ f.level = 3 then b.markEvidence f.srcDa else b).count Reg.FRM_RX 1)

/-! ### Control payloads -/

/-- The CTYPE values that the chapters define; every other value is reserved (R11). -/
def knownCtype (c : Nat) : Bool :=
  (decide (0x0101 ≤ c) && decide (c ≤ 0x010B)) || (decide (0x0201 ≤ c) && decide (c ≤ 0x0204)) ||
  c ∈ [0x0301, 0x0302, 0x0B01] || (decide (0x0401 ≤ c) && decide (c ≤ 0x040C)) ||
  (decide (0x0601 ≤ c) && decide (c ≤ 0x0603)) || c == 0x0701 || (decide (0x0801 ≤ c) && decide (c ≤ 0x0803)) ||
  (decide (0x0901 ≤ c) && decide (c ≤ 0x0903)) || (decide (0x0A01 ≤ c) && decide (c ≤ 0x0A05))

/-- The records of a control payload, each whole with its 8-byte header; a record whose RLEN does not fit ends the list. -/
def controlRecords : Nat → Bytes → List Bytes
  | 0, _ => []
  | n + 1, bs =>
    let len := fieldAt bs 4 4
    if bs.length < 8 ∨ len < 8 ∨ bs.length < len then []
    else bs.take len :: controlRecords n (bs.drop ((len + 7) / 8 * 8))

/-- The CTYPE of a control record. -/
def ctypeOf (r : Bytes) : Nat := fieldAt r 0 2

/-- Whoever acts on a record of this CTYPE works: while its plan steward does not run, a Borlu-T takes no part in a start, a teardown, a
remap or a takeover (R437). -/
def Block.heeds (b : Block) (ctype : Nat) : Bool :=
  b.build == .D || b.stewardRuns 1 || decide (ctype ∉ [0x0101, 0x0102, 0x0103, 0x0104, 0x0106, 0x0109, 0x010A])

/-- Act on the records of one CTYPE in a payload, in their order; a record of a reserved CTYPE is discarded and counted
(R11, R191). -/
def Block.onRecords (b : Block) (ctype : Nat) (f : Frame) (rs : List Bytes) (act : Block → Frame → Bytes → Block) : Block :=
  rs.foldl (fun b r =>
    if ctypeOf r = ctype then b.when (b.heeds ctype) (fun b => act b f r)
    else if knownCtype (ctypeOf r) then b else b.recordBad) b

/-- Keep one part of a record that spans frames; the whole record once every part is there (R193). -/
def Block.assemble (b : Block) (f : Frame) : Option Bytes × Block :=
  let key := f.dupKey ++ [(f.seq + 2 ^ 32 - f.part) % 2 ^ 32]
  let old := (b.parts.find? (fun s => s.key == key)).getD ⟨key, f.parts, []⟩
  let got := (old.got.filter (fun e => e.1 != f.part)) ++ [(f.part, f.payload)]
  let others := b.parts.filter (fun s => s.key != key)
  if got.length = f.parts then
    let whole := ((List.range f.parts).map (fun i => sget (fun _ => ([] : Bytes)) got i)).flatten
    (some whole, { b with parts := others })
  else (none, { b with parts := others ++ [⟨key, f.parts, got⟩] })

/-- Receive a class 1 frame and act on its records of one CTYPE, a record that spans frames when it is whole. -/
def Block.receiveControl (b : Block) (link : Nat) (raw : Bytes) (ctype : Nat) (act : Block → Frame → Bytes → Block) : Block :=
  match b.rx link raw ctype with
  | (none, b) => b
  | (some f, b) =>
    if f.cls ≠ 1 then b
    else if f.parts = 1 then b.onRecords ctype f (controlRecords 512 f.payload) act
    else match b.assemble f with
      | (none, b) => b
      | (some whole, b) => b.onRecords ctype f (controlRecords 1 whole) act

/-- The link index of TIM_LINK_DELAY for a frame's link (R50): entry 0 in Borlu-D; in Borlu-T the die slot, or 32 plus the
tree port. -/
def Block.linkEntry (b : Block) (port link : Nat) : Nat :=
  match b.build with | .D => 0 | .T => if link < 32 then link else 32 + port

/-- Where an answer to a frame goes. -/
def Block.backTo (b : Block) (port link : Nat) : Dest :=
  match b.build with | .D => .tray | .T => if link < 32 then .die link else .treePort port

end Sys2Proof.Machine
end

