-- ==== Sys2Proof/Machine/TraceCore.lean ====
section
/-! DEFINITION. The trace encoder (spec/05): packets and reference state (R109 to R112), loaves and syncs (R113 to R116), the
staging area and drop mode (R127, R128), exclusion and grants (R122, R124). -/

namespace Sys2Proof.Machine

/-- Change the trace unit. -/
def Block.modTrace (b : Block) (f : TraceUnit → TraceUnit) : Block :=
  { b with die := { b.die with trace := f b.die.trace } }

/-- The trace state of region `p`. -/
def Block.traceRegion (b : Block) (p : Nat) : TraceRegion := sget (fun _ => ({} : TraceRegion)) b.die.trace.regions p

/-- Change the trace state of region `p`. -/
def Block.modTraceRegion (b : Block) (p : Nat) (f : TraceRegion → TraceRegion) : Block :=
  b.modTrace (fun t => { t with regions := smodify (fun _ => ({} : TraceRegion)) t.regions p f })

/-- The tap port of region `p`. -/
def Block.tapPort (b : Block) (p : Nat) : TapPort := sget (fun _ => ({} : TapPort)) b.die.taps.ports p

/-- A bit of a pair of LO and HI mask registers. -/
def Block.maskBit (b : Block) (lo p : Nat) : Bool := b.isSet (lo + 4 * (p / 32)) (p % 32)

/-- Feed `p` is enabled (R106). -/
def Block.feedEnabled (b : Block) (p : Nat) : Bool := b.maskBit Reg.TRC_EN_LO p

/-- The regions whose feeds are enabled, ascending. -/
def Block.tracedRegions (b : Block) : List Nat := (List.range 64).filter (fun p => b.feedEnabled p)

/-- The unit places packets in RUN and POST only (R116). -/
def TraceUnit.places (t : TraceUnit) : Bool := t.phase == 2 || t.phase == 3

/-! ### Reference state (R111) -/

/-- The nominal period of an operating point, in 2^-20 ticks (R58, R111). -/
def Block.oppPeriod (b : Block) (n : Nat) : Nat := b.fld (Reg.TIM_OPP + 4 * n) 31 0

/-- The fleet time P(C) of plan cycle C (R111). -/
def Block.planTime (b : Block) (r : TraceRegion) (c : Nat) : BitVec 64 :=
  r.fta + BitVec.ofInt 64 ((((c : Int) - r.pca) * b.oppPeriod r.n) / 2 ^ 20)

/-! ### Packets (R110) -/

/-- The first two bytes of a region packet. -/
def pktHead (type p : Nat) : Bytes := leBytes 1 type ++ leBytes 1 p

/-- The first two bytes of a die packet. -/
def dieHead (type : Nat) : Bytes := leBytes 1 type ++ leBytes 1 0x80

/-- A SYNC packet (R110, R114) with the values it carries. -/
def Block.syncPacket (b : Block) (p cause pc a : Nat) (ft : BitVec 64) : Bytes :=
  let r := b.traceRegion p
  let cmd := (b.tapPort p).cmd
  pktHead 0x01 p ++ leBytes 1 (cause + r.n * 16) ++
    leBytes 1 (bit (b.die.trace.suppressed.getLsbD p) + bit r.gated * 2 + bit r.down * 4 + bit r.stopped * 8) ++
    leBytes 6 pc ++ leBytes 6 r.d ++ leBytes 4 a ++ leBytes 3 (cmd.tag + bit cmd.opened * 2 ^ 23) ++ zeros 1 ++ leBytes 8 ft.toNat

/-- The ANCHOR of a loaf (R110, R113): the window index is 0 with NO_WINDOW while the trace context is not active. -/
def Block.anchorPacket (b : Block) (afterDrop : Bool) (syncs : Nat) : Bytes :=
  let c := b.fld Reg.TRC_CTL 25 23
  let x := b.ctx c
  dieHead 0x02 ++ leBytes 1 (bit (!b.time.valid) + bit (!x.isActive) * 2 + bit afterDrop * 4) ++ leBytes 1 syncs ++ zeros 4 ++
    leBytes 8 b.ft.toNat ++ leBytes 5 (if x.isActive then windowOf x.k b.ft else 0) ++ leBytes 1 c ++ zeros 2

/-- An OVERFLOW packet of the losses since the latest one (R110, R128). -/
def Block.overflowPacket (b : Block) : Bytes :=
  let l := b.die.trace.loss
  dieHead 0x43 ++ zeros 2 ++ leBytes 4 (satTo (2 ^ 32 - 1) l.bytes) ++ leBytes 4 (satTo (2 ^ 32 - 1) l.entries) ++
    leBytes 8 l.firstFt.toNat ++ leBytes 8 b.ft.toNat ++ leBytes 8 l.regions.toNat

/-! ### The staging area and the buffer (R127) -/

/-- The bytes that the trace buffer and the staging area hold: loaves that have not left, and the open one (R149). -/
def TraceUnit.held (t : TraceUnit) : Nat :=
  t.ended.foldl (fun a l => a + l.input.length) 0 + (match t.loaf with | some l => l.input.length | none => 0)

/-- The staging area after the cycles that have passed: 128 bytes a cycle move into the buffer while it has room (R127). TRC_BUF_HWM takes the fill
in whole units of 256 bytes, rounded up (R134 gives the unit and no rounding; DESIGN CHOICE, log 42). -/
def Block.drainStaging (b : Block) : Block :=
  let t := b.die.trace
  let room := 262144 - (t.held - t.staging)
  let moved := min (min t.staging (128 * (b.time.cycles - t.stagingCycle))) room
  let fill := t.held - (t.staging - moved)
  (b.modTrace (fun t => { t with staging := t.staging - moved, stagingCycle := b.time.cycles })).raiseF Reg.TRC_BUF_HWM 10 0
    (ceilDiv fill 256)

/-- The free bytes of the trace buffer. -/
def TraceUnit.bufferFree (t : TraceUnit) : Nat := 262144 - (t.held - t.staging)

/-! ### Loaves (R113 to R115) -/

/-- The open loaf ends with flags beside SYNC_ALIGNED; FLUSHED only below the block size (R113, R146). -/
def Block.endLoaf (b : Block) (flushed final : Bool) : Block :=
  b.modTrace (fun t => match t.loaf with
    | none => t
    | some l => { t with loaf := none, ended := t.ended ++ [{ l with
        flags := 8 + bit (flushed && decide (l.input.length < 4096 * 2 ^ l.blk)) * 2 + bit final * 4 }] })

/-- Append bytes to the open loaf and to the staging area. -/
def Block.appendTrace (b : Block) (bytes : Bytes) : Block :=
  b.modTrace (fun t => { t with loaf := t.loaf.map (fun l => { l with input := l.input ++ bytes }),
                                staging := t.staging + bytes.length })

/-- A loss enters the next OVERFLOW (R127, R128). -/
def Block.traceLost (b : Block) (bytes entries : Nat) (region : Option Nat) : Block :=
  b.modTrace (fun t =>
    let l := t.loss
    { t with loss := { bytes := l.bytes + bytes, entries := l.entries + entries, firstFt := if l.seen then l.firstFt else b.ft,
                       regions := (match region with | some p => setB l.regions p | none => l.regions), seen := true } })

/-- Bytes that drop mode drops (R127). -/
def Block.dropBytes (b : Block) (n : Nat) : Block :=
  ((b.traceLost n 0 none).count Reg.TRC_LOST_BYTES n).lightAdd 50 n

/-- Stall mode is permitted by STALL_OK and the state (R129); it is in force while sched_debug is asserted too. -/
def Block.stallPermitted (b : Block) : Bool := b.isSet Reg.TRC_CTL 30 && b.die.trace.places

/-- A packet of `n` bytes that finds the staging area full starts drop mode (R127): while stall mode is not in force, or while regions are
stalled and the area fills all the same (R130). In stall mode with no region stalled the spec names no effect, and the packet is placed
(DESIGN CHOICE, log 42). -/
def Block.overfills (b : Block) (n : Nat) : Bool :=
  let t := b.die.trace
  decide (8192 < t.staging + n) && (!(b.stallPermitted && t.schedDebug) || t.stall != 0)

/-- Drop mode starts with a packet of `n` bytes that finds the staging area full (R127): the open loaf ends FLUSHED, and the packet is dropped. -/
def Block.dropMode (b : Block) (n : Nat) : Block :=
  (((b.endLoaf true false).modTrace (fun t => { t with dropping := true })).flag Reg.TRC_STS 2).dropBytes n

/-- A packet enters the open loaf and the staging area; in drop mode it is dropped, and one that finds the area full starts drop mode
(R127). -/
def Block.putPacket (b : Block) (pkt : Bytes) : Block :=
  if b.die.trace.dropping then b.dropBytes pkt.length
  else if b.overfills pkt.length then b.dropMode pkt.length
  else b.appendTrace pkt

/-- The state sync of a region (R114): its values as they stand, FT := P(PC); the reference state follows it (R111). -/
def Block.stateSync (b : Block) (p : Nat) : Block :=
  let r := b.traceRegion p
  let ft := b.planTime r r.pc
  (b.putPacket (b.syncPacket p 0 r.pc r.a ft)).modTraceRegion p (fun r => { r with fta := ft, pca := r.pc })

/-- A loaf starts (R113, R127): ANCHOR, an OVERFLOW after drop mode, a SYNC for every enabled region. An ANCHOR that finds the staging area full
starts drop mode, and no loaf starts. -/
def Block.startLoaf (b : Block) (afterDrop : Bool) : Block :=
  let ps := b.tracedRegions
  let anchor := b.anchorPacket afterDrop ps.length
  if b.overfills anchor.length then b.dropMode anchor.length
  else
    let b := b.modTrace (fun t => { t with
      seq := (t.seq + 1) % 2 ^ 32,
      loaf := some { seq := t.seq, blk := b.fld Reg.TRC_CTL 22 20, rawOnly := b.isSet Reg.LOF_CTL 3, effort := b.fld Reg.LOF_CTL 1 0,
                     startFt := b.ft } })
    let b := b.appendTrace anchor
    let b := if afterDrop then (b.putPacket b.overflowPacket).modTrace (fun t => { t with loss := {} }) else b
    b.forEach ps Block.stateSync

/-- The open loaf has no room for `n` more bytes (R113). -/
def TraceUnit.loafFull (t : TraceUnit) (n : Nat) : Bool :=
  match t.loaf with | some l => decide (4096 * 2 ^ l.blk < l.input.length + n) | none => true

/-- Place a packet (R113, R116, R127): dropped in drop mode; a full staging area starts drop mode; a packet that would overfill the
loaf cuts it first. -/
def Block.place (b : Block) (pkt : Bytes) : Block :=
  let b := b.drainStaging
  let t := b.die.trace
  if !t.places then b
  else if t.dropping then b.dropBytes pkt.length
  else if b.overfills pkt.length then b.dropMode pkt.length
  else
    let b := if t.loafFull pkt.length then (b.endLoaf false false).startLoaf false else b
    b.putPacket pkt

/-- Place a packet of region `p`: none of a gated or a suppressed region (R117, R122). -/
def Block.placeFor (b : Block) (p : Nat) (pkt : Bytes) : Block :=
  if (b.traceRegion p).gated || b.die.trace.suppressed.getLsbD p then b else b.place pkt

/-- Make the cut of R113 before `n` bytes of region `p` are formed: their values are those after the syncs of the new loaf, or they
stay together in one loaf. -/
def Block.makeRoom (b : Block) (p n : Nat) : Block :=
  let b := b.drainStaging
  let t := b.die.trace
  if !t.places || t.dropping || (b.traceRegion p).gated || t.suppressed.getLsbD p || b.overfills n || !t.loafFull n then b
  else (b.endLoaf false false).startLoaf false

/-- The open loaf ends FLUSHED and a new one starts (R115). -/
def Block.flushLoaf (b : Block) : Block :=
  if b.die.trace.loaf.isSome then (b.endLoaf true false).startLoaf false else b

/-- The trace_stall of region `p` ends: STALLED is owed before its next packet (R129). -/
def Block.stallEnds (b : Block) (p : Nat) : Block :=
  b.modTraceRegion p (fun r => { r with stalled := some (b.time.cycles - b.die.trace.stallMark, b.ft) })

/-- Every trace_stall is released (R129). -/
def Block.releaseStall (b : Block) : Block :=
  (b.forEach ((List.range 64).filter (fun p => b.die.trace.stall.getLsbD p)) Block.stallEnds).modTrace (fun t => { t with stall := 0 })

/-- The end of a cycle of the trace unit (R116, R128): one OVERFLOW tells of the feed losses of the cycle, unless drop mode is in force. -/
def Block.traceEnd (b : Block) : Block :=
  let t := b.die.trace
  if !t.lossDue then b
  else
    let b := b.modTrace (fun t => { t with lossDue := false })
    if t.places ∧ !t.dropping
    then (b.place b.overflowPacket).modTrace (fun t => if t.dropping then t else { t with loss := {} }) else b

/-- The state leaves RUN and POST (R115, R127): the loaf ends FINAL, drop mode ends, every trace_stall is released. -/
def Block.stopPlacing (b : Block) : Block :=
  (b.endLoaf false true).releaseStall.modTrace (fun t => { t with dropping := false, loss := {} })

/-! ### Placing an entry (R112) -/

/-- A SYNC that stands for an entry (R112, R114): the entry's plan cycle and stamp, its start address when it is a STEP. -/
def Block.entrySync (b : Block) (p cause c : Nat) (s : BitVec 64) (start : Option Nat) : Block :=
  let r := b.traceRegion p
  let a := start.getD r.a
  (b.placeFor p (b.syncPacket p cause c a s)).modTraceRegion p (fun r => { r with pc := c, a := a, fta := s, pca := c, owed := none })

/-- An event sync (R114): PC, A, D and n as they stand, FT the stamp of the event; a suppressed region is frozen (R122). -/
def Block.eventSync (b : Block) (p cause : Nat) (s : BitVec 64) : Block :=
  let r := b.traceRegion p
  if b.die.trace.suppressed.getLsbD p then b
  else (b.placeFor p (b.syncPacket p cause r.pc r.a s)).modTraceRegion p (fun r => { r with fta := s, pca := r.pc })

/-- The STALLED that a region owes (R129): it waits while no packet of the region is placed. -/
def Block.placeStalled (b : Block) (p : Nat) : Block :=
  match (b.traceRegion p).stalled with
  | none => b
  | some (span, ft) =>
    if (b.traceRegion p).gated || b.die.trace.suppressed.getLsbD p || !b.die.trace.places then b
    else (b.place (pktHead 0x42 p ++ zeros 2 ++ leBytes 4 (satTo (2 ^ 32 - 1) span) ++ leBytes 8 ft.toNat)).modTraceRegion p
      (fun r => { r with stalled := none })

/-- What precedes a packet of region `p` that belongs to no entry: POWER, GATE, EXCLUDED, an event sync (R114, R129): STALLED, and an owed
SYNC, which then takes C := PC and the time `s` of the packet (DEDUCED, log 42). -/
def Block.placeBefore (b : Block) (p : Nat) (s : BitVec 64) : Block :=
  if b.die.trace.phase = 0 ∨ b.die.trace.suppressed.getLsbD p then b
  else
    let b := b.placeStalled p
    match (b.traceRegion p).owed with
    | none => b
    | some cause => b.entrySync p cause (b.traceRegion p).pc s none

/-- Place what precedes the packet of an entry (R112, R129): STALLED, an owed SYNC, or PCREF, TIME and JUMP. `timed` is false for an
inserted word, which takes C := PC and no TIME. -/
def Block.placePrefix (b : Block) (p c : Nat) (s : BitVec 64) (start : Option Nat) (timed : Bool) : Block :=
  let b := b.placeStalled p
  match (b.traceRegion p).owed with
  | some cause => b.entrySync p cause c s start
  | none =>
    let r := b.traceRegion p
    let b := if c < r.pc ∨ 65535 < c - r.pc
      then (b.placeFor p (pktHead 0x13 p ++ leBytes 6 c)).modTraceRegion p (fun r => { r with pc := c }) else b
    let r := b.traceRegion p
    let err := ftDiff s (b.planTime r c)
    let delta := ftDiff s r.fta
    let late := timed && decide (b.fld Reg.TRC_TIME 15 0 < err.natAbs)
    let b :=
      if !late then b
      else if delta < -(2 ^ 31) ∨ 2 ^ 31 ≤ delta then b.entrySync p 5 c s start
      else
        let b := b.makeRoom p 8
        (b.placeFor p (pktHead 0x14 p ++ leBytes 2 (c - r.pc) ++ leSigned 4 (ftDiff s (b.traceRegion p).fta))).modTraceRegion p
          (fun r => { r with fta := s, pca := c, pc := c })
    match start with
    | none => b
    | some a =>
      if (b.traceRegion p).a = a then b
      else (b.placeFor p (pktHead 0x12 p ++ leBytes 4 a)).modTraceRegion p (fun r => { r with a := a })

/-- Place an entry of region `p` (R112): its prefix, its packet made from DPC and the reference state, and the update of the
reference state. In OFF nothing is encoded; a suppressed region is frozen (R116, R122). -/
def Block.placeEntryOf (b : Block) (p c : Nat) (s : BitVec 64) (start : Option Nat) (timed : Bool)
    (pkt : Nat → TraceRegion → Bytes) (upd : TraceRegion → TraceRegion) : Block :=
  if b.die.trace.phase = 0 ∨ b.die.trace.suppressed.getLsbD p then b
  else
    let b := b.placePrefix p c s start timed
    let r := b.traceRegion p
    (b.placeFor p (pkt (c - r.pc) r)).modTraceRegion p (fun r => { upd r with pc := c })

/-! ### The command gate (R117) -/

/-- The gate of region `p` is open for its command. -/
def Block.gateOpen (b : Block) (p : Nat) : Bool :=
  let cmd := (b.tapPort p).cmd
  match b.fld Reg.TRC_CFILT 31 30 with
  | 1 => cmd.opened && cmd.model == b.fld Reg.TRC_CFILT 19 0
  | 2 => cmd.opened && decide (b.fld Reg.TRC_CFILT_LO 21 0 ≤ cmd.tag) && decide (cmd.tag ≤ b.fld Reg.TRC_CFILT_HI 21 0)
  | _ => true

/-- The gate of region `p` follows its command as it stands at the start of a cycle: closing places GATE, opening owes a sync of CAUSE 3 (R117). -/
def Block.updateGate (b : Block) (p : Nat) : Block :=
  let r := b.traceRegion p
  let isOpen := b.gateOpen p
  if b.die.trace.phase = 0 ∨ !b.feedEnabled p ∨ r.gated = !isOpen then b
  else if isOpen then b.modTraceRegion p (fun r => { r with gated := false, owed := some 3 })
  else ((b.placeBefore p b.ft).placeFor p (pktHead 0x40 p ++ zeros 2 ++ leBytes 8 b.ft.toNat)).modTraceRegion p
    (fun r => { r with gated := true })

/-- The gates of a cycle that starts (R117). -/
def Block.cycleGates (b : Block) : Block :=
  if b.fld Reg.TRC_CFILT 31 30 = 0 then b else b.forEach b.tracedRegions Block.updateGate

/-! ### Exclusion and grants (R122, R124) -/

/-- A grant covers region `p` while its context is the trace context (R124). -/
def Block.granted (b : Block) (p : Nat) : Bool :=
  b.die.trace.grants.any (fun e => match e.2 with
    | some g => g.ctx == b.fld Reg.TRC_CTL 25 23 && g.mask.getLsbD p
    | none => false)

/-- Region `p` becomes suppressed, with EXCLUDED in its first cycle, or its suppression ends, with a sync of CAUSE 4 owed
(R122). The stall of a region that becomes suppressed ends (R122, R129). -/
def Block.updateExclusion (b : Block) (p : Nat) : Block :=
  let t := b.die.trace
  let now := t.secure.getLsbD p && !b.granted p
  if t.suppressed.getLsbD p = now then b
  else if now then
    let b := if b.feedEnabled p then (b.placeBefore p b.ft).placeFor p (pktHead 0x45 p ++ zeros 6 ++ leBytes 8 b.ft.toNat) else b
    let b := if t.stall.getLsbD p then b.stallEnds p else b
    b.modTrace (fun t => { t with suppressed := setB t.suppressed p, stall := clearB t.stall p })
  else (b.modTrace (fun t => { t with suppressed := clearB t.suppressed p })).modTraceRegion p
    (fun r => { r with owed := some 4 })

/-- Every region's exclusion follows the inputs and the grants. -/
def Block.updateExclusions (b : Block) : Block := b.forEach (List.range 64) Block.updateExclusion

/-- Remove the grants that meet a test (R124). -/
def Block.dropGrants (b : Block) (f : TraceGrant → Bool) : Block :=
  (b.modTrace (fun t => { t with grants := t.grants.filter (fun e => match e.2 with | some g => !f g | none => false) })).updateExclusions

end Sys2Proof.Machine
end

