-- ==== Sys2Proof/Machine/Contexts.lean ====
section
/-! DEFINITION. What the families share about job contexts (spec/08): freeing a context, a node left without a decision
(R37, R200). -/

namespace Sys2Proof.Machine

/-- The contexts of a level role of a lost hearth, by the level and the state images of it that this block has rebuilt: the images and replay
records hold neither the map nor the children of a context (R214, log 59). -/
opaque Config.sharedContexts : Nat → List Bytes → List Ctx

/-- The FT of the decision deadline S − 2 µs (R196). -/
def Ctx.decisionDeadline (x : Ctx) : BitVec 64 := x.start - BitVec.ofNat 64 (2 * ticksPerUs)

/-- The number of ranks in the subtree of a node (R191): one at a die, the entries of its map at a Borlu-T. -/
def Block.subtreeRanks (b : Block) (c : Nat) : Nat :=
  match b.build with | .D => 1 | .T => (b.ctx c).map.length

/-- Free a context: it holds nothing (R190); its duplicate state goes with it (R165). -/
def Block.freeCtx (b : Block) (c : Nat) : Block := b.setCtx c {}

/-- A context left without a decision: LATE_COMMIT toward the hearth, the job crumb, the flag and count, and in a Borlu-T the
notice to its host; then the context is free (R37, R200, R387). -/
def Block.lateCommit (b : Block) (c : Nat) : Block :=
  let x := b.ctx c
  let dl := x.decisionDeadline
  let n := b.subtreeRanks c
  let b := b.sendControl (some c) (b.upward c) 0x0105 (leBytes 8 dl.toNat ++ leBytes 4 x.rank ++ leBytes 4 n)
  let b := b.jobCrumb c 0x0A01 (some x.rank) x.rank n 0
  let b := match b.build with
    | .D => b
    | .T => b.pushNotice 0x0A01 x.job (leBytes 4 x.rank ++ leBytes 4 n ++ zeros 4 ++ leBytes 8 dl.toNat)
  ((b.count Reg.MBR_LATE_COMMIT 1).flag Reg.MBR_STS 2).freeCtx c

/-- VALID falls to 0: every PREPARED or ARMED context is freed as one left without a decision (R37), and Borlu-D removes its
trace grants (R124). The crumbs come in ascending rank (R414). -/
def Block.invalidate (b : Block) : Block :=
  let b := (b.setValid false).dropGrants (fun _ => true)
  b.forEach (rankOrder (fun c => (b.ctx c).rank) (b.ctxIds.filter (fun c => (b.ctx c).phase == .prepared || (b.ctx c).phase == .armed)))
    (fun b c => b.lateCommit c)

/-! ### Erasure groups (R350) -/

/-- The class of the role that writes a segment: tray and rack 0, row and hall 1, campus 2. -/
def classOfLevel (level : Nat) : Nat := if level ≤ 6 then 0 else if level ≤ 8 then 1 else 2

/-- Members G and parity columns p of a class. -/
def groupSize (cls : Nat) : Nat := 10 + cls
def groupParity (cls : Nat) : Nat := 2 + cls

/-- The group of a class is in use, and this block's index in it. -/
def Block.groupOn (b : Block) (cls : Nat) : Bool := b.isSet (Reg.HIS_GRP + 4 * cls) 31
def Block.groupIndex (b : Block) (cls : Nat) : Nat := b.fld (Reg.HIS_GRP + 4 * cls) 19 16

/-- A member of a group. -/
def Block.peerOf (b : Block) (cls m : Nat) : Peer := sget (fun _ => ({} : Peer)) b.tray.peers (16 * cls + m)

/-- The members of the groups in use, this block among them, as 16 × class + index (R350). -/
def Block.groupKeys (b : Block) : List Nat :=
  ((List.range 3).map (fun c => if b.groupOn c then (List.range (groupSize c)).map (16 * c + ·) else [])).flatten

/-- Change a member of a group. -/
def Block.modPeer (b : Block) (cls m : Nat) (f : Peer → Peer) : Block :=
  { b with tray := { b.tray with peers := smodify (fun _ => ({} : Peer)) b.tray.peers (16 * cls + m) f } }

/-- This block serves no longer for a member (R359, R361). -/
def Block.endService (b : Block) (cls m : Nat) : Block :=
  let h := b.tray.history
  let key := 16 * cls + m
  let h := { h with heirOf := h.heirOf.filter (· != key), declared := h.declared.filter (fun e => e.1 != key),
                    rebuilt := h.rebuilt.filter (· != key), content := h.content.filter (fun x => 16 * x.cls + x.member != key),
                    reads := h.reads.filter (fun x => x.segment.isSome || 16 * x.cls + x.member != key) }
  { b with tray := { b.tray with history := h } }.putBit Reg.HIS_STS 4 (!h.rebuilt.isEmpty)

/-- The members at a tray address are heard (R356): their missed periods start again, and a LOST member whose rejoining the host
has written is live once more. -/
def Block.hearPeer (b : Block) (da : Nat) : Block :=
  b.forEach (b.groupKeys.filter (fun k => (b.peerOf (k / 16) (k % 16)).da == da)) (fun b k =>
    let p := b.peerOf (k / 16) (k % 16)
    let b := b.modPeer (k / 16) (k % 16) (fun p => { p with missed := 0 })
    if p.phase = 1 ∧ p.rejoin then (b.modPeer (k / 16) (k % 16) (fun p => { p with phase := 0, rejoin := false })).endService (k / 16) (k % 16)
    else b)

end Sys2Proof.Machine
end

