-- ==== Sys2Proof/Machine/Complete.lean ====
section
/-! DEFINITION. Descriptors that have been taken, their fields (R380), their completions (R384, R385), and host memory. -/

namespace Sys2Proof.Machine

/-! ### Host memory -/

/-- What a byte of host memory reads as that nothing has written (log 12). -/
def hostByte (_ : Nat) : Byte := 0

/-- `n` bytes of host memory from an address, addresses modulo 2^64. -/
def HostUnit.read (h : HostUnit) (addr n : Nat) : Bytes :=
  (List.range n).map (fun i => sget hostByte h.memory ((addr + i) % 2 ^ 64))

/-- Write bytes to host memory from an address, addresses modulo 2^64. -/
def HostUnit.write (h : HostUnit) (addr : Nat) (bs : Bytes) : HostUnit :=
  { h with memory := (bs.foldl (fun (a : Sparse Byte × Nat) x => (sput hostByte a.1 (a.2 % 2 ^ 64) x, a.2 + 1)) (h.memory, addr)).1 }

/-! ### Descriptor fields (R380) -/

def Taken.opcode (t : Taken) : Nat := byteAt t.bytes 0
def Taken.job (t : Taken) : Nat := fieldAt t.bytes 2 2
def Taken.request (t : Taken) : Nat := fieldAt t.bytes 4 4
def Taken.inAddr (t : Taken) : Nat := fieldAt t.bytes 8 8
def Taken.inLen (t : Taken) : Nat := fieldAt t.bytes 16 4
def Taken.outLen (t : Taken) : Nat := fieldAt t.bytes 20 4
def Taken.outAddr (t : Taken) : Nat := fieldAt t.bytes 24 8

/-- The input buffer of a descriptor. -/
def Block.descInput (b : Block) (t : Taken) : Bytes := b.tray.host.read t.inAddr t.inLen

/-- The command ring's state. -/
def HostUnit.cmdRing (h : HostUnit) (r : Nat) : CmdRing := sget (fun _ => ({} : CmdRing)) h.cmd r

/-- Change a command ring. -/
def HostUnit.modCmd (h : HostUnit) (r : Nat) (f : CmdRing → CmdRing) : HostUnit :=
  { h with cmd := smodify (fun _ => ({} : CmdRing)) h.cmd r f }

/-- The completion ring of a command ring (R371). -/
def Block.cplOf (b : Block) (r : Nat) : Nat := b.fld (cmdReg Reg.HST_CMD_CFG r) 27 24

/-- The 32 bytes of a completion without its PHASE (R384). -/
def completionBytes (t : Taken) (status len : Nat) (result : Bytes) : Bytes :=
  leBytes 4 t.request ++ leBytes 1 status ++ leBytes 1 t.opcode ++ leBytes 1 t.ring ++ zeros 1 ++ leBytes 4 t.index ++
    leBytes 4 (if status = 0 then len else 0) ++ (result ++ zeros 15).take 15 ++ zeros 1

/-- A completion ring queues what it holds, oldest first, while it is enabled and has free positions (R372, R373). -/
def Block.flushCpl (b : Block) (i : Nat) : Nat → Block
  | 0 => b
  | n + 1 =>
    let r := b.tray.host.cplRing i
    match r.held with
    | [] => b
    | e :: rest =>
      if b.isSet (cmdReg Reg.HST_CPL_CFG i) 31 && r.hasSpace (b.fld (cmdReg Reg.HST_CPL_CFG i) 28 24)
      then ((b.modHost (fun h => h.modCpl i (fun r => { r with held := rest }))).queueEntry (16 + i) 66 e.2 (some e.1)).flushCpl i n
      else b

/-- A completion enters the ring in which its entry was reserved; a ring that is not enabled keeps it (R372). -/
def Block.writeCompletion (b : Block) (t : Taken) (entry : Bytes) : Block :=
  let b := b.modHost (fun h => h.modCpl t.cpl (fun r => { r with held := r.held ++ [(t.id, entry)], reserved := r.reserved - 1 }))
  b.flushCpl t.cpl (b.tray.host.cplRing t.cpl).held.length

/-- What the flags and counters show of a completion's status: HST_DUP, SEC_DENIED, LSE_HELD_CNT (R393, R436). -/
def Block.countStatus (b : Block) (status : Nat) : Block :=
  if status = 0x01 then b.count Reg.HST_DUP 1
  else if status = 0x0A then (b.count Reg.SEC_DENIED 1).flag Reg.SEC_STS 7
  else if status = 0x0B then (b.count Reg.LSE_HELD_CNT 1).flag Reg.LSE_STAT 1
  else b

/-- A descriptor completes (R384): its entry is written, it leaves the taken ones, and its deduplication entry keeps its
status (R378). -/
def Block.complete (b : Block) (t : Taken) (status : Nat) (len : Nat := 0) (result : Bytes := []) : Block :=
  let b := (b.writeCompletion t (completionBytes t status len result)).countStatus status
  b.modHost (fun h => { h.modCmd t.ring (fun r => { r with dedup := r.dedup.map (fun e =>
    if e.2.1 = t.id then (e.1, e.2.1, some status) else e) }) with taken := h.taken.filter (fun x => x.id != t.id) })

/-- The largest payload of a memory write in bytes (R364, R480): code 3 acts as 0. -/
def PcieLink.payload (x : PcieLink) : Nat := match x.mps with | 1 => 256 | 2 => 512 | _ => 128

/-- Memory writes of data: pieces of at most the largest payload (R364), queued one after the other at a requester of the host port. -/
def Block.queueData (b : Block) (req addr : Nat) (desc : Option Nat) (bytes : Bytes) : Block :=
  let size := b.tray.host.pcie.payload
  let ps := chunks size (bytes.length / size + 1) bytes
  b.forEach (ps.zip (List.range ps.length)) (fun b p => b.setPort 8 ((b.port 8).enqueue req
    { dest := .host ((addr + size * p.2) % 2 ^ 64), bytes := p.1, whole := b.ft, desc := desc }))

/-- Output writes of a descriptor (R395): queued at requester 67 of the host port. -/
def Block.writeOut (b : Block) (t : Taken) (off : Nat) (bytes : Bytes) : Block :=
  b.queueData 67 (t.outAddr + off) (some t.id) bytes

/-- Keep a changed taken descriptor. -/
def Block.setTaken (b : Block) (t : Taken) : Block :=
  b.modHost (fun h => { h with taken := h.taken.map (fun x => if x.id = t.id then t else x) })

/-- A taken descriptor by its identity. -/
def Block.takenById (b : Block) (id : Nat) : Option Taken := b.tray.host.taken.find? (fun t => t.id == id)

/-- The input of a descriptor can be read: while Bus Master Enable is 0 no request leaves (R366). -/
def Block.mayRead (b : Block) (t : Taken) : Bool := b.tray.host.busMaster || t.inLen == 0

/-- Carry out a taken descriptor of an opcode whose turn it is: descriptors are carried out in the order in which they are
taken (R377), by the steward that R437 names, once their input can be read. Any other identity changes nothing (log 3). -/
def Block.onDesc (b : Block) (op steward id : Nat) (f : Block → Taken → Block) : Block :=
  match b.tray.host.taken.find? (fun t => !t.begun) with
  | none => b
  | some t =>
    if t.id = id ∧ t.opcode = op ∧ b.stewardRuns steward ∧ b.mayRead t then
      let t := { t with begun := true }
      f (b.setTaken t) t
    else b

/-- Every stack has finished training and zeroing: descriptors that use stacked memory wait for that (R485). -/
def Block.memoryReady (b : Block) : Bool := b.tray.stacksReady ||| b.tray.stacksFailed == BitVec.allOnes 24

/-- Carry out a descriptor that uses stacked memory (R485). -/
def Block.onMemory (b : Block) (op steward id : Nat) (f : Block → Taken → Block) : Block :=
  b.when b.memoryReady (fun b => b.onDesc op steward id f)

/-! ### Leases (R431 to R433) -/

/-- The lease of a resource; an unlisted one is FREE. -/
def HostUnit.lease (h : HostUnit) (r : Nat) : Lease := sget (fun _ => ({} : Lease)) h.leases r

/-- The holder key of a command ring now: the owner's identity, its epoch, the ring and the ring's epoch (R432). -/
def Block.ringKey (b : Block) (ring : Nat) : LeaseKey :=
  ⟨b.tray.host.ownerId.toNat, b.tray.host.ownerEpoch, ring, b.fld (Reg.LSE_RING_EPOCH + 4 * ring) 15 0⟩

/-- A guarded act of a descriptor on a resource that is HELD under another key (R433). -/
def Block.leaseBlocks (b : Block) (t : Taken) (r : Nat) : Bool :=
  (b.tray.host.lease r).phase == 1 && (b.tray.host.lease r).key != b.ringKey t.ring

end Sys2Proof.Machine
end

