-- ==== Sys2Proof/Machine/Flash.lean ====
section
/-! DEFINITION. The serial NOR flash and what lies in it (R438 to R441, R471 to R473): erasing and programming, the signed configuration
record and its application, the directory, steward images and their check, the range of the health log (R415). -/

namespace Sys2Proof.Machine

/-- What a byte of an erased flash reads as. -/
def flashErased (_ : Nat) : Byte := 0xFF

/-- The bytes of the flash: 512 Mbit (log 30). -/
def flashSize : Nat := 2 ^ 26

/-- The bytes of a sector. -/
def sectorSize : Nat := 65536

/-- Change the flash. -/
def Block.modFlash (b : Block) (f : Sparse Byte → Sparse Byte) : Block := { b with tray := { b.tray with flash := f b.tray.flash } }

/-- Read flash bytes. -/
def Block.flashRead (b : Block) (off n : Nat) : Bytes := sgetList flashErased b.tray.flash off n

/-- Erase the sector that holds an address. -/
def Block.flashErase (b : Block) (off : Nat) : Block :=
  b.modFlash (fun m => m.filter (fun e => e.1 / sectorSize != off / sectorSize))

/-- Program bytes: a program takes bits from 1 to 0 only. -/
def Block.flashProgram (b : Block) (off : Nat) (bs : Bytes) : Block :=
  b.modFlash (fun m => (bs.foldl (fun (a : Sparse Byte × Nat) x => (smodify flashErased a.1 a.2 (· &&& x), a.2 + 1)) (m, off)).1)

/-! ### The signed configuration record (R471 to R473) -/

/-- The bytes of record copy `i`. -/
def Block.recordBytes (b : Block) (i : Nat) : Bytes := b.flashRead (0x20000 + sectorSize * i) 4096

def recKey (r : Bytes) : Nat := byteAt r 3
def recSeq (r : Bytes) : Nat := fieldAt r 4 4
def recRevoke (r : Bytes) : Nat := byteAt r 24
def recHarvest (r : Bytes) : List Bytes := (List.range (byteAt r 26)).map (fun i => slice r (128 + 4 * i) 4)

/-- A harvest entry names an existing physical unit (R472). -/
def harvestGood (e : Bytes) : Bool :=
  let (kind, quad, unit) := (byteAt e 0, byteAt e 1, byteAt e 2)
  byteAt e 3 == 0 && (match kind with
    | 0 => decide (quad < 4) && decide (unit < 34)
    | 1 => decide (quad < 4) && unit == 0
    | 3 => quad == 0 && decide (unit < 16)
    | 5 => quad == 0 && decide (unit < 34)
    | _ => false)

/-- Package ranges ascend and do not overlap (R472). -/
def packagesGood : Option Nat → List Bytes → Bool
  | _, [] => true
  | prev, e :: es => decide (byteAt e 0 ≤ byteAt e 1) && decide (byteAt e 1 ≤ 31) && zeroAt e 2 2 &&
      (match prev with | some p => decide (p < byteAt e 0) | none => true) && packagesGood (some (byteAt e 1)) es

/-- The first difference of a list from a list without repeats: no entry appears twice. -/
def allDistinct : List Bytes → Bool
  | [] => true
  | e :: es => !(e ∈ es) && allDistinct es

/-- A record copy is valid (R472). -/
def recordGood (r : Bytes) : Bool :=
  let npkg := byteAt r 25
  let nharv := byteAt r 26
  slice r 0 3 == [0xA9, 0x43, 0x01] && decide (recKey r ≤ 3) && zeroAt r 18 2 && decide (fieldAt r 20 4 < 10 ^ 9) &&
    decide (recRevoke r < 16) && decide (npkg ≤ 16) && decide (nharv ≤ 32) && zeroAt r 27 1 && zeroAt r 60 4 &&
    zeroAt r (64 + 4 * npkg) (64 - 4 * npkg) && zeroAt r (128 + 4 * nharv) (128 - 4 * nharv) && zeroAt r 256 3744 &&
    fieldAt r 8 4 % 2 ^ 13 == 0 && packagesGood none ((List.range npkg).map (fun i => slice r (64 + 4 * i) 4)) &&
    (recHarvest r).all harvestGood && allDistinct (recHarvest r) && !bitOf (recRevoke r) (recKey r) &&
    Config.signatureVerifies (recKey r) (r.take 4000) (slice r 4000 96)

/-- Of two sequence numbers the first is ahead, modulo 2^32. -/
def seqAhead (x y : Nat) : Bool := decide (0 < (BitVec.ofNat 32 x - BitVec.ofNat 32 y).toInt)

/-- The copy that the flash offers: the valid one, of two valid ones that whose sequence is ahead (R438). -/
def Block.recordChoice (b : Block) : Option Nat :=
  match recordGood (b.recordBytes 0), recordGood (b.recordBytes 1) with
  | true, true => some (if seqAhead (recSeq (b.recordBytes 1)) (recSeq (b.recordBytes 0)) then 1 else 0)
  | true, false => some 0
  | false, true => some 1
  | false, false => none

/-- The record in use, as the flash holds it. -/
def Block.record (b : Block) : Option Bytes := b.tray.recordCopy.map b.recordBytes

/-- Choose and apply the record (R438, R446, R472, R473): the choice is made at a power-on reset and stands until the next one. -/
def Block.applyRecord (b : Block) : Block :=
  let b := if b.tray.powerOn then { b with tray := { b.tray with recordCopy := b.recordChoice } } else b
  match b.record with
  | none => b
  | some r =>
    let cfg := 2 ^ 31 + (b.tray.recordCopy.getD 0) * 2 ^ 30 + recRevoke r * 2 ^ 24 + recKey r
    let b := (b.setReg Reg.ID_DA (BitVec.ofNat 32 (fieldAt r 8 4))).setReg Reg.ID_CFG (BitVec.ofNat 32 cfg)
    let b := b.setReg Reg.ID_CFG_SEQ (BitVec.ofNat 32 (recSeq r))
    let sec := fieldAt r 12 6
    ((b.setReg Reg.PTP_EPOCH_SEC_LO (BitVec.ofNat 32 sec)).setReg Reg.PTP_EPOCH_SEC_HI (BitVec.ofNat 32 (sec / 2 ^ 32))).setReg
      Reg.PTP_EPOCH_NS (BitVec.ofNat 32 (fieldAt r 20 4))

/-! ### Directory and images (R439 to R441) -/

/-- The bytes of directory copy `i`. -/
def Block.dirBytes (b : Block) (i : Nat) : Bytes := b.flashRead (sectorSize * i) 64

/-- A directory copy is valid (R439). -/
def dirGood (d : Bytes) : Bool := slice d 0 3 == [0xA9, 0x5C, 0x01] && fieldAt d 60 4 == (crc32c (d.take 60)).toNat

/-- The directory copy in force. -/
def Block.dirChoice (b : Block) : Option Nat :=
  match dirGood (b.dirBytes 0), dirGood (b.dirBytes 1) with
  | true, true => some (if seqAhead (fieldAt (b.dirBytes 1) 4 4) (fieldAt (b.dirBytes 0) 4 4) then 1 else 0)
  | true, false => some 0
  | false, true => some 1
  | false, false => none

/-- The active slots, one bit a steward (R439). -/
def Block.activeSlots (b : Block) : Nat := match b.dirChoice with | some i => byteAt (b.dirBytes i) 8 % 64 | none => 0

/-- The active slot of steward `s`: 0 A, 1 B. -/
def Block.activeSlot (b : Block) (s : Nat) : Nat := bit (bitOf b.activeSlots s)

/-- Write the directory with new active slots (R439): the copy not in force is erased and programmed. -/
def Block.writeDirectory (b : Block) (bits : Nat) : Block :=
  let (i, seq) := match b.dirChoice with
    | some i => (1 - i, (fieldAt (b.dirBytes i) 4 4 + 1) % 2 ^ 32)
    | none => (0, 1)
  let head := [0xA9, 0x5C, 0x01, 0x00] ++ leBytes 4 seq ++ leBytes 1 bits ++ zeros 51
  let b := (b.flashErase (sectorSize * i)).flashProgram (sectorSize * i) head
  b.flashProgram (sectorSize * i + 60) (leBytes 4 (crc32c head).toNat)

/-- The flash offset of an image: slot 0 A, 1 B (R438). -/
def imageOffset (slot s : Nat) : Nat := (if slot = 0 then 0x100000 else 0x700000) + 0x100000 * s

/-- The header of an image. -/
def Block.imageHead (b : Block) (slot s : Nat) : Bytes := b.flashRead (imageOffset slot s) 256

/-- The minimum security version of a steward; 0 without a record (R438). -/
def Block.minSvn (b : Block) (s : Nat) : Nat := match b.record with | some r => fieldAt r (28 + 4 * s) 4 | none => 0

/-- The check of an image for steward `s` (R441): 0 accepted, else the cause of STW_STATE. -/
def Block.imageCause (b : Block) (slot s : Nat) : Nat :=
  let h := b.imageHead slot s
  let len := fieldAt h 12 4
  if slice h 0 3 ≠ [0xA9, 0x46, 0x01] ∨ byteAt h 3 ≠ s ∨ !zeroAt h 22 42 ∨ !zeroAt h 112 48 ∨ len < 4 ∨ 458752 < len ∨ len % 4 ≠ 0 ∨
      len ≤ fieldAt h 16 4 then 1
  else if 3 < byteAt h 20 ∨ bitOf (b.fld Reg.ID_CFG 27 24) (byteAt h 20) then 2
  else if !Config.signatureVerifies (byteAt h 20) (h.take 160) (slice h 160 96) then 3
  else if sha384 (b.flashRead (imageOffset slot s + 256) len) ≠ slice h 64 48 then 4
  else if fieldAt h 8 4 < b.minSvn s then 5
  else 0

/-! ### The health log's range (R415) -/

/-- The range of the health log in use: whole sectors, at least 16, beyond the images and within a flash that lists a 64 KiB erase (R415,
R438). -/
def Block.logRange (b : Block) : Option (Nat × Nat) :=
  match b.record with
  | none => none
  | some r =>
    let base := fieldAt r 52 4
    let size := fieldAt r 56 4
    if b.tray.flashTable.erase64 ∧ base % sectorSize = 0 ∧ size % sectorSize = 0 ∧ 16 * sectorSize ≤ size ∧ 0xD00000 ≤ base ∧ base + size ≤ flashSize
    then some (base, size) else none

/-- Slots of the log. -/
def Block.logSlots (b : Block) : Nat := match b.logRange with | some (_, size) => size / 32 | none => 0

/-- The bytes of slot `i` of the log. -/
def Block.logSlot (b : Block) (i : Nat) : Bytes := match b.logRange with | some (base, _) => b.flashRead (base + 32 * i) 32 | none => zeros 32

/-- A slot was never written since its sector was erased. -/
def slotBlank (s : Bytes) : Bool := s.all (· == 0xFF)

/-- CODE of a crumb. -/
def crumbCode (c : Bytes) : Nat := fieldAt c 0 2

/-- The crumb codes that R418 lists. -/
def crumbCodes : List Nat :=
  [0x0101, 0x0102, 0x0103, 0x0104, 0x0105, 0x0106, 0x0701, 0x0801, 0x0901, 0x0A01, 0x0A02, 0x0A03, 0x0B01, 0x0B02, 0x0B03, 0x0C01, 0x0C02,
   0x0C03, 0x0C04, 0x0D01, 0x0E01, 0x0E02, 0x0F01, 0x1001, 0x1002, 0x1101, 0x1201, 0x1301, 0x1401, 0x1402, 0x1403, 0x1404, 0x1501, 0x1502,
   0x1701, 0x1702, 0x1801]

/-- A crumb without reserved values (R409). -/
def crumbGood (c : Bytes) : Bool := crumbCode c ∈ crumbCodes && byteAt c 2 / 8 % 16 == 0 && decide (byteAt c 2 % 8 ≤ 4)

/-- The SOURCE of an H crumb is a die address with bits 7:0 clear (R14, R409). -/
def crumbSourceGood (c : Bytes) : Bool := !bitOf (byteAt c 2) 7 || fieldAt c 4 4 % 256 == 0

/-- A crumb of a valid slot (R410, R411); one with reserved values is discarded (R409). -/
def slotCrumb (s : Bytes) : Option Bytes := if byteAt s 31 = 0xA4 ∧ crumbGood (s.take 31) then some (s.take 31) else none

/-- The crumbs of the log, the oldest first from the slot at the head. -/
def Block.logCrumbs (b : Block) : List Bytes :=
  let n := b.logSlots
  ((List.range n).map (fun i => (b.recorder.head + i) % n)).filterMap (fun i => slotCrumb (b.logSlot i))

/-- A crumb has PINNED set. -/
def crumbPinned (c : Bytes) : Bool := bitOf (byteAt c 3) 1

/-- The crumbs of a list that count as pinned (R415, R426): a SEAL_BROKEN crumb that a later RESEAL follows does not. -/
def pinnedOf : List Bytes → List Bytes
  | [] => []
  | c :: cs =>
    let gone := crumbCode c == 0x1501 && cs.any (fun d => crumbCode d == 0x1502)
    if crumbPinned c && !gone then c :: pinnedOf cs else pinnedOf cs

/-- The log, with what waits to be written into it, holds a pinned SEAL_BROKEN crumb that no RESEAL follows (R416, R426). -/
def Block.sealRecorded (b : Block) : Bool := (pinnedOf (b.logCrumbs ++ b.recorder.queue)).any (fun c => crumbCode c == 0x1501)

end Sys2Proof.Machine
end

