-- ==== Sys2Proof/Machine/Recorder.lean ====
section
/-! DEFINITION. The recorder at work (R409 to R419): crumbs of the dies, the persistent log, hours, clearing the log, reading a slot. -/

namespace Sys2Proof.Machine

/-! ### Crumbs of the dies (R409, R413, R414) -/

/-- Crumbs that the block reads back with reserved values are discarded and counted (R409): those of some slots of the log. -/
def Block.countBadSlots (b : Block) (slots : List Bytes) : Block :=
  let n := (slots.filter (fun s => byteAt s 31 == 0xA4 && (slotCrumb s).isNone)).length
  if n = 0 then b else (b.count Reg.EVR_BAD n).flag Reg.EVR_STS 0

/-- A CRUMB record from a die (R413, R414): FROM_DIE is set, and an H crumb takes this tray's HOURS and PCYC. -/
def Block.crumbRecord (b : Block) (f : Frame) (r : Bytes) : Block :=
  let c := slice r 8 31
  if !(crumbGood c && crumbSourceGood c) then (b.count Reg.EVR_BAD 1).flag Reg.EVR_STS 0
  else
    let flags := leBytes 1 (byteAt c 3 / 2 * 2 + 1)
    if bitOf (byteAt c 2) 7 then b.storeHealth (slice c 0 3 ++ flags ++ slice c 4 16 ++ b.healthTime ++ slice c 28 3)
    else match b.fromChild f with
      | some i => b.storeJob i (slice c 0 3 ++ flags ++ c.drop 4)
      | none => b

/-- CRUMB_RECEIVE (R414). -/
def execCrumbReceive (port : Fin 8) (link : Fin 64) (frame : Bytes) (s : State) : Host.Outcome State Fault Refusal :=
  let _ := port
  onTray (fun b => b.receiveControl link frame 0x0701 Block.crumbRecord) s

/-! ### The persistent log (R415, R416) -/

/-- The health steward can write the log: it runs, and the log can be used. -/
def Block.logWrites (b : Block) : Bool := b.stewardRuns 4 && b.logRange.isSome && !b.recorder.logFail

/-- Program one crumb at the head: bytes 0 to 30, then MARK (R410). The head advances. -/
def Block.programSlot (b : Block) (c : Bytes) : Block :=
  match b.logRange with
  | none => b
  | some (base, _) =>
    let off := base + 32 * b.recorder.head
    let b := (b.flashProgram off (c.take 31)).flashProgram (off + 31) [0xA4]
    (b.count Reg.EVR_FLASH_WR 1).modRec (fun x => { x with head := (x.head + 1) % b.logSlots })

/-- The pinned crumbs of the sector that begins at slot `h`, which are copied forward before it is erased (R415): those of which the rest of
the log has no copy yet. -/
def Block.pinnedAt (b : Block) (h : Nat) : List Bytes :=
  let inside := ((List.range 2048).map (fun i => b.logSlot (h + i))).filterMap slotCrumb
  let outside := ((List.range (b.logSlots - 2048)).map (fun i => b.logSlot ((h + 2048 + i) % b.logSlots))).filterMap slotCrumb
  let pinned := pinnedOf b.logCrumbs
  inside.filter (fun c => c ∈ pinned && !(c ∈ outside))

/-- Before the head enters a sector that holds crumbs, its pinned crumbs are copied forward, into the last slots of the sector in which the head
stands, and the sector is then erased (R415). A copy that the sector before had no room for is written after the erase (log 69). -/
def Block.enterSector (b : Block) : Block :=
  match b.logRange with
  | none => b
  | some (base, _) =>
    let next := (b.recorder.head / 2048 + 1) * 2048 % b.logSlots
    let keep := b.pinnedAt next
    let b := if b.recorder.head % 2048 ≠ 0 ∧ 2048 - b.recorder.head % 2048 ≤ keep.length then b.forEach keep Block.programSlot else b
    let h := b.recorder.head
    let slots := (List.range 2048).map (fun i => b.logSlot (h + i))
    if h % 2048 ≠ 0 ∨ slots.all slotBlank then b
    else
      let left := b.pinnedAt h
      ((b.countBadSlots slots).flashErase (base + 32 * h)).forEach left Block.programSlot

/-- Program one crumb into the log. -/
def Block.programCrumb (b : Block) (c : Bytes) : Block := b.enterSector.programSlot c

/-- The queue has drained: crumbs that missed flash are told in one LOG_GAP crumb (R416). -/
def Block.logGap (b : Block) : Block :=
  if !b.recorder.queue.isEmpty || b.recorder.dropped == 0 then b
  else
    let n := satTo (2 ^ 32 - 1) b.recorder.dropped
    (b.modRec (fun x => { x with dropped := 0 })).healthCrumb 0x1404 n 0 0

/-- Program the crumb at the front of the queue. -/
def Block.programNext (b : Block) : Block :=
  match b.recorder.queue with
  | [] => b
  | c :: cs => ((b.modRec (fun x => { x with queue := cs })).programCrumb c).logGap

/-- FLASH_CRUMB_PROGRAM (R416). -/
def execFlashCrumbProgram (s : State) : Host.Outcome State Fault Refusal :=
  onTray (fun b => b.when (b.logWrites && b.power.phase != 3) Block.programNext) s

/-- HOURS_CRUMB_DUE (R413): HPER units of HOURS have passed since the latest HOURS crumb. -/
def execHoursCrumbDue (s : State) : Host.Outcome State Fault Refusal :=
  onTray (fun b =>
    let due := max 1 (b.fld Reg.EVR_CTL 15 8)
    b.when (b.stewardRuns 4 && decide (due ≤ (b.recorder.hours + 2 ^ 32 - b.recorder.hoursWritten) % 2 ^ 32)) (fun b =>
      (b.modRec (fun x => { x with hoursWritten := x.hours })).healthCrumb 0x1402 0 0 0)) s

/-- Program every queued crumb. -/
def Block.flushQueue (b : Block) : Block :=
  let q := b.recorder.queue
  (b.modRec (fun x => { x with queue := [] })).forEach q Block.programCrumb

/-- Clear the log (R417): queued crumbs are written, every sector is erased, then come LOG_CLEARED and a copy of every pinned crumb. Crumbs
that missed flash are told after the copies (R416). -/
def Block.clearLog (b : Block) : Block :=
  match b.logRange with
  | none => b
  | some (base, size) =>
    let b := b.flushQueue
    let b := b.countBadSlots ((List.range b.logSlots).map b.logSlot)
    let keep := pinnedOf b.logCrumbs
    let b := b.forEach (List.range (size / sectorSize)) (fun b i => b.flashErase (base + sectorSize * i))
    let c := crumbBytes 0x1403 true false false b.da keep.length 0 0 b.healthTime 0
    let b := (b.modRec (fun x => { x with head := 0 })).ringCrumb c
    let b := if b.fld Reg.EVR_CTL 2 0 ≤ severityOf 0x1403 then b.pushEvent 2 0 (c ++ leBytes 1 0xA4) else b
    ((c :: keep).foldl Block.programCrumb b).logGap

/-- LOG_CLEAR (R417): a log that cannot be used is not cleared. -/
def Block.logClear (b : Block) (t : Taken) : Block := if b.logWrites then b.clearLog.complete t 0 else b.complete t 0x09

/-- LOG_CLEAR (R417). -/
def execLogClear (id : Nat) (s : State) : Host.Outcome State Fault Refusal := onTray (fun b => b.onDesc 0x53 4 id Block.logClear) s

/-! ### Reading a slot (R419) -/

/-- The 32 bytes of a slot of a ring; a slot that nothing has written reads zero. -/
def CrumbRing.slot (r : CrumbRing) (i : Nat) : Bytes :=
  let s := sget (fun _ => ([] : Bytes)) r.slots i
  s ++ zeros (32 - s.length)

/-- The slot that EVR_RD_SEL selects; one beyond its source reads zero. -/
def Block.selectedCrumb (b : Block) : Bytes :=
  let i := b.fld Reg.EVR_RD_SEL 17 0
  match b.fld Reg.EVR_RD_SEL 31 30, b.build with
  | 0, .D => if i < 4096 then b.recorder.ring.slot i else zeros 32
  | 0, .T => if i < 8192 then b.recorder.ring.slot i else zeros 32
  | 1, .T => if i < b.logSlots then b.logSlot i else zeros 32
  | 2, .T => if i < 16384 then (sget (fun _ => ({} : CrumbRing)) b.recorder.jrings (b.fld Reg.EVR_RD_SEL 29 24)).slot i else zeros 32
  | _, _ => zeros 32

/-- The next slot to be written in the selected source. -/
def Block.selectedHead (b : Block) : Nat :=
  match b.fld Reg.EVR_RD_SEL 31 30, b.build with
  | 0, _ => b.recorder.ring.head
  | 1, .T => b.recorder.head
  | 2, .T => (sget (fun _ => ({} : CrumbRing)) b.recorder.jrings (b.fld Reg.EVR_RD_SEL 29 24)).head
  | _, _ => 0

/-- A read of EVR_RD_DATA[0] latches all eight words of the slot. -/
def Block.latchCrumb (b : Block) : Block :=
  let c := b.selectedCrumb
  let b := b.forEach (List.range 8) (fun b i => b.setReg (Reg.EVR_RD_DATA + 4 * i) (BitVec.ofNat 32 (fieldAt c (4 * i) 4)))
  { b with rdata := BitVec.ofNat 32 (fieldAt c 0 4) }

/-- EVR_RD_DATA_READ (R419). -/
def execEvrRdDataRead (b : Build) (s : State) : Host.Outcome State Fault Refusal := onBlock b Block.latchCrumb s

/-! ### After a reset (R413, R415) -/

/-- The age of a sector of the log: PCYC and HOURS of its last crumb; 0 where it has none. -/
def Block.sectorAge (b : Block) (i : Nat) : Nat :=
  match ((List.range 2048).filterMap (fun j => slotCrumb (b.logSlot (2048 * i + j)))).getLast? with
  | some c => fieldAt c 24 3 * 2 ^ 32 + fieldAt c 20 4
  | none => 0

/-- The write position of the log: the slot after the newest written one (R415). In a log with no free slot the newest stands before the
sector whose age falls below the age of the sector before it (log 83). -/
def Block.logPosition (b : Block) : Nat :=
  let n := b.logSlots
  match (List.range n).find? (fun i => !slotBlank (b.logSlot i) && slotBlank (b.logSlot ((i + 1) % n))) with
  | some i => (i + 1) % n
  | none =>
    let m := n / 2048
    if (List.range n).all (fun i => slotBlank (b.logSlot i)) then 0
    else match (List.range m).find? (fun i => decide (b.sectorAge ((i + 1) % m) < b.sectorAge i)) with
      | some i => 2048 * ((i + 1) % m)
      | none => 0

/-- The health steward runs for the first time after a reset: at a power-on reset it scans the log for HOURS and PCYC and writes a BOOT
crumb; LOG_FAIL shows a log that cannot be used. -/
def Block.bootRecorder (b : Block) : Block :=
  let bad := b.logRange.isNone
  let b := (b.modRec (fun x => { x with logFail := bad, head := b.logPosition })).putBit Reg.EVR_STS 3 bad
  let b := b.countBadSlots ((List.range b.logSlots).map b.logSlot)
  if !b.tray.powerOn then b
  else
    let cs := (b.logCrumbs).filter (fun c => bitOf (byteAt c 2) 7)
    let hours := cs.foldl (fun a c => max a (fieldAt c 20 4)) 0
    let pcyc := cs.foldl (fun a c => max a (fieldAt c 24 3)) 0
    let b := b.modRec (fun x => { x with hours := hours, hoursWritten := hours, pcyc := (pcyc + 1) % 2 ^ 24 })
    b.healthCrumb 0x1401 (bit bad) 0 0

end Sys2Proof.Machine
end

