-- ==== Sys2Proof/Machine/Float.lean ====
section
/-! DEFINITION. IEEE 754 binary32 as the featuriser computes it (R223): round to nearest with ties to even, subnormals kept, one
canonical NaN. A value is its 32 bits, as a number. -/

namespace Sys2Proof.Machine

/-- The canonical NaN of R223. -/
def f32NaN : Nat := 0x7FC00000

/-- Plus infinity. -/
def f32Inf : Nat := 0x7F800000

/-- The sign bit. -/
def f32Neg (x : Nat) : Bool := bitOf x 31

/-- The value without its sign. -/
def f32Abs (x : Nat) : Nat := x % 2 ^ 31

/-- The value is a NaN. -/
def f32Nan (x : Nat) : Bool := decide (f32Inf < f32Abs x)

/-- The value is an infinity. -/
def f32IsInf (x : Nat) : Bool := f32Abs x == f32Inf

/-- The value is finite. -/
def f32Finite (x : Nat) : Bool := decide (f32Abs x < f32Inf)

/-- Plus or minus zero. -/
def f32Zero (x : Nat) : Bool := f32Abs x == 0

/-- The mantissa of a finite value, as an integer. -/
def f32Mant (x : Nat) : Nat := if bitsOf x 30 23 = 0 then bitsOf x 22 0 else 2 ^ 23 + bitsOf x 22 0

/-- The exponent of the mantissa's lowest bit. -/
def f32Exp (x : Nat) : Int := (max 1 (bitsOf x 30 23) : Int) - 150

/-- A finite value as a signed integer multiple of 2^-149. -/
def f32Scaled (x : Nat) : Int :=
  let m : Int := f32Mant x * 2 ^ (f32Exp x + 149).toNat
  if f32Neg x then -m else m

/-- Put a sign on a magnitude. -/
def f32Sign (neg : Bool) (m : Nat) : Nat := bit neg * 2 ^ 31 + m

/-- Round `m` × 2^`e` to the nearest value, ties to even (R223). -/
def f32Round (neg : Bool) (m : Nat) (e : Int) : Nat :=
  if m = 0 then f32Sign neg 0
  else
    let target : Int := max (e + (Nat.log2 m : Int) - 23) (-149)
    let q : Nat :=
      if target ≤ e then m * 2 ^ (e - target).toNat
      else
        let sh := (target - e).toNat
        let r := m % 2 ^ sh
        let half := 2 ^ (sh - 1)
        m / 2 ^ sh + bit (decide (half < r) || (r == half && m / 2 ^ sh % 2 == 1))
    let bits := if q < 2 ^ 23 then q else (target + 150).toNat * 2 ^ 23 + (q - 2 ^ 23)
    f32Sign neg (min f32Inf bits)

/-- An integer, rounded. -/
def f32OfInt (v : Int) : Nat := f32Round (decide (v < 0)) v.natAbs 0

/-- Change the sign; a NaN stays the canonical NaN. -/
def f32Negate (x : Nat) : Nat := if f32Nan x then f32NaN else f32Sign (!f32Neg x) (f32Abs x)

/-- The sum. A zero sum of values of opposite sign is +0. -/
def f32Add (x y : Nat) : Nat :=
  if f32Nan x || f32Nan y then f32NaN
  else if f32IsInf x then (if f32IsInf y && f32Neg x != f32Neg y then f32NaN else x)
  else if f32IsInf y then y
  else
    let s := f32Scaled x + f32Scaled y
    if s = 0 then (if f32Neg x && f32Neg y then f32Sign true 0 else 0)
    else f32Round (decide (s < 0)) s.natAbs (-149)

/-- The difference. -/
def f32Sub (x y : Nat) : Nat := f32Add x (f32Negate y)

/-- The product. -/
def f32Mul (x y : Nat) : Nat :=
  let neg := f32Neg x != f32Neg y
  if f32Nan x || f32Nan y then f32NaN
  else if f32IsInf x || f32IsInf y then (if f32Zero x || f32Zero y then f32NaN else f32Sign neg f32Inf)
  else f32Round neg (f32Mant x * f32Mant y) (f32Exp x + f32Exp y)

/-- The quotient: 64 bits of it and a sticky bit decide the rounding. -/
def f32Div (x y : Nat) : Nat :=
  let neg := f32Neg x != f32Neg y
  if f32Nan x || f32Nan y then f32NaN
  else if f32IsInf x then (if f32IsInf y then f32NaN else f32Sign neg f32Inf)
  else if f32IsInf y then f32Sign neg 0
  else if f32Zero y then (if f32Zero x then f32NaN else f32Sign neg f32Inf)
  else
    let n := f32Mant x * 2 ^ 64
    let d := f32Mant y
    f32Round neg (2 * (n / d) + bit (n % d != 0)) (f32Exp x - f32Exp y - 65)

/-- A number that orders the values that are no NaN, with the two zeros equal. -/
def f32Key (x : Nat) : Int := if f32Neg x then -(f32Abs x : Int) else f32Abs x

/-- `x < y`; false with a NaN. -/
def f32Lt (x y : Nat) : Bool := !f32Nan x && !f32Nan y && decide (f32Key x < f32Key y)

/-- `x ≤ y`; false with a NaN. -/
def f32Le (x y : Nat) : Bool := !f32Nan x && !f32Nan y && decide (f32Key x ≤ f32Key y)

/-- `x = y`; false with a NaN, true of the two zeros. -/
def f32Eq (x y : Nat) : Bool := !f32Nan x && !f32Nan y && f32Key x == f32Key y

/-- The nearest integer, ties to even, saturated to 32 bits (R232); 0 for a NaN. -/
def f32ToInt (x : Nat) : Int :=
  if f32Nan x then 0
  else if f32IsInf x then (if f32Neg x then -(2 ^ 31) else 2 ^ 31 - 1)
  else
    let m := f32Mant x
    let e := f32Exp x
    let q : Nat :=
      if 0 ≤ e then m * 2 ^ e.toNat
      else
        let sh := (-e).toNat
        let r := m % 2 ^ sh
        m / 2 ^ sh + bit (decide (2 ^ (sh - 1) < r) || (r == 2 ^ (sh - 1) && m / 2 ^ sh % 2 == 1))
    sat32 (if f32Neg x then -(q : Int) else q)

/-- A power of two times an integer, which is exact while it fits (R253). -/
def f32Scale (v : Int) (s : Int) : Nat := f32Round (decide (v < 0)) v.natAbs s

end Sys2Proof.Machine
end

