-- ==== Sys2Proof/Machine/Sieve.lean ====
section
/-! DEFINITION. Sieve histograms (R182 to R185): bins, exact content, the stored forms and their layouts. -/

namespace Sys2Proof.Machine

/-- floor(log2 x) for x at least 1, with fuel. -/
def log2Floor : Nat → Nat → Nat
  | 0, _ => 0
  | f + 1, x => if x < 2 then 0 else 1 + log2Floor f (x / 2)

/-- The bin of a shifted value (R182). -/
def sieveBin (x : Nat) : Nat :=
  if x < 16 then x
  else if 2 ^ 19 ≤ x then 255
  else let e := log2Floor 20 x; 16 * (e - 3) + x / 2 ^ (e - 4) % 16

/-- A bin's exact count. -/
def Sieve.bin (s : Sieve) (i : Nat) : Nat := sget (fun _ => 0) s.bins i

/-- A value enters a sieve (R182). -/
def Sieve.enter (s : Sieve) (v : Nat) : Sieve :=
  let x := v / 2 ^ s.shift
  { s with bins := smodify (fun _ => 0) s.bins (sieveBin x) (· + 1), ovf := s.ovf + bit (decide (2 ^ 19 ≤ x)) }

/-- The bins with a count of at least `m`, ascending. -/
def Sieve.above (s : Sieve) (m : Nat) : List (Nat × Nat) := s.bins.filter (fun e => decide (m ≤ e.2))

/-- The content fits NARROW (R183). -/
def Sieve.narrow (s : Sieve) : Bool :=
  decide (s.ovf < 2 ^ 32) && s.bins.all (fun e => decide (e.2 ≤ 1048575)) && decide ((s.above 16).length ≤ 64)

/-- The NARROW body (R184). -/
def Sieve.narrowBody (s : Sieve) : Bytes :=
  let cs := s.above 16
  leBytes 4 s.n ++ leBytes 1 s.shift ++ leBytes 1 cs.length ++ zeros 2 ++ leBytes 4 s.ovf ++ zeros 4 ++
    (List.range 128).map (fun j => BitVec.ofNat 8 (s.bin (2 * j) % 16 + s.bin (2 * j + 1) % 16 * 16)) ++
    (cs.map (fun e => leBytes 1 e.1 ++ zeros 1 ++ leBytes 2 (e.2 / 16))).flatten

/-- Content as WIDE stores it: counts and OVF saturate at 2^32 − 1, with SAT (R183). -/
def Sieve.saturate (m : Nat) (ovfMax : Nat) (s : Sieve) : Sieve :=
  { s with bins := s.bins.map (fun e => (e.1, satTo m e.2)), ovf := satTo ovfMax s.ovf,
           sat := s.sat || s.bins.any (fun e => decide (m < e.2)) || decide (ovfMax < s.ovf) }

/-- The WIDE body (R184), of saturated content. -/
def Sieve.wideBody (s : Sieve) : Bytes :=
  let hs := s.above 65536
  leBytes 4 s.n ++ leBytes 1 s.shift ++ zeros 1 ++ leBytes 2 hs.length ++ leBytes 4 s.ovf ++ zeros 4 ++
    ((List.range 256).map (fun j => leBytes 2 (s.bin j % 65536))).flatten ++
    (hs.map (fun e => leBytes 1 e.1 ++ zeros 1 ++ leBytes 2 (e.2 / 65536))).flatten

/-- The RESOLVED body (R184), of saturated content. -/
def Sieve.resolvedBody (s : Sieve) : Bytes :=
  leBytes 4 s.n ++ leBytes 1 s.shift ++ zeros 3 ++ leBytes 8 s.ovf ++ ((List.range 256).map (fun j => leBytes 6 (s.bin j))).flatten

/-- The stored form of a content (R183): FORM code, body, and SAT. -/
def Sieve.store (s : Sieve) : Nat × Bytes × Bool :=
  if s.narrow then (0, s.narrowBody, s.sat)
  else let w := s.saturate (2 ^ 32 - 1) (2 ^ 32 - 1); (1, w.wideBody, w.sat)

/-- The RESOLVED form of a content (R183, R185): body and SAT. -/
def Sieve.resolve (s : Sieve) : Bytes × Bool :=
  let w := s.saturate (2 ^ 48 - 1) (2 ^ 64 - 1); (w.resolvedBody, w.sat)

/-- The entries of 4 bytes that follow the bins: bin and count. -/
def sieveEntries (bs : Bytes) (n : Nat) : List (Nat × Nat) :=
  (List.range n).map (fun i => (byteAt bs (4 * i), fieldAt bs (4 * i + 2) 2))

/-- The entries are in ascending bin order, with zero reserved bytes and counts that are not zero (R184). -/
def entriesGood (bs : Bytes) (n : Nat) : Bool :=
  let es := sieveEntries bs n
  bs.length == 4 * n && es.all (fun e => e.2 != 0) && (List.range n).all (fun i => byteAt bs (4 * i + 1) == 0) &&
    (es.zip es.tail).all (fun p => decide (p.1.1 < p.2.1))

/-- Add counts to bins. -/
def binsAdd (a b : Sparse Nat) : Sparse Nat := b.foldl (fun m e => smodify (fun _ => 0) m e.1 (· + e.2)) a

/-- Read a sieve body of a FORM; none where it breaks its layout (R184). -/
def readSieve (form : Nat) (sat : Bool) (body : Bytes) : Option Sieve :=
  let n := fieldAt body 0 4
  let shift := byteAt body 4
  let bins (f : Nat → Nat) : Sparse Nat := ((List.range 256).map (fun j => (j, f j))).filter (fun e => e.2 != 0)
  match form with
  | 0 =>
    let nc := byteAt body 5
    let tail := body.drop 144
    if body.length < 144 ∨ 64 < nc ∨ 16 < shift ∨ !zeroAt body 6 2 ∨ !zeroAt body 12 4 ∨ !entriesGood tail nc then none
    else
      let low := bins (fun j => byteAt body (16 + j / 2) / 16 ^ (j % 2) % 16)
      some { shift := shift, n := n, ovf := fieldAt body 8 4, sat := sat,
             bins := binsAdd low ((sieveEntries tail nc).map (fun e => (e.1, 16 * e.2))) }
  | 1 =>
    let nh := fieldAt body 6 2
    let tail := body.drop 528
    if body.length < 528 ∨ 256 < nh ∨ 16 < shift ∨ !zeroAt body 5 1 ∨ !zeroAt body 12 4 ∨ !entriesGood tail nh then none
    else
      let low := bins (fun j => fieldAt body (16 + 2 * j) 2)
      some { shift := shift, n := n, ovf := fieldAt body 8 4, sat := sat,
             bins := binsAdd low ((sieveEntries tail nh).map (fun e => (e.1, 65536 * e.2))) }
  | 2 =>
    if body.length ≠ 1552 ∨ 16 < shift ∨ !zeroAt body 5 3 then none
    else some { shift := shift, n := n, ovf := fieldAt body 8 8, sat := sat, bins := bins (fun j => fieldAt body (16 + 6 * j) 6) }
  | _ => none

/-- Two sieves merge: exact counts, OVF and N add, SAT is the OR (R185). -/
def Sieve.merge (a b : Sieve) : Sieve :=
  { shift := a.shift, n := a.n + b.n, bins := binsAdd a.bins b.bins, ovf := a.ovf + b.ovf, sat := a.sat || b.sat }

end Sys2Proof.Machine
end

