-- ==== Sys2Proof/Machine/Kneader.lean ====
section
/-! DEFINITION. Reduction items and the kneaders (R175 to R185): items and fragments, their layouts, and the merge of two
operands. -/

namespace Sys2Proof.Machine

/-- The IFLAGS byte of an item without MORE. -/
def Item.flags (i : Item) : Nat := bit i.sat + bit i.nan * 2 + bit i.late * 4

/-- N, the number of ranks that contributed. -/
def Item.n (i : Item) : Nat := fieldAt i.body 0 4

/-- An item header (R175). -/
def itemHeader (id op form flags offset len : Nat) : Bytes :=
  leBytes 2 id ++ leBytes 1 op ++ leBytes 1 form ++ leBytes 1 flags ++ zeros 3 ++ leBytes 4 offset ++ leBytes 4 len

/-- The records of an item: whole when it fits a payload, else in fragments (R176). -/
def Item.records (i : Item) : List Bytes :=
  let step := 4016
  let n := max 1 (ceilDiv i.body.length step)
  (List.range n).map (fun j =>
    let part := slice i.body (j * step) step
    padTo 8 (itemHeader i.id i.op i.form (i.flags + bit (decide (j + 1 < n)) * 8) (j * step) part.length ++ part))

/-- The operations and forms that R175 defines. -/
def formKnown (op form : Nat) : Bool :=
  match op with
  | 1 => decide (form ≤ 1) | 2 => decide (form ≤ 2) | 3 => decide (form ≤ 2) | 4 => decide (form ≤ 2) | 5 => decide (form ≤ 2)
  | 6 => form == 0 | 7 => decide (form ≤ 2) | 8 => form == 0 | _ => false

/-- The operation and form of an item are not reserved. -/
def Item.known (i : Item) : Bool := formKnown i.op i.form

/-- Items of a reserved OP or FORM are discarded and counted (R11, R175). -/
def Block.badItems (b : Block) (items : List Item) : Block :=
  let n := (items.filter (fun i => !i.known)).length
  if n = 0 then b else (b.count Reg.FRM_BAD n).flag Reg.FRM_STS 1

/-- One item record: its identifier, operation and form, its reserved bytes, its IFLAGS, its body part. -/
structure ItemPart where
  head : Bytes
  rest : Bytes
  flags : Nat
  offset : Nat
  part : Bytes
deriving DecidableEq, Repr

/-- The item records of a payload, with fuel; none where a record runs past the payload. Zero bytes fill the space after the last (R159). -/
def itemParts : Nat → Bytes → Option (List ItemPart)
  | 0, _ => some []
  | n + 1, bs =>
    if zeroAt bs 0 bs.length then some []
    else
      let len := fieldAt bs 12 4
      if bs.length < 16 + len then none
      else (itemParts n (bs.drop ((16 + len + 7) / 8 * 8))).map
        (fun r => { head := slice bs 0 4, rest := slice bs 5 3, flags := byteAt bs 4, offset := fieldAt bs 8 4, part := slice bs 16 len } :: r)

/-- Two fragments of one item carry the same header but for OFFSET, LEN and MORE (R176). -/
def ItemPart.sameHead (p q : ItemPart) : Bool :=
  p.head == q.head && p.rest == q.rest && p.flags % 8 == q.flags % 8 && p.flags / 16 == q.flags / 16

/-- Put the fragments of an output's items together (R176): ascending OFFSET without gap or overlap, equal headers but for OFFSET,
LEN and MORE; none where a fragment breaks that. -/
def joinParts : List ItemPart → Option ItemPart → Option (List Item)
  | [], none => some []
  | [], some _ => none
  | p :: ps, acc =>
    let more := bitOf p.flags 3
    let whole : Option ItemPart := match acc with
      | none => if p.offset = 0 then some p else none
      | some a => if a.sameHead p ∧ p.offset = a.part.length
                  then some { a with part := a.part ++ p.part } else none
    match whole with
    | none => none
    | some a =>
      if more then joinParts ps (some a)
      else (joinParts ps none).map (fun r =>
        { id := fieldAt a.head 0 2, op := byteAt a.head 2, form := byteAt a.head 3, sat := bitOf a.flags 0, nan := bitOf a.flags 1,
          late := bitOf a.flags 2, body := a.part } :: r)

/-- The items of an output's payloads in PART order; none for a fragment fault (R176). -/
def readItems (payloads : List Bytes) : Option (List Item) :=
  let parts := payloads.map (fun p => itemParts 512 p)
  if parts.any (·.isNone) then none else joinParts (parts.map (fun p => p.getD [])).flatten none

/-! ### Values (R178) -/

/-- A 32-bit word is a NaN of binary32. -/
def f32IsNaN (v : Nat) : Bool := bitsOf v 30 23 == 255 && bitsOf v 22 0 != 0

/-- The order key of a value of a FORM: 0 U64, 1 S64, 2 F32 (−0 below +0). -/
def valueKey (form v : Nat) : Int :=
  match form with
  | 1 => signed 64 v
  | 2 => if bitOf v 31 then -(bitsOf v 30 0 : Int) - 1 else bitsOf v 30 0
  | _ => v

/-- The body of a MIN, MAX, ARGMIN or ARGMAX item. -/
def extremeBody (n rank value : Nat) : Bytes := leBytes 4 n ++ leBytes 4 rank ++ leBytes 8 value

/-- An entry of TOPK: value and rank. -/
def topEntries (body : Bytes) : List (Nat × Nat) :=
  (List.range (byteAt body 5)).map (fun i => (fieldAt body (8 + 8 * i) 4, bitsOf (fieldAt body (12 + 8 * i) 4) 17 0))

/-- The order of TOPK (R179): VALUE descending, then RANK ascending. -/
def topBefore (x y : Nat × Nat) : Bool := decide (y.1 < x.1) || (x.1 == y.1 && decide (x.2 ≤ y.2))

/-- The first K of a list of entries in the order of TOPK, one for each rank (R179). -/
def topFirst (k : Nat) (es : List (Nat × Nat)) : List (Nat × Nat) :=
  ((es.mergeSort topBefore).foldl (fun (acc : List (Nat × Nat)) e => if acc.any (fun a => a.2 == e.2) then acc else acc ++ [e]) []).take k

/-- A TOPK body. -/
def topBody (n k : Nat) (es : List (Nat × Nat)) : Bytes :=
  leBytes 4 n ++ leBytes 1 k ++ leBytes 1 es.length ++ zeros 2 ++ (es.map (fun e => leBytes 4 e.1 ++ leBytes 4 e.2)).flatten

/-- Presence codes in the order absent < late < contested < present (R180), as a rank. -/
def presenceOrder (code : Nat) : Nat := match code with | 1 => 3 | 3 => 2 | 2 => 1 | _ => 0

/-- The code at a rank of a PRESENCE body, none outside its range. -/
def presenceAt (body : Bytes) (r : Nat) : Option Nat :=
  let first := fieldAt body 4 4
  if first ≤ r ∧ r < first + fieldAt body 8 4 then some (byteAt body (16 + (r - first) / 4) / 4 ^ ((r - first) % 4) % 4) else none

/-- The map bytes of a PRESENCE body (R180). -/
def presenceBits (first count : Nat) (code : Nat → Nat) : Bytes :=
  padTo 8 ((List.range (ceilDiv count 4)).map (fun j => BitVec.ofNat 8
    ((List.range 4).foldl (fun a i => if 4 * j + i < count then a + code (first + 4 * j + i) % 4 * 4 ^ i else a) 0)))

/-- A PRESENCE body over a range of ranks (R175, R180). -/
def presenceBody (first count : Nat) (code : Nat → Nat) : Bytes :=
  leBytes 4 ((List.range count).filter (fun i => code (first + i) == 1)).length ++ leBytes 4 first ++ leBytes 4 count ++ zeros 4 ++
    presenceBits first count code

/-- The merge of two PRESENCE bodies: the union of the ranges, the higher code of each rank (R180). -/
def presenceMerge (a b : Bytes) : Bytes :=
  let fa := fieldAt a 4 4; let fb := fieldAt b 4 4
  let ca := fieldAt a 8 4; let cb := fieldAt b 8 4
  let first := if ca = 0 then fb else if cb = 0 then fa else min fa fb
  let last := max (if ca = 0 then first else fa + ca) (if cb = 0 then first else fb + cb)
  let pick (r : Nat) : Nat :=
    let x := (presenceAt a r).getD 0; let y := (presenceAt b r).getD 0
    if presenceOrder x < presenceOrder y then y else x
  presenceBody first (last - first) pick

/-! ### Layouts (R175, R178, R184) -/

/-- An item's body keeps the layout of its operation and form. -/
def Item.layoutGood (i : Item) : Bool :=
  let b := i.body
  match i.op with
  | 1 => if i.form = 0 then b.length == 16 && zeroAt b 4 4 else b.length == 24 && zeroAt b 4 4
  | 6 => decide (8 ≤ b.length) && decide (1 ≤ byteAt b 4) && decide (byteAt b 4 ≤ 64) && decide (byteAt b 5 ≤ byteAt b 4) &&
         b.length == 8 + 8 * byteAt b 5
  | 7 => (readSieve i.form i.sat b).isSome
  | 8 => decide (16 ≤ b.length)
  | _ => b.length == 16 && (i.form != 2 || (zeroAt b 12 4 && !(decide (0 < i.n) && f32IsNaN (fieldAt b 8 4))))

/-- Two operands of one item can merge: equal OP and FORM family, K, SHIFT (R176). -/
def Item.sameKind (a b : Item) : Bool :=
  a.op == b.op && match a.op with
    | 6 => byteAt a.body 4 == byteAt b.body 4
    | 7 => byteAt a.body 4 == byteAt b.body 4
    | _ => a.form == b.form

/-! ### Merges (R177 to R185) -/

/-- A saturating 64-bit sum, and whether it saturated (R177). -/
def sum64 (x y : Nat) : Nat × Bool := (satTo (2 ^ 64 - 1) (x + y), decide (2 ^ 64 - 1 < x + y))

/-- What a merge of two operands shows beside its result: it saturated, it was converted to WIDE, it was stored WIDE. -/
structure MergeNote where
  sat : Bool := false
  wide : Bool := false
  stored : Bool := false
deriving DecidableEq, Repr

/-- The merge of two operands of one kind (R177 to R185). -/
def mergeItems (a b : Item) : Item × MergeNote :=
  let n := leBytes 4 (a.n + b.n)
  let base : Item := { a with sat := a.sat || b.sat, nan := a.nan || b.nan, late := a.late || b.late }
  match a.op with
  | 1 =>
    if a.form = 0 then
      let (v, s) := sum64 (fieldAt a.body 8 8) (fieldAt b.body 8 8)
      ({ base with sat := base.sat || s, body := n ++ zeros 4 ++ leBytes 8 v }, { sat := s })
    else
      let (p, s) := sum64 (fieldAt a.body 8 8) (fieldAt b.body 8 8)
      let (m, r) := sum64 (fieldAt a.body 16 8) (fieldAt b.body 16 8)
      ({ base with sat := base.sat || s || r, body := n ++ zeros 4 ++ leBytes 8 p ++ leBytes 8 m }, { sat := s || r })
  | 6 =>
    let k := byteAt a.body 4
    ({ base with body := topBody (a.n + b.n) k (topFirst k (topEntries a.body ++ topEntries b.body)) }, {})
  | 7 =>
    match readSieve a.form a.sat a.body, readSieve b.form b.sat b.body with
    | some x, some y =>
      let m := x.merge y
      let (form, body, sat) := ({ m with sat := false } : Sieve).store
      ({ base with form := form, body := body, sat := m.sat || sat },
        { sat := sat, wide := form == 1 && a.form != 1 && b.form != 1, stored := form == 1 })
    | _, _ => (base, {})
  | 8 => ({ base with body := presenceMerge a.body b.body }, {})
  | op =>
    if a.n = 0 ∧ b.n = 0 then ({ base with body := extremeBody 0 0 0 }, {})
    else if a.n = 0 then ({ base with body := b.body }, {})
    else if b.n = 0 then ({ base with body := a.body }, {})
    else
      let x := valueKey a.form (fieldAt a.body 8 8)
      let y := valueKey b.form (fieldAt b.body 8 8)
      let ra := bitsOf (fieldAt a.body 4 4) 17 0
      let rb := bitsOf (fieldAt b.body 4 4) 17 0
      let first : Bool := if op = 2 ∨ op = 4 then decide (x < y) || (x == y && decide (ra ≤ rb))
                   else decide (y < x) || (x == y && decide (ra ≤ rb))
      let w := if first then a else b
      let rank := if op = 2 ∨ op = 3 then 0 else bitsOf (fieldAt w.body 4 4) 17 0
      ({ base with body := extremeBody (a.n + b.n) rank (fieldAt w.body 8 8) }, {})

/-- An item is discarded as a plan fault or for its layout (R176, R184). -/
def Block.itemError (b : Block) (n : Nat) : Block := (b.count Reg.KND_ERR n).flag Reg.KND_STS 3

/-- An item fault raises a health crumb (R176). -/
def Block.itemFault (b : Block) (id w : Nat) : Block := (b.itemError 1).healthCrumb 0x0901 id (w % 2 ^ 32) 0

/-- The counters and flags of a merge (R188). -/
def Block.countMerge (b : Block) (m : MergeNote) : Block :=
  let b := b.countWide Reg.KND_OPS_LO 1
  let b := if m.sat then (b.count Reg.KND_SAT_CNT 1).flag Reg.KND_STS 0 else b
  let b := if m.stored then b.flag Reg.KND_STS 2 else b
  if m.wide then b.count Reg.KND_WIDE_CNT 1 else b

/-- Merge a list of operands of one item (R177 to R185): operands that break their layout are discarded; operands of different
kinds are a plan fault, and the item of this node is discarded (R176). -/
def Block.knead (b : Block) (w : Nat) (ops : List Item) : Option Item × Block :=
  let good := ops.filter (·.layoutGood)
  let b := if good.length < ops.length then b.itemError (ops.length - good.length) else b
  match good with
  | [] => (none, b)
  | i :: rest =>
    if rest.all (fun j => i.sameKind j) then
      let (r, b) := rest.foldl (fun (a : Item × Block) j =>
        let (x, m) := mergeItems a.1 j
        (x, a.2.countMerge m)) (i, b)
      (some r, b)
    else (none, b.itemFault i.id w)

end Sys2Proof.Machine
end

