-- ==== Sys2Proof/Machine/Plan.lean ====
section
/-! DEFINITION. Analysis plans (R317 to R319) and what their sections hold: the feature table (R219, R220), detectors (R231),
acceptance-collapse rules (R234), ensembles (R244), the reduction list (R319), image references (R282), straggler and witness
tables (R293, R300), coverage, audit, neighbour counters. -/

namespace Sys2Proof.Machine

/-- Entries of `n` bytes of a table. -/
def entries (n : Nat) (bs : Bytes) : List Bytes := chunks n (bs.length / n) bs

/-! ### Sections (R318) -/

/-- The directory of a plan image: type, offset and length of each section. -/
def planDir (img : Bytes) : List (Nat × Nat × Nat) :=
  (List.range (byteAt img 3)).map (fun i => (byteAt img (64 + 16 * i), fieldAt img (68 + 16 * i) 4, fieldAt img (72 + 16 * i) 4))

/-- The bytes of a section; none where the plan has it not. -/
def planSection (img : Bytes) (ty : Nat) : Option Bytes :=
  ((planDir img).find? (fun e => e.1 == ty)).map (fun e => slice img e.2.1 e.2.2)

/-- The bytes of a section, empty where the plan has it not. -/
def planPart (img : Bytes) (ty : Nat) : Bytes := (planSection img ty).getD []

/-- The digest field of an image, and the image with that field zero (R318). -/
def imageDigest (img : Bytes) : Bytes := slice img 16 16

/-- DIGEST holds the first 16 bytes of the SHA-256 of the image with that field zero (R279, R318, R333). -/
def digestGood (img : Bytes) : Bool := imageDigest img == digest16 (img.take 16 ++ zeros 16 ++ img.drop 32)

/-- Header and directory (R318): magic, format, reserved bytes, ascending sections inside SIZE, no type twice, 0x01 and 0x05
present. -/
def planFormGood (img : Bytes) : Bool :=
  let d := planDir img
  let n := byteAt img 3
  slice img 0 3 == [0xA9, 0x50, 0x01] && decide (2 ≤ n) && decide (n ≤ 16) && zeroAt img 4 12 && zeroAt img 40 24 &&
    fieldAt img 32 8 == img.length && decide (64 + 16 * n ≤ img.length) &&
    (List.range n).all (fun i => zeroAt img (65 + 16 * i) 3 && zeroAt img (76 + 16 * i) 4) &&
    d.all (fun e => decide (1 ≤ e.1) && decide (e.1 ≤ 0x0B) && decide (e.2.1 + e.2.2 ≤ img.length)) &&
    (d.map Prod.fst).Nodup && (d.any (fun e => e.1 == 1)) && (d.any (fun e => e.1 == 5)) &&
    decide (64 + 16 * n ≤ (d.map (fun e => e.2.1)).headD 0) && (d.zip d.tail).all (fun p => decide (p.1.2.1 + p.1.2.2 ≤ p.2.2.1))

/-! ### Feature table (R219, R220) -/

/-- A feature table entry (R219). -/
structure Feature where
  kind : Nat
  width : Nat
  cat : Bool
  slot : Nat
  nedge : Nat
  srcA : Nat
  srcB : Nat
  peer1 : Nat
  peer2 : Nat
  const : Nat
  q : Nat
  lo : Nat
  hi : Nat
  edges : List Nat
  raw : Bytes
deriving DecidableEq, Repr

/-- Read a feature table entry. -/
def readFeature (e : Bytes) : Feature :=
  { kind := byteAt e 0, width := bitsOf (byteAt e 1) 1 0, cat := bitOf (byteAt e 1) 2, slot := byteAt e 2, nedge := byteAt e 3,
    srcA := fieldAt e 4 2, srcB := fieldAt e 6 2, peer1 := fieldAt e 8 4, peer2 := fieldAt e 12 4, const := fieldAt e 16 4,
    q := fieldAt e 20 2, lo := fieldAt e 24 4, hi := fieldAt e 28 4,
    edges := (List.range 14).map (fun i => fieldAt e (32 + 4 * i) 4), raw := e }

/-- The features of a plan, in table order. -/
def planFeatures (img : Bytes) : List Feature := (entries 88 (planPart img 1)).map readFeature

/-- The key of a feature: its slot, with 256 added for an upper half. -/
def Feature.key (f : Feature) : Nat := f.slot + (if f.width = 2 then 256 else 0)

/-- The feature of a slot, or of the upper half of slot − 256. -/
def featureAt (fs : List Feature) (key : Nat) : Option Feature := fs.find? (fun f => f.key == key)

/-- A slot is split when the table claims its halves (R242). -/
def slotSplit (fs : List Feature) (slot : Nat) : Bool := fs.any (fun f => f.slot == slot && f.width != 0)

/-- The missing code of a width (R217). -/
def missingCode (width : Nat) : Nat := if width = 0 then 15 else 3

/-- An index lies within its source space (R221), space 0 apart. -/
def sourceKnown (src : Nat) : Bool :=
  let i := src % 4096
  match src / 4096 with
  | 1 => true | 2 => decide (i < 64) | 3 => decide (i < 512) | 4 => decide (i < 128) | 5 => decide (i < 128)
  | 6 => decide (i < 32) | 7 => decide (i < 8) | 8 => decide (i < 9) | 9 => decide (i < 512) | 10 => decide (i < 3)
  | 11 => decide (i < 16) | 12 => decide (i < 4) | _ => false

/-- Integer sources (R221). -/
def integerSource (src : Nat) : Bool := src / 4096 ∈ [1, 2, 3, 4, 10, 11, 12]

/-- The kinds that use operand b (R224). -/
def kindUsesB (kind : Nat) : Bool := kind ∈ [3, 4, 5, 7]

/-- A reduction list entry (R319). -/
structure ListEntry where
  item : Nat
  op : Nat
  form : Nat
  param : Nat
  kneader : Nat
  cls : Nat
  source : Nat
  raw : Bytes
deriving DecidableEq, Repr

/-- The reduction list of a plan, in its order. -/
def planList (img : Bytes) : List ListEntry :=
  (entries 16 (planPart img 5)).map (fun e =>
    { item := fieldAt e 0 2, op := byteAt e 2, form := byteAt e 3, param := byteAt e 4,
      kneader := byteAt e 5, cls := byteAt e 6, source := fieldAt e 8 2, raw := e })

/-- A peer selector suits its item (R220, R225). -/
def peerGood (list : List ListEntry) (sel : Nat) : Bool :=
  decide (sel < 2 ^ 20) && match list.find? (fun e => e.item == sel % 65536) with
    | none => false
    | some e => match bitsOf sel 18 16 with
      | 0 => e.op == 1 | 1 => decide (2 ≤ e.op) && decide (e.op ≤ 5) | 2 => e.op == 7 | 3 => true | _ => false

/-- A detector entry (R231). -/
structure DetectorDef where
  slot : Nat
  en : Bool
  half : Bool
  resetOn : Bool
  crumb : Bool
  target : Nat
  slack : Nat
  limit : Nat
deriving DecidableEq, Repr

/-- The detectors of a plan, in table order. -/
def planDetectors (img : Bytes) : List DetectorDef :=
  (entries 16 (planPart img 2)).map (fun e =>
    { slot := byteAt e 0, en := bitOf (byteAt e 1) 0, half := bitOf (byteAt e 1) 1,
      resetOn := bitOf (byteAt e 1) 2, crumb := bitOf (byteAt e 1) 3, target := fieldAt e 4 4, slack := fieldAt e 8 4,
      limit := fieldAt e 12 4 })

/-- The key of the feature that a detector watches. -/
def DetectorDef.key (d : DetectorDef) : Nat := d.slot + (if d.half then 256 else 0)

/-- The detector table keeps R231: at most 1,024 entries, reserved bits zero, finite TARGET, K and H that are not negative. -/
def detectorsGood (img : Bytes) : Bool :=
  let bs := planPart img 2
  bs.length % 16 == 0 && decide (bs.length ≤ 16 * 1024) &&
    (entries 16 bs).all (fun e => decide (byteAt e 1 < 16) && zeroAt e 2 2 && f32Finite (fieldAt e 4 4) &&
      decide (fieldAt e 8 4 < 2 ^ 31) && decide (fieldAt e 12 4 < 2 ^ 31))

/-- The edges and range of an entry keep R220. -/
def Feature.edgesGood (f : Feature) : Bool :=
  let es := f.edges.take f.nedge
  (f.edges.drop f.nedge).all (· == 0) &&
    if f.kind = 0x0C ∨ f.kind = 0x0D then f.nedge == 0 && f.lo == 0 && f.hi == 0
    else
      (if f.width = 0 then f.nedge == 14 else f.nedge == 1 || f.nedge == 2) && es.all f32Finite && f32Finite f.lo && f32Finite f.hi &&
        (es.zip es.tail).all (fun p => f32Lt p.1 p.2) && f32Le f.lo (es.headD 0) && f32Le (es.getLastD 0) f.hi

/-- The sources and peers of an entry keep R220. -/
def Feature.sourcesGood (f : Feature) (list : List ListEntry) (dets : List DetectorDef) (fs : List Feature) : Bool :=
  (if f.kind = 0x0D then
      match dets[f.srcA]? with
      | some d => d.en && (match featureAt fs d.key with | some g => g.kind != 0x0C && g.kind != 0x0D | none => false)
      | none => false
    else sourceKnown f.srcA && (f.srcA / 4096 == 5) == (f.kind == 0x0B) && (f.kind != 0x0C || integerSource f.srcA)) &&
    (if kindUsesB f.kind then sourceKnown f.srcB && f.srcB / 4096 != 5 else f.srcB == 0) &&
    (if f.kind = 8 ∨ f.kind = 9 ∨ f.kind = 0x0A then peerGood list f.peer1 else f.peer1 == 0) &&
    (if f.kind = 0x0A then peerGood list f.peer2 else f.peer2 == 0)

/-- The feature table keeps R220. That light counters appear only in the fleet context's plan no image shows: binding keeps it (log 15). -/
def featuresGood (img : Bytes) : Bool :=
  let bs := planPart img 1
  let fs := planFeatures img
  let list := planList img
  let dets := planDetectors img
  bs.length % 88 == 0 && decide (fs.length ≤ 256) && (fs.map Feature.key).Nodup &&
    fs.all (fun f =>
      decide (1 ≤ f.kind) && decide (f.kind ≤ 0x0D) && f.width != 3 && decide (byteAt f.raw 1 < 8) && zeroAt f.raw 22 2 &&
        (f.width != 0 || !slotSplit fs f.slot) && (f.kind != 0x0D || f.width != 0) && f.edgesGood &&
        f.sourcesGood list dets fs)

/-- A feature table that reads light counters: only the fleet context may bind its plan (R220; log 15). -/
def readsLight (img : Bytes) : Bool :=
  (planFeatures img).any (fun f => f.kind != 0x0D && (f.srcA / 4096 == 2 || (kindUsesB f.kind && f.srcB / 4096 == 2)))

/-- An acceptance-collapse rule (R234, R318). -/
structure CollapseRule where
  slot : Nat
  persist : Nat
  thr : Nat
  least : Nat
deriving DecidableEq, Repr

/-- The acceptance-collapse rules of a plan. -/
def planCollapse (img : Bytes) : List CollapseRule :=
  (entries 16 (planPart img 3)).map (fun e => ⟨byteAt e 0, byteAt e 1, fieldAt e 4 4, fieldAt e 8 4⟩)

/-- The rules keep R234: at most 8, each naming a SHARE slot. -/
def collapseGood (img : Bytes) : Bool :=
  let bs := planPart img 3
  bs.length % 16 == 0 && decide (bs.length ≤ 128) &&
    (entries 16 bs).all (fun e => byteAt e 1 != 0 && zeroAt e 2 2 && zeroAt e 12 4 &&
      (match featureAt (planFeatures img) (byteAt e 0) with | some f => f.kind == 3 | none => false))

/-! ### Reduction list (R319) -/

/-- The spaces of R221 that give an integer for a leaf, with those that only a leaf has (R319). -/
def leafInteger (space : Nat) : Bool := space ∈ [1, 2, 3, 4, 7, 8, 10, 11, 12, 14]

/-- A leaf source's index lies in its space (R319). -/
def leafKnown (src : Nat) : Bool :=
  let i := src % 4096
  match src / 4096 with
  | 0 => i == 0
  | 13 => decide (i < 64)
  | 14 => decide (i < 16)
  | 15 => decide (i < 8)
  | _ => sourceKnown src

/-- A leaf source suits an operation and form (R319). -/
def leafSuits (op form src : Nat) : Bool :=
  let sp := src / 4096
  match op with
  | 8 => sp == 0
  | 7 => sp == 5 || sp == 15 || leafInteger sp
  | 1 => if form = 0 then leafInteger sp else leafInteger sp || sp == 13
  | 6 => leafInteger sp || sp == 13
  | _ => if form = 2 then sp == 6 || sp == 9 || leafInteger sp || sp == 13
         else if form = 1 then leafInteger sp || sp == 13 else leafInteger sp

/-- The reduction list keeps R319. -/
def listGood (img : Bytes) : Bool :=
  let bs := planPart img 5
  let l := planList img
  bs.length % 16 == 0 && (l.map ListEntry.item).Nodup &&
    l.all (fun e => formKnown e.op e.form && !(e.op == 7 && e.form == 2) &&
      (match e.op with | 6 => decide (1 ≤ e.param) && decide (e.param ≤ 64) | 7 => decide (e.param ≤ 16) | _ => e.param == 0) &&
      decide (e.kneader ≤ 14) && decide (2 ≤ e.cls) && decide (e.cls ≤ 4) && zeroAt e.raw 7 1 && zeroAt e.raw 10 6 &&
      leafKnown e.source && leafSuits e.op e.form e.source)

/-! ### Ensembles (R244) -/

/-- One list entry of an ensemble (R244). -/
structure TreeRef where
  slot : Nat
  shift : Nat
  rule : Bool
  treeId : Nat
  raw : Bytes
deriving DecidableEq, Repr

/-- An ensemble entry (R244). -/
structure Ensemble where
  outputs : Nat
  primary : Nat
  scale : Int
  flags : Nat
  alarmP : Nat
  bias : List Int
  watch : Int
  alarm : Int
  trees : List TreeRef
  raw : Bytes
deriving DecidableEq, Repr

/-- Read an ensemble entry. -/
def readEnsemble (e : Bytes) : Ensemble :=
  { outputs := byteAt e 0, primary := byteAt e 1, scale := signed 8 (byteAt e 2), flags := byteAt e 3, alarmP := byteAt e 6,
    bias := (List.range 4).map (fun i => signed 32 (fieldAt e (8 + 4 * i) 4)), watch := signed 32 (fieldAt e 24 4),
    alarm := signed 32 (fieldAt e 28 4),
    trees := (entries 8 (e.drop 64)).map (fun t =>
      { slot := bitsOf (fieldAt t 0 2) 13 0, shift := bitsOf (byteAt t 2) 2 0,
        rule := bitOf (byteAt t 2) 7, treeId := fieldAt t 4 2, raw := t }),
    raw := e }

/-- The entries of section 0x04, each after its length; none where one runs past the section. -/
def ensembleEntries : Nat → Bytes → Option (List Bytes)
  | 0, bs => if bs.isEmpty then some [] else none
  | n + 1, bs =>
    if bs.isEmpty then some []
    else
      let len := fieldAt bs 0 4
      if bs.length < 4 + len then none else (ensembleEntries n (bs.drop (4 + len))).map (fun r => slice bs 4 len :: r)

/-- The ensembles of a plan, in their order. -/
def planEnsembles (img : Bytes) : List Ensemble := ((ensembleEntries 16 (planPart img 4)).getD []).map readEnsemble

/-- The groups of 32 positions of an ensemble (R247). -/
def Ensemble.groups (e : Ensemble) : Nat := ceilDiv e.trees.length 32

/-- The values of a 24-bit accumulator. -/
def in24 (v : Int) : Bool := decide (-(2 ^ 23) ≤ v) && decide (v < 2 ^ 23)

/-- Every field of an ensemble lies in range and every reserved bit is zero (R244, R246). -/
def Ensemble.formGood (e : Ensemble) : Bool :=
  decide (1 ≤ e.outputs) && decide (e.outputs ≤ 4) && decide (e.primary < e.outputs) && decide (-24 ≤ e.scale) &&
    decide (e.scale ≤ 7) && decide (e.flags < 4) && fieldAt e.raw 4 2 == e.trees.length && e.raw.length == 64 + 8 * e.trees.length &&
    decide (1 ≤ e.trees.length) && decide (e.trees.length ≤ 16384) && e.alarmP != 0 && zeroAt e.raw 7 1 && zeroAt e.raw 48 16 &&
    e.bias.all in24 && (e.bias.drop e.outputs).all (· == 0) && in24 e.watch && in24 e.alarm && decide (e.watch ≤ e.alarm) &&
    e.trees.all (fun t => fieldAt t.raw 0 2 / 2 ^ 14 == 0 && bitsOf (byteAt t.raw 2) 6 3 == 0 && zeroAt t.raw 3 1 &&
      zeroAt t.raw 6 2 && (!t.rule || decide (t.slot ≤ 4095)))

/-! ### Image references, stragglers, witnesses, coverage, audit, neighbours -/

/-- Image reference `i` of a plan: slot and digest. -/
def planImageRef (img : Bytes) (i : Nat) : Nat × Bytes :=
  let s := planPart img 6
  (fieldAt s (32 * i) 2, slice s (32 * i + 16) 16)

/-- The image slot that a rank runs (R282), none where the plan gives it none. -/
def planImageOf (img : Bytes) (rank : Nat) : Option Nat :=
  let s := planPart img 6
  if s.length ≤ 2048 + rank then none else some (planImageRef img (byteAt s (2048 + rank) % 64)).1

/-- The references of a plan that name a slot: those that are not all zero. -/
def planImageRefs (img : Bytes) : List (Nat × Bytes) :=
  if (planPart img 6).isEmpty then []
  else ((List.range 64).filter (fun i => !zeroAt (planPart img 6) (32 * i) 32)).map (planImageRef img)

/-- The form of section 0x06 (R282, R318). -/
def imageRefsGood (img : Bytes) : Bool :=
  match planSection img 6 with
  | none => true
  | some s => decide (2048 ≤ s.length) && (List.range 64).all (fun i => zeroAt s (32 * i + 2) 14 && decide (fieldAt s (32 * i) 2 < 1024)) &&
      (s.drop 2048).all (fun b => decide (b.toNat < 64))

/-- A barrier of the straggler table (R293): marker, region, the item of its MIN. -/
structure Barrier where
  marker : Nat
  region : Nat
  item : Nat
deriving DecidableEq, Repr

/-- The straggler table (R293). -/
structure Stragglers where
  late : Nat
  persist : Nat
  topk : Nat
  swapPer : Nat
  swapOfs : Nat
  again : Nat
  bars : List Barrier
deriving DecidableEq, Repr

/-- The straggler table of a plan. -/
def planStragglers (img : Bytes) : Option Stragglers :=
  (planSection img 7).map (fun s =>
    { late := fieldAt s 0 4, persist := byteAt s 4, topk := fieldAt s 6 2, swapPer := fieldAt s 8 2,
      swapOfs := fieldAt s 10 2, again := fieldAt s 12 2,
      bars := (entries 8 (s.drop 16)).map (fun e => ⟨fieldAt e 0 4, byteAt e 4, fieldAt e 6 2⟩) })

/-- The straggler table keeps R293. -/
def stragglersGood (img : Bytes) : Bool :=
  match planSection img 7, planStragglers img with
  | some s, some t =>
    let isOp (item op : Nat) (form : Option Nat) : Bool :=
      (planList img).any (fun e => e.item == item && e.op == op && (match form with | some f => e.form == f | none => true))
    decide (1 ≤ t.persist) && decide (t.persist ≤ 16) && byteAt s 5 == t.bars.length && decide (1 ≤ t.bars.length) &&
      decide (t.bars.length ≤ 16) && s.length == 16 + 8 * t.bars.length && zeroAt s 14 2 && decide (1 ≤ t.again) &&
      (if t.swapPer = 0 then true else decide (t.swapOfs < t.swapPer)) && isOp t.topk 6 none &&
      (entries 8 (s.drop 16)).all (fun e => decide (byteAt e 4 < 64) && zeroAt e 5 1) && t.bars.all (fun b => isOp b.item 2 (some 0))
  | _, _ => true

/-- A replica group (R300). -/
structure Replicas where
  id : Nat
  channel : Nat
  alarm : Bool
  members : List Nat
deriving DecidableEq, Repr

/-- The replica groups of a plan. -/
def planReplicas (img : Bytes) : List Replicas :=
  (entries 72 ((planPart img 8).drop 16)).map (fun e =>
    { id := fieldAt e 0 2, channel := byteAt e 2, alarm := bitOf (byteAt e 4) 0,
      members := (List.range (byteAt e 3)).map (fun i => fieldAt e (8 + 4 * i) 4) })

/-- The rank count that a plan shows: the length of its list of reference indexes, one for each rank (R318); without section 0x06 the most
that a job can have (log 57). -/
def planRanks (img : Bytes) : Nat := match planSection img 6 with | some s => s.length - 2048 | none => 262144

/-- The witness table keeps R300. -/
def witnessGood (img : Bytes) : Bool :=
  match planSection img 8 with
  | none => true
  | some s =>
    let gs := planReplicas img
    let n := fieldAt s 4 2
    (List.range 4).all (fun i => decide (byteAt s i ≤ 16)) && decide (1 ≤ n) && decide (n ≤ 4096) && s.length == 16 + 72 * n &&
      zeroAt s 6 10 &&
      (entries 72 (s.drop 16)).all (fun e => decide (byteAt e 2 < 8) && decide (2 ≤ byteAt e 3) && decide (byteAt e 3 ≤ 16) &&
        decide (byteAt e 4 < 2) && zeroAt e 5 3 && zeroAt e (8 + 4 * byteAt e 3) (64 - 4 * byteAt e 3)) &&
      gs.all (fun g => g.members.Nodup && g.members.all (fun r => decide (r < planRanks img))) &&
      ((gs.map (fun g => g.members.map (fun r => r * 8 + g.channel))).flatten).Nodup

/-- The sieve shift of a condition: 0 TEMP, 1 VOLT, 2 MARGIN, 3 LOAD (R300). -/
def planWitnessShift (img : Bytes) (i : Nat) : Nat := byteAt (planPart img 8) i

/-- MODE, LAG and RATE of an ingest port (R288, R318). -/
def planCoverage (img : Bytes) (port : Nat) : Nat × Nat × Nat :=
  let s := planPart img 9
  (byteAt s (4 * port), byteAt s (4 * port + 1), byteAt s (4 * port + 2))

/-- Section 0x09 keeps R288. -/
def coverageGood (img : Bytes) : Bool :=
  match planSection img 9 with
  | none => true
  | some s => s.length == 128 && (List.range 32).all (fun p =>
      let (m, lag, rate) := planCoverage img p
      zeroAt s (4 * p + 3) 1 && match m with
        | 0 => lag == 0 && rate == 0
        | 1 => lag == 0 && rate == 0
        | 2 => decide (1 ≤ lag) && decide (lag ≤ 8) && rate == 0
        | 3 => lag == 0 && decide (1 ≤ rate) && decide (rate ≤ 15)
        | _ => false)

/-- The quad of an ensemble's reference lane and its audit slots in each window (R254, R318). -/
def planAudit (img : Bytes) (ens : Nat) : Nat × Nat :=
  let s := planPart img 0x0A
  (byteAt s (8 * ens), fieldAt s (8 * ens + 4) 4)

/-- Section 0x0A keeps R318. -/
def auditGood (img : Bytes) : Bool :=
  match planSection img 0x0A with
  | none => true
  | some s => s.length == 128 && (entries 8 s).all (fun e => decide (byteAt e 0 < 4) && zeroAt e 1 3)

/-- The neighbour counters that a plan declares: rank, neighbour, counter (R209, R318). -/
def planNeighbours (img : Bytes) : List (Nat × Nat × Nat) :=
  (entries 8 (planPart img 0x0B)).map (fun e =>
    (bitsOf (fieldAt e 0 4) 17 0, bitsOf (fieldAt e 4 4) 17 0, bitsOf (fieldAt e 4 4) 29 18))

/-- Section 0x0B keeps R318. -/
def neighboursGood (img : Bytes) : Bool :=
  let s := planPart img 0x0B
  s.length % 8 == 0 && (entries 8 s).all (fun e => fieldAt e 0 4 / 2 ^ 18 == 0 && fieldAt e 4 4 / 2 ^ 30 == 0)

end Sys2Proof.Machine
end

