-- ==== Sys2Proof/Machine/Models.lean ====
section
/-! DEFINITION. The stores of Borlu-T: trees (R239 to R259), rule groups (R267 to R274), plan images (R279 to R282), analysis plans
(R317, R318), their load and free descriptors; memory and scrub errors in a store (R260, R277). -/

namespace Sys2Proof.Machine

/-- Change the plane's unit. -/
def Block.modPlane (b : Block) (f : PlaneUnit → PlaneUnit) : Block :=
  { b with tray := { b.tray with plane := f b.tray.plane } }

/-- A slot of a store; an unlisted one is FREE. -/
def slotIn (m : Sparse StoreSlot) (i : Nat) : StoreSlot := sget (fun _ => ({} : StoreSlot)) m i

/-- Store a slot. -/
def putSlot (m : Sparse StoreSlot) (i : Nat) (s : StoreSlot) : Sparse StoreSlot := sput (fun _ => ({} : StoreSlot)) m i s

/-- A slot that a plan may name: LOADED or BOUND. -/
def StoreSlot.usable (s : StoreSlot) : Bool := s.phase == 1 || s.phase == 2

/-! ### Trees (R239 to R243, R252) -/

/-- Node `i` of a tree image (R239). -/
def treeNode (img : Bytes) (i : Nat) : Nat := fieldAt img (4 + 4 * i) 4

/-- KIND of a node word: 0 numeric, 1 categorical, 2 always-left, 3 always-right (R240). -/
def nodeKind (n : Nat) : Nat := bitsOf n 14 13

/-- SLOT, THR, CAT of a node word. -/
def nodeSlot (n : Nat) : Nat := bitsOf n 7 0
def nodeThr (n : Nat) : Nat := bitsOf n 11 8
def nodeCat (n : Nat) : Nat := bitsOf n 30 16

/-- DEF and HALF of a node word. -/
def nodeDef (n : Nat) : Bool := bitOf n 12
def nodeHalf (n : Nat) : Bool := bitOf n 15

/-- Output `o` of leaf `l` of a tree image. -/
def treeLeaf (img : Bytes) (l o : Nat) : Int := signed 8 (byteAt img (1024 + 4 * l + o))

/-- A node that is no always-left filler keeps R241. `half` says whether HALF may be set. -/
def nodeGood (half : Bool) (n : Nat) : Bool :=
  !bitOf n 31 && (half || !nodeHalf n) && match nodeKind n with
    | 0 => decide (1 ≤ nodeThr n) && decide (nodeThr n ≤ 14) && nodeCat n == 0
    | 1 => nodeThr n == 0
    | _ => nodeSlot n == 0 && nodeThr n == 0 && !nodeDef n && !nodeHalf n && nodeCat n == 0

/-- The leaf outputs that R241 requires to be zero. -/
def leafMustBeZero (depth outputs l o : Nat) : Bool := decide (outputs ≤ o) || l % 2 ^ (8 - depth) != 0

/-- A tree image keeps R241. -/
def treeGood (half : Bool) (img : Bytes) : Bool :=
  let d := byteAt img 0
  let outs := byteAt img 1
  img.length == 2048 && decide (1 ≤ d) && decide (d ≤ 8) && decide (1 ≤ outs) && decide (outs ≤ 4) &&
    (List.range 255).all (fun i => if 2 ^ d - 1 ≤ i then treeNode img i == 0x4000 else nodeGood half (treeNode img i)) &&
    (List.range 256).all (fun l => (List.range 4).all (fun o => !leafMustBeZero d outs l o || byteAt img (1024 + 4 * l + o) == 0))

/-- A reference image keeps R252. -/
def refGood (img ref : Bytes) : Bool :=
  let d := byteAt img 0
  let outs := byteAt img 1
  ref.length == 6144 && slice ref 0 4 == slice img 0 4 && zeroAt ref 4 12 && zeroAt ref 1036 1012 &&
    (List.range 255).all (fun i =>
      let r := fieldAt ref (16 + 4 * i) 4
      if nodeKind (treeNode img i) = 0 then f32Finite r else r == 0) &&
    (List.range 256).all (fun l => (List.range 4).all (fun o =>
      let r := fieldAt ref (2048 + 16 * l + 4 * o) 4
      f32Finite r && (!leafMustBeZero d outs l o || r == 0)))

/-! ### Rule groups (R271, R272) -/

/-- Entries of a group image. -/
def groupCount (img : Bytes) : Nat := fieldAt img 4 4

/-- Field `k` of a group's key: slot, encoding, half. -/
def groupField (img : Bytes) (k : Nat) : Nat × Nat × Bool :=
  (byteAt img (64 + 4 * k), bitsOf (byteAt img (65 + 4 * k)) 1 0, bitOf (byteAt img (65 + 4 * k)) 2)

/-- VALUE and CARE of entry `e`. -/
def groupValue (img : Bytes) (e : Nat) : Nat := fieldAt img (4096 + 288 * e) 128
def groupCare (img : Bytes) (e : Nat) : Nat := fieldAt img (4224 + 288 * e) 128

/-- The 16 bits of field `k` of a key. -/
def keyField (key k : Nat) : Nat := key / 2 ^ (16 * k) % 65536

/-- RTH[k][t] of a group image, t from 1. -/
def groupThr (img : Bytes) (k t : Nat) : Nat := fieldAt img (320 + 56 * k + 4 * (t - 1)) 4

/-- Some entry cares for bit `t − 1` of field `k`. -/
def groupCares (img : Bytes) (k t : Nat) : Bool :=
  (List.range (groupCount img)).any (fun e => bitOf (keyField (groupCare img e) k) (t - 1))

/-- A group image keeps R272. -/
def groupGood (img : Bytes) : Bool :=
  let outs := byteAt img 1
  let n := groupCount img
  byteAt img 0 == 1 && decide (1 ≤ outs) && decide (outs ≤ 4) && decide (1 ≤ n) && decide (n ≤ 16384) &&
    img.length == 4096 + 288 * n && zeroAt img 28 36 && zeroAt img 3904 192 &&
    (List.range 64).all (fun k =>
      let (slot, enc, half) := groupField img k
      enc != 3 && decide (byteAt img (65 + 4 * k) < 8) && zeroAt img (66 + 4 * k) 2 && (enc != 0 || (slot == 0 && !half)) &&
        (List.range 14).all (fun i =>
          let r := groupThr img k (i + 1)
          if enc = 1 ∧ groupCares img k (i + 1) then f32Finite r else r == 0)) &&
    (List.range n).all (fun e =>
      let v := groupValue img e
      let c := groupCare img e
      v &&& c == v && zeroAt img (4374 + 288 * e) 10 &&
        (List.range 64).all (fun k => match (groupField img k).2.1 with
          | 0 => keyField c k == 0 | 1 => !bitOf (keyField c k) 15 | _ => true) &&
        (List.range 4).all (fun o =>
          let r := fieldAt img (4356 + 288 * e + 4 * o) 4
          f32Finite r && (decide (o < outs) || (r == 0 && byteAt img (4352 + 288 * e + o) == 0)))) &&
    (List.range 4).all (fun o =>
      let r := fieldAt img (12 + 4 * o) 4
      f32Finite r && (decide (o < outs) || (r == 0 && byteAt img (8 + o) == 0)))

/-! ### Plan images (R279 to R281) -/

/-- A block of a plan image (R280). -/
structure PlanBlock where
  start : Nat
  n : Nat
  gap : Nat
  exit : Nat
  entry : Bool
  div : Nat
  targets : List Nat
  rfirst : Nat
  rcount : Nat
deriving DecidableEq, Repr

/-- Read a block entry. -/
def readBlock (e : Bytes) : PlanBlock :=
  { start := fieldAt e 0 4, n := fieldAt e 4 2, gap := fieldAt e 6 2, exit := byteAt e 8, entry := bitOf (byteAt e 9) 0,
    div := fieldAt e 10 2, targets := (List.range 4).map (fun i => fieldAt e (12 + 4 * i) 4), rfirst := fieldAt e 28 2,
    rcount := fieldAt e 30 2 }

/-- NREG, NBLK and NRNG of a plan image. -/
def imgRegs (img : Bytes) : Nat := fieldAt img 4 2
def imgBlks (img : Bytes) : Nat := fieldAt img 8 4
def imgRngs (img : Bytes) : Nat := fieldAt img 12 4

/-- The directory of a plan image: region, first block, count. -/
def imgDir (img : Bytes) : List (Nat × Nat × Nat) :=
  (List.range (imgRegs img)).map (fun i => (byteAt img (64 + 16 * i), fieldAt img (68 + 16 * i) 4, fieldAt img (72 + 16 * i) 4))

/-- Block entry `i` of a plan image. -/
def imgBlock (img : Bytes) (i : Nat) : Bytes := slice img (64 + 16 * imgRegs img + 32 * i) 32

/-- The blocks of a region, none where the directory has no entry for it (R282). -/
def regionBlocks (img : Bytes) (region : Nat) : Option (List PlanBlock) :=
  ((imgDir img).find? (fun e => e.1 == region)).map (fun e =>
    (List.range e.2.2).map (fun i => readBlock (imgBlock img (e.2.1 + i))))

/-- An access range: base, inclusive limit, space, operations (R280). -/
def imgRange (img : Bytes) (i : Nat) : Nat × Nat × Nat × Nat :=
  let o := 64 + 16 * imgRegs img + 32 * imgBlks img + 16 * i
  (fieldAt img o 6, fieldAt img (o + 6) 6, byteAt img (o + 12), byteAt img (o + 13))

/-- No target: every target of END, and unused ones. -/
def noTarget : Nat := 0xFFFFFFFF

/-- The exit of a block keeps R281. `starts` are the START values of its region. -/
def PlanBlock.exitGood (p : PlanBlock) (starts : List Nat) : Bool :=
  decide (1 ≤ p.n) && p.targets.all (fun t => t == noTarget || t ∈ starts) && match p.exit with
    | 0 => p.targets.headD noTarget != noTarget && (p.targets.drop 1).all (· == noTarget) && p.div == 0
    | 1 => p.targets.any (· != noTarget)
    | 2 => p.targets.all (· == noTarget) && p.div == 0
    | _ => false

/-- A plan image keeps R279 to R281. -/
def planImageGood (img : Bytes) : Bool :=
  let nr := imgRegs img
  let nb := imgBlks img
  let ng := imgRngs img
  let d := imgDir img
  slice img 0 3 == [0xA9, 0x4E, 0x01] && zeroAt img 3 1 && decide (1 ≤ nr) && decide (nr ≤ 64) && zeroAt img 6 2 &&
    decide (1 ≤ nb) && decide (nb ≤ 1048576) && decide (ng ≤ 65535) && zeroAt img 40 24 &&
    img.length == 64 + 16 * nr + 32 * nb + 16 * ng && fieldAt img 32 8 == img.length &&
    (List.range nr).all (fun i => decide (byteAt img (64 + 16 * i) < 64) && zeroAt img (65 + 16 * i) 3 && zeroAt img (76 + 16 * i) 4) &&
    (d.map Prod.fst).Nodup && (d.foldl (fun (a : Nat × Bool) e => (a.1 + e.2.2, a.2 && e.2.1 == a.1)) (0, true)) == (nb, true) &&
    d.all (fun e => match regionBlocks img e.1 with
      | none => false
      | some bs =>
        let starts := bs.map PlanBlock.start
        bs.all (fun p => decide (p.start + p.n ≤ 2 ^ 32) && p.exitGood starts && decide (p.rfirst + p.rcount ≤ ng)) &&
          (bs.zip bs.tail).all (fun p => decide (p.1.start + p.1.n ≤ p.2.start)) &&
          ((bs.filter (fun p => p.exit == 1)).map PlanBlock.div).Nodup) &&
    (List.range nb).all (fun i => decide (byteAt (imgBlock img i) 9 < 2)) &&
    (List.range ng).all (fun i =>
      let (lo, hi, sp, ops) := imgRange img i
      decide (lo ≤ hi) && decide (sp < 32) && decide (1 ≤ ops) && decide (ops ≤ 3) &&
        zeroAt img (64 + 16 * nr + 32 * nb + 16 * i + 14) 2) &&
    digestGood img

/-! ### Ensembles against the stores (R245, R246, R273) -/

/-- The message of the ensemble digest (R245). -/
def PlaneUnit.ensembleMessage (u : PlaneUnit) (e : Ensemble) : Bytes :=
  e.raw.take 32 ++ zeros 16 ++ slice e.raw 48 16 ++ (e.trees.map (fun t =>
    t.raw ++ (if t.rule then (slotIn u.groups t.slot).bytes else (slotIn u.trees t.slot).bytes ++ (slotIn u.trees t.slot).refs))).flatten

/-- The ensemble digest (R245). -/
def PlaneUnit.ensembleDigest (u : PlaneUnit) (e : Ensemble) : Bytes := digest16 (u.ensembleMessage e)

/-- The DIGEST that an ensemble's header expects. -/
def Ensemble.digest (e : Ensemble) : Bytes := slice e.raw 32 16

/-- A node suits the slot it names (R246). -/
def nodeSuits (fs : List Feature) (n : Nat) : Bool :=
  if 2 ≤ nodeKind n then true
  else if slotSplit fs (nodeSlot n) then
    (featureAt fs (nodeSlot n + (if nodeHalf n then 256 else 0))).isSome &&
      (if nodeKind n = 0 then decide (nodeThr n ≤ 2) else decide (nodeCat n < 16))
  else (featureAt fs (nodeSlot n)).isSome && !nodeHalf n

/-- A group suits the plan's feature table (R273). -/
def groupSuits (fs : List Feature) (img : Bytes) : Bool :=
  (List.range 64).all (fun k =>
    let (slot, enc, half) := groupField img k
    if enc = 0 then true
    else
      let split := slotSplit fs slot
      match featureAt fs (slot + (if half then 256 else 0)) with
      | none => false
      | some f => (split || !half) && (enc != 1 || (!f.cat && f.kind != 0x0C && f.kind != 0x0D)) &&
          (!split || (List.range (groupCount img)).all (fun e =>
            let c := keyField (groupCare img e) k
            if enc = 1 then c &&& 0x4003 == c else c &&& 0x8007 == c)))

/-- A plan's ensembles keep R246 and R273. -/
def PlaneUnit.ensemblesGood (u : PlaneUnit) (img : Bytes) : Bool :=
  let fs := planFeatures img
  (ensembleEntries 16 (planPart img 4)).isSome && (planEnsembles img).all (fun e =>
    e.formGood && e.trees.all (fun t =>
      if t.rule then
        let g := slotIn u.groups t.slot
        g.usable && fieldAt g.bytes 2 2 == t.treeId && byteAt g.bytes 1 == e.outputs && groupSuits fs g.bytes
      else
        let g := slotIn u.trees t.slot
        g.usable && fieldAt g.bytes 2 2 == t.treeId && byteAt g.bytes 1 == e.outputs &&
          (List.range 255).all (fun i => nodeSuits fs (treeNode g.bytes i))) &&
    e.digest == u.ensembleDigest e)

/-- An analysis plan passes every check of its load (R318). -/
def PlaneUnit.planGood (u : PlaneUnit) (img : Bytes) : Bool :=
  planFormGood img && digestGood img && detectorsGood img && listGood img && featuresGood img && collapseGood img &&
    u.ensemblesGood img && imageRefsGood img && stragglersGood img && witnessGood img && coverageGood img && auditGood img &&
    neighboursGood img &&
    (planImageRefs img).all (fun r => (slotIn u.images r.1).usable && imageDigest (slotIn u.images r.1).bytes == r.2)

/-! ### Bindings between the stores (R258, R259, R317) -/

/-- A plan's names in a store: 0 trees, 1 groups, 2 plan images. -/
def planNames (img : Bytes) (store : Nat) : List Nat :=
  match store with
  | 0 => ((planEnsembles img).map (fun e => (e.trees.filter (fun t => !t.rule)).map TreeRef.slot)).flatten
  | 1 => ((planEnsembles img).map (fun e => (e.trees.filter TreeRef.rule).map TreeRef.slot)).flatten
  | _ => (planImageRefs img).map Prod.fst

/-- The plans that the plan store holds. -/
def PlaneUnit.heldPlans (u : PlaneUnit) : List Bytes := (u.plans.filter (fun e => e.2.phase != 0)).map (fun e => e.2.bytes)

/-- How many plans name slot `i` of a store. -/
def PlaneUnit.binds (u : PlaneUnit) (store i : Nat) : Nat :=
  (u.heldPlans.filter (fun p => i ∈ planNames p store)).length

/-- The states of the slots that a plan named, after it has left or a plan has entered (R258, R259). -/
def PlaneUnit.rebind (u : PlaneUnit) (store : Nat) (m : Sparse StoreSlot) (names : List Nat) : Sparse StoreSlot :=
  names.foldl (fun m i =>
    let s := slotIn m i
    let n := u.binds store i
    if s.phase = 1 ∧ 0 < n then putSlot m i { s with phase := 2 }
    else if s.phase = 2 ∧ n = 0 then putSlot m i { s with phase := 1 }
    else if s.phase = 3 ∧ n = 0 then putSlot m i {}
    else m) m

/-- Bind or unbind what a plan names. -/
def PlaneUnit.rebindPlan (u : PlaneUnit) (img : Bytes) : PlaneUnit :=
  { u with trees := u.rebind 0 u.trees (planNames img 0), groups := u.rebind 1 u.groups (planNames img 1),
           images := u.rebind 2 u.images (planNames img 2) }

/-- The digests of the plans that a schedule slot names (R320). -/
def schedPlans (img : Bytes) : List Bytes := (List.range (fieldAt img 4 2)).map (fun i => slice img (64 + 32 * i) 16)

/-- A plan is named by a schedule in either slot. -/
def PlaneUnit.planBound (u : PlaneUnit) (digest : Bytes) : Bool := u.scheds.any (fun e => digest ∈ schedPlans e.2)

/-- The states of the plan slots, LOADED or BOUND, as the schedule slots name them (R317). -/
def PlaneUnit.rebindSched (u : PlaneUnit) : PlaneUnit :=
  { u with plans := u.plans.map (fun e =>
      if e.2.phase = 1 ∨ e.2.phase = 2
      then (e.1, { e.2 with phase := if u.planBound (imageDigest e.2.bytes) then 2 else 1 }) else e) }

/-- The bytes that the model store holds (R343): plans, plan images, group images, the reference image of each of the 16,384 tree
slots at its fixed place, and the two schedules. -/
def PlaneUnit.storeBytes (u : PlaneUnit) : Nat :=
  let sum (m : Sparse StoreSlot) : Nat := m.foldl (fun a e => a + e.2.bytes.length) 0
  sum u.plans + sum u.images + sum u.groups + 16384 * 6144 + u.scheds.foldl (fun a e => a + e.2.length) 0

/-- The model store region is 48 GiB (R343). -/
def modelStoreSize : Nat := 48 * 2 ^ 30

/-- Every ensemble of a held plan that names slot `i` of a store has the digest it expects (R259). -/
def PlaneUnit.digestsHold (u : PlaneUnit) (store i : Nat) : Bool :=
  u.heldPlans.all (fun p => !(i ∈ planNames p store) ||
    (planEnsembles p).all (fun e => !(e.trees.any (fun t => t.slot == i && t.rule == (store == 1))) || e.digest == u.ensembleDigest e))

/-! ### Descriptors -/

/-- Carry out a model descriptor once stacked memory is ready (R259, R485). -/
def Block.onModel (b : Block) (op id : Nat) (f : Block → Taken → Block) : Block :=
  b.onMemory op 1 id f

/-- A load finds room in the model store. `old` bytes of its slot are given back. -/
def PlaneUnit.hasRoom (u : PlaneUnit) (old new : Nat) : Bool := decide (u.storeBytes - old + new ≤ modelStoreSize)

/-- TREE_LOAD (R241, R252, R259). -/
def Block.treeLoad (b : Block) (t : Taken) : Block :=
  let u := b.tray.plane
  let i := fieldAt t.bytes 32 2
  let bs := b.descInput t
  let img := bs.take 2048
  let ref := bs.drop 2048
  let s := slotIn u.trees i
  if 16384 ≤ i then b.complete t 0x0C
  else if s.phase = 2 then b.complete t 0x09
  else if !(treeGood true img && refGood img ref) then b.complete t 0x10
  else
    let put (ph : Nat) : PlaneUnit := { u with trees := putSlot u.trees i { phase := ph, bytes := img, refs := ref } }
    if s.phase = 3 ∧ 0 < u.binds 0 i then
      if (put 2).digestsHold 0 i then (b.modPlane (fun _ => put 2)).complete t 0 else b.complete t 0x10
    else (b.modPlane (fun _ => put 1)).complete t 0

/-- TREE_FREE (R259). -/
def Block.treeFree (b : Block) (t : Taken) : Block :=
  let u := b.tray.plane
  let i := fieldAt t.bytes 32 2
  let s := slotIn u.trees i
  if 16384 ≤ i then b.complete t 0x0C
  else if s.phase = 2 ∨ (s.phase = 3 ∧ 0 < u.binds 0 i) then b.complete t 0x09
  else (b.modPlane (fun u => { u with trees := putSlot u.trees i {} })).complete t 0

/-- The range of a group overlaps that of another group slot that is not FREE (R274). -/
def PlaneUnit.groupOverlap (u : PlaneUnit) (self bank base n : Nat) : Bool :=
  u.groups.any (fun e => e.1 != self && e.2.phase != 0 && e.2.bank == bank && decide (base < e.2.base + groupCount e.2.bytes) &&
    decide (e.2.base < base + n))

/-- GROUP_LOAD (R272, R274). -/
def Block.groupLoad (b : Block) (t : Taken) : Block :=
  let u := b.tray.plane
  let i := fieldAt t.bytes 32 2
  let bank := byteAt t.bytes 34
  let base := fieldAt t.bytes 36 2
  let img := b.descInput t
  let s := slotIn u.groups i
  if 4096 ≤ i ∨ 4 ≤ bank then b.complete t 0x0C
  else if s.phase = 2 then b.complete t 0x09
  else if !groupGood img then b.complete t 0x10
  else if 16384 < base + groupCount img then b.complete t 0x0C
  else if b.isSet Reg.RUL_STS (4 + bank) then b.complete t 0x09
  else if u.groupOverlap i bank base (groupCount img) then b.complete t 0x09
  else if !u.hasRoom s.bytes.length img.length then b.complete t 0x03
  else
    let put (ph : Nat) : PlaneUnit := { u with groups := putSlot u.groups i { phase := ph, bytes := img, bank := bank, base := base } }
    if s.phase = 3 ∧ 0 < u.binds 1 i then
      if (put 2).digestsHold 1 i then (b.modPlane (fun _ => put 2)).complete t 0 else b.complete t 0x10
    else (b.modPlane (fun _ => put 1)).complete t 0

/-- GROUP_FREE (R274). -/
def Block.groupFree (b : Block) (t : Taken) : Block :=
  let u := b.tray.plane
  let i := fieldAt t.bytes 32 2
  let s := slotIn u.groups i
  if 4096 ≤ i then b.complete t 0x0C
  else if s.phase = 2 ∨ (s.phase = 3 ∧ 0 < u.binds 1 i) then b.complete t 0x09
  else (b.modPlane (fun u => { u with groups := putSlot u.groups i {} })).complete t 0

/-- IMAGE_LOAD (R281). A BAD slot that a plan binds returns to BOUND when the digest that the plan expects matches. -/
def Block.imageLoad (b : Block) (t : Taken) : Block :=
  let u := b.tray.plane
  let i := fieldAt t.bytes 32 2
  let img := b.descInput t
  let s := slotIn u.images i
  if 1024 ≤ i then b.complete t 0x0C
  else if s.phase = 2 then b.complete t 0x09
  else if !planImageGood img then b.complete t 0x10
  else if !u.hasRoom s.bytes.length img.length then b.complete t 0x03
  else
    let put (ph : Nat) : PlaneUnit := { u with images := putSlot u.images i { phase := ph, bytes := img } }
    if s.phase = 3 ∧ 0 < u.binds 2 i then
      if u.heldPlans.all (fun p => (planImageRefs p).all (fun r => r.1 != i || r.2 == imageDigest img))
      then (b.modPlane (fun _ => put 2)).complete t 0 else b.complete t 0x10
    else (b.modPlane (fun _ => put 1)).complete t 0

/-- IMAGE_FREE (R281). -/
def Block.imageFree (b : Block) (t : Taken) : Block :=
  let u := b.tray.plane
  let i := fieldAt t.bytes 32 2
  let s := slotIn u.images i
  if 1024 ≤ i then b.complete t 0x0C
  else if s.phase = 2 ∨ (s.phase = 3 ∧ 0 < u.binds 2 i) then b.complete t 0x09
  else (b.modPlane (fun u => { u with images := putSlot u.images i {} })).complete t 0

/-- A plan takes or leaves plan slot `i`: the plan that was there leaves, and what both name is bound again. -/
def PlaneUnit.setPlan (u : PlaneUnit) (i : Nat) (s : StoreSlot) : PlaneUnit :=
  let old := (slotIn u.plans i).bytes
  let u := { u with plans := putSlot u.plans i s }
  let u := if old.isEmpty then u else u.rebindPlan old
  if s.phase = 0 then u else u.rebindPlan s.bytes

/-- PLAN_LOAD (R317, R318). A BAD slot that a schedule binds returns to BOUND when its digest is the one the schedule names. -/
def Block.planLoad (b : Block) (t : Taken) : Block :=
  let u := b.tray.plane
  let i := byteAt t.bytes 32
  let img := b.descInput t
  let s := slotIn u.plans i
  let bound : Bool := s.phase == 3 && u.planBound (imageDigest s.bytes)
  if 64 ≤ i then b.complete t 0x0C
  else if s.phase = 2 then b.complete t 0x09
  else if !u.planGood img then b.complete t 0x10
  else if !u.hasRoom s.bytes.length img.length then b.complete t 0x03
  else if bound && imageDigest img != imageDigest s.bytes then b.complete t 0x10
  else (b.modPlane (fun u => (u.setPlan i { phase := 1, bytes := img }).rebindSched)).complete t 0

/-- PLAN_FREE (R317). -/
def Block.planFree (b : Block) (t : Taken) : Block :=
  let u := b.tray.plane
  let i := byteAt t.bytes 32
  let s := slotIn u.plans i
  if 64 ≤ i then b.complete t 0x0C
  else if s.phase = 2 ∨ (s.phase = 3 ∧ u.planBound (imageDigest s.bytes)) then b.complete t 0x09
  else (b.modPlane (fun u => u.setPlan i {})).complete t 0

/-- TREE_LOAD (R259). -/
def execTreeLoad (id : Nat) (s : State) : Host.Outcome State Fault Refusal :=
  onTray (fun b => b.onModel 0x30 id Block.treeLoad) s

/-- TREE_FREE (R259). -/
def execTreeFree (id : Nat) (s : State) : Host.Outcome State Fault Refusal :=
  onTray (fun b => b.onModel 0x31 id Block.treeFree) s

/-- GROUP_LOAD (R274). -/
def execGroupLoad (id : Nat) (s : State) : Host.Outcome State Fault Refusal :=
  onTray (fun b => b.onModel 0x32 id Block.groupLoad) s

/-- GROUP_FREE (R274). -/
def execGroupFree (id : Nat) (s : State) : Host.Outcome State Fault Refusal :=
  onTray (fun b => b.onModel 0x33 id Block.groupFree) s

/-- IMAGE_LOAD (R281). -/
def execImageLoad (id : Nat) (s : State) : Host.Outcome State Fault Refusal :=
  onTray (fun b => b.onModel 0x34 id Block.imageLoad) s

/-- IMAGE_FREE (R281). -/
def execImageFree (id : Nat) (s : State) : Host.Outcome State Fault Refusal :=
  onTray (fun b => b.onModel 0x35 id Block.imageFree) s

/-- PLAN_LOAD (R318). -/
def execPlanLoad (id : Nat) (s : State) : Host.Outcome State Fault Refusal :=
  onTray (fun b => b.onModel 0x36 id Block.planLoad) s

/-- PLAN_FREE (R317). -/
def execPlanFree (id : Nat) (s : State) : Host.Outcome State Fault Refusal :=
  onTray (fun b => b.onModel 0x37 id Block.planFree) s

/-! ### Store errors (R260, R277, R344) -/

/-- STORE_UE (R260): an uncorrected error in the tree image of a slot that holds one. -/
def execStoreUe (slot : Fin 16384) (s : State) : Host.Outcome State Fault Refusal :=
  onTray (fun b =>
    let t := slotIn b.tray.plane.trees slot
    b.when (t.phase == 1 || t.phase == 2) (fun b =>
      ((b.modPlane (fun u => { u with trees := putSlot u.trees slot { t with phase := 3 } })).flag Reg.ENS_STS 5).healthCrumb
        0x0C04 slot 0 0)) s

/-- A group becomes BAD (R277). -/
def Block.groupBad (b : Block) (i : Nat) : Block :=
  let g := slotIn b.tray.plane.groups i
  if g.phase = 0 ∨ g.phase = 3 then b
  else (b.modPlane (fun u => { u with groups := putSlot u.groups i { g with phase := 3 } })).flag Reg.RUL_STS 2

/-- A read of a group finds a check word mismatch or an uncorrected error (R277). -/
def Block.groupFault (b : Block) (i : Nat) : Block :=
  let g := slotIn b.tray.plane.groups i
  if g.phase = 0 ∨ g.phase = 3 then b else (b.groupBad i).healthCrumb 0x0D01 i g.bank 0

/-- An uncorrected error in a slot of the model store puts the slot in state BAD (R344): 1 plans, 2 plan images, 3 trees (their
reference images), 4 groups, 5 schedule images. A schedule slot has no states: its image is gone. -/
def Block.storeError (b : Block) (place id : Nat) : Block :=
  let bad (m : Sparse StoreSlot) : Sparse StoreSlot :=
    if (slotIn m id).phase = 0 then m else putSlot m id { slotIn m id with phase := 3 }
  let b := (b.flag Reg.HIS_STS 1).count Reg.HIS_UE_LOST 1
  match place with
  | 1 => b.modPlane (fun u => { u with plans := bad u.plans })
  | 2 => b.modPlane (fun u => { u with images := bad u.images })
  | 3 => b.modPlane (fun u => { u with trees := bad u.trees })
  | 4 => b.groupBad id
  | _ => b.modPlane (fun u => { u with scheds := u.scheds.filter (fun e => e.1 != id) })

/-- A read of a slot of the model store meets a stack that has failed: which stacks hold a slot is in no rule (R343, R490; log 84). -/
def Block.hitsFailed (b : Block) (place id : Nat) : Bool :=
  (List.range 24).any (fun k => b.tray.stacksFailed.getLsbD k && Config.inStack place id k)

/-- A slot of the model store is used: where its stack has failed, its first use makes it BAD (R490). -/
def Block.useSlot (b : Block) (place id : Nat) : Block :=
  let u := b.tray.plane
  let held : Bool := match place with
    | 1 => (slotIn u.plans id).usable | 2 => (slotIn u.images id).usable | 3 => (slotIn u.trees id).usable | 4 => (slotIn u.groups id).usable
    | _ => u.scheds.any (fun e => e.1 == id)
  if held && b.hitsFailed place id then b.storeError place id else b

/-- The plan of a digest is used. -/
def Block.usePlan (b : Block) (digest : Bytes) : Block :=
  b.forEach ((b.tray.plane.plans.filter (fun e => imageDigest e.2.bytes == digest)).map Prod.fst) (fun b i => b.useSlot 1 i)

/-- RULE_SCRUB (R277): an idle slot reads and checks an entry of a group; `bad` is a check word mismatch or an uncorrected error,
`fixed` a corrected leaf error. -/
def execRuleScrub (slot : Fin 4096) (entry : Fin 16384) (bad fixed : Bool) (s : State) : Host.Outcome State Fault Refusal :=
  onTray (fun b =>
    let g := slotIn b.tray.plane.groups slot
    b.when (b.isSet Reg.RUL_CTL 0 && g.phase != 0 && decide (entry.val < groupCount g.bytes)) (fun b =>
      let b := b.count Reg.RUL_SCRUBBED 1
      let b := if fixed then b.count Reg.RUL_CE 1 else b
      if bad then b.groupFault slot else b)) s

end Sys2Proof.Machine
end

