-- ==== Sys2Proof/Machine/Sched.lean ====
section
/-! DEFINITION. Schedules (R320 to R323, R345, R346): their tables, the checks of a load, the SCHED_LOAD descriptor. -/

namespace Sys2Proof.Machine

/-- NBIND, NSTEP, NBATCH of a schedule image (R320). -/
def schedBinds (img : Bytes) : Nat := fieldAt img 4 2
def schedSteps (img : Bytes) : Nat := fieldAt img 8 4
def schedBatches (img : Bytes) : Nat := fieldAt img 12 2

/-- Binding `i`. -/
def schedBind (img : Bytes) (i : Nat) : Bytes := slice img (64 + 32 * i) 32

/-- Batch `i`. -/
def schedBatch (img : Bytes) (i : Nat) : Bytes := slice img (64 + 32 * schedBinds img + 32 * i) 32

/-- The (binding, ensemble) pairs of batch `i`. -/
def batchPairs (img : Bytes) (i : Nat) : List (Nat × Nat) :=
  let e := schedBatch img i
  (List.range (byteAt e 0)).map (fun j => (byteAt e (4 + 2 * j), byteAt e (5 + 2 * j)))

/-- Step `i`. -/
def schedStep (img : Bytes) (i : Nat) : Bytes := slice img (64 + 32 * schedBinds img + 32 * schedBatches img + 16 * i) 16

/-- The rows start after the steps. -/
def schedRowsAt (img : Bytes) : Nat := 64 + 32 * schedBinds img + 32 * schedBatches img + 16 * schedSteps img

/-- The entry of row `r` and column `j`: OP and ARG. -/
def schedEntry (img : Bytes) (r j : Nat) : Nat × Nat :=
  let o := schedRowsAt img + 128 * r + 4 * j
  (byteAt img o, fieldAt img (o + 1) 3)

/-- K, LEVEL, CLOSE in ticks and the allowance of the level in ticks, of a binding. -/
def bindK (e : Bytes) : Nat := byteAt e 16
def bindLevel (e : Bytes) : Nat := byteAt e 17
def bindDelay (e : Bytes) : Nat :=
  fieldAt e 18 2 * ticksPerUs + (if bindLevel e ≤ 5 then 0 else byteAt e (20 + (bindLevel e - 6)) * 4 * ticksPerUs)

/-- KIND, PHASE, WLAG and BIND of a step. -/
def stepKind (e : Bytes) : Nat := byteAt e 1
def stepPhase (e : Bytes) : Nat := fieldAt e 2 2
def stepLag (e : Bytes) : Nat := byteAt e 4
def stepBind (e : Bytes) : Nat := byteAt e 0

/-- Operand fields of a step by their offset. -/
def stepArg (e : Bytes) (off n : Nat) : Nat := fieldAt e off n

/-- The step runs in the period `p` (R323). -/
def stepRuns (k phase p : Nat) : Bool := decide (k ≤ 10) || p % 2 ^ (k - 10) == phase

/-- The columns of a step kind (R321, R322). -/
def kindColumn (kind col : Nat) : Bool :=
  match kind with
  | 1 | 9 => decide (12 ≤ col) && decide (col ≤ 26)
  | 2 | 6 | 7 => col == 27
  | 3 => decide (col ≤ 3)
  | 4 => decide (4 ≤ col) && decide (col ≤ 7)
  | 5 => decide (8 ≤ col) && decide (col ≤ 11)
  | 8 => col == 28
  | 10 | 11 => col == 29
  | _ => false

/-- A batched kind: the step acts for every pair of its batch. -/
def kindBatched (kind : Nat) : Bool := kind ∈ [3, 4, 5, 8]

/-- The bindings that a step acts for: its own, or those of its batch. -/
def stepBinds (img : Bytes) (e : Bytes) : List Nat :=
  if kindBatched (stepKind e) then (batchPairs img (stepArg e 6 2)).map Prod.fst else [stepBind e]

/-- The unused operand bytes of a step are zero, and its reserved byte (R320, R322). -/
def stepZeros (e : Bytes) : Bool :=
  zeroAt e 5 1 && match stepKind e with
    | 1 | 9 => zeroAt e 10 6
    | 2 => zeroAt e 9 7
    | 3 => zeroAt e 14 2
    | 4 | 8 => zeroAt e 8 8
    | 5 => zeroAt e 10 6
    | _ => zeroAt e 6 10

/-- The plan of a digest in the plan store, where a slot of it is LOADED or BOUND. -/
def PlaneUnit.planOf (u : PlaneUnit) (digest : Bytes) : Option Bytes :=
  (u.plans.find? (fun e => e.2.usable && imageDigest e.2.bytes == digest)).map (fun e => e.2.bytes)

/-- The plan of binding `i` of a schedule. -/
def PlaneUnit.bindPlan (u : PlaneUnit) (img : Bytes) (i : Nat) : Bytes := (u.planOf (slice (schedBind img i) 0 16)).getD []

/-! ### When a step acts (R323) -/

/-- One place of a step in the rows, as one of its bindings sees it: step bytes, row and column, the time from the start of the window
that it acts on to its nominal start, the windows of a period, and the class of its window among them. -/
structure Place where
  bind : Nat
  step : Bytes
  row : Nat
  col : Nat
  since : Int
  per : Nat
  cls : Int

/-- The place of a step of row `r` and column `col` for a binding. -/
def placeOf (img : Bytes) (step : Bytes) (r col bind : Nat) : Place :=
  let k := bindK (schedBind img bind)
  let w := windowTicks k
  let t := (if k ≤ 10 then 0 else stepPhase step * switchTicks) + 2560 * r
  let per := if k < 10 then 2 ^ (10 - k) else 1
  { bind := bind, step := step, row := r, col := col, since := (t % w : Nat) + (stepLag step * w : Nat), per := per,
    cls := ((t / w : Nat) - (stepLag step : Int)) % (per : Int) }

/-- Every place of every step in the rows. -/
def schedPlaces (img : Bytes) : List Place :=
  ((List.range 6400).map (fun r => ((List.range 30).map (fun j =>
    let (op, arg) := schedEntry img r j
    if op = 2 then (stepBinds img (schedStep img arg)).map (placeOf img (schedStep img arg) r j) else [])).flatten)).flatten

/-- The place meets the window rule of R323: it starts at or after C_L(w), and ends before C_L(w + 8). -/
def Place.inTime (img : Bytes) (p : Place) : Bool :=
  let e := schedBind img p.bind
  let w : Int := windowTicks (bindK e)
  let d : Int := bindDelay e
  decide (w + d ≤ p.since) && decide (p.since + 2560 < 9 * w + d)

/-- `x` has to end before `y` starts for one window (R323): features before what uses them, scores before digests and score merges,
merges before the sends of their items, results before checkpoints. -/
def mustPrecede (list : List ListEntry) (x y : Bytes) : Bool :=
  let items (e : Bytes) : List ListEntry := (list.drop (stepArg e 6 2)).take (stepArg e 8 2)
  let reads (sp : Nat) : Bool := stepKind y == 1 && (items y).any (fun e => e.source / 4096 == sp)
  match stepKind x with
  | 2 => stepKind y ∈ [3, 4, 5] || reads 9
  | 3 => stepKind y == 8 || reads 13
  | 1 => stepKind y == 9 && (items y).any (fun e => e ∈ items x)
  | 10 => stepKind y == 11
  | _ => false

/-- The order rules of R323 between two places of one binding. -/
def Place.ordered (img : Bytes) (list : List ListEntry) (x y : Place) : Bool :=
  let w : Int := windowTicks (bindK (schedBind img x.bind))
  x.bind != y.bind ||
    ((x.cls != y.cls || !mustPrecede list x.step y.step || decide (x.since + 2560 ≤ y.since)) &&
      ((x.cls + 1) % (x.per : Int) != y.cls || decide (x.since + 2560 ≤ w + y.since)))

/-! ### Checks of a load (R323, R345, R346) -/

/-- The operands of FEATURISE, SCORE and RULE lie in range (R322, R323): tray ranks among 32, groups of the batch's ensembles, a list position
that names a group. -/
def PlaneUnit.operandsGood (u : PlaneUnit) (img e : Bytes) : Bool :=
  let all (f : Ensemble → Bool) : Bool := (batchPairs img (stepArg e 6 2)).all (fun p =>
    match (planEnsembles (u.bindPlan img p.1))[p.2]? with | some n => f n | none => false)
  match stepKind e with
  | 2 => decide (stepArg e 6 2 + stepArg e 8 1 ≤ 32)
  | 3 => all (fun n => decide (stepArg e 8 4 + stepArg e 12 2 ≤ n.groups))
  | 5 => all (fun n => ((n.trees[stepArg e 8 2]?).map TreeRef.rule).getD false)
  | _ => true

/-- A step's fields lie in range (R320, R322, R323). -/
def PlaneUnit.stepGood (u : PlaneUnit) (img e : Bytes) : Bool :=
  let kind := stepKind e
  let k := bindK (schedBind img (stepBind e))
  let list := planList (u.bindPlan img (stepBind e))
  decide (stepBind e < schedBinds img) && decide (1 ≤ kind) && decide (kind ≤ 11) && decide (stepLag e ≤ 8) && stepZeros e &&
    (if k ≤ 10 then stepPhase e == 0 else decide (stepPhase e < 2 ^ (k - 10))) &&
    (if kind = 1 ∨ kind = 9 then decide (stepArg e 6 2 + stepArg e 8 2 ≤ list.length) else true) &&
    (!kindBatched kind || decide (stepArg e 6 2 < schedBatches img)) && u.operandsGood img e

/-- A batch's fields lie in range, and its ensembles have one digest (R323). -/
def PlaneUnit.batchGood (u : PlaneUnit) (img : Bytes) (i : Nat) : Bool :=
  let e := schedBatch img i
  let n := byteAt e 0
  let ps := batchPairs img i
  let ens (p : Nat × Nat) : Option Ensemble := (planEnsembles (u.bindPlan img p.1))[p.2]?
  decide (1 ≤ n) && decide (n ≤ 8) && zeroAt e 1 3 && zeroAt e 20 12 && (slice e (4 + 2 * n) (16 - 2 * n)).all (· == 0xFF) &&
    ps.all (fun p => decide (p.1 < schedBinds img) && (ens p).isSome) &&
    (ps.map (fun p => (ens p).map Ensemble.digest)).all (· == (ps.head?.bind ens).map Ensemble.digest)

/-- Audit slots of one AUDIT row: a tree takes 8 of its 256 ANL cycles (R254, R321; log 16). -/
def auditSlotsPerRow : Nat := 32

/-- Every ensemble of a batch has in each window at least the audit slots that its plan names, in the reference lane that it names (R323). -/
def PlaneUnit.auditsGood (u : PlaneUnit) (img : Bytes) (ps : List Place) : Bool :=
  let per (i : Nat) : Nat := let k := bindK (schedBind img i); if k < 10 then 2 ^ (10 - k) else 1
  (List.range (schedBatches img)).all (fun n => (batchPairs img n).all (fun q =>
    let (lane, slots) := planAudit (u.bindPlan img q.1) q.2
    slots == 0 || (List.range (per q.1)).all (fun cls =>
      decide (slots ≤ auditSlotsPerRow * (ps.filter (fun r => stepKind r.step == 4 && r.bind == q.1 && r.cls == (cls : Int) && r.col == 4 + lane &&
        q ∈ batchPairs img (stepArg r.step 6 2))).length))))

/-- A binding's fields lie in range, and its plan is in the plan store (R323). -/
def PlaneUnit.bindGood (u : PlaneUnit) (img : Bytes) (i : Nat) : Bool :=
  let e := schedBind img i
  (u.planOf (slice e 0 16)).isSome && decide (bindK e ≤ 14) && decide (5 ≤ bindLevel e) && decide (bindLevel e ≤ 9) &&
    decide (1 ≤ fieldAt e 18 2) && decide (fieldAt e 18 2 ≤ 4095) && zeroAt e 24 8

/-- The memory section keeps R345 and R346. A REFRESH slice takes 16 MEM cycles; the gap counts from one slice's end to the next
one's start over the 256 cycles of each row, across the period boundary. -/
def memoryGood (img : Bytes) (ecEn : Bool) (gap : Nat) : Bool :=
  let mem := slice img (fieldAt img 40 4) (fieldAt img 44 4)
  let entry (r s : Nat) : Nat := fieldAt mem (4 * (24 * r + s)) 4
  let nib (e i : Nat) : Nat := bitsOf e (4 * i + 3) (4 * i)
  let starts (s : Nat) : List Nat := ((List.range 6400).map (fun r =>
    (List.range (nib (entry r s) 5)).map (fun j => 256 * r + 16 * j))).flatten
  mem.length == 6400 * 24 * 4 &&
    (List.range 6400).all (fun r => (List.range 24).all (fun s =>
      let e := entry r s
      e / 2 ^ 24 == 0 && decide ((List.range 6).foldl (fun a i => a + nib e i) 0 ≤ 16) && decide (1 ≤ nib e 0) &&
        (!ecEn || decide (1 ≤ nib e 1)))) &&
    (List.range 24).all (fun s => match starts s with
      | [] => false
      | a :: rest => ((a :: rest).zip (rest ++ [a + 6400 * 256])).all (fun p => decide (p.2 - p.1 ≤ 16 + gap)))

/-- A row entry suits its column (R321, R323). -/
def entryGood (img : Bytes) (r j : Nat) : Bool :=
  let (op, arg) := schedEntry img r j
  match op with
  | 0 => arg == 0
  | 1 => arg == 0
  | 2 => decide (arg < schedSteps img) && kindColumn (stepKind (schedStep img arg)) j && r != 6399
  | 3 => j == 30 && decide (arg < 32) && r != 6399
  | 4 => j == 31 && r != 6399
  | _ => false

/-- A schedule image passes every check of its load (R320, R323, R346). -/
def PlaneUnit.schedGood (u : PlaneUnit) (img : Bytes) (ecEn : Bool) (gap : Nat) : Bool :=
  let nb := schedBinds img
  let places := schedPlaces img
  slice img 0 3 == [0xA9, 0x53, 0x01] && zeroAt img 3 1 && decide (1 ≤ nb) && decide (nb ≤ 64) && zeroAt img 6 2 &&
    decide (1 ≤ schedSteps img) && decide (schedSteps img ≤ 1048576) && decide (schedBatches img ≤ 4096) && zeroAt img 14 2 &&
    zeroAt img 48 16 && fieldAt img 32 8 == img.length && fieldAt img 40 4 == schedRowsAt img + 6400 * 128 &&
    fieldAt img 40 4 + fieldAt img 44 4 == img.length && digestGood img &&
    (List.range nb).all (u.bindGood img) && (List.range (schedBatches img)).all (u.batchGood img) &&
    (List.range (schedSteps img)).all (fun i => u.stepGood img (schedStep img i)) &&
    (List.range 6400).all (fun r => (List.range 32).all (entryGood img r)) && places.all (fun p => p.inTime img) &&
    places.all (fun x => places.all (fun y => x.ordered img (planList (u.bindPlan img x.bind)) y)) &&
    u.auditsGood img places && memoryGood img ecEn gap

/-- A schedule takes slot `i`: plans are bound anew, and a BAD plan that no schedule binds any more leaves its slot (R259, R317). -/
def PlaneUnit.setSched (u : PlaneUnit) (i : Nat) (img : Bytes) : PlaneUnit :=
  let old := schedPlans (sget (fun _ => []) u.scheds i)
  let u := ({ u with scheds := sput (fun _ => []) u.scheds i img } : PlaneUnit).rebindSched
  let gone := u.plans.filter (fun e => e.2.phase == 3 && imageDigest e.2.bytes ∈ old && !u.planBound (imageDigest e.2.bytes))
  gone.foldl (fun u e => u.setPlan e.1 {}) u

/-- The schedule in force, where its slot holds a checked one (R320, R327). -/
def Block.schedule (b : Block) : Option Bytes :=
  let img := sget (fun _ => []) b.tray.plane.scheds (b.fld Reg.PLN_SCHED 0 0)
  if img.isEmpty then none else some img

/-- Schedule slot `s` is in force, or staged to be (R381). An empty slot is not in force (log 17). -/
def Block.schedBusy (b : Block) (s : Nat) : Bool :=
  (b.schedule.isSome && b.fld Reg.PLN_SCHED 0 0 == s) ||
    (match (b.txn.staged.filter (fun w => w.1 == Reg.PLN_SCHED)).getLast? with
      | some w => bitsOf w.2.toNat 1 1 == s | none => false) ||
    b.txn.pending.any (fun p => p.2.any (fun w => w.1 == Reg.PLN_SCHED && bitsOf w.2.toNat 1 1 == s))

/-- SCHED_LOAD (R320 to R323, R346). A schedule in force from now on runs its first whole period after the next boundary. -/
def Block.schedLoad (b : Block) (t : Taken) : Block :=
  let i := byteAt t.bytes 32
  let img := b.descInput t
  let old := sget (fun _ => []) b.tray.plane.scheds i
  if 2 ≤ i then b.complete t 0x0C
  else if b.leaseBlocks t (0x03000000 + i) then b.complete t 0x0B
  else if b.schedBusy i then b.complete t 0x09
  else if !b.tray.plane.schedGood img (b.isSet Reg.HIS_CTL 0) (b.fld Reg.HIS_REF 15 0) then b.complete t 0x10
  else if !b.tray.plane.hasRoom old.length img.length then b.complete t 0x03
  else ((b.modPlane (fun u => u.setSched i img)).modPlane (fun u =>
    { u with since := if i = b.fld Reg.PLN_SCHED 0 0 then b.ft.toNat / switchTicks + 1 else u.since })).complete t 0

/-- SCHED_LOAD (R320). -/
def execSchedLoad (id : Nat) (s : State) : Host.Outcome State Fault Refusal :=
  onTray (fun b => b.onModel 0x38 id Block.schedLoad) s

end Sys2Proof.Machine
end

