-- ==== Sys2Proof/Machine/Access.lean ====
section
/-! DEFINITION. Physical presence (R424 to R428), trace grants of a tray (R429, R430), leases and their breaking (R431 to R435). -/

namespace Sys2Proof.Machine

/-! ### Presence (R425 to R428) -/

/-- Change presence. -/
def Block.modPres (b : Block) (f : Presence → Presence) : Block := { b with tray := { b.tray with presence := f b.tray.presence } }

/-- TIM cycles of a second. -/
def timHz : Nat := 400000000

/-- The presence window is open. -/
def Block.windowOpen (b : Block) : Bool := match b.tray.presence.windowEnd with | some e => decide (b.time.cycles < e) | none => false

/-- Presence is held (R425). -/
def Block.presenceHeld (b : Block) : Bool := !b.tray.presence.sealBroken && (b.windowOpen || b.tray.presence.jumper)

/-- The presence window closes. -/
def Block.closeWindow (b : Block) : Block := b.modPres (fun p => { p with windowEnd := none })

/-- The slots of the dies that a tray's map of a context names. -/
def Block.diesOf (b : Block) (c : Nat) : List Nat :=
  (List.range 32).filter (fun s => (b.ctx c).map.any (fun m => slotOf m.2 == s && m.2 / 2 ^ 13 == b.da / 2 ^ 13))

/-- The contexts whose tray role this block holds and that are ACTIVE. -/
def Block.trayContexts (b : Block) : List Nat := b.ctxIds.filter (fun c => (b.ctx c).phase == .active && (b.ctx c).level == 5)

/-- Send a REVOKE record of a context to some dies of the tray (R427, R430). -/
def Block.sendRevoke (b : Block) (c : Nat) (mask : Nat) (dies : List Nat) : Block :=
  b.forEach dies (fun b s => b.sendControl (some c) (.die s) 0x0802 (leBytes 8 mask))

/-- The dies present on the tray (R494). -/
def Block.presentDies (b : Block) : List Nat := (List.range 32).filter (fun s => b.tray.present.getLsbD s)

/-- The SEAL_BROKEN crumb, pinned; none where the log already records the break. It waits for the health steward (R426). -/
def Block.sealCrumb (b : Block) : Block :=
  if !b.stewardRuns 4 then b.modPres (fun p => { p with crumbDue := true })
  else
    let b := b.modPres (fun p => { p with crumbDue := false })
    if b.sealRecorded then b else b.healthCrumb 0x1501 0 0 0 true

/-- Test modes end with CANCELLED (R427, R460). -/
def Block.endTestModes (b : Block) : Block :=
  let ds := b.tray.test.descs
  let b := { b with tray := { b.tray with test := { b.tray.test with injected := [], descs := [] } } }
  b.forEach ds (fun b e => match b.takenById e.2 with | some t => b.complete t 0x0D | none => b)

/-- SEAL_BROKEN latches (R427): every ACTIVE context is revoked at every die of the tray. -/
def Block.latchSeal (b : Block) : Block :=
  let b := (b.modPres (fun p => { p with sealBroken := true })).closeWindow
  let b := b.endTestModes
  (b.forEach (b.ctxIds.filter (fun c => (b.ctx c).phase == .active)) (fun b c => b.sendRevoke c (2 ^ 64 - 1) b.presentDies)).sealCrumb

/-- The taken level of the seal loop changes (R426): it latches the break once the reset scan has run; before, that the loop was taken open
is kept for the scan. -/
def Block.takeLoop (b : Block) (isOpen : Bool) : Block :=
  b.when (b.power.phase != 3 && b.tray.presence.loopOpen != isOpen) (fun b =>
    let b := b.modPres (fun p => { p with loopOpen := isOpen, firstOpen := p.firstOpen || (isOpen && !p.scanned) })
    if isOpen && b.tray.presence.scanned && !b.tray.presence.sealBroken then b.latchSeal else b)

/-- SEAL_LOOP_OPEN (R424, R426): the loop has shown a level for its settle time, and that becomes the taken level. -/
def execSealLoopOpen (isOpen : Bool) (s : State) : Host.Outcome State Fault Refusal :=
  onTray (fun b => (b.modPres (fun p => { p with loopIn := { p.loopIn with level := isOpen } })).takeLoop isOpen) s

/-- A press opens or restarts the presence window. -/
def Block.openWindow (b : Block) : Block := b.modPres (fun p => { p with windowEnd := some (b.time.cycles + 120 * timHz) })

/-- A press is taken (R425, R428): with SEAL_BROKEN latched it reseals or is refused. -/
def Block.press (b : Block) : Block :=
  let b := b.count Reg.SEC_PRESSES 1
  let p := b.tray.presence
  if !p.sealBroken then b.openWindow
  else if p.jumper && !p.loopOpen && b.logWrites then
    ((b.modPres (fun p => { p with sealBroken := false })).healthCrumb 0x1502 0 0 0).openWindow
  else b.flag Reg.SEC_STS 8

/-- The taken level of the button changes (R425): a press is a change to pressed. -/
def Block.takeButton (b : Block) (pressed : Bool) : Block :=
  b.when (b.power.phase != 3 && b.tray.presence.button != pressed) (fun b =>
    let b := b.modPres (fun p => { p with button := pressed })
    if pressed then b.press else b)

/-- The taken level of the jumper changes (R425): fitted is service mode. -/
def Block.takeJumper (b : Block) (fitted : Bool) : Block :=
  b.when (b.power.phase != 3) (fun b => b.modPres (fun p => { p with jumper := fitted }))

/-- BUTTON_PRESS (R424, R425): the button has shown a level for its settle time. -/
def execButtonPress (pressed : Bool) (s : State) : Host.Outcome State Fault Refusal :=
  onTray (fun b => (b.modPres (fun p => { p with buttonIn := { p.buttonIn with level := pressed } })).takeButton pressed) s

/-- JUMPER_CHANGE (R424, R425): the jumper has shown a level for its settle time. -/
def execJumperChange (fitted : Bool) (s : State) : Host.Outcome State Fault Refusal :=
  onTray (fun b => (b.modPres (fun p => { p with jumperIn := { p.jumperIn with level := fitted } })).takeJumper fitted) s

/-- The settle time of an input in TIM cycles (R424): 1 ms for the loop that opens, else 50 ms. -/
def settleCycles (loopOpens : Bool) : Nat := if loopOpens then timHz / 1000 else timHz / 20

/-- An input has shown a level that is not the taken one for its settle time. -/
def Block.hasSettled (b : Block) (d : Debounce) (taken : Bool) (cycles : Nat) : Bool :=
  d.level != taken && decide (d.since + cycles ≤ b.time.cycles)

/-- The debounce of the three presence inputs in a TIM cycle (R424); not in OFF. -/
def Block.debounce (b : Block) : Block :=
  if b.power.phase = 3 then b
  else
    let p := b.tray.presence
    let b := if b.hasSettled p.loopIn p.loopOpen (settleCycles p.loopIn.level) then b.takeLoop p.loopIn.level else b
    let b := if b.hasSettled p.buttonIn p.button (settleCycles false) then b.takeButton p.buttonIn.level else b
    if b.hasSettled p.jumperIn p.jumper (settleCycles false) then b.takeJumper p.jumperIn.level else b

/-- PRESENCE_WINDOW_EXPIRE (R425): 120 s have passed. -/
def execPresenceWindowExpire (s : State) : Host.Outcome State Fault Refusal :=
  onTray (fun b => b.when (b.tray.presence.windowEnd.isSome && !b.windowOpen) Block.closeWindow) s

/-- SEC_CLOSE_WRITE (R425): a write of SEC_CTL. -/
def execSecCloseWrite (v : Word) (s : State) : Host.Outcome State Fault Refusal :=
  onTray (fun b => b.when (v.getLsbD 0) Block.closeWindow) s

/-- The reset scan of the health steward (R426): the latch clears where the log can be used, records no break and the loop has not been taken
open since the reset. -/
def Block.scanSeal (b : Block) : Block :=
  let b := b.modPres (fun p => { p with scanned := true })
  if b.tray.presence.firstOpen then b.sealCrumb
  else if b.logRange.isSome && !b.sealRecorded then b.modPres (fun p => { p with sealBroken := false })
  else b

/-! ### Grants (R429, R430) -/

/-- The die answer time in ticks (R383). -/
def Block.dieTmo (b : Block) : Nat := max 1 (b.fld Reg.HST_CTL 15 0) * ticksPerUs

/-- The completion of a GRANT: dies accepted and refused. -/
def Block.grantEnd (b : Block) (t : Taken) : Block := b.complete t 0 0 (leBytes 4 t.accepted ++ leBytes 4 t.refused)

/-- GRANT (R429). -/
def Block.grantDesc (b : Block) (t : Taken) : Block :=
  let n := t.inLen / 8
  let ranges := (List.range n).map (fun i => (fieldAt (b.descInput t) (8 * i) 4, fieldAt (b.descInput t) (8 * i + 4) 4))
  let mask := fieldAt t.bytes 32 8
  let expiry := BitVec.ofNat 64 (fieldAt t.bytes 40 8)
  let c := b.lowestNode t.job
  let bound := match c with | some c => (b.ctx c).ranks | none => 2 ^ 18
  let late := ftDiff expiry b.ft
  if t.inLen % 8 ≠ 0 ∨ n < 1 ∨ 64 < n ∨ !ranges.all (fun r => decide (r.1 ≤ r.2) && decide (r.2 < bound)) ∨ mask = 0 ∨ late ≤ 0 ∨
      57600000000000 < late then b.complete t 0x0C
  else match c with
    | none => b.complete t 0x09
    | some c =>
      if !(c ∈ b.trayContexts) then b.complete t 0x09
      else
        let hit (s : Nat) : Bool := (b.ctx c).map.any (fun m => slotOf m.2 == s && m.2 / 2 ^ 13 == b.da / 2 ^ 13 &&
          ranges.any (fun r => decide (r.1 ≤ m.1) && decide (m.1 ≤ r.2)))
        let dies := (b.diesOf c).filter hit
        let body := leBytes 8 expiry.toNat ++ leBytes 8 mask ++ leBytes 1 n ++ zeros 7 ++ (b.descInput t).take (8 * n)
        let b := (b.forEach dies (fun b s => b.sendControl (some c) (.die s) 0x0801 body)).count Reg.SEC_GRANTS dies.length
        if dies.isEmpty then b.grantEnd t
        else b.setTaken { t with waitDies := dies, deadline := ftAdd b.ft b.dieTmo }

/-- GRANT (R429). -/
def execGrant (id : Nat) (s : State) : Host.Outcome State Fault Refusal := onTray (fun b => b.onDesc 0x18 5 id Block.grantDesc) s

/-- A die's answer to a descriptor: it no longer waits for the die, and the answer is counted. -/
def Taken.answered (t : Taken) (slot : Nat) (ok : Bool) : Taken :=
  { t with waitDies := t.waitDies.filter (· != slot), accepted := t.accepted + bit ok, refused := t.refused + bit (!ok) }

/-- The oldest descriptor of an opcode that waits for a die and meets a test. -/
def Block.waiting (b : Block) (op slot : Nat) (p : Taken → Bool) : Option Taken :=
  b.tray.host.taken.find? (fun t => t.begun && t.opcode == op && decide (slot ∈ t.waitDies) && p t)

/-- A GRANT_RESP record (R429); one with a reserved status is discarded (R11). -/
def Block.grantResp (b : Block) (f : Frame) (r : Bytes) : Block :=
  match b.waiting 0x18 (slotOf f.srcDa) (fun t => t.job == f.job) with
  | none => b
  | some t =>
    if !(byteAt r 8 ∈ [0, 9]) then b.recordBad else
    let t := t.answered (slotOf f.srcDa) (byteAt r 8 == 0)
    if t.waitDies.isEmpty then b.grantEnd t else b.setTaken t

/-- GRANT_RESP_RECEIVE (R429). -/
def execGrantRespReceive (port : Fin 8) (link : Fin 64) (frame : Bytes) (s : State) : Host.Outcome State Fault Refusal :=
  let _ := port
  onTray (fun b => b.receiveControl link frame 0x0803 Block.grantResp) s

/-- REVOKE (R430). -/
def Block.revokeDesc (b : Block) (t : Taken) : Block :=
  let b := match b.lowestNode t.job with | some c => b.sendRevoke c (fieldAt t.bytes 32 8) (b.diesOf c) | none => b
  b.complete t 0

/-- REVOKE (R430). -/
def execRevoke (id : Nat) (s : State) : Host.Outcome State Fault Refusal := onTray (fun b => b.onDesc 0x19 5 id Block.revokeDesc) s

/-! ### Leases (R431 to R435) -/

/-- A resource identifier that R431 lists. -/
def leaseGood (r : Nat) : Bool :=
  let i := r % 2 ^ 24
  match r / 2 ^ 24 with | 1 => i == 0 | 2 => decide (i < 32) | 3 => decide (i < 2) | _ => false

/-- Store the lease of a resource. -/
def HostUnit.setLease (h : HostUnit) (r : Nat) (l : Lease) : HostUnit := { h with leases := sput (fun _ => ({} : Lease)) h.leases r l }

/-- LEASE_ACQUIRE (R433). -/
def Block.leaseAcquire (b : Block) (t : Taken) : Block :=
  let r := fieldAt t.bytes 32 4
  let l := b.tray.host.lease r
  let key := b.ringKey t.ring
  if !leaseGood r then b.complete t 0x0C
  else if l.phase = 1 ∧ l.key ≠ key then b.complete t 0x0B
  else
    let b := (b.modHost (fun h => h.setLease r { phase := 1, key := key })).count Reg.LSE_ACQ 1
    b.complete t (if l.phase = 2 then 0x02 else 0x00)

/-- LEASE_ACQUIRE (R433). -/
def execLeaseAcquire (id : Nat) (s : State) : Host.Outcome State Fault Refusal := onTray (fun b => b.onDesc 0x50 5 id Block.leaseAcquire) s

/-- LEASE_RELEASE (R433). -/
def Block.leaseRelease (b : Block) (t : Taken) : Block :=
  let r := fieldAt t.bytes 32 4
  let l := b.tray.host.lease r
  if !leaseGood r then b.complete t 0x0C
  else if l.phase = 1 ∧ l.key = b.ringKey t.ring then (b.modHost (fun h => h.setLease r {})).complete t 0
  else b.complete t 0x09

/-- LEASE_RELEASE (R433). -/
def execLeaseRelease (id : Nat) (s : State) : Host.Outcome State Fault Refusal := onTray (fun b => b.onDesc 0x51 5 id Block.leaseRelease) s

/-- Discard the staging set and any pending commit (R329). -/
def Block.discardStaged (b : Block) : Block := { b with txn := { b.txn with staged := [], poisoned := false, pending := [] } }

/-- The rollback of a resource (R431). -/
def Block.rollback (b : Block) (r : Nat) : Block :=
  match r / 2 ^ 24 with
  | 1 => b.discardStaged
  | 2 => b.sendControl none (.die (r % 32)) 0x0203 []
  | _ => if b.schedBusy (r % 2) then b else b.modPlane (fun u => u.setSched (r % 2) [])

/-- Break the HELD leases whose key meets a test (R434): each becomes BROKEN and is rolled back. -/
def Block.breakLeases (b : Block) (p : LeaseKey → Bool) : Block :=
  b.forEach (b.tray.host.leases.filter (fun e => e.2.phase == 1 && p e.2.key)) (fun b e =>
    (((b.modHost (fun h => h.setLease e.1 { e.2 with phase := 2 })).count Reg.LSE_BREAKS 1).flag Reg.LSE_STAT 0).rollback e.1)

end Sys2Proof.Machine
end

