-- ==== Sys2Proof/Machine/Loaf.lean ====
section
/-! DEFINITION. Paben loaves (spec/06): the decoder and its errors (R135 to R142), the encoder (R143 to R146), loaves in a byte
space (R147). -/

namespace Sys2Proof.Machine

/-! ### Decoding (R135 to R142) -/

/-- A loaf fault (R141): its status and detection offset. -/
structure LoafFault where
  status : Nat
  offset : Nat
deriving DecidableEq, Repr

/-- A decoded loaf: flags, block size code, stream, sequence, stored length, and its uncompressed bytes. -/
structure Loaf where
  flags : Nat
  blk : Nat
  stream : Nat
  seq : Nat
  storedLen : Nat
  out : Bytes
deriving DecidableEq, Repr

/-- The block size of a BLK code (R135). -/
def blkSize (code : Nat) : Nat := 4096 * 2 ^ code

/-- The size of a loaf in a byte space: header, body and trailer, to the next multiple of 64 (R147). -/
def loafSpan (storedLen : Nat) : Nat := (20 + storedLen + 63) / 64 * 64

/-- The copy of a match (R140): `n` bytes from distance `d`, onto the output in reverse. -/
def copyMatch (d : Nat) : Nat → Bytes → Bytes
  | 0, rev => rev
  | n + 1, rev => copyMatch d n (rev.getD (d - 1) 0 :: rev)

/-- The operand bytes of a tag (R138). -/
def tagOperands (t : Nat) : Nat :=
  if t < 0x40 then 0 else if t < 0x80 then 1 else if t < 0xC0 then 2 else if t = 0xC1 then 1 else if t = 0xC2 then 2 else 0

/-- A tag with its operands (R138): a literal run of `n`, or a match of `n` at distance `d`. -/
inductive Tag
  | lit (n : Nat)
  | copy (n d : Nat)
deriving DecidableEq, Repr

/-- What a tag byte and its operand say (R138, R139). -/
def tagOf (t operand last : Nat) : Tag :=
  if t < 0x40 then .lit (t + 1)
  else if t < 0x80 then .copy (t / 8 % 8 + 3) (t % 8 * 256 + operand + 1)
  else if t < 0xC0 then .copy (t % 64 + 3) (operand + 1)
  else if t = 0xC1 then .copy (operand + 3) last
  else .lit (operand + 1)

/-- The body loop of R141. `i` is the detection offset of the next byte, `rest` the bytes from there to the end of the body,
`rev` the output in reverse, `len` its length. -/
def decodeBody (inputLen : Nat) : Nat → Nat → Bytes → Bytes → Nat → Nat → Except LoafFault Bytes
  | 0, i, _, _, _, _ => .error ⟨0x08, i⟩
  | _ + 1, i, [], _, _, _ => .error ⟨0x08, i⟩
  | fuel + 1, i, tb :: rest, rev, len, last =>
    let t := tb.toNat
    let k := tagOperands t
    if t = 0xC0 then
      if len < inputLen then .error ⟨0x08, i⟩
      else if !rest.isEmpty then .error ⟨0x06, i + 1⟩
      else .ok rev.reverse
    else if 0xC3 ≤ t ∨ (t = 0xC1 ∧ last = 0) then .error ⟨0x04, i⟩
    else if rest.length < k then .error ⟨0x08, i⟩
    else
      match tagOf t (leNat (rest.take k)) last with
      | .lit n =>
        if inputLen < len + n then .error ⟨0x06, i⟩
        else if rest.length < k + n then .error ⟨0x08, i⟩
        else decodeBody inputLen fuel (i + 1 + k + n) (rest.drop (k + n)) (((rest.drop k).take n).reverse ++ rev) (len + n) last
      | .copy n d =>
        if len < d then .error ⟨0x05, i⟩
        else if inputLen < len + n then .error ⟨0x06, i⟩
        else decodeBody inputLen fuel (i + 1 + k) (rest.drop k) (copyMatch d n rev) (len + n) (if t = 0xC1 then last else d)

/-- Decode the loaf at the start of `buf`, all of which is available, into `room` bytes of space (R141, R142). -/
def decodeLoaf (buf : Bytes) (room : Nat) : Except LoafFault Loaf :=
  let avail := buf.length
  let flags := byteAt buf 2
  let blk := byteAt buf 3
  let inputLen := fieldAt buf 4 3
  let storedLen := fieldAt buf 7 3
  let stop := 16 + storedLen
  let raw := bitOf flags 0
  if avail < 16 then .error ⟨0x08, avail⟩
  else if byteAt buf 0 ≠ 0xB7 ∨ byteAt buf 1 ≠ 0x1F then .error ⟨0x04, 0⟩
  else if 16 ≤ flags then .error ⟨0x04, 2⟩
  else if 4 < blk then .error ⟨0x04, 3⟩
  else if inputLen = 0 ∨ blkSize blk < inputLen then .error ⟨0x06, 4⟩
  else if storedLen = 0 ∨ inputLen < storedLen then .error ⟨0x06, 7⟩
  else if raw ∧ storedLen ≠ inputLen then .error ⟨0x06, 7⟩
  else if avail < 20 + storedLen then .error ⟨0x08, avail⟩
  else if room < inputLen then .error ⟨0x03, 4⟩
  else
    let body := slice buf 16 storedLen
    match (if raw then .ok body else decodeBody inputLen (storedLen + 1) 16 body [] 0 0 : Except LoafFault Bytes) with
    | .error e => .error e
    | .ok out =>
      if (crc32c out).toNat ≠ fieldAt buf stop 4 then .error ⟨0x07, stop⟩
      else .ok { flags := flags, blk := blk, stream := fieldAt buf 10 2, seq := fieldAt buf 12 4, storedLen := storedLen, out := out }

/-! ### Encoding (R143 to R146) -/

/-- A match at position `i` takes its bytes from earlier output: lengths and distance in range and every byte equal (R143). -/
def matchValid (input : Bytes) (i n d : Nat) : Bool :=
  decide (3 ≤ n) && decide (i + n ≤ input.length) && decide (1 ≤ d) && decide (d ≤ i) && decide (d ≤ 65536) &&
    (slice input i n == slice input (i - d) n)

/-- The parse of a loaf's input: a proposed match where it is valid, else a literal byte. -/
def parseInput (effort : Nat) (input : Bytes) : Nat → Nat → List (Byte ⊕ (Nat × Nat))
  | 0, _ => []
  | fuel + 1, i =>
    match input.drop i with
    | [] => []
    | x :: _ =>
      let (n, d) := Config.encoderMatch effort input i
      if matchValid input i n d then .inr (n, d) :: parseInput effort input fuel (i + n)
      else .inl x :: parseInput effort input fuel (i + 1)

/-- The greatest piece of a match of `n` bytes that a form of at most `m` allows and that leaves nothing or at least 3 (R143). -/
def pieceLen (m n : Nat) : Nat := if n ≤ m then n else min m (n - 3)

/-- Repeat-last-offset pieces of a match (R143). -/
def repeatPieces : Nat → Nat → Bytes
  | 0, _ => []
  | _ + 1, 0 => []
  | fuel + 1, n => let l := pieceLen 258 n; leBytes 1 0xC1 ++ leBytes 1 (l - 3) ++ repeatPieces fuel (n - l)

/-- The tags of a match (R143). -/
def matchTags (n d last : Nat) : Bytes :=
  if d = last then repeatPieces n n
  else if n ≤ 10 ∧ d ≤ 2048 then leBytes 1 (0x40 + (n - 3) * 8 + (d - 1) / 256) ++ leBytes 1 ((d - 1) % 256)
  else let l := pieceLen 66 n; leBytes 1 (0x80 + (l - 3)) ++ leBytes 2 (d - 1) ++ repeatPieces n (n - l)

/-- The tag of a run of literal bytes (R143). -/
def literalTag (run : Bytes) : Bytes :=
  if run.isEmpty then [] else if run.length ≤ 64 then leBytes 1 (run.length - 1) ++ run
  else leBytes 1 0xC2 ++ leBytes 2 (run.length - 1) ++ run

/-- The tag stream of a parse: `run` holds the literals before, in reverse. -/
def emitTags : List (Byte ⊕ (Nat × Nat)) → Bytes → Nat → Bytes
  | [], run, _ => literalTag run.reverse
  | .inl x :: ps, run, last => emitTags ps (x :: run) last
  | .inr (n, d) :: ps, run, last => literalTag run.reverse ++ matchTags n d last ++ emitTags ps [] d

/-- The tag stream of a loaf's input, end tag included (R143). -/
def tagStream (effort : Nat) (input : Bytes) : Bytes :=
  emitTags (parseInput effort input (input.length + 1) 0) [] 0 ++ leBytes 1 0xC0

/-- Whether a loaf is stored RAW, and its body (R144). -/
def storedBody (rawOnly : Bool) (effort : Nat) (input : Bytes) : Bool × Bytes :=
  let tags := tagStream effort input
  if rawOnly ∨ input.length ≤ tags.length then (true, input) else (false, tags)

/-- A whole loaf: header, body, trailer (R135, R136). `flags` is without RAW. -/
def buildLoaf (flags blk stream seq : Nat) (rawOnly : Bool) (effort : Nat) (input : Bytes) : Bytes :=
  let (raw, body) := storedBody rawOnly effort input
  leBytes 1 0xB7 ++ leBytes 1 0x1F ++ leBytes 1 (flags + bit raw) ++ leBytes 1 blk ++ leBytes 3 input.length ++
    leBytes 3 body.length ++ leBytes 2 stream ++ leBytes 4 seq ++ body ++ leBytes 4 (crc32c input).toNat

/-- A built loaf is RAW. -/
def loafIsRaw (loaf : Bytes) : Bool := bitOf (byteAt loaf 2) 0

end Sys2Proof.Machine
end

