-- ==== Sys2Proof/Machine/HistCore.lean ====
section
/-! DEFINITION. History memory (R343, R348, R349): segments and their sealing; the erasure code (R351) and the admission of sealed
segments to stripes (R350, R352, R355). -/

namespace Sys2Proof.Machine

/-- Change the history unit. -/
def Block.modHist (b : Block) (f : HistoryUnit → HistoryUnit) : Block :=
  { b with tray := { b.tray with history := f b.tray.history } }

/-! ### GF(2^8) (R351) -/

/-- Twice a field element, reduced by 0x11D. -/
def gfDouble (x : Nat) : Nat := if x < 128 then 2 * x else (2 * x) ^^^ 0x11D

/-- The product of two field elements: `n` bits of the second, from bit 0. -/
def gfMulBits : Nat → Nat → Nat → Nat
  | 0, _, _ => 0
  | n + 1, x, y => (if y % 2 = 1 then x else 0) ^^^ gfMulBits n (gfDouble x) (y / 2)

/-- The product in GF(2^8) with polynomial 0x11D. -/
def gfMul (x y : Nat) : Nat := gfMulBits 8 x y

/-- The inverse: the element whose product with `x` is 1; 0 for 0. -/
def gfInv (x : Nat) : Nat := ((List.range 256).find? (fun y => gfMul x y == 1)).getD 0

/-- The coefficient c_{j,i}: the inverse of (j + 8) XOR i (R351). -/
def gfCoef (j i : Nat) : Nat := gfInv ((j + 8) ^^^ i)

/-- A column times a field element, extended with zeros to a length. -/
def gfScale (c len : Nat) (col : Bytes) : Bytes :=
  (List.range len).map (fun k => BitVec.ofNat 8 (gfMul c (col.getD k 0).toNat))

/-- The sum of two columns of one length. -/
def gfAddCols (x y : Bytes) : Bytes := (x.zip y).map (fun p => p.1 ^^^ p.2)

/-- The greatest length of a list of columns. -/
def longest (cols : List Bytes) : Nat := cols.foldl (fun a c => max a c.length) 0

/-- Parity column `j` of eight data columns (R351). -/
def parityColumn (j : Nat) (data : List Bytes) : Bytes :=
  let len := longest data
  (data.zip (List.range 8)).foldl (fun acc p => gfAddCols acc (gfScale (gfCoef j p.2) len p.1)) (zeros len)

/-- The row of the code matrix for column `i`: data columns 0 to 7, parity columns from 8. -/
def gfRow (i : Nat) : List Nat :=
  if i < 8 then (List.range 8).map (fun k => bit (k == i)) else (List.range 8).map (gfCoef (i - 8))

/-- One elimination step on column `k`: rows are coefficients with their byte columns. -/
def gfEliminate (len k : Nat) (rows : List (List Nat × Bytes)) : List (List Nat × Bytes) :=
  match rows.findIdx? (fun r => r.1.getD k 0 != 0 && (r.1.take k).all (· == 0)) with
  | none => rows
  | some p =>
    let r := rows.getD p ([], [])
    let inv := gfInv (r.1.getD k 0)
    let piv : List Nat × Bytes := (r.1.map (gfMul inv), gfScale inv len r.2)
    (rows.zip (List.range rows.length)).map (fun e =>
      if e.2 = p then piv
      else
        let c := e.1.1.getD k 0
        ((e.1.1.zip piv.1).map (fun q => q.1 ^^^ gfMul c q.2), gfAddCols e.1.2 (gfScale c len piv.2)))

/-- Decode the eight data columns from eight columns with their indices (R351, R358). -/
def gfDecode (len : Nat) (cols : List (Nat × Bytes)) : List Bytes :=
  let rows := cols.map (fun c => (gfRow c.1, gfScale 1 len c.2))
  let out := (List.range 8).foldl (fun rs k => gfEliminate len k rs) rows
  (List.range 8).map (fun k => match out.find? (fun r => r.1.getD k 0 == 1 && ((List.range 8).all (fun m => m == k || r.1.getD m 0 == 0))) with
    | some r => r.2
    | none => zeros len)

/-! ### Groups (R350) -/

/-- Send one history record to a member of a group, in a class 5 block frame (R354). -/
def Block.sendHistory (b : Block) (cls m htype : Nat) (body : Bytes) : Block :=
  b.sendOutput { ctx := none, cls := 5, dest := .peer (b.peerOf cls m).da, window := 0, ft := b.ft } [padTo 8 (controlRecord htype body)]

/-- Send a body of bytes in records of at most 4,000 data bytes (R354). `head` gives the fields before the offset. -/
def Block.sendPieces (b : Block) (cls m htype : Nat) (head : Bytes) (data : Bytes) : Block :=
  let n := max 1 (ceilDiv data.length 4000)
  b.forEach (List.range n) (fun b i => b.sendHistory cls m htype
    (head ++ leBytes 4 (4000 * i) ++ leBytes 4 data.length ++ slice data (4000 * i) 4000))

/-! ### Segments (R348, R349) -/

/-- The size of a segment, and the segments of each region: flight ring, ledger, replay log, checkpoints (R343). -/
def segmentSize : Nat := 2 ^ 20
def regionSegments (region : Nat) : Nat :=
  match region with | 0 => 1500 * 1024 | 1 => 256 * 1024 | 2 => 64 * 1024 | _ => 16 * 1024

/-- The 32 bytes that stand before a record in a segment of the ledger, the replay log and the checkpoints. The layout is the model's own (DESIGN
CHOICE, log 28): two bytes of magic, region, kind, job, level, flags, epoch, window, part, length, FT. -/
def HistRec.head (region : Nat) (r : HistRec) : Bytes :=
  [0xA9, 0x4C] ++ leBytes 1 region ++ leBytes 1 r.kind ++ leBytes 2 r.job ++ leBytes 1 r.level ++ leBytes 1 (bit r.more) ++ leBytes 4 r.epoch ++
    leBytes 5 r.w ++ leBytes 3 r.part ++ leBytes 4 r.bytes.length ++ leBytes 8 r.ft

/-- The bytes of a record in a segment of a region: a loaf as it came (R147), any other with its head. -/
def HistRec.stored (region : Nat) (r : HistRec) : Bytes :=
  if region = 0 then r.bytes ++ zeros (loafSpan (fieldAt r.bytes 7 3) - r.bytes.length) else r.head region ++ r.bytes

/-- The size of a record in a segment of a region. -/
def HistRec.span (region : Nat) (r : HistRec) : Nat :=
  if region = 0 then max r.bytes.length (loafSpan (fieldAt r.bytes 7 3)) else 32 + r.bytes.length

/-- The index entry of a flight segment (R348), which stands before its loaves: port, job and epoch, first and last SEQ, ANCHOR FT and window. Its
layout in 64 bytes is the model's own (DESIGN CHOICE, log 28). -/
def Segment.index (s : Segment) : Bytes :=
  let ends (f : HistRec → Bytes) : Bytes := (s.recs.head?.map f).getD [] ++ (s.recs.getLast?.map f).getD []
  ([0xA9, 0x49] ++ leBytes 2 s.port ++ ends (fun r => leBytes 2 r.job ++ leBytes 4 r.epoch ++ leBytes 4 r.seq ++ leBytes 8 r.ft ++ leBytes 5 r.w) ++
    zeros 64).take 64

/-- The bytes of a segment. -/
def Segment.data (s : Segment) : Bytes := (if s.region = 0 then s.index else []) ++ (s.recs.map (HistRec.stored s.region)).flatten

/-- The length of a segment. -/
def Segment.size (s : Segment) : Nat := s.recs.foldl (fun a r => a + r.span s.region) (if s.region = 0 then 64 else 0)

/-- The records that the bytes of a segment hold, each with its region and its port: loaves after their index entry, and records with the head of the
model's layout. `entry` is the index entry met last; the number bounds the work. -/
def storedRecs (entry : Bytes) : Nat → Bytes → List (Nat × Nat × HistRec)
  | 0, _ => []
  | n + 1, bs =>
    if byteAt bs 0 = 0xA9 ∧ byteAt bs 1 = 0x49 then storedRecs (bs.take 64) n (bs.drop 64)
    else if byteAt bs 0 = 0xB7 ∧ byteAt bs 1 = 0x1F then
      let raw := bs.take (20 + fieldAt bs 7 3)
      let out := ((decodeLoaf raw (2 ^ 24)).toOption.map Loaf.out).getD []
      (0, fieldAt entry 2 2, { job := fieldAt entry 4 2, epoch := fieldAt entry 6 4, w := fieldAt out 16 5, kind := 0, seq := fieldAt raw 12 4,
                               ft := fieldAt out 8 8, bytes := raw }) ::
        storedRecs entry n (bs.drop (loafSpan (fieldAt bs 7 3)))
    else if byteAt bs 0 = 0xA9 ∧ byteAt bs 1 = 0x4C then
      let len := fieldAt bs 20 4
      (byteAt bs 2, 0, { job := fieldAt bs 4 2, epoch := fieldAt bs 8 4, level := byteAt bs 6, w := fieldAt bs 12 5, kind := byteAt bs 3,
                         part := fieldAt bs 17 3, more := bitOf (byteAt bs 7) 0, ft := fieldAt bs 24 8, bytes := slice bs 32 len }) ::
        storedRecs entry n (bs.drop (32 + len))
    else []

/-- Whole records from records and parts: a part joins the one before it. A part without the one before it gives no record. -/
def joinRecs (rs : List HistRec) : List HistRec :=
  (rs.foldl (fun (a : List HistRec × Option HistRec) r =>
    let r? : Option HistRec := if r.part = 0 then some r else match a.2 with
      | some q => if q.job = r.job ∧ q.epoch = r.epoch ∧ q.level = r.level ∧ q.w = r.w ∧ q.kind = r.kind ∧ q.part + 1 = r.part
          then some { r with bytes := q.bytes ++ r.bytes } else none
      | none => none
    match r? with
    | none => (a.1, none)
    | some q => if q.more then (a.1, some q) else (a.1 ++ [{ q with part := 0 }], none)) ([], none)).1

/-- The next admission of a class: the next number whose assembler and parity holders are not LOST, since a stripe with a LOST one is abandoned
and its segments take the next number (R352, R353). None where each of the eight assemblers has such a stripe. -/
def Block.nextAdmission (b : Block) (cls : Nat) (n : Nat) : Option Nat :=
  let holds (k : Nat) : Bool := (List.range (groupParity cls)).all (fun j =>
    (b.peerOf cls ((b.groupIndex cls + 1 + k % 8 + j) % groupSize cls)).phase != 1)
  ((List.range 8).map (· + n)).find? holds

/-- Change one segment. -/
def Block.modSegment (b : Block) (id : Nat) (f : Segment → Segment) : Block :=
  b.modHist (fun h => { h with segs := h.segs.map (fun s => if s.id = id then f s else s) })

/-- Admit a sealed segment to the assembler of its number (R352): its data leave as share frames. -/
def Block.admitSegment (b : Block) (s : Segment) : Block :=
  match b.nextAdmission s.cls (sget (fun _ => 0) b.tray.history.nextN s.cls) with
  | none => b.modSegment s.id (fun s => { s with n := none, stripe := none, columns := [], coded := false })
  | some n =>
    let m := b.groupIndex s.cls
    let a := (m + 1 + n % 8) % groupSize s.cls
    let b := b.modHist (fun h => { h with nextN := sput (fun _ => 0) h.nextN s.cls (n + 1) })
    (b.modSegment s.id (fun s => { s with n := some n, stripe := none, columns := [], coded := false })).sendPieces s.cls a 0x0501
      (leBytes 1 s.cls ++ leBytes 1 m ++ zeros 2 ++ leBytes 4 n) s.data

/-- Admission is possible: coding on, the class's group in use, the ingest steward running (R352, R363, R437). -/
def Block.admits (b : Block) (cls : Nat) : Bool := b.isSet Reg.HIS_CTL 0 && b.groupOn cls && b.stewardRuns 0

/-- The bytes admitted to class 0 stripes that the budget has not covered yet (R355): 8 GB/s are 20 bytes per TIM cycle and unit of RATE. -/
def Block.ecDebt (b : Block) : Nat :=
  let h := b.tray.history
  h.ecDebt - (b.time.cycles - h.ecCycle) * 20 * b.fld Reg.HIS_EC_RATE 7 0

/-- Bytes admitted to a stripe of a class count against the budget of class 0 (R355). -/
def Block.spendEc (b : Block) (cls n : Nat) : Block :=
  if cls ≠ 0 then b else b.modHist (fun h => { h with ecDebt := b.ecDebt + n, ecCycle := b.time.cycles })

/-- A flight-ring segment finds budget at its seal (R355): RATE is not zero, and what has been admitted stays within what the rate has given since and
a free number of bytes that may run ahead of it (log 4). -/
def Block.ecBudget (b : Block) (n : Nat) : Bool :=
  b.fld Reg.HIS_EC_RATE 7 0 != 0 && decide (b.ecDebt + n ≤ Config.ecBurst)

/-- Seal a segment (R348, R349, R355): the logs and checkpoints are always admitted, a flight-ring segment while the budget allows. -/
def Block.sealSegment (b : Block) (s : Segment) : Block :=
  let b := (b.modSegment s.id (fun s => { s with isSealed := true })).count Reg.HIS_SEG_SEALED 1
  if !b.admits s.cls then b
  else if s.region = 0 ∧ !b.ecBudget s.size then (b.count Reg.HIS_SEG_UNCODED 1).flag Reg.HIS_STS 0
  else (b.spendEc s.cls s.size).admitSegment s

/-- A contributor reuses a segment: a CODED one is released at the parity holders of its stripe (R353). -/
def Block.releaseSegment (b : Block) (s : Segment) : Block :=
  let b := b.modHist (fun h => { h with segs := h.segs.filter (fun x => x.id != s.id) })
  match s.coded, s.stripe with
  | true, some (a, num) =>
    b.forEach (List.range (groupParity s.cls)) (fun b j =>
      b.sendHistory s.cls ((a + j) % groupSize s.cls) 0x0505 (leBytes 1 s.cls ++ leBytes 1 1 ++ leBytes 1 a ++ zeros 1 ++ leBytes 4 num))
  | _, _ => b

/-- Take a new segment; the oldest sealed one of a full region is reused (R348, R349). -/
def Block.newSegment (b : Block) (region port cls : Nat) : Block :=
  let held := b.tray.history.segs.filter (fun s => s.region == region)
  let b := if regionSegments region ≤ held.length then
      match held.find? Segment.isSealed with | some s => b.releaseSegment s | none => b
    else b
  b.modHist (fun h => { h with segs := h.segs ++ [{ id := h.nextId, region := region, port := port, cls := cls }], nextId := h.nextId + 1 })

/-- The open segment of a region: by port in the flight ring, by class elsewhere. -/
def Block.openSegment (b : Block) (region port cls : Nat) : Option Segment :=
  b.tray.history.segs.find? (fun s => s.region == region && s.port == port && s.cls == cls && !s.isSealed)

/-- Write a record into the open segment of a region where it fits, else that segment is sealed and the next one starts (R348, R349). -/
def Block.histPut (b : Block) (region port cls : Nat) (r : HistRec) : Block :=
  let put (b : Block) : Block :=
    match b.openSegment region port cls with
    | some s => b.modSegment s.id (fun s => { s with recs := s.recs ++ [r] })
    | none => b
  match b.openSegment region port cls with
  | none => put (b.newSegment region port cls)
  | some s => if s.size + r.span region ≤ segmentSize ∨ s.recs.isEmpty then put b
              else put ((b.sealSegment s).newSegment region port cls)

/-- Write a record into a region (R348, R349). One that is larger than a segment is written in parts, each of which fills one (DEDUCED, log 46). -/
def Block.histWrite (b : Block) (region port cls : Nat) (r : HistRec) : Block :=
  let room := segmentSize - 32
  let n := max 1 (ceilDiv r.bytes.length room)
  if region = 0 ∨ n = 1 then b.histPut region port cls r
  else b.forEach (List.range n) (fun b i =>
    b.histPut region port cls { r with part := i, more := decide (i + 1 < n), bytes := slice r.bytes (room * i) room })

/-- At a switch boundary the open segments of the ledger, the replay log and the checkpoints are sealed (R349). -/
def Block.sealLogs (b : Block) : Block :=
  b.forEach (b.tray.history.segs.filter (fun s => s.region != 0 && !s.isSealed && !s.recs.isEmpty)) (fun b s => b.sealSegment s)

/-- The records of a region that this block wrote and holds, the oldest first: not those of segments lost to a memory error or with their
stripe (R344, R360). -/
def HistoryUnit.own (h : HistoryUnit) (region : Nat) : List HistRec :=
  joinRecs (((h.segs.filter (fun s => s.region == region && !s.faulted && !s.lost)).map Segment.recs).flatten)

/-- The records in the columns of a LOST member that this block has rebuilt, in the order of the member's n, each with its region and port (R359). -/
def HistoryUnit.ofMember (h : HistoryUnit) (key : Nat) : List (Nat × Nat × HistRec) :=
  let xs := (h.content.filter (fun x => 16 * x.cls + x.member == key)).mergeSort (fun x y => decide (x.n ≤ y.n))
  (xs.map (fun x => storedRecs [] x.bytes.length x.bytes)).flatten

/-- The loaves of a port of a LOST member. -/
def HistoryUnit.loavesOf (h : HistoryUnit) (key port : Nat) : List HistRec :=
  ((h.ofMember key).filter (fun e => e.1 == 0 && e.2.1 == port)).map (fun e => e.2.2)

/-- The records of a region that this block can read: its own, and those of the LOST members that it serves for (R359). -/
def HistoryUnit.records (h : HistoryUnit) (region : Nat) : List HistRec :=
  h.own region ++ (h.heirOf.map (fun k => joinRecs (((h.ofMember k).filter (fun e => e.1 == region)).map (fun e => e.2.2)))).flatten

/-- A loaf of a port in the flight ring, and how it reads: 0 as it came, 1 its segment was lost to a memory error, 2 its stripe is lost. A port
from 256 on is one of a LOST member that this block serves for (R359). -/
def HistoryUnit.loafAt (h : HistoryUnit) (port : Nat) (p : HistRec → Bool) : Option (HistRec × Nat) :=
  if 256 ≤ port then ((h.loavesOf (port / 256 - 1) (port % 256)).find? p).map (fun r => (r, 0))
  else (((h.segs.filter (fun s => s.region == 0 && s.port == port)).map (fun s =>
    s.recs.map (fun r => (r, if s.lost then 2 else bit s.faulted)))).flatten).find? (fun e => p e.1)

/-- What a read of a loaf with an uncorrected memory error finds (R344): its bytes are lost, and so the status with which it faults, of those of
R141, is a free value (log 4). -/
def Block.unreadable (b : Block) : LoafFault × Block :=
  let (v, b) := b.freeNat
  (⟨4 + v % 5, 0⟩, b)

/-! ### The replay log (R335) -/

/-- A replay record: header and body. -/
def replayRecord (job epoch kind w count : Nat) (body : Bytes) : Bytes :=
  let head := leBytes 2 job ++ leBytes 1 kind ++ zeros 1 ++ leBytes 4 epoch ++ leBytes 5 w ++ zeros 3 ++ leBytes 4 count ++
    leBytes 4 body.length ++ zeros 4
  head ++ leBytes 4 (crc32c (head ++ body)).toNat ++ body

/-- Write a replay record of a context's window (R335). -/
def Block.replayWrite (b : Block) (c kind w count : Nat) (body : Bytes) : Block :=
  let x := b.ctx c
  b.histWrite 2 0 (classOfLevel x.level) { job := x.job, epoch := x.epoch, level := x.level, w := w, kind := kind, ft := b.ft.toNat,
                                           bytes := replayRecord x.job x.epoch kind w count body }

/-- Write a ledger record of a context's window. Kinds: 1 vectors, 2 verdicts, 3 deviations, 4 coverage, 5 stragglers, 6 votes,
7 sieves, 8 partials, 9 job results, 10 window output digest, 11 audit counts, 12 mark records (log 27). -/
def Block.ledgerWrite (b : Block) (c kind w : Nat) (bytes : Bytes) : Block :=
  let x := b.ctx c
  b.histWrite 1 0 (classOfLevel x.level) { job := x.job, epoch := x.epoch, level := x.level, w := w, kind := kind, ft := b.ft.toNat, bytes := bytes }

end Sys2Proof.Machine
end

