-- ==== Sys2Proof/Machine/Start.lean ====
section
/-! DEFINITION. The two-phase start (spec/08, R191 to R203): PREPARE, ACK, COMMIT, ABORT, LATE_COMMIT, the start of a context,
and the JOB_START descriptor. -/

namespace Sys2Proof.Machine

/-! ### The job tree -/

/-- The lowest die-address bit of the fields down to the next lower level of a role (R13, R197): below a campus the hall,
below a hall the row, below a row the rack, below a rack the tray, below a tray the slot. All dies lie below one campus. -/
def childShift (level : Nat) : Nat :=
  match level with | 9 => 28 | 8 => 22 | 7 => 17 | 6 => 13 | _ => if 10 ≤ level then 32 else 8

/-- A die address lies below the node of a level that an address `own` names: their fields down to that node agree. -/
def below (level own da : Nat) : Bool := da / 2 ^ childShift (level + 1) == own / 2 ^ childShift (level + 1)

/-- The level of the children of a role: dies below a tray. -/
def childLevel (level : Nat) : Nat := if level ≤ 5 then 3 else level - 1

/-- The address of the child of a role that a die lies below. -/
def childAddr (level da : Nat) : Nat := da / 2 ^ childShift level * 2 ^ childShift level

/-- The children of a role for a map (R17, R197): the dies of each next lower address field, in the order of their lowest ranks. -/
def childrenOf (level : Nat) (map : Sparse Nat) : List Child :=
  let addrs := (map.map (fun e => childAddr level e.2)).eraseDups
  addrs.map (fun a => { level := childLevel level, addr := a,
                        ranks := (map.filter (fun e => childAddr level e.2 == a)).map (·.1) })

/-- Where the frames of a node for one of its children go. -/
def childDest (c : Nat) (k : Child) : Dest := if k.level = 3 then .die (slotOf k.addr) else .child c k.addr

/-- The smallest level that encloses all dies of a map (R24). -/
def enclosingLevel (map : Sparse Nat) : Nat :=
  let same (shift : Nat) : Bool := match map with
    | [] => true
    | e :: m => m.all (fun x => x.2 / 2 ^ shift == e.2 / 2 ^ shift)
  if same 13 then 5 else if same 17 then 6 else if same 22 then 7 else if same 28 then 8 else 9

/-- The key rank of a node: the lowest rank of its subtree (R157). -/
def keyRank (map : Sparse Nat) : Nat := match map with | [] => 0 | e :: _ => e.1

/-- The level roles of a Borlu-T; the tray role is always held (R20). -/
def Block.roleAt (b : Block) (level : Nat) : Role := sget (fun _ => ({} : Role)) b.tray.roles level

/-! ### PRESENCE items (R175, R180) -/

/-- The map bytes of a PRESENCE item: two bits for each of `count` ranks from `first`, padded to a multiple of 8 bytes. -/
def presenceMap (first count : Nat) (code : Nat → Nat) : Bytes :=
  padTo 8 ((List.range (ceilDiv count 4)).map (fun j => BitVec.ofNat 8
    ((List.range 4).foldl (fun a i => if 4 * j + i < count then a + code (first + 4 * j + i) % 4 * 4 ^ i else a) 0)))

/-- A whole PRESENCE item (R175, R180, R191): header and body; N is the number of ranks whose code is present. -/
def presenceItem (item first count : Nat) (late : Bool) (code : Nat → Nat) : Bytes :=
  let n := ((List.range count).filter (fun i => code (first + i) == 1)).length
  let body := leBytes 4 n ++ leBytes 4 first ++ leBytes 4 count ++ zeros 4 ++ presenceMap first count code
  leBytes 2 item ++ leBytes 1 8 ++ leBytes 1 0 ++ leBytes 1 (bit late * 4) ++ zeros 3 ++ leBytes 4 0 ++
    leBytes 4 body.length ++ body

/-- The ranks and codes that a PRESENCE item's body gives. -/
def presenceCodes (body : Bytes) : Sparse Nat :=
  let first := fieldAt body 4 4
  (List.range (fieldAt body 8 4)).map (fun i => (first + i, byteAt body (16 + i / 4) / 4 ^ (i % 4) % 4))

/-- The PRESENCE item over a node's subtree. -/
def presenceOf (map : Sparse Nat) (codes : Sparse Nat) : Bytes :=
  let first := keyRank map
  let last := (map.getLast?.map (·.1)).getD first
  presenceItem 0 first (if map.isEmpty then 0 else last - first + 1) false (fun r => sget (fun _ => 0) codes r)

/-! ### PREPARE (R197) -/

/-- The map segment of a PREPARE record (R191): rank and die address of each entry. -/
def prepareEntries (r : Bytes) : Sparse Nat :=
  (List.range (fieldAt r 60 4)).map (fun i => (fieldAt r 56 4 + i, fieldAt r (64 + 4 * i) 4))

/-- A PREPARE record without a die address whose bits 7:0 are set (R14), with a job hearth level of a role (R12, R191) and a window exponent that
R29 has: one of K 15 is discarded, since FRM_CTX.K never reads 15 (R188; DEDUCED, log 48). R197 lists no check of its other fields: reserved
bits that are set and a HOP or DEPTH out of range are taken as they come (DESIGN CHOICE, log 48). -/
def prepareGood (r : Bytes) : Bool :=
  (prepareEntries r).all (fun e => e.2 % 256 == 0) && decide (5 ≤ byteAt r 30) && decide (byteAt r 30 ≤ 9) && byteAt r 20 % 16 != 15

/-- The part of a PREPARE's map in the subtree of the node of a level that an address names: an entry of another subtree stands for no
rank (log 13). -/
def prepareMap (level own : Nat) (r : Bytes) : Sparse Nat := (prepareEntries r).filter (fun e => below level own e.2)

/-- The context items that a PREPARE record gives (R189, R191). K is taken from bits 3:0, also where byte 20 has bits 7:4 set, since R197 lists no
check (DESIGN CHOICE, log 48). -/
def prepareCtx (r : Bytes) (job epoch : Nat) : Ctx :=
  { phase := .prepared, job := job, epoch := epoch, k := byteAt r 20 % 16, start := BitVec.ofNat 64 (fieldAt r 8 8),
    ranks := fieldAt r 16 4, policy := byteAt r 21, hop := byteAt r 28, height := byteAt r 29, hlevel := byteAt r 30,
    close := fieldAt r 22 2, allow := [byteAt r 24, byteAt r 25, byteAt r 26, byteAt r 27], plan := slice r 32 16, prepare := r }

/-- A PREPARE body for a child's part of a map: the fields of the record with a map segment from the lowest to the highest rank;
ranks of the segment that do not belong to the child carry its address in the next hall, where its subtree does not lie (log 13). -/
def prepareBody (r : Bytes) (addr : Nat) (map : Sparse Nat) : Bytes :=
  let first := keyRank map
  let count := if map.isEmpty then 0 else (map.getLast?.map (·.1)).getD first - first + 1
  slice r 8 48 ++ leBytes 4 first ++ leBytes 4 count ++
    ((List.range count).map (fun i => leBytes 4 (sget (fun _ => (addr + 2 ^ 28) % 2 ^ 32) map (first + i)))).flatten

/-- The depth of a node below the job hearth (R196). -/
def Ctx.nodeDepth (x : Ctx) : Nat := if x.level = 3 then x.height else x.hlevel - x.level

/-- The deadline A(h) = S − 2T − h × HOP of a depth (R196). -/
def Ctx.ackDeadlineAt (x : Ctx) (h : Nat) : BitVec 64 :=
  x.start - BitVec.ofNat 64 (2 * x.traversal + h * x.hop * ticksPerUs)

/-- Contexts that have reserved a start at S (R206). -/
def Block.startsAt (b : Block) (s : BitVec 64) : Nat :=
  (b.ctxs.filter (fun e => (e.2.phase == .prepared || e.2.phase == .armed) && e.2.start == s)).length

/-- The schedule that will be in force at a fleet time (R326): the one that a commit pending before it makes active. -/
def Block.schedAt (b : Block) (s : BitVec 64) : Nat :=
  let due := (b.txn.pending.filter (fun p => ftGe s p.1)).mergeSort (fun x y => decide (ftDiff x.1 y.1 ≤ 0))
  match (((due.map Prod.snd).flatten).filter (fun w => w.1 == Reg.PLN_SCHED)).getLast? with
  | some w => bitsOf w.2.toNat 1 1
  | none => b.fld Reg.PLN_SCHED 0 0

/-- Binding `i` of a schedule image (R320). -/
def schedBinding (img : Bytes) (i : Nat) : Bytes := slice img (64 + 32 * i) 32

/-- A binding entry has the fields of a context (R326). -/
def Ctx.bindsTo (x : Ctx) (e : Bytes) : Bool :=
  slice e 0 16 == x.plan && byteAt e 16 == x.k && byteAt e 17 == x.level && fieldAt e 18 2 == x.close &&
    (slice e 20 4).map BitVec.toNat == x.allow

/-- The lowest binding of the schedule in force at S that no other context holds and whose fields equal those of the context
(R326). A plan that reads light counters serves the fleet context alone (R220; DESIGN CHOICE, log 15). -/
def Block.findBinding (b : Block) (x : Ctx) : Option Nat :=
  let img := sget (fun _ => []) b.tray.plane.scheds (b.schedAt x.start)
  (List.range (fieldAt img 4 2)).find? (fun i =>
    x.bindsTo (schedBinding img i) && (x.job == 0 || !readsLight ((b.tray.plane.planOf x.plan).getD [])) &&
      !b.ctxs.any (fun y => y.2.phase != .free && y.2.bind == some i))

/-- The lowest free context index of a Borlu-T (R190). -/
def Block.freeCtxIndex (b : Block) : Option Nat := b.ctxIds.find? (fun c => (b.ctx c).phase == .free)

/-- The index that a PREPARE takes: DCTX, or the fleet context's own slot, in Borlu-D; the lowest free one in Borlu-T (R190,
R194). -/
def Block.prepareIndex (b : Block) (r : Bytes) (job : Nat) : Option Nat :=
  match b.build with
  | .D => let c := if job = 0 then 8 else byteAt r 31 % 8
          if (b.ctx c).phase = .free then some c else none
  | .T => b.freeCtxIndex

/-- TIM_STS.TEMPERED (R63): in Borlu-D its link is tempered; in Borlu-T every die link with a die present and, when SRC = 1, the
source port. -/
def Block.tempered (b : Block) : Bool :=
  let link (n : Nat) : Bool := b.isSet (Reg.TIM_LINK_DELAY + 4 * n) 31
  match b.build with
  | .D => link 0
  | .T => (List.range 32).all (fun n => !b.tray.present.getLsbD n || link n) &&
      (!b.isSet Reg.TIM_CTL 8 || link (32 + b.fld Reg.TIM_CTL 15 12))

/-- The tag of a start is busy (R197): the node holds a context of it. The contexts that a Borlu-T holds for its other roles in the same job
tree are those of other nodes (R24, R196). -/
def Block.tagBusy (b : Block) (x : Ctx) : Bool :=
  (b.jobNodes x.job).any (fun c => b.build == .D || (b.ctx c).level == x.level || (b.ctx c).epoch != x.epoch)

/-- The REASONS mask of a PREPARE (R197). `x` is the context it would make. SWITCH_FULL is not for a PREPARE that comes from a REMAP (R212): how a
die tells it is free (log 48). -/
def Block.prepareReasons (b : Block) (r : Bytes) (x : Ctx) : Nat :=
  let mismatch := match b.build with
    | .D => !(fieldAt r 60 4 == 1 && fieldAt r 64 4 == b.da && b.isSet Reg.ID_CTL 2)
    | .T => false
  bit (b.prepareIndex r x.job).isNone + bit (!b.time.valid) * 2 + bit (!b.tempered) * 4 +
    bit (b.build == .T && (b.findBinding x).isNone) * 8 + bit (b.tagBusy x) * 16 +
    bit (decide (4 ≤ b.startsAt x.start) && !Config.fromRemap r) * 32 + bit mismatch * 64 +
    bit (decide (0 < ftDiff b.ft (x.ackDeadlineAt x.nodeDepth))) * 128

/-- The body of an ACK record from byte 8 (R191). -/
def ackBody (refused reasons : Nat) (item : Bytes) : Bytes := leBytes 4 refused ++ leBytes 2 reasons ++ zeros 2 ++ item

/-- A refused PREPARE (R197): no context, nothing forwarded, an ACK that gives code 0 to every rank of the subtree; the subtree of a die
is the rank FIRST. -/
def Block.refusePrepare (b : Block) (d : Dest) (x : Ctx) (reasons : Nat) : Block :=
  let rec_ := controlRecord 0x0102 (match b.build with
    | .D => ackBody 1 reasons (presenceItem 0 x.rank 1 false (fun _ => 0))
    | .T => ackBody x.map.length reasons (presenceOf x.map []))
  ((b.sendForeign d x.job x.epoch x.rank x.level (chunks 4032 (rec_.length / 4032 + 1) (padTo 8 rec_))).count
    Reg.MBR_REFUSED 1).flag Reg.MBR_STS 1

/-- Forward each child's part of the map (R197). -/
def Block.forwardPrepare (b : Block) (c : Nat) : Block :=
  let x := b.ctx c
  b.forEach x.children (fun b k =>
    b.sendControl (some c) (childDest c k) 0x0101 (prepareBody x.prepare k.addr (x.map.filter (fun e => e.1 ∈ k.ranks))))

/-- Take a context into PREPARED (R197, R412): its J crumbs start again at SEQ 0 and its J ring is empty. A die's PLACE locks
when it first accepts a PREPARE (R470); what the cycle wrote to PLACE has no effect then, where PLACE had been written before. -/
def Block.takeCtx (b : Block) (c : Nat) (x : Ctx) : Block :=
  let b := b.modRec (fun q => { q with jrings := sput (fun _ => ({} : CrumbRing)) q.jrings c {} })
  let b := if b.build = .D then ((b.when ((b.access.place.map Prod.snd).getD false) Block.undoPlace).flag Reg.ID_CTL 0) else b
  b.setCtx c x

/-- The context that a PREPARE in a frame makes at a node (R191, R197): in Borlu-T the role one level below its sender, with the part of the
map that lies in its subtree; in Borlu-D the rank FIRST. The duplicate state of its parts becomes the context's (R163, R193). -/
def Block.preparedCtx (b : Block) (f : Frame) (r : Bytes) : Ctx :=
  let x := { prepareCtx r f.job f.epoch with dups := b.prepDups.filter (fun d => d.key == f.dupKey) }
  match b.build with
  | .D => { x with level := 3, rank := fieldAt r 56 4, ackSent := true }
  | .T =>
    let m := prepareMap (f.level - 1) b.da r
    { x with level := f.level - 1, map := m, rank := keyRank m, children := childrenOf (f.level - 1) m }

/-- A PREPARE record at a node (R196, R197). A PREPARE of an epoch that the node already holds has no effect; one with a reserved value, or
from a level that has no child role, is discarded and counted (R11, R14). -/
def Block.prepareRecord (port link : Nat) (b : Block) (f : Frame) (r : Bytes) : Block :=
  if !prepareGood r || (b.build == .T && decide (f.level < 6)) then b.recordBad
  else if (b.fromParent f).any (fun c => (b.ctx c).epoch == f.epoch) then (b.count Reg.FRM_DUP 1).flag Reg.FRM_STS 2
  else
    let x := b.preparedCtx f r
    match b.prepareReasons r x, b.prepareIndex r f.job with
    | 0, some c =>
      let b := { b with prepDups := b.prepDups.filter (fun d => d.key != f.dupKey) }
      match b.build with
      | .D => (b.takeCtx c x).sendControl (some c) .tray 0x0102 (ackBody 0 0 (presenceItem 0 x.rank 1 false (fun _ => 1)))
      | .T => (b.takeCtx c { x with bind := b.findBinding x }).forwardPrepare c
    | reasons, _ => b.refusePrepare (b.backTo port link) x reasons

/-- PREPARE_RECEIVE (R197). -/
def execPrepareReceive (b : Build) (port : Fin 8) (link : Fin 64) (frame : Bytes) (s : State) :
    Host.Outcome State Fault Refusal :=
  onBlock b (fun x => x.receiveControl link frame 0x0101 (Block.prepareRecord port link)) s

/-! ### ACK and the decision (R198, R199) -/

/-- The merged codes, REFUSED and REASONS of a node's children (R180, R198): the ranks of a child without a complete ACK take
code 0 and count as refused with no reason bit. -/
def mergedAck (ks : List Child) : Sparse Nat × Nat × Nat :=
  ks.foldl (fun a k =>
    if k.acked then (k.present.foldl (fun m e => sput (fun _ => 0) m e.1 e.2) a.1, a.2.1 + k.refused, a.2.2 ||| k.reasons)
    else (a.1, a.2.1 + k.ranks.length, a.2.2)) ([], 0, 0)

/-- Send the decision of a node to its children: COMMIT with the armed ranks of a partial start, or ABORT (R191, R199). -/
def Block.sendDecision (b : Block) (c : Nat) (ctype : Nat) (body : Bytes) : Block :=
  b.forEach (b.ctx c).children (fun b k => b.sendControl (some c) (childDest c k) ctype body)

/-- The start descriptor completes at the decision (R202): N, REFUSED, REASONS, the context index, and the PRESENCE map in
the output space. -/
def Block.completeStart (b : Block) (c : Nat) (status n refused reasons : Nat) (item : Bytes) : Block :=
  match (b.ctx c).startDesc with
  | none => b
  | some id =>
    match b.takenById id with
    | none => b
    | some t =>
      let b := b.modCtx c (fun x => { x with startDesc := none })
      (b.writeOut t 0 item).complete t status item.length (leBytes 4 n ++ leBytes 4 refused ++ leBytes 2 reasons ++ leBytes 1 c)

/-- The hearth ends an undecided start with ABORT (R199, R205, R369): the descriptor completes ABORTED_BROADCAST unless
`silent`, and the hearth's own context is free. -/
def Block.abortStart (b : Block) (c reason : Nat) (silent : Bool := false) : Block :=
  let x := b.ctx c
  let (codes, refused, reasons) := mergedAck x.children
  let n := (codes.filter (fun e => e.2 == 1)).length
  let b := b.sendDecision c 0x0104 (leBytes 1 reason ++ zeros 7)
  let b := if silent then b else b.completeStart c 0x0E n refused reasons (presenceOf x.map codes)
  b.freeCtx c

/-- The job hearth decides (R199): COMMIT when every rank is prepared, or in a partial start when some rank is; otherwise
ABORT. The rules give no REASON for a partial start in which no rank is prepared: a free value (log 4). A hearth whose own time is not valid
does not arm (R37): it ends the start with ABORT and REASON 1, as for a node that refuses with TIME_INVALID (DESIGN CHOICE, log 48). -/
def Block.hearthDecide (b : Block) (c : Nat) : Block :=
  let x := b.ctx c
  let (codes, refused, reasons) := mergedAck x.children
  let armed := (codes.filter (fun e => e.2 == 1)).map (·.1)
  let n := armed.length
  let item := presenceOf x.map codes
  if !b.time.valid then b.abortStart c 1
  else if n = x.ranks then
    let b := b.sendDecision c 0x0103 (leBytes 8 x.start.toNat)
    (b.modCtx c (fun x => { x with phase := .armed, ackSent := true, decision := some true })).completeStart c 0 n refused reasons item
  else if bitOf x.policy 0 && decide (1 ≤ n) then
    let b := b.sendDecision c 0x0103 (leBytes 8 x.start.toNat ++ item)
    (b.modCtx c (fun x => { x with phase := .armed, ackSent := true, decision := some true, partialStart := true,
                                   armedRanks := some armed })).completeStart c 0 n refused reasons item
  else if bitOf x.policy 0 then (let (f, b) := b.freeNat; b.abortStart c (f % 4))
  else b.abortStart c (if reasons ≠ 0 then 1 else 0)

/-- Send the node's own ACK (R198). -/
def Block.sendAck (b : Block) (c : Nat) : Block :=
  let x := b.ctx c
  let (codes, refused, reasons) := mergedAck x.children
  (b.modCtx c (fun x => { x with ackSent := true })).sendControl (some c) (.parent c) 0x0102
    (ackBody refused reasons (presenceOf x.map codes))

/-- The PRESENCE item inside an ACK or a COMMIT has OP PRESENCE and FORM 0 (R175, R191); its ITEM is not checked. -/
def presenceGood (r : Bytes) : Bool := byteAt r 18 == 8 && byteAt r 19 == 0

/-- An ACK of a new die for a rank that a REMAP moves (R212), the rank that its PRESENCE item names: prepared, it is committed, in a partial start
with its rank as the armed set (R201); refused, the tray reports the refusal to the job hearth as an ACK, and the job hearth's host sees
REMAP_REFUSED. Any other ACK for a running context comes after the node has sent its own (R198). -/
def Block.remapAck (b : Block) (c : Nat) (r : Bytes) : Block :=
  let x := b.ctx c
  match x.remaps.find? (fun m => m.rank == fieldAt r 36 4 && !m.done) with
  | none => b.count Reg.MBR_LATE_ACK 1
  | some m =>
    if fieldAt r 8 4 = 0 then
      let arms : Bytes := if x.partialStart then presenceItem 0 m.rank 1 false (fun _ => 1) else []
      (b.modCtx c (fun x => { x with remaps := x.remaps.map (fun e => if e == m then { e with armed := true } else e) })).sendControl (some c)
        (.die (slotOf m.addr)) 0x0103 (leBytes 8 (windowStart x.k b.ft m.window).toNat ++ arms)
    else if x.isHearth then
      b.pushNotice 0x0A02 x.job (leBytes 4 m.rank ++ leBytes 4 m.addr ++ leBytes 2 (fieldAt r 12 2))
    else b.sendControl (some c) (.parent c) 0x0102 (r.drop 8)

/-- An ACK record at a node (R198): a late one is counted; the child's is merged, and when every child has delivered the node
sends its own, or the job hearth decides. One whose item has a reserved OP or FORM is discarded and counted (R11, R175). -/
def Block.ackRecord (b : Block) (f : Frame) (r : Bytes) : Block :=
  if !presenceGood r then b.recordBad
  else match b.fromChild f with
  | none => b
  | some c =>
    let x := b.ctx c
    if x.isActive then b.remapAck c r
    else if x.phase ≠ .prepared ∨ x.ackSent ∨ 0 < ftDiff b.ft (x.ackDeadlineAt (if x.isHearth then 0 else x.nodeDepth)) then b.count Reg.MBR_LATE_ACK 1
    else
      let codes := presenceCodes (r.drop 32)
      let ks := x.children.map (fun k =>
        if k.level = f.level ∧ f.rank ∈ k.ranks then
          { k with acked := true, present := codes.filter (fun e => e.2 != 0 && e.1 ∈ k.ranks), refused := fieldAt r 8 4,
                   reasons := fieldAt r 12 2 }
        else k)
      let b := b.modCtx c (fun x => { x with children := ks })
      if ks.all (·.acked) then (if x.isHearth then b.hearthDecide c else b.sendAck c) else b

/-- ACK_RECEIVE (R198, R199). -/
def execAckReceive (port : Fin 8) (link : Fin 64) (frame : Bytes) (s : State) : Host.Outcome State Fault Refusal :=
  let _ := port
  onTray (fun b => b.receiveControl link frame 0x0102 Block.ackRecord) s

/-- ACK_DEADLINE (R198): at A(h) a node that has not sent its ACK sends it, while the plan steward runs (R437). -/
def execAckDeadline (c : Fin 64) (s : State) : Host.Outcome State Fault Refusal :=
  onTray (fun b =>
    let x := b.ctx c
    b.when (x.phase == .prepared && b.stewardRuns 1 && !x.ackSent && !x.isHearth && ftGe b.ft (x.ackDeadlineAt x.nodeDepth))
      (fun b => b.sendAck c)) s

/-- HEARTH_DECISION_DEADLINE (R199): at A(0) the job hearth decides from the ACKs it holds, while the plan steward
runs (R437). -/
def execHearthDecisionDeadline (c : Fin 64) (s : State) : Host.Outcome State Fault Refusal :=
  onTray (fun b =>
    let x := b.ctx c
    b.when (x.phase == .prepared && b.stewardRuns 1 && x.isHearth && ftGe b.ft (x.ackDeadlineAt 0)) (fun b => b.hearthDecide c)) s

/-! ### COMMIT, ABORT, LATE_COMMIT (R200, R202) -/

/-- A COMMIT record at a node (R200, R201): one accepted after S − 2 µs is counted, whatever the state of the context. One of a partial start
whose item has a reserved OP or FORM is discarded and counted (R11, R175). -/
def Block.commitRecord (b : Block) (f : Frame) (r : Bytes) : Block :=
  if 16 < r.length ∧ !presenceGood r then b.recordBad
  else match b.fromParent f with
  | none => b
  | some c =>
    let x := b.ctx c
    if !ftGe x.decisionDeadline b.ft then b.count Reg.MBR_LATE_COMMIT 1
    else if x.phase ≠ .prepared then b
    else if r.length ≤ 16 then
      let b := match b.build with | .D => b | .T => b.sendDecision c 0x0103 (r.drop 8)
      b.modCtx c (fun x => { x with phase := .armed, decision := some true })
    else
      let armed := ((presenceCodes (r.drop 32)).filter (fun e => e.2 == 1)).map (·.1)
      let own : List Nat := match b.build with | .D => [x.rank] | .T => x.map.map Prod.fst
      if own.any (· ∈ armed) then
        let b := match b.build with | .D => b | .T => b.sendDecision c 0x0103 (r.drop 8)
        b.modCtx c (fun x => { x with phase := .armed, decision := some true, partialStart := true,
                                      armedRanks := some (own.filter (· ∈ armed)) })
      else b.freeCtx c

/-- COMMIT_RECEIVE (R200). -/
def execCommitReceive (b : Build) (port : Fin 8) (link : Fin 64) (frame : Bytes) (s : State) :
    Host.Outcome State Fault Refusal :=
  let _ := port
  onBlock b (fun x => x.receiveControl link frame 0x0103 Block.commitRecord) s

/-- An ABORT record at a node in PREPARED, accepted by S − 2 µs (R196): forwarded, and the context is free (R200); a reserved REASON is
discarded (R11). -/
def Block.abortRecord (b : Block) (f : Frame) (r : Bytes) : Block :=
  if 4 ≤ byteAt r 8 then b.recordBad
  else match b.fromParent f with
    | none => b
    | some c =>
      if (b.ctx c).phase ≠ .prepared ∨ !ftGe (b.ctx c).decisionDeadline b.ft then b
      else
        let b := match b.build with | .D => b | .T => b.sendDecision c 0x0104 (r.drop 8)
        (b.flag Reg.MBR_STS 0).freeCtx c

/-- ABORT_RECEIVE (R200). -/
def execAbortReceive (b : Build) (port : Fin 8) (link : Fin 64) (frame : Bytes) (s : State) :
    Host.Outcome State Fault Refusal :=
  let _ := port
  onBlock b (fun x => x.receiveControl link frame 0x0104 Block.abortRecord) s

/-- LATE_COMMIT_DEADLINE (R200): a node still PREPARED at S − 2 µs. -/
def execLateCommitDeadline (b : Build) (c : Fin 64) (s : State) : Host.Outcome State Fault Refusal :=
  onBlock b (fun x => x.when ((x.ctx c).phase == .prepared && ftGe x.ft (x.ctx c).decisionDeadline)
    (fun x => x.lateCommit c)) s

/-- A LATE_COMMIT record (R202): at the job hearth it is written to the host's event ring; any other node passes it on toward
the hearth. -/
def Block.lateCommitRecord (b : Block) (f : Frame) (r : Bytes) : Block :=
  match b.fromChild f with
  | none => b
  | some c =>
    if (b.ctx c).isHearth then b.pushNotice 0x0A01 f.job (slice r 16 8 ++ zeros 4 ++ slice r 8 8)
    else b.sendControl (some c) (.parent c) 0x0105 (r.drop 8)

/-- LATE_COMMIT_RECEIVE (R202). -/
def execLateCommitReceive (port : Fin 8) (link : Fin 64) (frame : Bytes) (s : State) : Host.Outcome State Fault Refusal :=
  let _ := port
  onTray (fun b => b.receiveControl link frame 0x0105 Block.lateCommitRecord) s

/-! ### The start (R201) -/

/-- A context becomes ACTIVE (R163, R201, R210): its first window, or the first after those that the step over S passed (R44), sequence counter 0,
no duplicate state, its tray's ranks LIVE; in Borlu-D the next event word of each region sets its anchor (R58), and the sieves and queue marks of
the windows of the context start empty (R62, R85). A context that a TEARDOWN has already named a last window for drains at once (R205). -/
def Block.activate (b : Block) (c : Nat) : Block :=
  let b := b.modCtx c (fun x =>
    { x with phase := if x.lastWin.isSome then .draining else .active, openWin := x.windowAfter ((windowOf x.k x.start + 2 ^ 40 - 1) % 2 ^ 40),
             seq := 0, dups := [],
             members := if x.level = 5 then ((x.map.map Prod.fst).mergeSort (· ≤ ·)).map (fun r => (r, ({} : Member))) else [] })
  match b.build with
  | .T => b
  | .D =>
    let t := b.die.taps
    let b := { b with die := { b.die with regions := b.die.regions.map (fun e => (e.1, { e.2 with anchored := false })),
                                          taps := { t with lossy := clearB t.lossy c } } }
    if c = b.fld Reg.TAP_CTL 2 0 then
      let b := { b with die := { b.die with pairLate := [], pairLead := [] } }
      b.forEach (List.range 64) (fun b n => b.setReg (Reg.TAP_XQ + 4 * n) 0x0000FFFF)
    else b

/-- CONTEXT_START (R201): FT has crossed S and the context is ARMED. -/
def execContextStart (b : Build) (c : Fin 64) (s : State) : Host.Outcome State Fault Refusal :=
  onBlock b (fun x => x.when ((x.ctx c).phase == .armed && x.time.valid && ftGe x.ft (x.ctx c).start)
    (fun x => x.activate c)) s

/-! ### JOB_START (R195) -/

/-- The context that a start descriptor asks for: the PREPARE record of its input with the job tag and epoch. -/
def Block.startCtx (b : Block) (t : Taken) : Ctx :=
  let r := b.descInput t
  let m := prepareEntries r
  let x := prepareCtx r t.job (fieldAt t.bytes 32 4)
  { x with map := m, rank := keyRank m, level := byteAt r 30, isHearth := true, startDesc := some t.id,
           children := childrenOf (byteAt r 30) m }

/-- The first row of R195: tags, epoch, policy, ranges, the close rules R166 and R167, and the tree of R24. -/
def Block.startFormGood (b : Block) (t : Taken) (r : Bytes) (x : Ctx) : Bool :=
  let lvl := enclosingLevel x.map
  let here := (lvl == 5 || (b.roleAt lvl).role == 1) && x.map.all (fun e => below lvl b.da e.2)
  ctypeOf r == 0x0101 && fieldAt r 56 4 == 0 && fieldAt r 60 4 == x.ranks && decide (1 ≤ x.ranks) && decide (x.ranks ≤ 262144) &&
    x.map.length == x.ranks && x.map.all (fun e => e.2 % 256 == 0) && t.job != 0xFFFF && (t.job != 0 || x.policy == 3) && x.epoch != 0 && decide (x.policy < 4) &&
    (!bitOf x.policy 0 || bitOf x.policy 1) && decide (2 ≤ x.hop) && decide (1 ≤ x.height) && decide (x.height ≤ 5) &&
    decide (byteAt r 20 / 16 = 0) && decide (x.k ≤ 14) && decide (byteAt r 31 < 8) &&
    decide (1 ≤ x.close) && decide (x.close ≤ 4095) && decide (ceilDiv x.close (2 ^ x.k) + 1 ≤ 8) &&
    (x.allow.zip x.allow.tail).all (fun p => decide (p.1 ≤ p.2)) &&
    x.hlevel == lvl && x.height == lvl - 4 && here

/-- The checks of a start descriptor, in the order of R195: the status of the first that fails. A hearth that has four starts reserved at S
reserves no fifth (R206): it has no place for the context, CONTEXT_FULL (log 48). -/
def Block.startStatus (b : Block) (t : Taken) (x : Ctx) : Nat :=
  let r := b.descInput t
  if !b.startFormGood t r x then 0x0C
  else if x.start.toNat % (ticksPerUs * 2 ^ max x.k 10) ≠ 0 then 0x0C
  else if (b.ctxOfJob x.job).isSome then 0x0B
  else if b.freeCtxIndex.isNone || decide (4 ≤ b.startsAt x.start) then 0x11
  else if ftDiff x.start b.ft < (4 * x.traversal : Int) then 0x0F
  else 0

/-- A JOB_START descriptor (R195, R196): checked, it takes the hearth's context into PREPARED and sends PREPARE down the
tree. -/
def Block.jobStart (b : Block) (t : Taken) : Block :=
  let x := b.startCtx t
  match b.startStatus t x, b.freeCtxIndex with
  | 0, some c => (b.takeCtx c { x with bind := b.findBinding x }).forwardPrepare c
  | 0, none => b.complete t 0x11
  | st, _ => b.complete t st

/-- JOB_START (R195). -/
def execJobStart (id : Nat) (s : State) : Host.Outcome State Fault Refusal :=
  onTray (fun b => b.onDesc 0x10 1 id Block.jobStart) s

end Sys2Proof.Machine
end

