-- ==== Sys2Proof/Machine/Members.lean ====
section
/-! DEFINITION. Running jobs (spec/08, R204 to R215): teardown and release, embers, member states, replaced dies, hearth
standby and takeover. -/

namespace Sys2Proof.Machine

/-! ### Teardown (R204, R205) -/

/-- The body of a TEARDOWN record. -/
def teardownBody (l : Nat) : Bytes := leBytes 5 l ++ zeros 3

/-- A context learns its last window (R204): an ACTIVE one drains; an ARMED one keeps the window for its start. -/
def Ctx.drain (x : Ctx) (l : Nat) : Ctx :=
  match x.phase with
  | .active => { x with phase := .draining, lastWin := some l }
  | .armed => { x with lastWin := some l }
  | _ => x

/-- The index modulo 2^40 of the lowest window whose end is at least T plus 2 µs ahead (R30, R204). -/
def Block.earliestLast (b : Block) (x : Ctx) : Nat :=
  let t := b.ft.toNat + x.traversal + 2 * ticksPerUs
  (ceilDiv t (windowTicks x.k) - 1) % 2 ^ 40

/-- L': the later of the last window that a descriptor names and the earliest possible one, indices compared modulo 2^40; 0 names the
earliest possible (R30, R204). -/
def Block.lastFor (b : Block) (x : Ctx) (l : Nat) : Nat :=
  let w := b.earliestLast x
  if l = 0 ∨ windowDiff l w < 0 then w else l

/-- The context of a hearth descriptor's job, when this block holds its job hearth (R381). -/
def Block.hearthOf (b : Block) (job : Nat) : Option Nat := (b.jobNodes job).find? (fun c => (b.ctx c).isHearth)

/-- A JOB_TEARDOWN descriptor (R204, R205). A job that is already draining can not be torn down again. -/
def Block.jobTeardown (b : Block) (t : Taken) : Block :=
  match b.hearthOf t.job with
  | none => b.complete t 0x09
  | some c =>
    let x := b.ctx c
    let go (l : Nat) : Block :=
      (b.modCtx c (fun y => { y.drain l with endDesc := some t.id })).sendDecision c 0x0106 (teardownBody l)
    match x.phase with
    | .prepared => (b.abortStart c 2).complete t 0 0 (zeros 5)
    | .armed => go (windowOf x.k x.start)
    | .active => go (b.lastFor x (fieldAt t.bytes 32 5))
    | _ => b.complete t 0x09

/-- JOB_TEARDOWN (R204, R205). -/
def execJobTeardown (id : Nat) (s : State) : Host.Outcome State Fault Refusal :=
  onTray (fun b => b.onDesc 0x11 1 id Block.jobTeardown) s

/-- A TEARDOWN record at a node (R204): the node drains, and a Borlu-T passes it on. -/
def Block.teardownRecord (b : Block) (f : Frame) (r : Bytes) : Block :=
  match b.fromParent f with
  | none => b
  | some c =>
    let x := b.ctx c
    if x.phase = .armed ∨ x.phase = .active then
      let b := b.modCtx c (fun y => y.drain (fieldAt r 8 5))
      match b.build with | .D => b | .T => b.sendDecision c 0x0106 (r.drop 8)
    else b

/-- TEARDOWN_RECEIVE (R204). -/
def execTeardownReceive (b : Build) (port : Fin 8) (link : Fin 64) (frame : Bytes) (s : State) :
    Host.Outcome State Fault Refusal :=
  let _ := port
  onBlock b (fun x => x.receiveControl link frame 0x0106 Block.teardownRecord) s

/-- A RELEASED record at a parent (R204): the child has sent its final partials. -/
def Block.releasedRecord (b : Block) (f : Frame) (r : Bytes) : Block :=
  match b.fromChild f with
  | none => b
  | some c => b.modCtx c (fun x => { x with children := x.children.map (fun k =>
      if k.level = f.level ∧ f.rank ∈ k.ranks then { k with released := true, releasedRanks := fieldAt r 16 4 } else k) })

/-- RELEASED_RECEIVE (R204). -/
def execReleasedReceive (port : Fin 8) (link : Fin 64) (frame : Bytes) (s : State) : Host.Outcome State Fault Refusal :=
  let _ := port
  onTray (fun b => b.receiveControl link frame 0x0107 Block.releasedRecord) s

/-- A context's work is done: it waits for a switch (R204, R206). -/
def Block.queueRelease (b : Block) (c : Nat) : Block :=
  b.modCtx c (fun x => { x with phase := .releaseQueued, queuedAt := b.ft.toNat })

/-- A node of Borlu-T ends its part of a draining context (R204): RELEASED goes upward, the context waits for its release. -/
def Block.endDraining (b : Block) (c : Nat) : Block :=
  let x := b.ctx c
  let ranks := if x.level = 5 then x.map.length else x.children.foldl (fun a k => a + k.releasedRanks) 0
  let b := if x.isHearth then b
    else b.sendControl (some c) (.parent c) 0x0107 (leBytes 5 (x.lastWin.getD 0) ++ zeros 3 ++ leBytes 4 ranks)
  b.queueRelease c

/-! ### Switch boundaries (R206) -/

/-- Some record of a job and epoch is held, or a loaf of the job. -/
def HistoryUnit.holds (h : HistoryUnit) (job epoch : Nat) : Bool :=
  h.segs.any (fun g => g.recs.any (fun r => r.job == job && (g.region == 0 || r.epoch == epoch)))

/-- Keep a context of Borlu-T that is given back, for a search or a replay of what the history holds of it; those of which it holds nothing any
more go (log 60). -/
def Block.keepPast (b : Block) (x : Ctx) : Block :=
  b.when (b.build == .T) (fun b => b.modPlane (fun u =>
    { u with past := (u.past.filter (fun y => !(y.job == x.job && y.epoch == x.epoch && y.level == x.level))).filter (fun y =>
                       b.tray.history.holds y.job y.epoch) ++ [{ x with wins := [], outputs := [] }] }))

/-- Release one context: a tray remembers which job left and with which last window, the job hearth completes its teardown
descriptor, and the context is free (R204, R206). -/
def Block.releaseCtx (b : Block) (c : Nat) : Block :=
  let x := b.ctx c
  let l := x.lastWin.getD 0
  let b :=
    if x.level = 5 then
      let others := b.released.filter (fun (e : Nat × Nat × Nat) => !(e.1 == x.job && e.2.1 == x.epoch))
      { b with released := others ++ [(x.job, x.epoch, l)] }
    else b
  let b := match x.endDesc with
    | none => b
    | some id => match b.takenById id with | some t => b.complete t 0 0 (leBytes 5 l) | none => b
  (b.keepPast x).freeCtx c

/-- The contexts that wait for release and entered that state before a fleet time, in the order of their release (R206). -/
def Block.releaseOrder (b : Block) (t : Nat) : List Nat :=
  let q := b.ctxs.filter (fun e => e.2.phase == .releaseQueued && decide (e.2.queuedAt < t))
  (q.mergeSort (fun x y => decide (x.2.queuedAt < y.2.queuedAt) || (x.2.queuedAt == y.2.queuedAt && decide (x.1 ≤ y.1)))).map Prod.fst

/-- The switches of one switch boundary: starts take their places first, releases the places that remain, at most four in all
(R206). -/
def Block.switchContexts (b : Block) (t : Nat) : Block :=
  let arms := (b.ctxs.filter (fun e => e.2.start.toNat == t && (e.2.phase == .armed || e.2.isActive))).length
  let out := (b.releaseOrder t).take (4 - arms)
  (b.forEach out Block.releaseCtx).setFld Reg.MBR_SWITCH 2 0 (min 4 (arms + out.length))

/-! ### Embers (R208, R209, R356) -/

/-- The body of an EMBER record (R191). -/
def emberBody (timeValid hearth : Bool) (ctxMap gen : Nat) : Bytes :=
  leBytes 1 (bit timeValid + bit hearth * 2) ++ leBytes 1 ctxMap ++ zeros 2 ++ leBytes 4 gen

/-- The active contexts of a Borlu-D, as a mask. -/
def Block.ctxMask (b : Block) : Nat :=
  (List.range 8).foldl (fun a c => if (b.ctx c).isActive then a + 2 ^ c else a) 0

/-- The generation that a block's embers carry for a level: that of its active role there, else 0. -/
def Block.hearthGen (b : Block) (level : Nat) : Nat := if (b.roleAt level).role = 1 then (b.roleAt level).gen else 0

/-- The members of the erasure groups in use, other than this block (R350, R356): class × 16 + index and address. -/
def Block.groupPeers (b : Block) : List (Nat × Peer) :=
  (b.groupKeys.filter (fun k => k % 16 != b.groupIndex (k / 16))).map (fun k => (k, b.peerOf (k / 16) (k % 16)))

/-- A role of this block at a level is the tray role, or held as active (R20, R213). -/
def Block.roleActive (b : Block) (level : Nat) : Bool := level == 5 || (b.roleAt level).role == 1

/-- The embers of one instant (R208, R356): a die's to its tray; in Borlu-T one from each role on a job tree to its parent role,
one from each active hearth to its standbys, one to each other member of its erasure groups. -/
def Block.sendEmbers (b : Block) : Block :=
  match b.build with
  | .D => b.sendControl none .tray 0x0108 (emberBody b.time.valid false b.ctxMask 0)
  | .T =>
    let roles := (List.range 5).map (· + 5)
    let onTree (l : Nat) : Option Nat := b.ctxIds.find? (fun c =>
      let x := b.ctx c
      x.level == l && !x.isHearth && x.phase != .free && x.phase != .releaseQueued)
    let b := b.forEach (roles.filter b.roleActive) (fun b l =>
      match onTree l with
      | some c => b.sendControl none (.parent c) 0x0108 (emberBody b.time.valid false 0 (b.hearthGen l)) (some l)
      | none => b)
    let b := b.forEach roles (fun b l =>
      if (b.roleAt l).role = 1 then b.sendControl none (.role l) 0x0108 (emberBody b.time.valid true 0 (b.hearthGen l)) (some l)
      else b)
    b.forEach b.groupPeers (fun b e => b.sendControl none (.peer e.2.da) 0x0108 (emberBody b.time.valid false 0 0))

/-- Every standby role counts one more period since the latest ember of its active hearth, and every peer of an erasure group
one since its latest ember or share frame (R213, R356). -/
def Block.countSilence (b : Block) : Block :=
  { b with tray := { b.tray with
      roles := b.tray.roles.map (fun e => if e.2.role = 2 then (e.1, { e.2 with missed := e.2.missed + 1 }) else e),
      peers := b.groupKeys.foldl (fun m k => smodify (fun _ => ({} : Peer)) m k
        (fun p => { p with missed := satTo 255 (p.missed + 1) })) b.tray.peers } }

/-- The settings of R216 that act at a period multiple take the values of their registers, and the next multiple is the one above FT. -/
def Block.newPeriod (b : Block) : Block :=
  let p := { b.periods with per := b.fld Reg.MBR_EMBER 7 0, loss := b.fld Reg.MBR_HEARTH 7 0, auto := b.isSet Reg.MBR_CTL 1 }
  { b with periods := { p with emberNext := nextMultiple p.ticks b.ft } }

/-- EMBER_DUE (R208): FT has crossed a multiple of the ember period. -/
def execEmberDue (b : Build) (s : State) : Host.Outcome State Fault Refusal :=
  onBlock b (fun x => x.when (ftGe x.ft x.periods.emberNext) (fun x =>
    let y := x.newPeriod
    let y := if y.isSet Reg.MBR_CTL 0 then y.sendEmbers else y
    match x.build with | .D => y | .T => y.countSilence)) s

/-- The code of a role for a window that ends at a fleet time (R25): windows that ended by an assignment come under the code before it. -/
def Role.codeFor (r : Role) (ends : BitVec 64) : Nat :=
  match r.past.find? (fun e => ftGe e.1 ends) with | some e => e.2 | none => r.role

/-- The role of a context acts for window `w` (R25, R213, R215): the tray role always; a level role where it is active for the window, or
where its new hearth has taken the context up. -/
def Block.roleActs (b : Block) (c w : Nat) : Bool :=
  let x := b.ctx c
  let r := b.roleAt x.level
  decide (x.level ≤ 5) || r.codeFor (windowEnd x.k b.ft w) == 1 || (r.pending && x.takenUp == some r.gen)

/-- Store a level role. -/
def Block.setRole (b : Block) (level : Nat) (r : Role) : Block :=
  { b with tray := { b.tray with roles := sput (fun _ => ({} : Role)) b.tray.roles level r } }

/-- The greatest generation seen in a TAKEOVER or ember of a level. -/
def Block.seenGen (b : Block) (level : Nat) : Nat := sget (fun _ => 0) b.tray.seenGen level

/-- A role of this block loses to a winner (R215): a standby with the winner's former index. -/
def Block.demote (b : Block) (level index gen : Nat) : Block :=
  let r := b.roleAt level
  let b := match r.desc with
    | none => b
    | some id => match b.takenById id with | some t => b.complete t 0x09 | none => b
  (b.setRole level { r with role := 2, index := index % 3, gen := gen, missed := 0, pending := false, desc := none, past := [] }).flag
    Reg.MBR_STS 3

/-- An EMBER record (R209, R213, R215, R356). The frame itself is the evidence of a die. A hearth ember restarts the count of its
standbys, and a higher generation in it demotes a former active hearth; the winner's former index is in no ember: a free
value (log 4). -/
def Block.emberRecord (b : Block) (f : Frame) (r : Bytes) : Block :=
  if f.level = 3 then b
  else
    let b := b.hearPeer f.srcDa
    let gen := fieldAt r 12 4
    let mine := b.roleAt f.level
    if !bitOf (byteAt r 8) 1 ∨ f.level < 6 then b
    else if mine.role = 2 ∧ mine.gen ≤ gen then b.setRole f.level { mine with missed := 0 }
    else if mine.role = 1 ∧ mine.gen < gen then
      let (n, b) := b.freeNat
      b.demote f.level n gen
    else b

/-- EMBER_RECEIVE (R209). -/
def execEmberReceive (port : Fin 8) (link : Fin 64) (frame : Bytes) (s : State) : Host.Outcome State Fault Refusal :=
  let _ := port
  onTray (fun b => b.receiveControl link frame 0x0108 Block.emberRecord) s

/-! ### Check points and member states (R209, R210) -/

/-- The code of a member state (R216). -/
def MemberPhase.code : MemberPhase → Nat
  | .live => 0 | .suspect => 1 | .contested => 2 | .silent => 3 | .retired => 4

/-- MBR_EMBER.SUSPECT in force, where 0 acts as 1. -/
def Block.suspectAt (b : Block) : Nat := max 1 b.periods.suspect

/-- MBR_EMBER.SILENT in force, where a value not above SUSPECT acts as SUSPECT + 1. -/
def Block.silentAt (b : Block) : Nat := max (b.suspectAt + 1) b.periods.silent

/-- The next state of a member at a check point (R210): the first row that applies. `ember` and `alt` are its evidence, `m` its
M, `sinceAlt` the check points since its latest alternate evidence. -/
def memberNext (suspect silent : Nat) (x : Member) (ember alt : Bool) (m sinceAlt : Nat) : MemberPhase :=
  if x.phase ≠ .retired ∧ x.retire then .retired
  else match x.phase with
    | .live => if ember then .live else if suspect ≤ m then .suspect else .live
    | .suspect => if ember then .live else if alt then .contested else if silent ≤ m then .silent else .suspect
    | .contested => if ember then .live else if silent - suspect ≤ sinceAlt then .silent else .contested
    | .silent => if ember then .live else if alt then .contested else .silent
    | .retired => if x.unretire then .suspect else .retired

/-- One member at a check point. -/
def memberCheck (suspect silent : Nat) (x : Member) : Member :=
  let ev := x.fresh ||| bit x.link * 4
  let ember := bitOf ev 0
  let alt := decide (2 ≤ ev)
  let m := if ember then 0 else x.missed + 1
  let since := if alt then 0 else x.sinceAlt + 1
  let next := memberNext suspect silent x ember alt m since
  { phase := next, missed := if x.phase = .retired ∧ next = .suspect then suspect else m, evidence := ev, sinceAlt := since,
    fresh := 0, link := x.link }

/-- Store a member; a change of its state is counted and writes a job crumb (R210). -/
def Block.setMember (b : Block) (c rank : Nat) (m : Member) : Block :=
  let old := sget (fun _ => ({} : Member)) (b.ctx c).members rank
  let b := b.modCtx c (fun x => { x with members := (x.members.filter (fun e => e.1 < rank)) ++ [(rank, m)] ++
    (x.members.filter (fun e => rank < e.1)) })
  if old.phase = m.phase then b
  else (b.count Reg.MBR_TRANSITIONS 1).jobCrumb c 0x0A03 (some rank) rank
    (old.phase.code + m.phase.code * 2 ^ 8 + m.evidence % 16 * 2 ^ 16) m.missed

/-- The settings of R216 that act at a check point take the values of their registers, and the next check point follows the next period
multiple. -/
def Block.newCheckPoint (b : Block) : Block :=
  let p := { b.periods with grace := b.fld Reg.MBR_EMBER 15 8, suspect := b.fld Reg.MBR_EMBER 23 16, silent := b.fld Reg.MBR_EMBER 31 24,
                            sel := b.reg Reg.MBR_RANK_SEL }
  { b with periods := { p with checkNext := ftAdd (nextMultiple p.ticks b.ft) p.delay } }

/-- The members that a check point moves, as context and entry: those of every ACTIVE context, in ascending rank (R414). -/
def Block.checkedMembers (b : Block) : List (Nat × Nat × Member) :=
  rankOrder (fun e => e.2.1) ((b.ctxIds.filter (fun c => (b.ctx c).phase == .active)).map (fun c => (b.ctx c).members.map (fun e => (c, e)))).flatten

/-- CHECK_POINT (R209, R210): FT has crossed a check point. -/
def execCheckPoint (s : State) : Host.Outcome State Fault Refusal :=
  onTray (fun b => b.when (ftGe b.ft b.periods.checkNext) (fun b =>
    let b := b.newCheckPoint
    b.forEach b.checkedMembers (fun b e => b.setMember e.1 e.2.1 (memberCheck b.suspectAt b.silentAt e.2.2)))) s

/-! ### MEMBER (R211) -/

/-- A MEMBER action reaches a node (R211): at the tray it acts at the next check point, REPORT_LIVE as evidence; above the tray
it goes on to the child of the rank. -/
def Block.memberAct (b : Block) (c rank action : Nat) : Block :=
  let x := b.ctx c
  if x.level = 5 then
    b.modCtx c (fun x => { x with members := x.members.map (fun e =>
      if e.1 = rank then (e.1, match action with
        | 0 => { e.2 with retire := true }
        | 1 => { e.2 with unretire := true }
        | _ => { e.2 with fresh := e.2.fresh ||| 8 })
      else e) })
  else
    b.forEach (x.children.filter (fun k => rank ∈ k.ranks)) (fun b k =>
      b.sendControl (some c) (childDest c k) 0x010B (leBytes 4 rank ++ leBytes 1 action ++ zeros 3))

/-- A MEMBER record (R211); a reserved ACTION is discarded and counted (R11). -/
def Block.memberRecord (b : Block) (f : Frame) (r : Bytes) : Block :=
  if 3 ≤ byteAt r 12 then b.recordBad
  else match b.fromParent f with
    | none => b
    | some c => b.memberAct c (bitsOf (fieldAt r 8 4) 17 0) (byteAt r 12)

/-- MEMBER_RECEIVE (R211). -/
def execMemberReceive (port : Fin 8) (link : Fin 64) (frame : Bytes) (s : State) : Host.Outcome State Fault Refusal :=
  let _ := port
  onTray (fun b => b.receiveControl link frame 0x010B Block.memberRecord) s

/-- A MEMBER descriptor at the job hearth (R211). -/
def Block.memberDesc (b : Block) (t : Taken) : Block :=
  let rank := fieldAt t.bytes 32 4
  match b.hearthOf t.job with
  | none => b.complete t 0x09
  | some c =>
    if 3 ≤ byteAt t.bytes 36 ∨ !(b.ctx c).map.any (fun e => e.1 == rank) then b.complete t 0x0C
    else (b.memberAct c rank (byteAt t.bytes 36)).complete t 0

/-- MEMBER (R211). -/
def execMember (id : Nat) (s : State) : Host.Outcome State Fault Refusal :=
  onTray (fun b => b.onDesc 0x13 1 id Block.memberDesc) s

/-! ### REMAP (R212) -/

/-- The body of a REMAP record (R191). -/
def remapBody (rank da w : Nat) : Bytes := leBytes 4 rank ++ leBytes 4 da ++ leBytes 5 w ++ zeros 3

/-- A REMAP reaches a node (R212): the node keeps it for E(W − 1), passes it to the children on the paths to the old and the new
die, and the new die's tray sends that die its PREPARE. -/
def Block.remapAct (b : Block) (c rank da w : Nat) (desc : Option Nat) : Block :=
  let x := b.ctx c
  let b := b.modCtx c (fun x => { x with remaps := x.remaps ++ [{ rank := rank, addr := da, window := w, desc := desc }] })
  match b.build with
  | .D => b
  | .T =>
    let old := sget (fun _ => (2 ^ 32 : Nat)) x.map rank
    if x.level = 5 then
      let b := if old / 2 ^ 13 = b.da / 2 ^ 13 then b.sendControl (some c) (.die (slotOf old)) 0x010A (remapBody rank da w) else b
      if da / 2 ^ 13 = b.da / 2 ^ 13 then
        b.sendControl (some c) (.die (slotOf da)) 0x0101
          (leBytes 8 (windowStart x.k b.ft w).toNat ++ slice x.prepare 16 40 ++ leBytes 4 rank ++ leBytes 4 1 ++ leBytes 4 da)
      else b
    else
      b.forEach ([childAddr x.level old, childAddr x.level da].eraseDups) (fun b a =>
        b.sendControl (some c) (.child c a) 0x010A (remapBody rank da w))

/-- A REMAP record (R212). A die keeps it for its own rank. One whose die address has bits 7:0 set is discarded and counted (R14). -/
def Block.remapRecord (b : Block) (f : Frame) (r : Bytes) : Block :=
  if fieldAt r 12 4 % 256 ≠ 0 then b.recordBad
  else match b.fromParent f with
  | none => b
  | some c => b.remapAct c (bitsOf (fieldAt r 8 4) 17 0) (fieldAt r 12 4) (fieldAt r 16 5) none

/-- REMAP_RECEIVE (R212). -/
def execRemapReceive (b : Build) (port : Fin 8) (link : Fin 64) (frame : Bytes) (s : State) :
    Host.Outcome State Fault Refusal :=
  let _ := port
  onBlock b (fun x => x.receiveControl link frame 0x010A Block.remapRecord) s

/-- A REMAP descriptor at the job hearth (R212, R381). -/
def Block.remapDesc (b : Block) (t : Taken) : Block :=
  let rank := fieldAt t.bytes 32 4
  let da := fieldAt t.bytes 36 4
  let w := fieldAt t.bytes 40 5
  match b.hearthOf t.job with
  | none => b.complete t 0x09
  | some c =>
    let x := b.ctx c
    if da % 256 ≠ 0 ∨ !x.map.any (fun e => e.1 == rank) then b.complete t 0x0C
    else if ftDiff (windowStart x.k b.ft w) b.ft < (2 * x.traversal : Int) then b.complete t 0x0F
    else b.remapAct c rank da w (some t.id)

/-- REMAP (R212). -/
def execRemap (id : Nat) (s : State) : Host.Outcome State Fault Refusal :=
  onTray (fun b => b.onDesc 0x12 1 id Block.remapDesc) s

/-- The map with the entry of a rank rewritten: at a node whose subtree the new die lies below, the new entry; else none. -/
def mapRewrite (level da : Nat) (own : Nat) (map : Sparse Nat) (rank : Nat) : Sparse Nat :=
  let rest := map.filter (fun e => e.1 != rank)
  if below level own da then sinsert rank da rest else rest

/-- One rewritten map entry takes effect at a node of Borlu-T (R165, R212). -/
def Block.applyRemap (b : Block) (c : Nat) (m : RemapWait) : Block :=
  let x := b.ctx c
  let map := mapRewrite x.level m.addr b.da x.map m.rank
  let kept := x.children.filter (fun k => (childrenOf x.level map).any (fun n => n.addr == k.addr))
  let ks := (childrenOf x.level map).map (fun n =>
    match kept.find? (fun k => k.addr == n.addr) with | some k => { k with ranks := n.ranks } | none => n)
  let dups := x.dups.filter (fun d => d.key.take 4 != [x.job, x.epoch, 3, m.rank])
  let ms := if map.any (fun e => e.1 == m.rank) then x.members else x.members.filter (fun e => e.1 != m.rank)
  let armed := if m.armed then x.armedRanks.map (fun rs => (rs ++ [m.rank]).eraseDups) else x.armedRanks
  let b := b.modCtx c (fun x => { x with map := map, children := ks, dups := dups, members := ms, armedRanks := armed })
  let b := if x.level = 5 ∧ map.any (fun e => e.1 == m.rank)
    then b.setMember c m.rank { phase := .suspect, missed := b.suspectAt } else b
  match m.desc with
  | none => b
  | some id => match b.takenById id with | some t => b.complete t 0 | none => b

/-- The rewrites of a context that FT has reached take effect (R212): in Borlu-D the old die's context waits for its release. -/
def Block.remapApply (b : Block) (c : Nat) : Block :=
  let x := b.ctx c
  let due := x.remaps.filter (fun m => !m.done && ftGe b.ft (windowStart x.k b.ft m.window))
  match b.build with
  | .D => if x.isActive ∧ due.any (fun m => m.rank == x.rank && m.addr != b.da) then b.queueRelease c else b
  | .T =>
    let b := b.modCtx c (fun x => { x with remaps := x.remaps.map (fun m => if m ∈ due then { m with done := true } else m) })
    b.forEach due (fun b m => b.applyRemap c m)

/-- REMAP_APPLY (R212). -/
def execRemapApply (b : Build) (c : Fin 64) (s : State) : Host.Outcome State Fault Refusal :=
  onBlock b (fun x => x.remapApply c) s

/-! ### Standby and takeover (R213 to R215) -/

/-- The body of a TAKEOVER record (R191). -/
def takeoverBody (level index gen : Nat) : Bytes := leBytes 1 level ++ leBytes 1 index ++ zeros 2 ++ leBytes 4 gen

/-- A new hearth holds the contexts of its role (R214): what the state images that it has rebuilt leave out, the map and the children, is a free value
of them (log 59). Each takes a free context index. -/
def Block.rebuildContexts (b : Block) (level : Nat) : Block :=
  let imgs := ((b.tray.history.records 3).filter (fun r => r.level == level)).map HistRec.bytes
  b.forEach ((Config.sharedContexts level imgs).filter (fun x => x.level == level && x.isActive)) (fun b x =>
    match b.ctxAt x.job level, b.freeCtxIndex with
    | none, some i => b.setCtx i { x with bind := b.findBinding x, startDesc := none, endDesc := none, takenUp := none }
    | _, _ => b)

/-- A standby takes over (R213): TAKEOVER with GEN + 1 to the parent, the children and the other standbys of the active hearth; it
becomes active at the next window boundary of each context it carries. -/
def Block.takeOver (b : Block) (level : Nat) (desc : Option Nat) : Block :=
  let r := b.roleAt level
  let gen := (r.gen + 1) % 2 ^ 32
  let body := takeoverBody level r.index gen
  let b := (b.setRole level { r with gen := gen, pending := true, mark := b.ft, missed := 0, desc := desc }).rebuildContexts level
  let b := if level < 9 then b.sendControl none (.role (level + 1)) 0x0109 body (some level) else b
  let b := b.sendControl none (.role (level - 1)) 0x0109 body (some level)
  b.sendControl none (.role level) 0x0109 body (some level)

/-- HEARTH_LOSS_TIMEOUT (R213): standby i has missed LOSS + 2i periods of the active hearth's ember, while the plan steward runs
(R437). `l` is the level less 6. -/
def execHearthLossTimeout (l : Fin 4) (s : State) : Host.Outcome State Fault Refusal :=
  onTray (fun b =>
    let r := b.roleAt (l.val + 6)
    b.when (b.periods.auto && b.stewardRuns 1 && r.role == 2 && !r.pending && decide (b.periods.loss + 2 * r.index ≤ r.missed))
      (fun b => b.takeOver (l.val + 6) none)) s

/-- A TAKEOVER descriptor (R213, R381). -/
def Block.takeoverDesc (b : Block) (t : Taken) : Block :=
  let level := byteAt t.bytes 32
  if level < 6 ∨ 9 < level then b.complete t 0x0C
  else if (b.roleAt level).role ≠ 2 then b.complete t 0x09
  else b.takeOver level (some t.id)

/-- TAKEOVER (R213). -/
def execTakeover (id : Nat) (s : State) : Host.Outcome State Fault Refusal :=
  onTray (fun b => b.onDesc 0x14 1 id Block.takeoverDesc) s

/-- Send a frame again as it was, with its SEQ (R214). -/
def Block.resend (b : Block) (c : Nat) (f : Frame) : Block := b.queueItem (b.egressCtx c) f.cls (.parent c) f.raw

/-- A TAKEOVER record (R214, R215): a role of this block that it beats becomes a standby; a standby takes note of the higher
generation; child roles send again the outputs whose close at the new hearth has not passed. -/
def Block.takeoverRecord (b : Block) (_f : Frame) (r : Bytes) : Block :=
  let level := byteAt r 8
  let index := byteAt r 9
  let gen := fieldAt r 12 4
  if level < 6 ∨ 9 < level then b.recordBad
  else
    let mine := b.roleAt level
    let higher := decide (b.seenGen level < gen)
    let b := if higher then { b with tray := { b.tray with seenGen := sput (fun _ => 0) b.tray.seenGen level gen } } else b
    let b :=
      if (mine.role = 1 ∨ mine.pending) ∧ (mine.gen < gen ∨ (mine.gen = gen ∧ index < mine.index)) then b.demote level index gen
      else if mine.role = 2 ∧ !mine.pending ∧ mine.gen < gen then b.setRole level { mine with gen := gen, missed := 0 }
      else b
    if higher then
      b.forEach (b.ctxIds.filter (fun c => (b.ctx c).isActive && !(b.ctx c).isHearth && (b.ctx c).level + 1 == level)) (fun b c =>
        let x := b.ctx c
        let y : Ctx := { x with level := level }
        b.forEach (x.outputs.filter (fun f => !ftGe b.ft (y.closeTime b.ft f.window))) (fun b f => b.resend c f))
    else b

/-- TAKEOVER_RECEIVE (R214, R215). -/
def execTakeoverReceive (port : Fin 8) (link : Fin 64) (frame : Bytes) (s : State) : Host.Outcome State Fault Refusal :=
  let _ := port
  onTray (fun b => b.receiveControl link frame 0x0109 Block.takeoverRecord) s

end Sys2Proof.Machine
end

