-- ==== Sys2Proof/Machine/Windows.lean ====
section
/-! DEFINITION. Windows at a receiving node (R165 to R171, R181): placing a windowed frame, alarm and test frames, sensor records, job
statistics on their way down. -/

namespace Sys2Proof.Machine

/-! ### Plans of contexts, settings of passes -/

/-- The plan of a context: the one of its digest in the plan store, where it is held. -/
def Block.ctxPlan (b : Block) (c : Nat) : Bytes := (b.tray.plane.planOf (b.ctx c).plan).getD []

/-- A setting as the pass of window `w` of a context uses it (R330): while the context catches up, the value of its restored state;
otherwise the value in force before the first commit whose CFT lies after the window's start, or the value now. -/
def Block.passReg (b : Block) (c w off : Nat) : Word :=
  let x := b.ctx c
  let start := windowStart x.k b.ft w
  match if x.catchup then x.settings.find? (fun e => e.1 == off) else none with
  | some e => e.2
  | none =>
    match b.txn.log.find? (fun e => e.2.1 == off && decide (0 < ftDiff e.1 start)) with
    | some e => e.2.2.1
    | none => b.reg off

/-- The settings of a context that is behind, after window `w` (R335, R340): each takes the value of the last commit whose CFT lies after the
start of `w` and no later than the start of the next window. -/
def Ctx.laterSettings (x : Ctx) (log : List (BitVec 64 × Nat × Word × Word)) (now : BitVec 64) (w : Nat) : List (Nat × Word) :=
  let from_ := windowStart x.k now w
  let upTo := windowEnd x.k now w
  x.settings.map (fun e =>
    match (log.filter (fun l => l.2.1 == e.1 && decide (0 < ftDiff l.1 from_) && ftGe upTo l.1)).getLast? with
    | some l => (e.1, l.2.2.2)
    | none => e)

/-- A field of a setting as the pass of a window uses it. -/
def Block.passFld (b : Block) (c w off hi lo : Nat) : Nat := bitsOf (b.passReg c w off).toNat hi lo

/-! ### Windows in work -/

/-- The passes' data of window `w`. -/
def Analysis.win (a : Analysis) (w : Nat) : PassWin := (a.wins.find? (fun p => p.w == w)).getD { w := w }

/-- Store the data of a window: the windows in work are the latest 32, which holds those from the open one back to the first that a
window lag and an anvil lag of 8 reach. -/
def Analysis.setWin (a : Analysis) (p : PassWin) : Analysis :=
  if a.wins.any (fun q => q.w == p.w) then { a with wins := a.wins.map (fun q => if q.w = p.w then p else q) }
  else
    let before := a.wins.filter (fun q => decide (windowDiff q.w p.w < 0))
    let after := a.wins.filter (fun q => decide (0 < windowDiff q.w p.w))
    let all := before ++ [p] ++ after
    { a with wins := all.drop (all.length - 32) }

/-- Change the analysis state of a context. -/
def Block.modAn (b : Block) (c : Nat) (f : Analysis → Analysis) : Block := b.modCtx c (fun x => { x with an := f x.an })

/-- The data of a window of a context. -/
def Block.win (b : Block) (c w : Nat) : PassWin := (b.ctx c).an.win w

/-- Change the data of a window of a context. -/
def Block.modWin (b : Block) (c w : Nat) (f : PassWin → PassWin) : Block :=
  b.modAn c (fun a => a.setWin (f (a.win w)))

/-- What a tray keeps of a rank from pass to pass. -/
def Analysis.rank (a : Analysis) (r : Nat) : RankState := sget (fun _ => ({} : RankState)) a.ranks r

/-- Change what a tray keeps of a rank. -/
def Block.modRank (b : Block) (c r : Nat) (f : RankState → RankState) : Block :=
  b.modAn c (fun a => { a with ranks := smodify (fun _ => ({} : RankState)) a.ranks r f })

/-- The frames of window `w` at a node. -/
def Ctx.winSlot (x : Ctx) (w : Nat) : WinSlot := (x.wins.find? (fun s => s.w == w)).getD { w := w }

/-- Store the frames of a window. -/
def Ctx.setWinSlot (x : Ctx) (s : WinSlot) : Ctx := { x with wins := x.wins.filter (fun t => t.w != s.w) ++ [s] }

/-! ### Outputs (R159) -/

/-- The first sequence value of the output that a frame belongs to. -/
def Frame.base (f : Frame) : Nat := (f.seq + 2 ^ 32 - f.part % 2 ^ 32) % 2 ^ 32

/-- Two frames belong to one output. -/
def sameOutput (f g : Frame) : Bool :=
  f.rank == g.rank && f.level == g.level && f.cls == g.cls && f.window == g.window && f.base == g.base && f.parts == g.parts

/-- The output of a frame is complete among the frames of a list. -/
def outputDone (fs : List Frame) (f : Frame) : Bool :=
  (List.range f.parts).all (fun i => fs.any (fun g => sameOutput f g && g.part == i))

/-- One frame for each output of a list. -/
def outputsOf (fs : List Frame) : List Frame :=
  fs.foldl (fun acc f => if acc.any (sameOutput f) then acc else acc ++ [f]) []

/-- The payloads of an output in PART order. -/
def outputPayloads (fs : List Frame) (f : Frame) : List Bytes :=
  (List.range f.parts).map (fun i => ((fs.find? (fun g => sameOutput f g && g.part == i)).map Frame.payload).getD [])

/-- The order of R169: by RANK, then SEQ. -/
def frameOrder (f g : Frame) : Bool := decide (f.rank < g.rank) || (f.rank == g.rank && decide (f.seq ≤ g.seq))

/-- The frames of complete outputs, in the order of R169. -/
def completeFrames (fs : List Frame) : List Frame := (fs.filter (outputDone fs)).mergeSort frameOrder

/-- The frames of outputs that are not complete. -/
def openFrames (fs : List Frame) : List Frame := fs.filter (fun f => !outputDone fs f)

/-! ### Records of a die (R104) -/

/-- The bytes that a record of a die takes, by its TYPE; none for a reserved TYPE. -/
def dieRecordLen (bs : Bytes) : Option Nat :=
  match byteAt bs 0 with
  | 1 => some 400
  | 2 => some (56 + 6 * fieldAt bs 48 2)
  | 3 => some 32
  | 4 => some 264
  | 5 => some (16 + fieldAt bs 4 4)
  | _ => none

/-- A record of a die without a reserved bank, STATUS or VERDICT. -/
def dieRecordGood (r : Bytes) : Bool :=
  match byteAt r 0 with
  | 1 => decide (byteAt r 1 / 64 < 3)
  | 2 => decide (byteAt r 2 ≤ 3)
  | 3 => decide (byteAt r 2 ≤ 3)
  | _ => true

/-- The records of a die's payload, and how many of them hold a reserved value (R11): those are discarded, and a reserved TYPE, whose
length is not known, ends the walk. Zero bytes fill the space after the last record (R159). -/
def dieWalk : Nat → Bytes → List Bytes × Nat
  | 0, _ => ([], 0)
  | n + 1, bs =>
    if zeroAt bs 0 bs.length then ([], 0)
    else match dieRecordLen bs with
      | none => ([], 1)
      | some len =>
        if bs.length < len then ([], 0)
        else
          let (rs, bad) := dieWalk n (bs.drop ((len + 7) / 8 * 8))
          if dieRecordGood (bs.take len) then (bs.take len :: rs, bad) else (rs, bad + 1)

/-- The records of a die's payload. -/
def dieRecords (n : Nat) (bs : Bytes) : List Bytes := (dieWalk n bs).1

/-- The records of a placed frame of a die that hold a reserved value are counted (R11). -/
def Block.badDieRecords (b : Block) (f : Frame) : Block :=
  let n := if f.level = 3 then (dieWalk 600 f.payload).2 else 0
  if n = 0 then b else (b.count Reg.FRM_BAD n).flag Reg.FRM_STS 1

/-! ### WINDOWED_FRAME_RECEIVE (R168) -/

/-- Count a frame or output that is too late (R168, R169). -/
def Block.tooLate (b : Block) (n : Nat) : Block := if n = 0 then b else (b.count Reg.FRM_TOO_LATE n).flag Reg.FRM_STS 5

/-- Place a windowed frame (R168). -/
def Block.placeFrame (b : Block) (c : Nat) (f : Frame) : Block :=
  let x := b.ctx c
  if 1 < windowDiff f.window (windowOf x.k b.ft) then (b.count Reg.FRM_FUTURE 1).flag Reg.FRM_STS 6
  else if !ftGe b.ft (x.closeTime b.ft f.window) then
    (b.setCtx c (x.setWinSlot { x.winSlot f.window with inputs := (x.winSlot f.window).inputs ++ [f] })).badDieRecords f
  else
    let next := x.windowAfter f.window
    if !ftGe b.ft (x.closeTime b.ft next) && b.isSet Reg.FRM_CTL 0 then
      (((b.setCtx c (x.setWinSlot { x.winSlot next with annex := (x.winSlot next).annex ++ [f] })).count Reg.FRM_ANNEX 1).flag
        Reg.FRM_STS 4).badDieRecords f
    else b.tooLate 1

/-- WINDOWED_FRAME_RECEIVE (R158, R168): a frame of a windowed class that travels upward. -/
def execWindowedFrameReceive (port : Fin 8) (link : Fin 64) (frame : Bytes) (s : State) : Host.Outcome State Fault Refusal :=
  let _ := port
  onTray (fun b =>
    match b.rx link frame with
    | (none, b) => b
    | (some f, b) =>
      match b.fromChild f with
      | some c => if 2 ≤ f.cls ∧ f.cls ≤ 4 ∧ !f.down then b.placeFrame c f else b
      | none => b) s

/-! ### ALARM_FRAME_RECEIVE (R161, R162) -/

/-- The codes that a class 0 record may carry (R418). -/
def alarmCodes : List Nat := [0x0B01, 0x0C01, 0x0C02, 0x0E01, 0x0F01, 0x1801]

/-- A class 0 frame (R11, R161, R162): records of reserved codes are discarded and counted; the tray that a die's frame reaches
first and the job hearth write the records to their host, once where one block is both; any other node on the path passes the frame on,
unchanged, toward the hearth (R397). It enters this block by the lowest of its roles whose subtree holds its rank, and leaves it by the
highest. -/
def Block.alarmFrame (b : Block) (link : Nat) (f : Frame) : Block :=
  let all := alarmRecords f.payload
  let recs := all.filter (fun r => fieldAt r 0 2 ∈ alarmCodes)
  let b := if recs.length < all.length then (b.count Reg.FRM_BAD (all.length - recs.length)).flag Reg.FRM_STS 1 else b
  match b.receiver f 0 with
  | some c =>
    let top := b.climb c
    let hearth := (b.ctx top).isHearth
    let b := if link < 32 ∨ hearth then b.forEach recs (fun b r => b.pushAlarm (b.egressCtx c) f.job r) else b
    if hearth || recs.isEmpty then b else b.forwardAlarm (b.egressCtx top) (.parent top) f.raw recs
  | none => if link < 32 then b.forEach recs (fun b r => b.pushAlarm b.blockCtx 0 r) else b

/-- ALARM_FRAME_RECEIVE (R162). -/
def execAlarmFrameReceive (port : Fin 8) (link : Fin 64) (frame : Bytes) (s : State) : Host.Outcome State Fault Refusal :=
  let _ := port
  onTray (fun b =>
    match b.rx link frame with
    | (none, b) => b
    | (some f, b) => if f.cls = 0 then b.alarmFrame link f else b) s

/-- TEST_FRAME_RECEIVE (R160): a class 7 frame is counted and discarded; no mode of this version names one. -/
def execTestFrameReceive (b : Build) (port : Fin 8) (link : Fin 64) (frame : Bytes) (s : State) :
    Host.Outcome State Fault Refusal :=
  let _ := port
  onBlock b (fun x => (x.rx link frame).2) s

/-! ### SENSOR_RECORD_RECEIVE (R455) -/

/-- A SENSOR record whose KIND values are none of them reserved (R11, R454). -/
def sensorGood (r : Bytes) : Bool := (List.range 32).all (fun ch => decide (byteAt r (84 + ch / 2) / 16 ^ (ch % 2) % 16 ≤ 5))

/-- A SENSOR record (R455): the sensor source of its rank for its window, when it is accepted by the close of that window. -/
def Block.sensorRecord (b : Block) (f : Frame) (r : Bytes) : Block :=
  if !sensorGood r then b.recordBad
  else match b.fromChild f with
  | none => b
  | some c =>
    let w := fieldAt r 8 5
    if ftGe ((b.ctx c).closeTime b.ft w) b.ft then b.modWin c w (fun p => { p with sensors := sput (fun _ => []) p.sensors f.rank r }) else b

/-- SENSOR_RECORD_RECEIVE (R455). -/
def execSensorRecordReceive (link : Fin 64) (frame : Bytes) (s : State) : Host.Outcome State Fault Refusal :=
  onTray (fun b => b.receiveControl link frame 0x0901 Block.sensorRecord) s

/-! ### JOB_STATS_RECEIVE (R174) -/

/-- Items of the job statistics of a window are known (R31), beside those of the outputs before: the latest twelve windows are kept. -/
def Block.keepStats (b : Block) (c w : Nat) (items : List Item) : Block :=
  b.modAn c (fun a =>
    let known := sget (fun _ => ([] : List Item)) a.stats w
    let all := a.stats.filter (fun e => e.1 != w) ++ [(w, known ++ items)]
    { a with stats := all.drop (all.length - 12) })

/-- A child of a node is a role of this block. -/
def Block.childHere (b : Block) (x : Ctx) (k : Child) : Bool := (b.ctxAt x.job k.level).isSome && k.addr == childAddr x.level b.da

/-- The child roles of a job that this block sends its statistics to (R174): those of each of its nodes that are not its own, each once. -/
def Block.statsDests (b : Block) (job : Nat) : List Dest :=
  ((b.jobNodes job).map (fun c => (((b.ctx c).children.filter (fun k => k.level != 3 && !b.childHere (b.ctx c) k)).map (childDest c)))).flatten

/-- A frame of job statistics (R174), at the highest of this block's roles in the job tree: kept until its output is complete; then each
frame goes on, unchanged, to every child role of another block, and each role of this block keeps the items. A fragment fault discards
the output (R176), an item of a reserved OP or FORM that item (R11, R175). -/
def Block.statsFrame (b : Block) (c : Nat) (f : Frame) : Block :=
  let key := f.dupKey ++ [f.cls, f.base]
  let old := (b.parts.find? (fun s => s.key == key)).getD ⟨key, f.parts, []⟩
  let got := old.got.filter (fun e => e.1 != f.part) ++ [(f.part, f.raw)]
  let others := b.parts.filter (fun s => s.key != key)
  if got.length < f.parts then { b with parts := others ++ [⟨key, f.parts, got⟩] }
  else
    let b := { b with parts := others }
    let raws := (List.range f.parts).map (fun i => sget (fun _ => ([] : Bytes)) got i)
    match readItems (raws.map (fun r => (readFrame r).payload)) with
    | none => b.recordBad
    | some items =>
      let b := b.badItems items
      let b := b.forEach (b.statsDests f.job) (fun b d => b.forEach raws (fun b r => (b.queueItem (b.egressCtx c) 2 d r).frameSent))
      b.forEach (b.jobNodes f.job) (fun b i => b.keepStats i f.window (items.filter Item.known))

/-- JOB_STATS_RECEIVE (R174): a class 2 frame with DOWN = 1. -/
def execJobStatsReceive (port : Fin 8) (link : Fin 64) (frame : Bytes) (s : State) : Host.Outcome State Fault Refusal :=
  let _ := port
  onTray (fun b =>
    match b.rx link frame with
    | (none, b) => b
    | (some f, b) =>
      match b.topNode f.job with
      | some c => if f.cls = 2 ∧ f.down then b.statsFrame c f else b
      | none => b) s

end Sys2Proof.Machine
end

