-- ==== Sys2Proof/Machine/Feature.lean ====
section
/-! DEFINITION. The featuriser (R217 to R235): sources, peer references, formulas, drift detectors, codes, acceptance collapse, and the
pass that forms the vectors. -/

namespace Sys2Proof.Machine

/-! ### Records of a rank (R104) -/

/-- The records of a rank among frames. -/
def rankRecords (fs : List Frame) (rank : Nat) : List Bytes :=
  ((fs.filter (fun f => f.level == 3 && f.rank == rank)).map (fun f => dieRecords 600 f.payload)).flatten

/-! ### Sources (R221, R222) -/

/-- A value of a source: missing, an integer, a binary32 value, a sieve. `mark` says that its counter was saturated or its record
LOSSY (R222). -/
inductive SrcVal
  | missing
  | int (v : Nat) (mark : Bool)
  | f32 (v : Nat)
  | sieve (s : Sieve) (mark : Bool)
deriving DecidableEq, Repr

/-- The operand carries R222's mark. -/
def SrcVal.mark : SrcVal → Bool
  | .int _ m => m
  | .sieve _ m => m
  | _ => false

/-- The operand in binary32; the canonical NaN stands for missing (R223, R224). -/
def SrcVal.bits : SrcVal → Nat
  | .int v _ => f32OfInt v
  | .f32 v => if f32Nan v then f32NaN else v
  | _ => f32NaN

/-- Counter `i` of the record of a bank and group. -/
def counterSource (rs : List Bytes) (bank group i : Nat) : SrcVal :=
  match rs.find? (fun r => byteAt r 0 == 1 && byteAt r 1 == bank * 64 + group) with
  | none => .missing
  | some r => .int (fieldAt r (16 + 6 * i) 6) (bitOf (fieldAt r 8 8) i || bitOf (fieldAt r 2 2) 0)

/-- A crossing-queue mark (R85): index `n` for the low mark, 64 + n for the high mark. -/
def queueSource (rs : List Bytes) (i : Nat) : SrcVal :=
  match rs.find? (fun r => byteAt r 0 == 4) with
  | none => .missing
  | some r =>
    let v := fieldAt r (8 + 4 * (i % 64)) 4
    if v = 0xFFFF then .missing else .int (if i < 64 then v % 65536 else v / 65536) (bitOf (fieldAt r 2 2) 0)

/-- A pair sieve (R62). -/
def pairSource (rs : List Bytes) (i : Nat) : SrcVal :=
  match rs.find? (fun r => byteAt r 0 == 5 && byteAt r 1 == i) with
  | none => .missing
  | some r =>
    let body := slice r 16 (fieldAt r 4 4)
    match readSieve 0 false body with
    | some s => .sieve s (bitOf (fieldAt r 2 2) 0)
    | none => match readSieve 1 false body with | some s => .sieve s (bitOf (fieldAt r 2 2) 0) | none => .missing

/-- The KIND and the code of a channel in a SENSOR record; none when missing (R455). -/
def sensorChannel (r : Bytes) (ch : Nat) : Option (Nat × Nat) :=
  let kind := bitsOf (fieldAt r (84 + 4 * (ch / 8)) 4) (4 * (ch % 8) + 3) (4 * (ch % 8))
  if r.isEmpty ∨ kind = 0 ∨ !bitOf (fieldAt r 16 4) ch then none else some (kind, fieldAt r (20 + 2 * ch) 2)

/-- Space 6: a sensor channel in binary32, signed for MARGIN (R455). -/
def sensorSource (r : Bytes) (ch : Nat) : SrcVal :=
  match sensorChannel r ch with
  | none => .missing
  | some (kind, v) => .f32 (f32OfInt (if kind = 3 then signed 16 v else v))

/-- Space 11: the code of the i-th channel of KIND TEST (R455). -/
def testSource (r : Bytes) (i : Nat) : SrcVal :=
  let kind (ch : Nat) : Nat := bitsOf (fieldAt r (84 + 4 * (ch / 8)) 4) (4 * (ch % 8) + 3) (4 * (ch % 8))
  if r.isEmpty then .missing
  else match ((List.range 32).filter (fun ch => kind ch == 4))[i]? with
    | none => .missing
    | some ch => match sensorChannel r ch with | some (_, v) => .int v false | none => .missing

/-- Space 12: the command records of the window with the STATUS that the index counts; `whole` says that no class 3 output is missing. A
difference of two FT values is taken modulo 2^64 (R34). The operand carries the mark of the records it comes from (R222). -/
def commandSource (rs : List Bytes) (whole : Bool) (i : Nat) : SrcVal :=
  let status := match i with | 1 => 2 | 2 => 1 | _ => 0
  let cmds := rs.filter (fun r => byteAt r 0 == 2 && byteAt r 2 == status)
  let mark := cmds.any (fun r => bitOf (byteAt r 3) 1)
  if !whole then .missing
  else if i < 3 then .int cmds.length mark
  else .int (cmds.foldl (fun a r => a + (fieldAt r 24 8 + 2 ^ 64 - fieldAt r 16 8) % 2 ^ 64) 0) mark

/-- What a rank's sources of a window are read from; `events` says that no class 3 output of the rank is missing. -/
structure SourceView where
  records : List Bytes
  sensor : Bytes
  events : Bool
  presence : Nat
  member : Nat
  disagree : Nat → Option Nat
  deviations : Nat → Option Nat
  before : Sparse Nat

/-- The value of a source (R221). -/
def SourceView.get (v : SourceView) (src : Nat) : SrcVal :=
  let i := src % 4096
  match src / 4096 with
  | 1 => counterSource v.records 0 (i / 64) (i % 64)
  | 2 => counterSource v.records 1 0 i
  | 3 => counterSource v.records 2 (i / 64) (i % 64)
  | 4 => queueSource v.records i
  | 5 => pairSource v.records i
  | 6 => sensorSource v.sensor i
  | 7 => match v.disagree i with | some n => .int n false | none => .missing
  | 8 => match v.deviations i with | some n => .int n false | none => .missing
  | 9 => let x := sget (fun _ => f32NaN) v.before i; if f32Nan x then .missing else .f32 x
  | 10 => .int (match i with | 0 => v.presence | 1 => v.member % 8 | _ => v.member / 8) false
  | 11 => testSource v.sensor i
  | 12 => commandSource v.records v.events i
  | _ => .missing

/-! ### Quantiles and peers (R225 to R227) -/

/-- L(b): the lowest input that R182 places in bin `b`. -/
def binLow (b : Nat) : Nat := if b < 16 then b else (16 + b % 16) * 2 ^ (b / 16 - 1)

/-- The quantile Q of a sieve (R226); none where it holds no count. -/
def Sieve.quantile (s : Sieve) (q : Nat) : Option Nat :=
  let q := if q = 0 then 65536 else q
  let total := s.bins.foldl (fun a e => a + e.2) 0
  let target := max 1 (ceilDiv (q * total) 65536)
  if total = 0 then none
  else
    let r := s.bins.foldl (fun (a : Nat × Option Nat) e =>
      let sum := a.1 + e.2
      (sum, match a.2 with | some b => some b | none => if target ≤ sum then some e.1 else none)) (0, none)
    r.2.map (fun b => binLow b * 2 ^ s.shift)

/-- The peer value of an item (R225); the canonical NaN where it is missing. -/
def peerValue (op q : Nat) (i : Item) : Nat :=
  let n := i.n
  let pos := fieldAt i.body 8 8
  match op with
  | 0 => if n = 0 then f32NaN
         else if i.form = 0 then f32Div (f32OfInt pos) (f32OfInt n)
         else f32Div (f32Sub (f32OfInt pos) (f32OfInt (fieldAt i.body 16 8))) (f32OfInt n)
  | 1 => if n = 0 then f32NaN
         else match i.form with
           | 2 => pos % 2 ^ 32
           | 1 => f32OfInt (signed 64 pos)
           | _ => f32OfInt pos
  | 2 => match (readSieve i.form i.sat i.body).bind (fun s => s.quantile q) with | some v => f32OfInt v | none => f32NaN
  | _ => f32OfInt n

/-- The peer references of a window: the tray's partials, and the job statistics of the window before (R31, R225). -/
structure Peers where
  tray : List Item
  job : Option (List Item)

/-- The value of a peer selector (R225, R227). -/
def Peers.get (p : Peers) (sel q : Nat) : Nat :=
  let items := if bitOf sel 19 then p.job.getD [] else p.tray
  match items.find? (fun i => i.id == sel % 65536) with
  | none => f32NaN
  | some i => peerValue (bitsOf sel 18 16) q i

/-! ### Formulas (R224) -/

/-- A feature's value and the mark of R222; a missing one is the canonical NaN. -/
def Feature.value (f : Feature) (k : Nat) (v : SourceView) (p : Peers) : Nat × Bool :=
  let a := v.get f.srcA
  let b := if kindUsesB f.kind then v.get f.srcB else .missing
  let x := a.bits
  let y := b.bits
  let p1 := p.get f.peer1 f.q
  let p2 := p.get f.peer2 f.q
  let canon (z : Nat) : Nat := if f32Nan z then f32NaN else z
  let r : Nat := match f.kind with
    | 1 => x
    | 2 => f32Div x (f32OfInt (2 ^ k))
    | 3 => let s := f32Add x y; if f32Nan s ∨ f32Zero s then f32NaN else f32Div x s
    | 4 => if f32Nan y ∨ f32Zero y then f32NaN else f32Div x y
    | 5 => f32Sub x y
    | 6 => if f32Nan x then f32NaN else f32Mul x f.const
    | 7 => if f32Nan x ∨ f32Nan y then f32NaN else if f32Le y x then x else y
    | 8 => f32Sub x p1
    | 9 => if f32Nan p1 ∨ f32Zero p1 then f32NaN else f32Div x p1
    | 0x0A => if f32Nan p1 ∨ f32Nan p2 ∨ f32Le p2 0 then f32NaN else f32Div (f32Sub x p1) p2
    | 0x0B => match a with
        | .sieve s _ => (match s.quantile f.q with | some n => f32OfInt n | none => f32NaN)
        | _ => f32NaN
    | 0x0C => x
    | _ => f32NaN
  (canon r, a.mark || b.mark)

/-- A feature uses a peer reference that is missing (R227). -/
def Feature.peerMissing (f : Feature) (p : Peers) : Bool :=
  ((f.kind == 8 || f.kind == 9 || f.kind == 0x0A) && f32Nan (p.get f.peer1 f.q)) ||
    (f.kind == 0x0A && f32Nan (p.get f.peer2 f.q))

/-! ### Codes (R229, R230) -/

/-- The code and the clamp flag of a value: numeric kinds by R229 and R230, CATEGORY by its integer, CUSUM by its output. `int` is the
integer value of a CATEGORY source. -/
def Feature.code (f : Feature) (x : Nat) (int : Option Nat) (out : Nat) : Nat × Bool :=
  let miss := missingCode f.width
  if f.kind = 0x0D then (out, false)
  else if f.kind = 0x0C then
    match int with
    | none => (miss, false)
    | some v => if v < miss then (v, false) else (miss, true)
  else if f32Nan x then (miss, false)
  else if f32Lt x f.lo then (0, true)
  else if f32Lt f.hi x then (f.nedge, true)
  else (((f.edges.take f.nedge).filter (fun e => f32Le e x)).length, false)

/-! ### Detectors (R232) -/

/-- One side of a detector: the sum saturated at 2^31 − 1, and whether it reached that. -/
def cusumSide (s : Nat) (d : Int) : Nat × Bool :=
  let v := max 0 ((s : Int) + d)
  (min (2 ^ 31 - 1) v.toNat, decide ((2 ^ 31 - 1 : Int) ≤ v))

/-- A detector takes a value (R232); a missing one holds the state. -/
def Detector.take (d : Detector) (def_ : DetectorDef) (x : Nat) : Detector :=
  if f32Nan x then d
  else
    let z := f32ToInt (f32Mul (f32Sub x def_.target) (f32OfInt 65536))
    let (up, s1) := cusumSide d.up (z - def_.slack)
    let (down, s2) := cusumSide d.down (-z - def_.slack)
    { d with up := up, down := down, sat := d.sat || s1 || s2 }

/-- The value has saturated a side of the detector (R232). -/
def Detector.saturates (d : Detector) (def_ : DetectorDef) (x : Nat) : Bool := (Detector.take { d with sat := false } def_ x).sat

/-- The output of a detector's state: 0 QUIET, 1 UP, 2 DOWN (R232). -/
def Detector.output (d : Detector) (limit : Nat) : Nat :=
  if limit < d.up ∧ d.down ≤ d.up then 1 else if limit < d.down ∧ d.up < d.down then 2 else 0

/-- The state after its output is taken: RESET_ON_ALARM clears the side it names (R232). -/
def Detector.settle (d : Detector) (def_ : DetectorDef) (out : Nat) : Detector :=
  { d with out := out, up := if def_.resetOn ∧ out = 1 then 0 else d.up, down := if def_.resetOn ∧ out = 2 then 0 else d.down }

/-- A detector of a rank in the pass of a window: its update, the counts, the crumb (R232). -/
def Block.runDetector (b : Block) (c rank i : Nat) (def_ : DetectorDef) (x : Nat) : Block :=
  let old := sget (fun _ => ({} : Detector)) ((b.ctx c).an.rank rank).dets i
  let new := old.take def_ x
  let out := new.output def_.limit
  let b := b.modRank c rank (fun r => { r with dets := sput (fun _ => ({} : Detector)) r.dets i (new.settle def_ out) })
  let b := if f32Nan x then b.count Reg.FTZ_CUSUM_HOLD 1 else b
  let b := if old.saturates def_ x then b.flag Reg.FTZ_STS 2 else b
  if def_.crumb && out != 0 && (old.out == 0 || old.out == 3)
  then b.jobCrumb c 0x0B02 (some rank) (rank % 2 ^ 18 + i * 2 ^ 18 + out * 2 ^ 28) new.up new.down
  else b

/-! ### Acceptance collapse (R234) -/

/-- A class 0 alarm of the pass of a window (R32, R340): none leaves for a window that a catch-up pass runs after its close at the
parent. -/
def Block.passAlarm (b : Block) (c w code unit rank param : Nat) : Block :=
  let x := b.ctx c
  let up : Ctx := { x with level := x.level + 1 }
  if x.catchup && !x.isHearth && ftGe b.ft (up.closeTime b.ft w) then b else b.raiseAlarm c code unit (some rank) w param

/-- One acceptance-collapse rule for a rank: `f` the feature's value, `sum` the sum a + b of its SHARE (R234). -/
def Block.runCollapse (b : Block) (c w rank i : Nat) (r : CollapseRule) (f sum : Nat) : Block :=
  let (run, latch) := sget (fun _ => ((0, false) : Nat × Bool)) ((b.ctx c).an.rank rank).acr i
  let put (b : Block) (v : Nat × Bool) : Block :=
    b.modRank c rank (fun s => { s with acr := sput (fun _ => ((0, false) : Nat × Bool)) s.acr i v })
  if f32Nan f || !f32Le r.least sum then b
  else if f32Le f r.thr then
    let run := run + 1
    if r.persist ≤ run ∧ !latch then
      (((put b (run, true)).passAlarm c w 0x0B01 11 rank (r.slot + i * 2 ^ 8 + satTo 0xFFFF run * 2 ^ 16)).count
        Reg.FTZ_ACR_ALARMS 1).flag Reg.FTZ_STS 4
    else put b (run, latch)
  else put b (0, false)

/-! ### Vectors (R217, R218, R233, R235) -/

/-- A vector of window `W` for a rank is audited (R235). -/
def auditChosen (en : Bool) (rate salt w rank : Nat) : Bool :=
  en && (w % 2 ^ 32 * 0x9E3779B9 + rank * 0x85EBCA6B + salt) % 2 ^ 32 / 2 ^ (32 - rate) == 0

/-- Put a code into a slot or a half (R217). -/
def putCode (codes : Bytes) (f : Feature) (code : Nat) : Bytes :=
  let lo := 4 * (f.slot % 2) + (if f.width = 2 then 2 else 0)
  let hi := lo + (if f.width = 0 then 3 else 1)
  let old := byteAt codes (f.slot / 2)
  codes.set (f.slot / 2) (BitVec.ofNat 8 (old - bitsOf old hi lo * 2 ^ lo + code % 2 ^ (hi - lo + 1) * 2 ^ lo))

/-- The code bytes and the clamp mask of a list of coded features. -/
def vectorCodes (cs : List (Feature × Nat × Bool)) : Bytes × Nat :=
  (cs.foldl (fun a e => putCode a e.1 e.2.1) (List.replicate 128 0xFF),
    cs.foldl (fun a e => a + bit e.2.2 * 2 ^ (2 * e.1.slot + (if e.1.width = 2 then 1 else 0))) 0)

/-- A vector record (R218). -/
def vectorRecord (rank w vflags job : Nat) (codes : Bytes) (clamp : Nat) : Bytes :=
  leBytes 4 rank ++ leBytes 5 w ++ leBytes 1 vflags ++ leBytes 2 job ++ zeros 4 ++ codes ++ leBytes 64 clamp

/-- The order of features in a pass: ascending slot, lower half before upper (R233). -/
def featureOrder (fs : List Feature) : List Feature :=
  fs.mergeSort (fun f g => decide (f.slot < g.slot) || (f.slot == g.slot && decide (f.width ≤ g.width)))

/-- What forms one vector: whether it is late, its window, its sources and peer references. -/
structure VectorJob where
  late : Bool
  w : Nat
  view : SourceView
  peers : Peers

/-- Code a vector's features, emit its record, and count (R218, R222, R227, R229, R230, R238). -/
def Block.emitVector (b : Block) (c pass rank : Nat) (fs : List Feature) (j : VectorJob) (vals : Sparse Nat) (outs : Nat → Nat) :
    Block :=
  let k := (b.ctx c).k
  let coded := fs.map (fun f =>
    let (x, m) := if f.kind = 0x0D then (0, false) else f.value k j.view j.peers
    let int : Option Nat := match j.view.get f.srcA with | .int v _ => some v | _ => none
    let (code, clamp) := f.code x int (outs f.srcA)
    (f, code, clamp || m))
  let (codes, clamp) := vectorCodes coded
  let chosen := auditChosen (b.passFld c j.w Reg.FTZ_AUDIT 31 31 == 1) (b.passFld c j.w Reg.FTZ_AUDIT 4 0)
    (b.passFld c j.w Reg.FTZ_AUDIT_SALT 31 0) j.w rank
  let onTime := (b.win c j.w).vectors.find? (fun v => v.rank == rank && !v.late)
  let audited : Bool := match onTime with | some v => if j.late then v.audited else chosen | none => chosen
  let vflags := bit j.late + bit j.peers.job.isNone * 2 + bit audited * 4 + j.view.presence % 4 * 8
  let rec_ := vectorRecord rank j.w vflags (b.ctx c).job codes clamp
  let missing := (coded.filter (fun e => e.2.1 == missingCode e.1.width)).length
  let clamps := (coded.filter (fun e => e.2.2)).length
  let v : FeatVec := { rank := rank, late := j.late, audited := audited, record := rec_, feats := vals }
  let before (x y : FeatVec) : Bool := decide (bit x.late < bit y.late) || (x.late == y.late && decide (x.rank ≤ y.rank))
  let b := b.modWin c pass (fun p => { p with vectors := (p.vectors ++ [v]).mergeSort before })
  let b := (((b.count Reg.FTZ_VECTORS 1).count Reg.FTZ_LATE_VEC (bit j.late)).count Reg.FTZ_MISSING missing).count Reg.FTZ_CLAMPS clamps
  let b := if clamps = 0 then b else b.flag Reg.FTZ_STS 1
  if fs.any (fun f => f.peerMissing j.peers) then b.flag Reg.FTZ_STS 0 else b

/-- The values of the features of a table that are no CUSUM, by key. -/
def featureValues (k : Nat) (fs : List Feature) (v : SourceView) (p : Peers) : Sparse Nat :=
  fs.foldl (fun m f => if f.kind = 0x0D then m else sput (fun _ => f32NaN) m f.key (f.value k v p).1) []

/-- The values with those of the CUSUM features: an output in binary32, missing before the first. -/
def withCusum (fs : List Feature) (vals : Sparse Nat) (outs : Nat → Nat) : Sparse Nat :=
  fs.foldl (fun m f => if f.kind = 0x0D then sput (fun _ => f32NaN) m f.key (if outs f.srcA = 3 then f32NaN else f32OfInt (outs f.srcA))
                       else m) vals

/-- The witness channels on which a rank belongs to a group. -/
def witnessed (plan : Bytes) (rank ch : Nat) : Bool := (planReplicas plan).any (fun g => g.channel == ch && rank ∈ g.members)

/-- What a rank's sources of window `w` are (R221): `frames` its records come from. -/
def Block.sourceView (b : Block) (c w rank : Nat) (frames : List Frame) : SourceView :=
  let x := b.ctx c
  let plan := b.ctxPlan c
  let p := x.an.win w
  let prev := x.an.win ((w + 2 ^ 40 - 1) % 2 ^ 40)
  let port := slotOf (sget (fun _ => 0) x.map rank)
  { records := rankRecords frames rank, sensor := sget (fun _ => []) p.sensors rank,
    events := frames.any (fun f => f.level == 3 && f.rank == rank && f.cls == 3) && !(rank ∈ p.eventsLost) ||
      sget (fun _ => 0) p.presence rank == 1, presence := sget (fun _ => 0) p.presence rank,
    member := sget (fun _ => 0) p.states rank,
    disagree := fun ch => if witnessed plan rank ch then some (sget (fun _ => 0) prev.disagree (8 * rank + ch)) else none,
    deviations := fun cl => if (planCoverage plan port).2.1 = 0 then some (sget (fun _ => 0) prev.devCount (16 * rank + cl)) else none,
    before := ((prev.vectors.find? (fun v => v.rank == rank && !v.late)).map FeatVec.feats).getD [] }

/-- The peer references of window `w`. -/
def Block.peersOf (b : Block) (c w : Nat) : Peers := { tray := (b.win c w).parts, job := (b.win c w).stats }

/-- The detector outputs of a rank, 3 before its first vector. -/
def RankState.outs (r : RankState) (i : Nat) : Nat := if r.seen then (sget (fun _ => ({} : Detector)) r.dets i).out else 3

/-- The on-time part of the pass for one rank (R233). -/
def Block.featuriseRank (b : Block) (c w rank : Nat) : Block :=
  let x := b.ctx c
  let plan := b.ctxPlan c
  let fs := featureOrder (planFeatures plan)
  let dets := (planDetectors plan).zip (List.range 1024)
  let b := b.modRank c rank (fun r => { r with kept := (dets.map (fun d => (d.2, r.outs d.2))).filter (fun e => e.2 != 3) })
  let view := b.sourceView c w rank (x.winSlot w).inputs
  if view.presence = 0 then b
  else
    let peers := b.peersOf c w
    let vals := featureValues x.k fs view peers
    let get (key : Nat) : Nat := sget (fun _ => f32NaN) vals key
    let b := b.forEach (dets.filter (fun d => d.1.en)) (fun b (d : DetectorDef × Nat) => b.runDetector c rank d.2 d.1 (get d.1.key))
    let b := b.modRank c rank (fun r => { r with seen := true })
    let outs := ((b.ctx c).an.rank rank).outs
    let rules := (planCollapse plan).zip (List.range 8)
    let b := b.forEach rules (fun b (r : CollapseRule × Nat) =>
      match featureAt fs r.1.slot with
      | some f => b.runCollapse c w rank r.2 r.1 (get r.1.slot) (f32Add (view.get f.srcA).bits (view.get f.srcB).bits)
      | none => b)
    b.emitVector c w rank fs { late := false, w := w, view := view, peers := peers } (withCusum fs vals outs) outs

/-- The late vector of the window before, where annex inputs of the rank are complete (R228). -/
def Block.featuriseLate (b : Block) (c w rank : Nat) : Block :=
  let x := b.ctx c
  let annex := (x.winSlot w).annex
  if annex.any (fun f => f.level == 3 && f.rank == rank) then
    let fs := featureOrder (planFeatures (b.ctxPlan c))
    let v := (w + 2 ^ 40 - 1) % 2 ^ 40
    let view := { b.sourceView c v rank annex with events := annex.any (fun f => f.level == 3 && f.rank == rank && f.cls == 3) }
    let peers := b.peersOf c v
    let kept := (x.an.rank rank).kept
    let outs (i : Nat) : Nat := sget (fun _ => 3) kept i
    b.emitVector c w rank fs { late := true, w := v, view := view, peers := peers }
      (withCusum fs (featureValues x.k fs view peers) outs) outs
  else b

/-- FEATURISE for tray ranks by their index (R233, R322). -/
def Block.featurise (b : Block) (c w first count : Nat) : Block :=
  let ranks := (((b.ctx c).map.map Prod.fst).drop first).take count
  let b := b.forEach ranks (fun b r => b.featuriseRank c w r)
  let b := b.forEach ranks (fun b r => b.featuriseLate c w r)
  b.modWin c w (fun p => { p with featured := p.featured ++ (List.range ranks.length).map (· + first) })

end Sys2Proof.Machine
end

