-- ==== Sys2Proof/Machine/Ensemble.lean ====
section
/-! DEFINITION. The tree-ensemble engine and rule mode: trees and rule groups on narrow codes (R242, R243, R268 to R270), scores and
verdicts (R247 to R251, R257), the reference audit (R236, R237, R253, R254, R276). -/

namespace Sys2Proof.Machine

/-! ### One tree on one vector (R242, R243) -/

/-- The code bytes of a vector record (R218). -/
def vectorCodeBytes (rec : Bytes) : Bytes := slice rec 16 128

/-- The code of a slot or half, and whether it is the missing code (R242, R243). -/
def codeOf (fs : List Feature) (codes : Bytes) (slot : Nat) (half : Bool) : Nat × Bool :=
  let nib := bitsOf (byteAt codes (slot / 2)) (4 * (slot % 2) + 3) (4 * (slot % 2))
  if slotSplit fs slot then
    let c := if half then nib / 4 else nib % 4
    (c, c == 3)
  else (nib, nib == 15)

/-- The bit of a node on a code (R242): 1 is right. -/
def nodeOnCode (n : Nat) (code : Nat) (missing : Bool) : Bool :=
  match nodeKind n with
  | 2 => false
  | 3 => true
  | 0 => if missing then nodeDef n else decide (nodeThr n ≤ code)
  | _ => if missing then nodeDef n else bitOf (nodeCat n) code

/-- The bit of a node on a vector. -/
def nodeBit (fs : List Feature) (codes : Bytes) (n : Nat) : Bool :=
  let (c, m) := codeOf fs codes (nodeSlot n) (nodeHalf n)
  nodeOnCode n c m

/-- The walk from a node over some levels: the path bits, the first the most significant (R243). -/
def walkTree (bitAt : Nat → Bool) : Nat → Nat → Nat → Nat
  | 0, _, path => path
  | l + 1, i, path => walkTree bitAt l (2 * i + 1 + bit (bitAt i)) (2 * path + bit (bitAt i))

/-- The leaf index of a tree on a vector (R243). -/
def leafIndex (fs : List Feature) (img codes : Bytes) : Nat := walkTree (fun i => nodeBit fs codes (treeNode img i)) 8 0 0

/-! ### One rule group on one vector (R268 to R270) -/

/-- Field `k` of the key of a group (R268, R269). -/
def ruleField (fs : List Feature) (img codes : Bytes) (k : Nat) : Nat :=
  let (slot, enc, half) := groupField img k
  let (c, missing) := codeOf fs codes slot half
  match enc with
  | 0 => 0
  | 1 => if missing then 0x4000 else 2 ^ c - 1
  | _ => if missing then 0x8000 else 2 ^ c

/-- A key from its fields. -/
def ruleKeyOf (field : Nat → Nat) : Nat := (List.range 64).foldl (fun a k => a + field k % 65536 * 2 ^ (16 * k)) 0

/-- The key of a group on a vector (R269). -/
def ruleKey (fs : List Feature) (img codes : Bytes) : Nat := ruleKeyOf (ruleField fs img codes)

/-- The lowest-indexed entry that matches a key; none when none does (R270). -/
def ruleMatch (img : Bytes) (key : Nat) : Option Nat :=
  (List.range (groupCount img)).find? (fun e => (key ^^^ groupValue img e) &&& groupCare img e == 0)

/-- Output `o` of the leaf of an entry, or of the default leaf. -/
def ruleLeaf (img : Bytes) (e : Option Nat) (o : Nat) : Int :=
  match e with
  | some e => signed 8 (byteAt img (4352 + 288 * e + o))
  | none => signed 8 (byteAt img (8 + o))

/-! ### Scores (R247) -/

/-- Output `o` of the leaf that a list entry gives a vector. -/
def PlaneUnit.narrowLeaf (u : PlaneUnit) (fs : List Feature) (t : TreeRef) (codes : Bytes) (o : Nat) : Int :=
  if t.rule then
    let img := (slotIn u.groups t.slot).bytes
    ruleLeaf img (ruleMatch img (ruleKey fs img codes)) o
  else
    let img := (slotIn u.trees t.slot).bytes
    treeLeaf img (leafIndex fs img codes) o

/-- A saturating add into a 24-bit accumulator: the sum and whether it saturated (R247). -/
def satAdd24 (acc gs : Int) : Int × Bool :=
  let s := acc + gs
  let a := min (2 ^ 23 - 1) (max (-(2 ^ 23)) s)
  (a, a != s)

/-- The exact sum of output `o` of a group of list entries. -/
def PlaneUnit.groupSum (u : PlaneUnit) (fs : List Feature) (ts : List TreeRef) (codes : Bytes) (o : Nat) : Int :=
  ts.foldl (fun a t => a + u.narrowLeaf fs t codes o * 2 ^ t.shift) 0

/-- Output `o` of an ensemble on a vector: the accumulator and whether it saturated; group sums enter in ascending group order (R247). -/
def PlaneUnit.scoreOutput (u : PlaneUnit) (fs : List Feature) (e : Ensemble) (codes : Bytes) (o : Nat) : Int × Bool :=
  (List.range e.groups).foldl (fun a g =>
    let (v, s) := satAdd24 a.1 (u.groupSum fs ((e.trees.drop (32 * g)).take 32) codes o)
    (v, a.2 || s)) (e.bias.getD o 0, false)

/-- The accumulators and the SAT mask of an ensemble on a vector. -/
def PlaneUnit.narrowScore (u : PlaneUnit) (fs : List Feature) (e : Ensemble) (codes : Bytes) : List Int × Nat :=
  let rs := (List.range e.outputs).map (u.scoreOutput fs e codes)
  (rs.map Prod.fst, (rs.zip (List.range 4)).foldl (fun a p => a + bit p.1.2 * 2 ^ p.2) 0)

/-- The verdict of a score (R248). -/
def Ensemble.verdict (e : Ensemble) (acc : List Int) : Nat :=
  let v := acc.getD e.primary 0
  if e.alarm ≤ v then 2 else if e.watch ≤ v then 1 else 0

/-! ### Verdicts (R248 to R250, R257) -/

/-- Physical lane of logical lane `j` of quad `q`. -/
def Block.laneOf (b : Block) (q j : Nat) : Nat := b.fld (Reg.ENS_LANE_MAP + 32 * q + 4 * (j / 4)) (8 * (j % 4) + 5) (8 * (j % 4))

/-- Physical lane `p` of quad `q` is retired. -/
def Block.laneFailed (b : Block) (q p : Nat) : Bool :=
  if p < 32 then b.isSet (Reg.ENS_LANE_FAIL + 4 * q) p else b.isSet (Reg.ENS_LANE_STS + 4 * q) (p - 32)

/-- Logical lane `j` of quad `q` has no physical lane (R261). -/
def Block.laneLost (b : Block) (q j : Nat) : Bool := b.laneFailed q (b.laneOf q j)

/-- The causes for which a verdict is INVALID (R257): 1 LANE_LOST, 2 STORE_ERR, 3 FETCH_ERR. -/
def PassWin.causes (p : PassWin) (v : FeatVec) (ens : Nat) : List Nat :=
  (if ens ∈ p.laneLost then [1] else []) ++ (if ens ∈ p.bankLost ∨ ens ∈ v.bankErr then [2] else []) ++ (if ens ∈ v.fetchErr then [3] else [])

/-- The run count and latch of a rank for an ensemble. -/
def RankState.run (r : RankState) (ens : Nat) : Nat × Bool := sget (fun _ => ((0, false) : Nat × Bool)) r.ens ens

/-- The run and latch of R249 after an on-time verdict; the class 0 alarm leaves when the verdicts before it are formed (R32, R250). -/
def Block.ensembleRun (b : Block) (c w : Nat) (e : Ensemble) (ens rank code : Nat) (primary : Int) : Block :=
  let (run, latch) := ((b.ctx c).an.rank rank).run ens
  let put (b : Block) (v : Nat × Bool) : Block :=
    b.modRank c rank (fun s => { s with ens := sput (fun _ => ((0, false) : Nat × Bool)) s.ens ens v })
  match code with
  | 2 =>
    let run := satTo 255 (run + 1)
    if e.alarmP ≤ run ∧ !latch ∧ b.passFld c w Reg.ENS_CTL 0 0 = 1 then
      (((put b (run, true)).modWin c w (fun p =>
        { p with alarms := p.alarms ++ [(rank, ens, (BitVec.ofInt 24 primary).toNat + ens * 2 ^ 24)] })).count Reg.ENS_ALARMS 1).flag
        Reg.ENS_STS 0
    else put b (run, latch)
  | 3 => b
  | _ => put b (0, false)

/-- One INVALID verdict: its count, flag and crumbs; CAUSE is one of those that apply, a free one where several do (R331, log 18). -/
def Block.invalidVerdict (b : Block) (c : Nat) (cs : List Nat) : Nat × Block :=
  let b := ((b.count Reg.ENS_INVALID 1).flag Reg.ENS_STS 3).forEach cs (fun b x => b.healthOnce [x] 0x0C03 x c 0)
  match cs with
  | [x] => (x, b)
  | _ => (cs.getD (Config.causeOf cs % cs.length) 0, b)

/-- What an ensemble makes of a vector: VERDICT, accumulators, SAT mask and CAUSE (R247, R248, R257). -/
structure Scored where
  code : Nat
  acc : List Int := []
  satMask : Nat := 0
  cause : Nat := 0

/-- An ensemble scores a vector, in the window pass or for search (R247, R248, R257); `cs` are the causes that make the verdict INVALID. -/
def Block.scoreVector (b : Block) (c : Nat) (fs : List Feature) (e : Ensemble) (codes : Bytes) (cs : List Nat) : Scored × Block :=
  let b := b.count Reg.ENS_VERDICTS 1
  if cs.isEmpty then
    let (acc, sat) := b.tray.plane.narrowScore fs e codes
    ({ code := e.verdict acc, acc := acc, satMask := sat }, if sat = 0 then b else (b.count Reg.ENS_SAT_CNT 1).flag Reg.ENS_STS 1)
  else
    let (cause, b) := b.invalidVerdict c cs
    ({ code := 3, cause := cause }, b)

/-- The verdict of an audited pair is flipped when both verdicts have been formed and they differ (R236): an INVALID verdict is none. -/
def Block.settleFlip (b : Block) (c w rank : Nat) (late : Bool) (ens : Nat) : Block :=
  let p := b.win c w
  let mine (m : AuditMark) : Bool := m.rank == rank && m.late == late && m.ens == ens
  match (p.audits.find? mine).bind AuditMark.ref, p.verdicts.find? (fun v => v.rank == rank && v.late == late && v.ens == ens) with
  | some ref, some v =>
    b.when (v.code != 3 && ref != v.code) (fun b =>
      (b.modWin c w (fun p =>
        { p with verdictFlips := p.verdictFlips + 1,
                 audits := p.audits.map (fun m => if mine m then { m with flip := true } else m) })).count Reg.FTZ_VERDICT_FLIPS 1)
  | _, _ => b

/-- QUANT_DRIFT at the end of a window's audit (R237). -/
def Block.auditEnd (b : Block) (c w : Nat) : Block :=
  let p := b.win c w
  if p.auditDone then b
  else
    let lim := b.passReg c w Reg.FTZ_AUDIT_LIM
    let b := b.modWin c w (fun p => { p with auditDone := true })
    if bitsOf lim.toNat 15 0 * p.trees < p.treeFlips * 65536 ∨ bitsOf lim.toNat 31 16 < p.verdictFlips then
      (b.flag Reg.FTZ_STS 3).jobCrumb c 0x0B03 none (w % 2 ^ 32) p.trees
        (satTo 65535 p.treeFlips * 65536 + satTo 65535 p.verdictFlips)
    else b

/-- A window's audit ends once its last tree has been audited and every reference verdict has the narrow verdict it is compared with
(R236, R237). -/
def Block.auditSettled (b : Block) (c w : Nat) : Block :=
  let p := b.win c w
  let formed (m : AuditMark) : Bool := p.verdicts.any (fun v => v.rank == m.rank && v.late == m.late && v.ens == m.ens)
  b.when (p.auditReady && p.audits.all (fun m => m.ref.isNone || formed m)) (fun b => b.auditEnd c w)

/-- Form the verdict of one vector and ensemble (R247 to R250). -/
def Block.formVerdict (b : Block) (c w : Nat) (fs : List Feature) (e : Ensemble) (ens : Nat) (v : FeatVec) : Block :=
  let (r, b) := b.scoreVector c fs e (vectorCodeBytes v.record) ((b.win c w).causes v ens)
  let y : Verdict := { rank := v.rank, late := v.late, ens := ens, code := r.code, acc := r.acc, satMask := r.satMask, cause := r.cause,
                       audited := v.audited }
  let b := (b.modWin c w (fun p => { p with verdicts := p.verdicts ++ [y] })).settleFlip c w v.rank v.late ens
  if bitOf e.flags 1 && !v.late then b.ensembleRun c w e ens v.rank r.code (r.acc.getD e.primary 0) else b

/-- The first verdict of a pass that is not formed yet, in the order of R250: the rank of its on-time vector and its ensemble, of `n`. -/
def PassWin.firstOpen (p : PassWin) (n : Nat) : Option (Nat × Nat) :=
  (p.vectors.filter (fun v => !v.late)).findSome? (fun v =>
    ((List.range n).find? (fun e => !p.verdicts.any (fun y => y.rank == v.rank && !y.late && y.ens == e))).map (fun e => (v.rank, e)))

/-- The ensemble alarms of a pass leave in the order of their verdict records, vectors first (R250), each as soon as the verdicts before it are
formed (R32); all that are formed leave before the partials of the pass and at its RESULT step (`last`; DEDUCED, log 52). -/
def Block.sendAlarms (b : Block) (c w : Nat) (last : Bool) : Block :=
  let p := b.win c w
  let order (x y : Nat × Nat) : Bool := decide (x.1 < y.1) || (x.1 == y.1 && decide (x.2 ≤ y.2))
  let ready (a : Nat × Nat × Nat) : Bool :=
    last || (match p.firstOpen (planEnsembles (b.ctxPlan c)).length with | some o => !order o (a.1, a.2.1) | none => true)
  (b.modWin c w (fun p => { p with alarms := p.alarms.filter (fun a => !ready a) })).forEach
    ((p.alarms.filter ready).mergeSort (fun x y => order (x.1, x.2.1) (y.1, y.2.1))) (fun b a => b.passAlarm c w 0x0C01 12 a.1 a.2.2)

/-- The list positions of an ensemble that name rule groups. -/
def Ensemble.rulePositions (e : Ensemble) : List Nat :=
  (List.range e.trees.length).filter (fun i => ((e.trees[i]?).map TreeRef.rule).getD false)

/-- The verdicts of an ensemble are formed once every group has been scored and every rule position searched, before which none
exists. -/
def Block.verdictsWhenDone (b : Block) (c w : Nat) (fs : List Feature) (e : Ensemble) (ens : Nat) : Block :=
  let p := b.win c w
  let done : Bool := (List.range e.groups).all (fun g => g ∈ sget (fun _ => []) p.scored ens) &&
    e.rulePositions.all (fun i => i ∈ sget (fun _ => []) p.ruled ens) && !p.verdicts.any (fun v => v.ens == ens)
  if done then ((b.forEach p.vectors (fun b v => b.formVerdict c w fs e ens v)).auditSettled c w).sendAlarms c w false else b

/-- The features and an ensemble of the plan of a context. -/
def Block.ensembleOf (b : Block) (c ens : Nat) : Option (List Feature × Ensemble) :=
  let plan := b.ctxPlan c
  ((planEnsembles plan)[ens]?).map (fun e => (planFeatures plan, e))

/-- A tree of an ensemble is BAD (R257, R260). Its groups count as they are when their own searches run (R275). -/
def PlaneUnit.storeErr (u : PlaneUnit) (e : Ensemble) : Bool := e.trees.any (fun t => !t.rule && !(slotIn u.trees t.slot).usable)

/-- Searches of one group in its bank: how many start, and how many of them take the default leaf (R270, R278). -/
def Block.countSearches (b : Block) (n misses : Nat) : Block :=
  let b := b.countWide Reg.RUL_SEARCH_LO n
  if misses = 0 then b else (b.count Reg.RUL_NOMATCH misses).flag Reg.RUL_STS 1

/-- Add an entry to a list that has it not. -/
def addOnce (x : Nat) (l : List Nat) : List Nat := if x ∈ l then l else l ++ [x]

/-- SCORE for one context and ensemble: groups from `first` on, in quad `q` (R247, R255, R257). `errs` are the positions of the vectors
whose fetch returned an uncorrected error. -/
def Block.scoreStep (b : Block) (c w ens first count q : Nat) (errs : List Nat) : Block :=
  match b.ensembleOf c ens with
  | none => b
  | some (fs, e) =>
    let p := b.win c w
    let gs := (List.range count).map (· + first) |>.filter (fun g => decide (g < e.groups))
    let trees := gs.map (fun g => ((e.trees.drop (32 * g)).take 32))
    let lost := trees.any (fun ts => (List.range ts.length).any (fun j => b.laneLost q j))
    let evals := (trees.map (fun ts => (ts.filter (fun t => !t.rule)).length)).foldl (· + ·) 0 * p.vectors.length
    let store := b.tray.plane.storeErr e
    let hit := (List.range p.vectors.length).any (fun i => i ∈ errs)
    let b := b.modWin c w (fun p =>
      { p with scored := smodify (fun _ => []) p.scored ens (fun l => gs.foldl (fun l g => addOnce g l) l),
               laneLost := if lost then addOnce ens p.laneLost else p.laneLost,
               bankLost := if store then addOnce ens p.bankLost else p.bankLost,
               vectors := (p.vectors.zip (List.range p.vectors.length)).map (fun v =>
                 if v.2 ∈ errs then { v.1 with fetchErr := addOnce ens v.1.fetchErr } else v.1) })
    let b := if hit then b.flag Reg.ENS_STS 4 else b
    (b.countWide Reg.ENS_EVALS_LO evals).verdictsWhenDone c w fs e ens

/-- RULE for one context and ensemble: the group at list position `i`, in bank `bank` (R270, R275). `errs` are the positions of the vectors
whose search met a check word mismatch or an uncorrected error: the first such search keeps its leaf, and the group is BAD from the next
vector on (R277). -/
def Block.ruleStep (b : Block) (c w ens i bank : Nat) (errs : List Nat) : Block :=
  match b.ensembleOf c ens with
  | none => b
  | some (fs, e) =>
    match e.trees[i]? with
    | none => b
    | some t =>
      if !t.rule then b
      else
        let g := slotIn b.tray.plane.groups t.slot
        let p := b.win c w
        let failed := b.isSet Reg.RUL_STS (4 + bank)
        let faults := if failed || !g.usable then [] else errs.filter (· < p.vectors.length)
        let misses := (p.vectors.filter (fun v => (ruleMatch g.bytes (ruleKey fs g.bytes (vectorCodeBytes v.record))).isNone)).length
        let b := b.modWin c w (fun p =>
          { p with ruled := smodify (fun _ => []) p.ruled ens (addOnce i),
                   bankLost := if failed || !g.usable then addOnce ens p.bankLost else p.bankLost,
                   vectors := (p.vectors.zip (List.range p.vectors.length)).map (fun v =>
                     if faults.any (· < v.2) then { v.1 with bankErr := addOnce ens v.1.bankErr } else v.1) })
        let b := if faults.isEmpty then b else b.groupFault t.slot
        (if failed then b else b.countSearches p.vectors.length misses).verdictsWhenDone c w fs e ens

/-! ### The reference evaluation (R236, R253, R276) -/

/-- The binary32 value of a feature of a vector by its key. -/
def FeatVec.value (v : FeatVec) (key : Nat) : Nat := sget (fun _ => f32NaN) v.feats key

/-- The feature that a slot and half name. -/
def featureNamed (fs : List Feature) (slot : Nat) (half : Bool) : Option Feature :=
  featureAt fs (slot + (if slotSplit fs slot && half then 256 else 0))

/-- A feature that the reference lane takes at its code (R253). -/
def Feature.atCode (f : Feature) : Bool := f.kind == 0x0C || f.kind == 0x0D || f.cat

/-- The reference bit of node `i` of a tree (R236, R253). -/
def refBit (fs : List Feature) (img ref : Bytes) (v : FeatVec) (i : Nat) : Bool :=
  let n := treeNode img i
  let narrow := nodeBit fs (vectorCodeBytes v.record) n
  if nodeKind n ≠ 0 then narrow
  else match featureNamed fs (nodeSlot n) (nodeHalf n) with
    | none => narrow
    | some f =>
      let x := v.value f.key
      if f.atCode then narrow else if f32Nan x then nodeDef n else f32Le (fieldAt ref (16 + 4 * i) 4) x

/-- The reference leaf index of a tree. -/
def refLeafIndex (fs : List Feature) (img ref : Bytes) (v : FeatVec) : Nat := walkTree (refBit fs img ref v) 8 0 0

/-- Field `k` of a reference key (R276): thermometer bits that some entry cares for come from the value, the rest from the narrow key. -/
def refField (fs : List Feature) (img : Bytes) (v : FeatVec) (k : Nat) : Nat :=
  let narrow := ruleField fs img (vectorCodeBytes v.record) k
  let (slot, enc, half) := groupField img k
  match enc, featureNamed fs slot half with
  | 1, some f =>
    let x := v.value f.key
    if f32Nan x then narrow
    else (List.range 14).foldl (fun a i =>
      if groupCares img k (i + 1) then a - bitsOf a i i * 2 ^ i + bit (f32Le (groupThr img k (i + 1)) x) * 2 ^ i else a) narrow
  | _, _ => narrow

/-- SRC_LEAF of an entry; a default counts as 0xFFFF. -/
def ruleSource (img : Bytes) (e : Option Nat) : Nat := match e with | some e => fieldAt img (4372 + 288 * e) 2 | none => 0xFFFF

/-- What the reference lane finds for one list entry: binary32 leaf per output, whether it is flipped, the ANL cycles that it takes. -/
structure RefEntry where
  leaves : List Nat
  flipped : Bool
  cycles : Nat

/-- The reference contribution of a list entry (R253, R254, R276); none where its image in stacked memory returns an uncorrected error:
`errs` are such images, each a store (0 trees, 1 groups) and slot. A slot that is BAD in its store or bank still has that image. -/
def PlaneUnit.refEntry (u : PlaneUnit) (fs : List Feature) (errs : List (Nat × Nat)) (t : TreeRef) (v : FeatVec) : Option RefEntry :=
  let s := slotIn (if t.rule then u.groups else u.trees) t.slot
  if s.phase = 0 ∨ (bit t.rule, t.slot) ∈ errs then none
  else if t.rule then
    let img := s.bytes
    let ref := ruleMatch img (ruleKeyOf (refField fs img v))
    let narrow := ruleMatch img (ruleKey fs img (vectorCodeBytes v.record))
    let at_ (o : Nat) : Nat := match ref with | some e => fieldAt img (4356 + 288 * e + 4 * o) 4 | none => fieldAt img (12 + 4 * o) 4
    some { leaves := (List.range 4).map at_, flipped := ruleSource img ref != ruleSource img narrow,
           cycles := 8 + ceilDiv ((ref.map (· + 1)).getD (groupCount img)) 32 }
  else
    let l := refLeafIndex fs s.bytes s.refs v
    some { leaves := (List.range 4).map (fun o => fieldAt s.refs (2048 + 16 * l + 4 * o) 4),
           flipped := l != leafIndex fs s.bytes (vectorCodeBytes v.record), cycles := 8 }

/-- Where the audit of one pair stands: cycles left, reference scores by output, trees audited, flipped and skipped. -/
structure AuditRun where
  left : Nat
  scores : List Nat
  trees : Nat := 0
  flips : Nat := 0
  skipped : Nat := 0

/-- The audit of one pair takes one list entry (R253, R254). -/
def AuditRun.take (a : AuditRun) (t : TreeRef) : Option RefEntry → AuditRun
  | none => { a with left := a.left - 8, skipped := a.skipped + 1 }
  | some r =>
    if a.left < r.cycles then { a with left := 0, skipped := a.skipped + 1 }
    else { a with left := a.left - r.cycles, trees := a.trees + 1, flips := a.flips + bit r.flipped,
                  scores := (a.scores.zip r.leaves).map (fun p => f32Add p.1 (f32Mul p.2 (f32OfInt (2 ^ t.shift)))) }

/-- The reference verdict of the scores (R253). -/
def Ensemble.refVerdict (e : Ensemble) (scores : List Nat) : Nat :=
  let v := scores.getD e.primary 0
  if f32Le (f32Scale e.alarm e.scale) v then 2 else if f32Le (f32Scale e.watch e.scale) v then 1 else 0

/-- Audit one pair of vector and ensemble with the cycles that are left; the cycles that are left after it. -/
def Block.auditPair (b : Block) (c w : Nat) (fs : List Feature) (e : Ensemble) (ens left : Nat) (errs : List (Nat × Nat))
    (v : FeatVec) : Nat × Block :=
  let u := b.tray.plane
  let start : AuditRun := { left := left, scores := (List.range 4).map (fun o => f32Scale (e.bias.getD o 0) e.scale) }
  let a := e.trees.foldl (fun a t => a.take t (u.refEntry fs errs t v)) start
  let short := decide (0 < a.skipped)
  let m : AuditMark := { rank := v.rank, late := v.late, ens := ens, short := short, flip := false,
                         ref := if short then none else some (e.refVerdict a.scores) }
  let b := (b.modWin c w (fun p => { p with audits := p.audits ++ [m], trees := p.trees + a.trees, treeFlips := p.treeFlips + a.flips })).settleFlip
    c w v.rank v.late ens
  let b := if short then (b.count Reg.ENS_AUDIT_SKIP a.skipped).flag Reg.ENS_STS 2 else b
  (a.left, (b.count Reg.FTZ_AUDITED a.trees).count Reg.FTZ_TREE_FLIPS a.flips)

/-- The reference and group images of an ensemble that lie in a failed stack (R490), as `refEntry` names them. -/
def Block.failedRefs (b : Block) (e : Ensemble) : List (Nat × Nat) :=
  (e.trees.filter (fun t => b.hitsFailed (if t.rule then 4 else 3) t.slot)).map (fun t => (bit t.rule, t.slot))

/-- Audit an ensemble in a window with the cycles of its audit slots (R254): pairs in the order of R250. A slot whose image lies in a failed
stack becomes BAD (R490). -/
def Block.auditEnsemble (b : Block) (c w ens cycles : Nat) (errs : List (Nat × Nat)) : Block :=
  match b.ensembleOf c ens with
  | none => b
  | some (fs, e) =>
    let vs := (b.win c w).vectors.filter FeatVec.audited
    let failed := b.failedRefs e
    let errs := errs ++ failed
    let b := b.forEach (if vs.isEmpty then [] else failed) (fun b r => b.useSlot (3 + r.1) r.2)
    let b := b.modWin c w (fun p => { p with auditUsed := sput (fun _ => 0) p.auditUsed ens 1 })
    (vs.foldl (fun (a : Nat × Block) v => a.2.auditPair c w fs e ens a.1 errs v) (cycles, b)).2

/-- The ensembles of binding `i` that a schedule audits. -/
def auditedEnsembles (img : Bytes) (i : Nat) : List Nat :=
  ((List.range (schedSteps img)).map (fun s =>
    let e := schedStep img s
    if stepKind e = 4 then ((batchPairs img (stepArg e 6 2)).filter (fun p => p.1 == i)).map Prod.snd else [])).flatten

/-- AUDIT for one context and ensemble in reference lane `lane` (R253, R254): the window's first such row takes every audited pair that
the plan's audit slots hold, each slot 8 cycles. A failed lane skips them all (R261). -/
def Block.auditStep (b : Block) (sched : Bytes) (c w ens lane : Nat) (errs : List (Nat × Nat)) : Block :=
  let (quad, slots) := planAudit (b.ctxPlan c) ens
  if quad ≠ lane ∨ sget (fun _ => 0) (b.win c w).auditUsed ens = 1 then b
  else
    let b := b.auditEnsemble c w ens (if b.isSet (Reg.ENS_LANE_STS + 4 * lane) 29 then 0 else 8 * slots) errs
    let used := (b.win c w).auditUsed
    if (auditedEnsembles sched ((b.ctx c).bind.getD 0)).all (fun e => sget (fun _ => 0) used e == 1) then
      (b.modWin c w (fun p => { p with auditReady := true })).auditSettled c w
    else b

/-- DIGEST for one context and ensemble (R251). -/
def Block.digestStep (b : Block) (c w ens : Nat) : Block :=
  match b.ensembleOf c ens with
  | none => b
  | some (_, e) =>
    if bitOf e.flags 0 ∧ b.passFld c w Reg.ENS_CTL 1 1 = 1 then
      let p := b.win c w
      let vecOf (v : Verdict) : Bytes := ((p.vectors.find? (fun x => x.rank == v.rank && x.late == v.late)).map FeatVec.record).getD []
      let wants (v : Verdict) : Bool := v.ens == ens && v.code != 3 && v.digest.isNone
      let dig (v : Verdict) : Bytes := digest16 (e.digest ++ (b.ctx c).plan ++ vecOf v)
      let b := b.modWin c w (fun p => { p with verdicts := p.verdicts.map (fun v => if wants v then { v with digest := some (dig v) } else v) })
      b.count Reg.ENS_DIGESTS (p.verdicts.filter wants).length
    else b

/-! ### Verdict records (R250) -/

/-- Set bits of a number, over `n` bits. -/
def popCount (n v : Nat) : Nat := (List.range n).foldl (fun a i => a + bit (bitOf v i)) 0

/-- The verdict record of a verdict, its vector and its audit (R250). -/
def verdictRecord (fs : List Feature) (r : Verdict) (v : FeatVec) (mark : Option AuditMark) : Bytes :=
  let codes := vectorCodeBytes v.record
  let missing := (fs.filter (fun f => (codeOf fs codes f.slot (f.width == 2)).2)).length
  let clamps := popCount 512 (fieldAt v.record 144 64)
  let audit : Nat := match mark with | some m => bit m.short * 8 + bit m.flip * 16 | none => 0
  leBytes 4 r.rank ++ slice v.record 4 5 ++ leBytes 1 r.ens ++ leBytes 1 r.code ++
    leBytes 1 (byteAt v.record 9 % 8 + audit + bit r.digest.isSome * 32) ++
    ((List.range 4).map (fun o => leSigned 3 (r.acc.getD o 0))).flatten ++ leBytes 1 r.satMask ++ leBytes 1 r.cause ++
    slice v.record 10 2 ++ leBytes 2 missing ++ leBytes 2 clamps ++ (r.digest.getD (zeros 16))

/-- The verdict records of a window, vectors in their order and ensembles ascending within each (R250). -/
def PassWin.verdictRecords (p : PassWin) (fs : List Feature) : List Bytes :=
  (p.vectors.map (fun v =>
    let rs := (p.verdicts.filter (fun r => r.rank == v.rank && r.late == v.late)).mergeSort (fun x y => decide (x.ens ≤ y.ens))
    rs.map (fun r => verdictRecord fs r v (p.audits.find? (fun m => m.rank == r.rank && m.late == r.late && m.ens == r.ens))))).flatten

end Sys2Proof.Machine
end

