-- ==== Sys2Proof/Machine/History.lean ====
section
/-! DEFINITION. The erasure code at work (R352 to R361): staging and stripes at an assembler, parity at its holders, degraded reads,
lost members and replacements; uncorrected memory errors (R344). -/

namespace Sys2Proof.Machine

/-- What the degraded reads of a replacement give it, by class, member index and incarnation number: sealed segments and parity (R361, log 59). -/
opaque Config.rebuiltBy : Nat → Nat → Nat → List Segment × List Parity

/-! ### Class 5 frames (R354) -/

/-- The HTYPE values of R354; every other value is reserved (R11). -/
def knownHtype (h : Nat) : Bool := decide (0x0501 ≤ h) && decide (h ≤ 0x0507)

/-- Receive a class 5 frame and act on its records of one HTYPE, in their order. Its sender has been heard (R356). -/
def Block.receiveHistory (b : Block) (link : Nat) (raw : Bytes) (htype : Nat) (act : Block → Frame → Bytes → Block) : Block :=
  match b.rx link raw with
  | (none, b) => b
  | (some f, b) =>
    if f.cls ≠ 5 then b
    else
      let b := b.hearPeer f.srcDa
      (controlRecords 512 f.payload).foldl (fun b r =>
        if ctypeOf r = htype then act b f r
        else if knownHtype (ctypeOf r) then b else b.recordBad) b

/-- The member of a group in use that a share frame comes from; frames of a LOST member are ignored (R356). -/
def Block.shareFrom (b : Block) (cls da : Nat) : Option Nat :=
  if !b.groupOn cls || decide (2 < cls) then none
  else (List.range (groupSize cls)).find? (fun m => (b.peerOf cls m).da == da && (b.peerOf cls m).phase != 1 && m != b.groupIndex cls)

/-- Act on a share record of a member that is not LOST: the act is given the class and the sender's index. -/
def Block.fromMember (b : Block) (f : Frame) (r : Bytes) (act : Block → Nat → Nat → Block) : Block :=
  let cls := byteAt r 8
  match b.shareFrom cls f.srcDa with
  | some m => act b cls m
  | none => b

/-- The length of the pieces that came of a record that share frames carry in pieces. -/
def piecesLen (p : Sparse Bytes) : Nat := p.foldl (fun a e => a + e.2.length) 0

/-- The bytes of pieces that are all there: they lie by offset. -/
def piecesBytes (p : Sparse Bytes) : Bytes := (p.map Prod.snd).flatten

/-! ### The assembler (R352) -/

/-- A staged segment is whole. -/
def Staged.whole (x : Staged) : Bool := decide (x.len ≤ piecesLen x.pieces)

/-- The staged segments that a stripe of a class would take: of each member the oldest whole one, by ascending member index. -/
def HistoryUnit.ready (h : HistoryUnit) (cls : Nat) : List Staged :=
  ((List.range 16).map (fun m => ((h.staging.filter (fun x => x.cls == cls && x.origin == m && x.whole)).take 1))).flatten

/-- The bytes of parity that a share region holds: the share ring keeps class 0, the share store classes 1 and 2 (log 28). -/
def shareRegion (cls : Nat) : Nat := if cls = 0 then 5 else 6

/-- The size of the region that keeps the parity of a class (R343). -/
def shareSize (cls : Nat) : Nat := if cls = 0 then 240 * 2 ^ 30 else 84 * 2 ^ 30

/-- The eight members that may contribute to a stripe of an assembler (R352). -/
def contributors (cls a : Nat) : List Nat := (List.range 8).map (fun i => (a + groupSize cls - 8 + i) % groupSize cls)

/-- The contributors of the stripe of a parity column: those of its stripe record, and all that R352 admits there while this block has none. -/
def Block.parityMembers (b : Block) (x : Parity) : List Nat :=
  match b.tray.history.stripes.find? (fun s => s.cls == x.cls && s.number == x.number && x.assembler == b.groupIndex x.cls), x.members with
  | some s, _ => s.members.filter (· != 0xFF)
  | none, some ms => ms
  | none, none => contributors x.cls x.assembler

/-- Drop a parity column, and with column 0 its stripe record. -/
def Block.dropParity (b : Block) (x : Parity) : Block :=
  let keep (y : Parity) : Bool := !(y.cls == x.cls && y.assembler == x.assembler && y.number == x.number)
  let stripes := if x.j = 0 then b.tray.history.stripes.filter (fun s => !(s.cls == x.cls && s.number == x.number)) else b.tray.history.stripes
  b.modHist (fun h => { h with parity := h.parity.filter keep, stripes := stripes })

/-- Room for a parity column: the oldest columns of its region go, and their contributors learn it (R353). The list bounds the work. -/
def Block.parityRoom (b : Block) (cls need : Nat) : List Parity → Block
  | [] => b
  | x :: xs =>
    let used := (b.tray.history.parity.filter (fun y => shareRegion y.cls == shareRegion cls)).foldl (fun a y => a + y.len) 0
    if used + need ≤ shareSize cls then b
    else
      let b := b.forEach (b.parityMembers x) (fun b m => b.sendHistory x.cls m 0x0505
        (leBytes 1 x.cls ++ leBytes 1 2 ++ leBytes 1 x.assembler ++ zeros 1 ++ leBytes 4 x.number))
      ((b.dropParity x).count Reg.HIS_PARITY_EVICT 1).parityRoom cls need xs

/-- Store a parity column, the oldest first in the list. -/
def Block.addParity (b : Block) (x : Parity) : Block :=
  let b := b.parityRoom x.cls x.len (b.tray.history.parity.filter (fun y => shareRegion y.cls == shareRegion x.cls))
  b.modHist (fun h => { h with parity := h.parity ++ [x] })

/-- Close a stripe of a class over staged segments (R352): at most eight, in ascending member index. -/
def Block.closeStripe (b : Block) (cls : Nat) : Block :=
  let xs := (b.tray.history.ready cls).take 8
  let me := b.groupIndex cls
  let fill := List.replicate (8 - xs.length) 0
  let data := xs.map (fun x => piecesBytes x.pieces) ++ fill.map (fun _ => ([] : Bytes))
  let num := sget (fun _ => 0) b.tray.history.nextStripe cls
  let stripe : Stripe := { cls := cls, number := num, members := xs.map Staged.origin ++ fill.map (fun _ => 0xFF),
                           ns := xs.map Staged.n ++ fill }
  let b := b.modHist (fun h => { h with staging := h.staging.filter (fun x => !(x ∈ xs)), stripes := h.stripes ++ [stripe],
                                        nextStripe := sput (fun _ => 0) h.nextStripe cls ((num + 1) % 2 ^ 32) })
  let b := b.count Reg.HIS_STRIPES 1
  let b := if xs.length < 8 then b.count Reg.HIS_SHORT 1 else b
  let p0 := parityColumn 0 data
  let b := b.addParity { cls := cls, j := 0, assembler := me, number := num, len := p0.length, pieces := [(0, p0)] }
  b.forEach ((List.range (groupParity cls)).drop 1) (fun b j =>
    b.sendPieces cls ((me + j) % groupSize cls) 0x0502 (leBytes 1 cls ++ leBytes 1 j ++ leBytes 1 me ++ zeros 1 ++ leBytes 4 num)
      (parityColumn j data))

/-- The size of the staging region (R343). -/
def stagingSize : Nat := 16 * 2 ^ 30

/-- A parity holder of the stripes that this block assembles is LOST: every such stripe is abandoned (R353). -/
def Block.holderLost (b : Block) (cls : Nat) : Bool :=
  (List.range (groupParity cls)).any (fun j => (b.peerOf cls ((b.groupIndex cls + j) % groupSize cls)).phase == 1)

/-- A SHARE_DATA record: one piece of a peer's segment is staged, and a stripe that has eight members closes. A segment that finds the staging
region full is not staged (DESIGN CHOICE, log 28), and none is for a stripe that is abandoned (R353). -/
def Block.shareData (b : Block) (f : Frame) (r : Bytes) : Block :=
  b.fromMember f r (fun b cls m =>
    let n := fieldAt r 12 4
    let len := fieldAt r 20 4
    let is (x : Staged) : Bool := x.cls == cls && x.origin == m && x.n == n
    let old := (b.tray.history.staging.find? is).getD { cls := cls, origin := m, n := n, len := len, came := b.ft }
    let x := { old with pieces := sput (fun _ => []) old.pieces (fieldAt r 16 4) (r.drop 24), came := b.ft }
    let staging := b.tray.history.staging
    let held := staging.foldl (fun a y => a + y.len) 0
    if b.holderLost cls ∨ (!staging.any is ∧ stagingSize < held + len) then b else
    let staging := if staging.any is then staging.map (fun y => if is y then x else y) else staging ++ [x]
    let b := b.modHist (fun h => { h with staging := staging })
    if 8 ≤ (b.tray.history.ready cls).length then b.closeStripe cls else b)

/-- SHARE_DATA_RECEIVE (R352). -/
def execShareDataReceive (port : Fin 8) (link : Fin 64) (frame : Bytes) (s : State) : Host.Outcome State Fault Refusal :=
  let _ := port
  onTray (fun b => b.receiveHistory link frame 0x0501 Block.shareData) s

/-- The stripe hold in ticks (R363). -/
def Block.ecHold (b : Block) : Nat := max 1 (b.fld Reg.HIS_EC_HOLD 15 0) * ticksPerUs

/-- STRIPE_HOLD_EXPIRE (R352): HOLD µs have passed since the oldest staged segment of a class arrived. -/
def execStripeHoldExpire (cls : Fin 3) (s : State) : Host.Outcome State Fault Refusal :=
  onTray (fun b => b.when ((b.tray.history.ready cls).any (fun x => ftGe b.ft (ftAdd x.came b.ecHold)))
    (fun b => b.closeStripe cls)) s

/-! ### Parity holders and acknowledgements (R353) -/

/-- A SHARE_PARITY record: one piece of a parity column is stored, and a whole column is acknowledged to the assembler. -/
def Block.shareParity (b : Block) (f : Frame) (r : Bytes) : Block :=
  b.fromMember f r (fun b cls _ =>
    let j := byteAt r 9
    let a := byteAt r 10
    let num := fieldAt r 12 4
    let is (x : Parity) : Bool := x.cls == cls && x.assembler == a && x.number == num && x.j == j
    let b := if b.tray.history.parity.any is then b
      else b.addParity { cls := cls, j := j, assembler := a, number := num, len := fieldAt r 20 4 }
    let b := b.modHist (fun h => { h with parity := h.parity.map (fun x =>
      if is x then { x with pieces := sput (fun _ => []) x.pieces (fieldAt r 16 4) (r.drop 24) } else x) })
    if b.tray.history.parity.any (fun x => is x && decide (x.len ≤ piecesLen x.pieces))
    then b.sendHistory cls a 0x0503 (leBytes 1 cls ++ leBytes 1 (b.groupIndex cls) ++ leBytes 1 a ++ zeros 1 ++ leBytes 4 num)
    else b)

/-- SHARE_PARITY_RECEIVE (R354). -/
def execShareParityReceive (port : Fin 8) (link : Fin 64) (frame : Bytes) (s : State) : Host.Outcome State Fault Refusal :=
  let _ := port
  onTray (fun b => b.receiveHistory link frame 0x0502 Block.shareParity) s

/-- The STRIPE record of a stripe (R354). -/
def Block.stripeBody (b : Block) (x : Stripe) : Bytes :=
  leBytes 1 x.cls ++ leBytes 1 (b.groupIndex x.cls) ++ zeros 2 ++ leBytes 4 x.number ++ (x.members.map (leBytes 1)).flatten ++
    (x.ns.map (leBytes 4)).flatten

/-- A SHARE_ACK record: once every other parity holder has acknowledged, the stripe record goes to every contributor, and to those holders, which
learn from it the columns without a contributor (R353; DEDUCED, log 28). -/
def Block.shareAck (b : Block) (f : Frame) (r : Bytes) : Block :=
  b.fromMember f r (fun b cls m =>
    let me := b.groupIndex cls
    match b.tray.history.stripes.find? (fun x => x.cls == cls && x.number == fieldAt r 12 4 && byteAt r 10 == me) with
    | none => b
    | some x =>
      let acks := if m ∈ x.acks then x.acks else x.acks ++ [m]
      let done := !x.coded && ((List.range (groupParity cls)).drop 1).all (fun j => decide ((me + j) % groupSize cls ∈ acks))
      let b := b.modHist (fun h => { h with stripes := h.stripes.map (fun y =>
        if y = x then { y with acks := acks, coded := y.coded || done } else y) })
      let told := x.members.filter (· != 0xFF) ++ ((List.range (groupParity cls)).drop 1).map (fun j => (me + j) % groupSize cls)
      if done then b.forEach told (fun b c => b.sendHistory cls c 0x0504 (b.stripeBody x)) else b)

/-- SHARE_ACK_RECEIVE (R353). -/
def execShareAckReceive (port : Fin 8) (link : Fin 64) (frame : Bytes) (s : State) : Host.Outcome State Fault Refusal :=
  let _ := port
  onTray (fun b => b.receiveHistory link frame 0x0503 Block.shareAck) s

/-! ### Contributors (R353) -/

/-- A STRIPE record: a parity holder learns the contributors, and this member's segment in it becomes CODED. -/
def Block.stripeRecord (b : Block) (f : Frame) (r : Bytes) : Block :=
  b.fromMember f r (fun b cls _ =>
    let me := b.groupIndex cls
    let cols := (List.range 8).map (fun i => byteAt r (16 + i))
    let ns := (List.range 8).map (fun i => fieldAt r (24 + 4 * i) 4)
    let holds (x : Parity) : Bool := x.cls == cls && x.assembler == byteAt r 9 && x.number == fieldAt r 12 4
    let b := b.modHist (fun h => { h with parity := h.parity.map (fun x =>
      if holds x then { x with members := some (cols.filter (· != 0xFF)) } else x) })
    match indexOf? (· == me) cols 0 with
    | none => b
    | some i =>
      let mine (g : Segment) : Bool := g.cls == cls && g.n == some (fieldAt r (24 + 4 * i) 4) && !g.coded && g.stripe.isNone
      match b.tray.history.segs.find? mine with
      | none => b
      | some g => (b.modSegment g.id (fun g => { g with stripe := some (byteAt r 9, fieldAt r 12 4), columns := cols, ns := ns, coded := true })).count
          Reg.HIS_SEG_CODED 1)

/-- STRIPE_RECEIVE (R353). -/
def execStripeReceive (port : Fin 8) (link : Fin 64) (frame : Bytes) (s : State) : Host.Outcome State Fault Refusal :=
  let _ := port
  onTray (fun b => b.receiveHistory link frame 0x0504 Block.stripeRecord) s

/-- A RELEASE record: a contributor has reused its segment; the parity goes once every column is released. -/
def Block.releaseRecord (b : Block) (f : Frame) (r : Bytes) : Block :=
  b.fromMember f r (fun b cls m =>
    match b.tray.history.parity.find? (fun x => x.cls == cls && x.assembler == byteAt r 10 && x.number == fieldAt r 12 4), byteAt r 9 with
    | some x, 1 =>
      let x' := { x with released := if m ∈ x.released then x.released else x.released ++ [m] }
      let b := b.modHist (fun h => { h with parity := h.parity.map (fun y => if y = x then x' else y) })
      if (b.parityMembers x).all (fun c => decide (c ∈ x'.released)) then b.dropParity x else b
    | _, _ => b)

/-- RELEASE_RECEIVE (R353). -/
def execReleaseReceive (port : Fin 8) (link : Fin 64) (frame : Bytes) (s : State) : Host.Outcome State Fault Refusal :=
  let _ := port
  onTray (fun b => b.receiveHistory link frame 0x0505 Block.releaseRecord) s

/-- A NOT_CODED record: the parity of this member's segment is gone. -/
def Block.notCodedRecord (b : Block) (f : Frame) (r : Bytes) : Block :=
  b.fromMember f r (fun b cls _ =>
    if byteAt r 9 ≠ 2 then b
    else b.modHist (fun h => { h with segs := h.segs.map (fun g =>
      if g.cls = cls ∧ g.stripe = some (byteAt r 10, fieldAt r 12 4) then { g with stripe := none, columns := [], coded := false } else g) }))

/-- NOT_CODED_RECEIVE (R353). -/
def execNotCodedReceive (port : Fin 8) (link : Fin 64) (frame : Bytes) (s : State) : Host.Outcome State Fault Refusal :=
  let _ := port
  onTray (fun b => b.receiveHistory link frame 0x0505 Block.notCodedRecord) s

/-! ### Degraded reads (R344, R358) -/

/-- The bytes that this block holds of a column of a stripe: its own segment, a column of a LOST member that it has rebuilt (R359), or a parity
column. -/
def Block.columnBytes (b : Block) (cls a num col : Nat) : Option Bytes :=
  let h := b.tray.history
  let mine (g : Segment) : Bool := g.cls == cls && g.stripe == some (a, num) && g.columns.getD col 0xFF == b.groupIndex cls && !g.faulted && !g.lost
  let rebuilt (x : Rebuilt) : Bool := x.cls == cls && x.assembler == a && x.number == num && x.column == col
  if col < 8 then
    match h.segs.find? mine with
    | some g => some g.data
    | none => (h.content.find? rebuilt).map Rebuilt.bytes
  else (b.tray.history.parity.find? (fun x => x.cls == cls && x.assembler == a && x.number == num && x.j + 8 == col)).map
    (fun x => piecesBytes x.pieces)

/-- The fields of a READ_REQ or READ_RESP up to the offset (R354). -/
def readHead (cls lost a col num : Nat) : Bytes := leBytes 1 cls ++ leBytes 1 lost ++ leBytes 1 a ++ leBytes 1 col ++ leBytes 4 num

/-- A READ_REQ record: the bytes of the column, padded with zeros, in pieces (R351). A column that this block does not hold gets no
answer. -/
def Block.readReq (b : Block) (f : Frame) (r : Bytes) : Block :=
  b.fromMember f r (fun b cls m =>
    let (lost, a, col, num, off, len) := (byteAt r 9, byteAt r 10, byteAt r 11, fieldAt r 12 4, fieldAt r 16 4, fieldAt r 20 4)
    match b.columnBytes cls a num col with
    | none => b
    | some bs =>
      let d := slice bs off len
      let d := d ++ zeros (min len segmentSize - d.length)
      b.forEach (List.range (max 1 (ceilDiv d.length 4000))) (fun b i =>
        let piece := slice d (4000 * i) 4000
        b.sendHistory cls m 0x0507 (readHead cls lost a col num ++ leBytes 4 (off + 4000 * i) ++ leBytes 4 piece.length ++ piece)))

/-- READ_REQ_RECEIVE (R358). -/
def execReadReqReceive (port : Fin 8) (link : Fin 64) (frame : Bytes) (s : State) : Host.Outcome State Fault Refusal :=
  let _ := port
  onTray (fun b => b.receiveHistory link frame 0x0506 Block.readReq) s

/-- Write a segment's bytes back: each record takes its part of them. -/
def rewriteRecs (region : Nat) : List HistRec → Bytes → List HistRec
  | [], _ => []
  | r :: rs, d => { r with bytes := slice d (if region = 0 then 0 else 32) r.bytes.length } :: rewriteRecs region rs (d.drop (r.span region))

/-- The pieces of one column of a degraded read. -/
def DegradedRead.piecesOf (x : DegradedRead) (col : Nat) : Sparse Bytes :=
  x.got.filter (fun e => decide (col * 2 ^ 32 ≤ e.1) && decide (e.1 < (col + 1) * 2 ^ 32))

/-- The size of the rebuild region (R343). -/
def rebuildSize : Nat := 80 * 2 ^ 30

/-- A column of a LOST member enters the rebuild region, where it holds it (R343, R359). -/
def Block.keepRebuilt (b : Block) (x : DegradedRead) (d : Bytes) : Block :=
  let h := b.tray.history
  if rebuildSize < h.content.foldl (fun a y => a + y.bytes.length) 0 + d.length then b
  else b.modHist (fun h => { h with content := h.content ++
    [{ cls := x.cls, member := x.member, assembler := x.assembler, number := x.number, column := x.column, n := x.n, bytes := d }] })

/-- A degraded read whose eight columns are there decodes its column (R358): the repaired segment is written back (R344), or a column of a LOST
member enters the rebuild region. -/
def Block.endRead (b : Block) (x : DegradedRead) : Block :=
  if !x.asked.all (fun c => decide (x.len ≤ piecesLen (x.piecesOf c))) then b
  else
    let cols := (x.empty.map (fun c => (c, zeros x.len)) ++ x.asked.map (fun c => (c, piecesBytes (x.piecesOf c))))
    let d := (gfDecode x.len cols).getD x.column []
    let b := b.modHist (fun h => { h with reads := h.reads.filter (fun y => y != x) })
    match x.segment with
    | none => b.keepRebuilt x d
    | some id => (b.modSegment id (fun g => { g with recs := rewriteRecs g.region g.recs (d.drop (if g.region = 0 then 64 else 0)) })).count Reg.HIS_UE_FIXED 1

/-- A READ_RESP record: a piece of a column that a degraded read asked for. -/
def Block.readResp (b : Block) (f : Frame) (r : Bytes) : Block :=
  b.fromMember f r (fun b cls _ =>
    let col := byteAt r 11
    match b.tray.history.reads.find? (fun x => x.cls == cls && x.assembler == byteAt r 10 && x.number == fieldAt r 12 4 &&
        x.member == byteAt r 9 && decide (col ∈ x.asked)) with
    | none => b
    | some x =>
      let x' := { x with got := sput (fun _ => []) x.got (col * 2 ^ 32 + fieldAt r 16 4) (r.drop 24) }
      (b.modHist (fun h => { h with reads := h.reads.map (fun y => if y = x then x' else y) })).endRead x')

/-- READ_RESP_RECEIVE (R358). -/
def execReadRespReceive (port : Fin 8) (link : Fin 64) (frame : Bytes) (s : State) : Host.Outcome State Fault Refusal :=
  let _ := port
  onTray (fun b => b.receiveHistory link frame 0x0507 Block.readResp) s

/-- The columns of a stripe other than one that survive, ascending, each with its member; none for a column without a contributor. -/
def Block.survivors (b : Block) (cls a : Nat) (cols : List Nat) (except : Nat) : List (Nat × Option Nat) :=
  let all := (List.range (8 + groupParity cls)).map (fun i =>
    if i < 8 then (i, if cols.getD i 0xFF = 0xFF then none else cols[i]?) else (i, some ((a + (i - 8)) % groupSize cls)))
  all.filter (fun e => e.1 != except && (match e.2 with | none => true | some m => (b.peerOf cls m).phase == 0))

/-- A degraded read of a column of a stripe (R358): 8 surviving columns are asked for, in ascending column order, parity after data; this block's
own is there at once. None where fewer survive or degraded reads are off. -/
def Block.startRead (b : Block) (cls m a num col n len : Nat) (cols : List Nat) (segment : Option Nat) : Option Block :=
  let me := b.groupIndex cls
  let xs := (b.survivors cls a cols col).take 8
  if xs.length = 8 ∧ b.isSet Reg.HIS_CTL 1 then
    let own := (xs.filter (fun e => e.2 == some me)).map Prod.fst
    let there (c : Nat) : Sparse Bytes := match b.columnBytes cls a num c with
      | some bs => [(c * 2 ^ 32, bs.take len ++ zeros (len - bs.length))]
      | none => []
    let x : DegradedRead := { cls := cls, member := m, assembler := a, number := num, column := col, n := n, len := len,
                              asked := (xs.filter (fun e => e.2.isSome)).map Prod.fst,
                              empty := (xs.filter (fun e => e.2.isNone)).map Prod.fst, got := (own.map there).flatten, columns := cols,
                              segment := segment }
    let b := (b.modHist (fun h => { h with reads := h.reads ++ [x] })).count Reg.HIS_DEGRADED_RD 1
    let b := b.forEach (xs.filter (fun e => e.2 != some me)) (fun b e => match e.2 with
      | none => b
      | some k => b.sendHistory cls k 0x0506 (readHead cls m a e.1 num ++ leBytes 4 0 ++ leBytes 4 len))
    some (b.endRead x)
  else none

/-- An uncorrected error in a segment (R344). -/
def Block.segmentError (b : Block) (g : Segment) : Block :=
  let me := b.groupIndex g.cls
  let b := b.flag Reg.HIS_STS 1
  match g.coded, g.stripe with
  | true, some (a, num) =>
    let col := (indexOf? (· == me) g.columns 0).getD 0
    match b.startRead g.cls me a num col (g.n.getD 0) g.size g.columns (some g.id) with
    | some b => b
    | none => ((b.modSegment g.id (fun g => { g with faulted := true })).count Reg.HIS_UE_LOST 1).flag Reg.HIS_STS 3
  | _, _ => (b.modSegment g.id (fun g => { g with faulted := true })).count Reg.HIS_UE_LOST 1

/-- A reader meets a segment: 1 MiB lies in every stack, so that with a failed one its read finds an uncorrected error (R343, R490; log 84). -/
def Block.useSegment (b : Block) (id : Nat) : Block :=
  match b.tray.history.segs.find? (fun g => g.id == id) with
  | some g =>
    if b.tray.stacksFailed = 0 ∨ g.faulted ∨ g.lost ∨ b.tray.history.reads.any (fun x => x.segment == some id) then b else b.segmentError g
  | none => b

/-- A reader meets the segment of a loaf. -/
def Block.useLoaf (b : Block) (port seq : Nat) : Block :=
  match b.tray.history.segs.find? (fun g => g.region == 0 && g.port == port && g.recs.any (fun r => r.seq == seq)) with
  | some g => b.useSegment g.id
  | none => b

/-- A reader meets the segments of a region. -/
def Block.useRegion (b : Block) (region : Nat) : Block :=
  b.forEach ((b.tray.history.segs.filter (fun g => g.region == region)).map Segment.id) Block.useSegment

/-- An uncorrected error in a segment that is not coded (R344): a peer's staged segment, a parity column, a column in the rebuild region, by its place
in the list of its region. What it held is gone. -/
def Block.shareError (b : Block) (place id : Nat) : Block :=
  let h := b.tray.history
  let b := b.flag Reg.HIS_STS 1
  match place with
  | 6 => if h.staging.length ≤ id then b else (b.modHist (fun h => { h with staging := h.staging.eraseIdx id })).count Reg.HIS_UE_LOST 1
  | 7 => if h.parity.length ≤ id then b else (b.modHist (fun h => { h with parity := h.parity.eraseIdx id })).count Reg.HIS_UE_LOST 1
  | _ => if h.content.length ≤ id then b else (b.modHist (fun h => { h with content := h.content.eraseIdx id })).count Reg.HIS_UE_LOST 1

/-- MEMORY_UE (R344): a read met an uncorrected memory error. `place` 0 is a segment of a protected region or the flight ring, by its
number; 1 to 5 the slots of the model store; 6 a staged segment, 7 a parity column, 8 a column in the rebuild region. -/
def execMemoryUe (place : Fin 9) (id : Nat) (s : State) : Host.Outcome State Fault Refusal :=
  onTray (fun b =>
    if place.val = 0 then
      match b.tray.history.segs.find? (fun g => g.id == id && !g.faulted) with
      | some g => b.segmentError g
      | none => b
    else if place.val ≤ 5 then b.storeError place id
    else b.shareError place id) s

/-! ### Lost members (R353, R356 to R360) -/

/-- The columns of a stripe whose members are LOST, this block's own aside. -/
def Block.lostColumns (b : Block) (cls a : Nat) (cols : List Nat) : Nat :=
  let ms := cols.filter (· != 0xFF) ++ (List.range (groupParity cls)).map (fun j => (a + j) % groupSize cls)
  (ms.filter (fun m => (b.peerOf cls m).phase == 1)).length

/-- A segment of this block under admission loses its assembler or a parity holder: the stripe is abandoned, and the segment is
admitted again (R353); while the ingest steward does not run it stays not CODED (R437). -/
def Block.readmit (b : Block) (cls m : Nat) : Block :=
  let me := b.groupIndex cls
  let hit (g : Segment) : Bool := g.cls == cls && !g.coded && (match g.n with
    | some n => (List.range (groupParity cls)).any (fun j => (me + 1 + n % 8 + j) % groupSize cls == m)
    | none => false)
  b.forEach (b.tray.history.segs.filter hit) (fun b g =>
    if b.stewardRuns 0 then b.admitSegment g
    else b.modSegment g.id (fun g => { g with n := none, stripe := none, columns := [], coded := false }))

/-- A degraded read that waits for a column of a member that is LOST now starts again over the columns that survive (R358). -/
def Block.redoReads (b : Block) (cls m : Nat) : Block :=
  let holder (x : DegradedRead) (c : Nat) : Nat :=
    if c < 8 then x.columns.getD c 0xFF else (x.assembler + (c - 8)) % groupSize cls
  b.forEach (b.tray.history.reads.filter (fun x => x.cls == cls && x.asked.any (fun c => holder x c == m))) (fun b x =>
    let b := b.modHist (fun h => { h with reads := h.reads.filter (fun y => y != x) })
    match b.tray.history.segs.find? (fun g => some g.id == x.segment) with
    | some g => b.segmentError g
    | none => (b.startRead cls x.member x.assembler x.number x.column x.n x.len x.columns none).getD b)

/-- A member is LOST, with its heir (R353, R356, R359, R360): stripes of this assembler that wait for it are abandoned, segments are
admitted again, and a stripe of this contributor that has lost more than p columns is lost. -/
def Block.markLost (b : Block) (cls m heir : Nat) : Block :=
  let me := b.groupIndex cls
  let b := b.modPeer cls m (fun p => { p with phase := 1, heir := heir, rejoin := false })
  let dead (x : Stripe) : Bool := x.cls == cls && !x.coded && (List.range (groupParity cls)).any (fun j => (me + j) % groupSize cls == m)
  let gone := b.tray.history.stripes.filter dead
  let orphan (y : Parity) : Bool := gone.any (fun x => x.cls == y.cls && x.number == y.number) && y.assembler == me && y.j == 0
  let b := b.modHist (fun h => { h with stripes := h.stripes.filter (fun x => !dead x), parity := h.parity.filter (fun y => !orphan y),
                                        staging := if b.holderLost cls then h.staging.filter (fun x => x.cls != cls) else h.staging })
  let b := (b.readmit cls m).redoReads cls m
  let lost := b.tray.history.segs.filter (fun g => g.cls == cls && g.coded && !g.lost &&
    (match g.stripe with | some (a, _) => decide (groupParity cls < b.lostColumns cls a g.columns) | none => false))
  if lost.isEmpty then b
  else ((b.modHist (fun h => { h with segs := h.segs.map (fun g => if lost.any (fun x => x.id == g.id) then { g with lost := true } else g) })).count
    Reg.HIS_SEG_LOST lost.length).flag Reg.HIS_STS 3

/-- The heir of a member: the first after it, in cyclic order of index, that is not LOST (R356). -/
def Block.heirOf (b : Block) (cls m : Nat) : Nat :=
  ((List.range (groupSize cls)).map (fun i => (m + 1 + i) % groupSize cls)).find? (fun x => (b.peerOf cls x).phase != 1) |>.getD m

/-- The stripes with a column of a member that this block knows, as a contributor or as their assembler (R353, R354): assembler, number, members by
column, and the member's column and n. -/
def Block.knownStripes (b : Block) (cls m : Nat) : List (Nat × Nat × List Nat × Nat × Nat) :=
  let h := b.tray.history
  let me := b.groupIndex cls
  let mine := (h.segs.filter (fun g => g.cls == cls && g.coded)).filterMap (fun g => g.stripe.map (fun s => (s.1, s.2, g.columns, g.ns)))
  let made := (h.stripes.filter (fun x => x.cls == cls && x.coded)).map (fun x => (me, x.number, x.members, x.ns))
  ((mine ++ made).filterMap (fun s => (indexOf? (· == m) s.2.2.1 0).map (fun i => (s.1, s.2.1, s.2.2.1, i, s.2.2.2.getD i 0)))).eraseDups

/-- The heir of a member begins to rebuild (R359): it reads every column of the member that it knows by degraded reads, since a stripe record does not
say which of them hold the critical set (DEDUCED, log 59). -/
def Block.startRebuild (b : Block) (cls m : Nat) : Block :=
  let b := b.modHist (fun h => { h with heirOf := h.heirOf ++ [16 * cls + m], declared := sput (fun _ => 0) h.declared (16 * cls + m) b.time.cycles })
  b.forEach (b.knownStripes cls m) (fun b s => (b.startRead cls m s.1 s.2.1 s.2.2.2.1 s.2.2.2.2 segmentSize s.2.2.1 none).getD b)

/-- The reads of a rebuild have ended, and HIS_REBUILD_RATE has given the time that their bytes take: 8 GB/s are 20 bytes per TIM cycle (R358,
R359). -/
def Block.rebuildOver (b : Block) (key : Nat) : Bool :=
  let h := b.tray.history
  let bytes := (h.content.filter (fun x => 16 * x.cls + x.member == key)).foldl (fun a x => a + x.bytes.length) 0
  !h.reads.any (fun x => x.segment.isNone && 16 * x.cls + x.member == key) &&
    decide (bytes ≤ (b.time.cycles - sget (fun _ => 0) h.declared key) * 20 * max 1 (b.fld Reg.HIS_REBUILD_RATE 7 0))

/-- The heir declares a loss (R356, R357, R359), and rebuilds for each LOST member whose heir it now is. -/
def Block.declareLoss (b : Block) (cls m : Nat) : Block :=
  let me := b.groupIndex cls
  let grp := b.fld (Reg.HIS_GRP + 4 * cls) 15 0
  let da := (b.peerOf cls m).da
  let b := b.markLost cls m me
  let body := leBytes 1 cls ++ leBytes 1 m ++ leBytes 1 me ++ zeros 1 ++ leBytes 2 grp ++ zeros 2 ++ leBytes 8 b.ft.toNat
  let told := (List.range (groupSize cls)).filter (fun x => x != me && (b.peerOf cls x).phase != 1)
  let b := b.forEach told (fun b x => b.sendControl none (.peer (b.peerOf cls x).da) 0x0B01 body)
  let b := (b.healthCrumb 0x1101 cls m da).pushNotice 0x1101 0 (leBytes 1 cls ++ leBytes 1 m ++ zeros 2 ++ leBytes 4 da ++ leBytes 2 grp)
  let b := b.flag Reg.HIS_STS 2
  let heirless (k : Nat) : Bool := (b.peerOf cls k).phase == 1 && b.heirOf cls k == me && !decide (16 * cls + k ∈ b.tray.history.heirOf)
  if b.isSet Reg.HIS_CTL 1 then b.forEach ((List.range (groupSize cls)).filter heirless) (fun b k => b.startRebuild cls k) else b

/-- MEMBER_LOSS_DECLARE (R356): a member has been silent for the LOSS periods in force (R216), and this block is its heir. Steward 0 declares it
(R437). -/
def execMemberLossDeclare (cls : Fin 3) (m : Fin 16) (s : State) : Host.Outcome State Fault Refusal :=
  onTray (fun b =>
    let p := b.peerOf cls m
    b.when (b.groupOn cls && decide (m.val < groupSize cls) && m.val != b.groupIndex cls && p.phase != 1 &&
        decide (b.periods.loss ≤ p.missed) && b.stewardRuns 0 && b.heirOf cls m == b.groupIndex cls)
      (fun b => b.declareLoss cls m)) s

/-- A LOSS notice (R357): for a group in use of this block, from a member of it. -/
def Block.lossRecord (b : Block) (_f : Frame) (r : Bytes) : Block :=
  let cls := byteAt r 8
  let m := byteAt r 9
  if 2 < cls ∨ !b.groupOn cls ∨ groupSize cls ≤ m ∨ fieldAt r 12 2 ≠ b.fld (Reg.HIS_GRP + 4 * cls) 15 0 then b
  else if (b.peerOf cls m).phase = 1 then b.modPeer cls m (fun p => { p with heir := byteAt r 10 })
  else b.markLost cls m (byteAt r 10)

/-- LOSS_RECEIVE (R357). -/
def execLossReceive (port : Fin 8) (link : Fin 64) (frame : Bytes) (s : State) : Host.Outcome State Fault Refusal :=
  let _ := port
  onTray (fun b => b.receiveControl link frame 0x0B01 Block.lossRecord) s

/-- REBUILD_DONE (R359): step 2 of the heir ends for a member that it serves for, and it serves reads of what it has rebuilt, while steward 0 runs
(R437). -/
def execRebuildDone (cls : Fin 3) (m : Fin 16) (s : State) : Host.Outcome State Fault Refusal :=
  onTray (fun b =>
    let k := 16 * cls.val + m.val
    b.when (b.isSet Reg.HIS_CTL 1 && b.stewardRuns 0 && decide (k ∈ b.tray.history.heirOf) && !decide (k ∈ b.tray.history.rebuilt) && b.rebuildOver k)
      (fun b => (b.modHist (fun h => { h with rebuilt := h.rebuilt ++ [k] })).putBit Reg.HIS_STS 4 true)) s

/-! ### Rejoining (R356, R361) -/

/-- A write of HIS_GRP_CTL: the incarnation number is kept; REJOIN lets the selected member rejoin. With the number that the member
has, it is live once it is heard; with a new one it is a replacement, which rebuilds. This block's own index makes it the replacement. -/
def Block.writeRejoin (b : Block) (v : Word) : Block :=
  let b := b.setReg Reg.HIS_GRP_CTL (v &&& 0xFFFF)
  let cls := b.fld Reg.HIS_GRP_SEL 5 4
  let m := b.fld Reg.HIS_GRP_SEL 3 0
  let inc := v.toNat % 2 ^ 16
  if !v.getLsbD 31 || decide (2 < cls) || !b.groupOn cls || decide (groupSize cls ≤ m) then b
  else if m = b.groupIndex cls then
    if (b.peerOf cls m).incarn = inc then b.modPeer cls m (fun p => { p with phase := 0 })
    else (b.modPeer cls m (fun p => { p with phase := 2, incarn := inc })).putBit Reg.HIS_STS 5 true
  else if (b.peerOf cls m).phase ≠ 1 then b
  else if (b.peerOf cls m).incarn = inc then b.modPeer cls m (fun p => { p with rejoin := true })
  else b.modPeer cls m (fun p => { p with phase := 2, incarn := inc, missed := 0 })

/-- HIS_REJOIN_WRITE (R361). -/
def execHisRejoinWrite (v : Word) (s : State) : Host.Outcome State Fault Refusal := onTray (fun b => b.writeRejoin v) s

/-- A replacement has its ledger, replay log and checkpoints, and then the parity that it held, back (R361). No rule says how it learns the stripe
records of what it reads: what it has rebuilt is a free value (log 59). -/
def Block.installRebuilt (b : Block) (cls m : Nat) : Block :=
  let got := Config.rebuiltBy cls m (b.peerOf cls m).incarn
  let segs := got.1.filter (fun g => g.cls == cls && g.region != 0 && g.isSealed)
  let segs := (segs.zip (List.range segs.length)).map (fun g => { g.1 with id := b.tray.history.nextId + g.2 })
  b.modHist (fun h => { h with segs := segs ++ h.segs, nextId := h.nextId + segs.length, parity := got.2.filter (fun x => x.cls == cls) ++ h.parity })

/-- REPLACEMENT_REBUILD_DONE (R361): the rebuild of a replacement has ended, at the replacement itself or at a peer that served for
the index it took. -/
def execReplacementRebuildDone (cls : Fin 3) (m : Fin 16) (s : State) : Host.Outcome State Fault Refusal :=
  onTray (fun b =>
    b.when ((b.peerOf cls m).phase == 2) (fun b =>
      let b := if m.val = b.groupIndex cls then b.installRebuilt cls m else b
      let b := (b.modPeer cls m (fun p => { p with phase := 0 })).endService cls m
      let own := (List.range 3).any (fun c => b.groupOn c && (b.peerOf c (b.groupIndex c)).phase == 2)
      b.putBit Reg.HIS_STS 5 own)) s

end Sys2Proof.Machine
end

