-- ==== Sys2Proof/Machine/Rows.lean ====
section
/-! DEFINITION. Rows of the schedule in force (R320 to R325): which entry a command runs, when its row has started. -/

namespace Sys2Proof.Machine

/-- The plane runs rows: enabled, not halted, in P0 (R316, R342, R451). -/
def Block.planeRuns (b : Block) : Bool := b.isSet Reg.PLN_CTL 0 && !b.isSet Reg.PLN_STS 4 && b.power.phase == 0

/-- The row is the one that runs now, and its column has not run yet (R325). -/
def PlaneUnit.rowRuns (u : PlaneUnit) (period row col : Nat) : Bool := u.period == period && u.row == row && !(col ∈ u.ran)

/-- The schedule and the argument of the entry of a row and column, where it is an entry of OP `op` and its row runs now. -/
def Block.entryDue (b : Block) (row col op : Nat) : Option (Bytes × Nat) :=
  match b.schedule with
  | none => none
  | some img =>
    let (o, arg) := schedEntry img row col
    let p := periodOf b.ft
    if b.planeRuns && o == op && b.tray.plane.rowRuns p row col then some (img, arg) else none

/-- A column of the row that runs has run. -/
def Block.enterRow (b : Block) (col : Nat) : Block := b.modPlane (fun u => { u with ran := u.ran ++ [col] })

/-- Run what a command commands in an entry that is due. -/
def Block.onEntry (b : Block) (row col op : Nat) (f : Block → Bytes → Nat → Block) : Block :=
  match b.entryDue row col op with
  | none => b
  | some (img, arg) => f (b.enterRow col) img arg

/-! ### Rows that a period leaves behind (R325) -/

/-- The STEP entries of the rows `first` to 6,398. Row 6,399 ends with the period. -/
def rowsLeft (img : Bytes) (first : Nat) : Nat :=
  ((List.range 6399).filter (fun r => decide (first ≤ r))).foldl (fun a r =>
    a + ((List.range 32).filter (fun j => (schedEntry img r j).1 == 2)).length) 0

/-- The STEP entries of the row that runs which have not run; none once its 256 ANL cycles, 64 TIM cycles, are over. -/
def Block.rowOpen (b : Block) (img : Bytes) : Nat :=
  let u := b.tray.plane
  if u.rowCycle + 64 ≤ b.time.cycles then 0
  else ((List.range 32).filter (fun j => (schedEntry img u.row j).1 == 2 && !(j ∈ u.ran))).length

/-- The period that the block acted on last has ended, by its boundary or by a schedule switch there: the steps of its rows that have not
ended are abandoned (R325). Periods that a step of the time passed over ran no rows. -/
def Block.abandonRows (b : Block) : Block :=
  match b.schedule with
  | none => b
  | some img =>
    let u := b.tray.plane
    let last := b.switchMark
    let n := if !b.planeRuns ∨ last < u.since then 0 else rowsLeft img (u.row + 1) + b.rowOpen img
    if n = 0 then b
    else ((b.count Reg.PLN_ROWS_LOST n).flag Reg.PLN_STS 2).healthCrumb 0x1002 n (last % 2 ^ 32) 0

end Sys2Proof.Machine
end

