-- ==== Sys2Proof/Machine/Anvil.lean ====
section
/-! DEFINITION. The anvils (R283 to R292): decoding the packets of a loaf (R109 to R111), comparing them with a plan image, deviations,
coverage; the ingest ports that bring the loaves (R132, R348), the decompressors (R150, R151); stragglers (R294 to R296). -/

namespace Sys2Proof.Machine

/-! ### Packets of a loaf (R109 to R111) -/

/-- The bytes that a packet takes by its TYPE (R110); none for a reserved TYPE. -/
def packetLen (t : Nat) : Option Nat :=
  match t with
  | 0x01 => some 32 | 0x02 => some 24 | 0x10 => some 6 | 0x11 => some 10 | 0x12 => some 6 | 0x13 => some 8 | 0x14 => some 8
  | 0x20 => some 9 | 0x21 => some 9 | 0x22 => some 11 | 0x23 => some 11 | 0x28 => some 13 | 0x30 => some 8 | 0x31 => some 12
  | 0x40 => some 12 | 0x41 => some 12 | 0x42 => some 16 | 0x43 => some 36 | 0x44 => some 16 | 0x45 => some 16
  | _ => none

/-- The packets of a loaf with their offsets; whether a reserved or cut packet ended them (R109). -/
def loafPackets : Nat → Nat → Bytes → List (Nat × Bytes) × Bool
  | 0, _, _ => ([], false)
  | f + 1, off, bs =>
    if bs.isEmpty then ([], false)
    else match packetLen (byteAt bs 0) with
      | none => ([], true)
      | some n =>
        if bs.length < n then ([], true)
        else let (ps, e) := loafPackets f (off + n) (bs.drop n)
             ((off, bs.take n) :: ps, e)

/-- A die packet carries DIE in bit 7 of its second byte (R109). -/
def isDiePacket (p : Bytes) : Bool := bitOf (byteAt p 1) 7

/-- The region of a region packet. -/
def packetRegion (p : Bytes) : Nat := byteAt p 1 % 64

/-- The reference state of a region at the decoder (R111). -/
structure RefState where
  pc : Nat := 0
  a : Nat := 0
  d : Nat := 0
  n : Nat := 0
  fta : BitVec 64 := 0
  pca : Nat := 0

/-- DPC of a packet, 0 where it has none. -/
def packetDpc (p : Bytes) : Nat :=
  match byteAt p 0 with
  | 0x10 | 0x11 | 0x14 | 0x30 | 0x31 => fieldAt p 2 2
  | 0x20 | 0x21 | 0x22 | 0x23 | 0x28 => fieldAt p 3 2
  | _ => 0

/-- The plan cycle C of a packet: PC + DPC before its own update (R111); the plan cycle of a SYNC. -/
def RefState.cycle (r : RefState) (p : Bytes) : Nat := if byteAt p 0 = 1 then fieldAt p 4 6 else r.pc + packetDpc p

/-- P(C) (R111); `period` gives the PERIOD of an operating point. -/
def RefState.time (r : RefState) (period : Nat → Nat) (c : Nat) : BitVec 64 :=
  r.fta + BitVec.ofInt 64 (((c : Int) - r.pca) * period r.n / 2 ^ 20)

/-- The update of a packet (R111). -/
def RefState.take (r : RefState) (p : Bytes) : RefState :=
  let c := r.cycle p
  match byteAt p 0 with
  | 0x01 => { pc := c, a := fieldAt p 16 4, d := fieldAt p 10 6, n := byteAt p 2 / 16, fta := BitVec.ofNat 64 (fieldAt p 24 8), pca := c }
  | 0x10 => { r with a := (r.a + fieldAt p 4 2) % 2 ^ 32, pc := c }
  | 0x11 => { r with a := fieldAt p 6 4, pc := c }
  | 0x12 => { r with a := fieldAt p 2 4 }
  | 0x13 => { r with pc := fieldAt p 2 6 }
  | 0x14 => { r with fta := r.fta + BitVec.ofInt 64 (signed 32 (fieldAt p 4 4)), pca := c, pc := c }
  | 0x20 | 0x21 => { r with d := (BitVec.ofInt 48 (r.d + signed 32 (fieldAt p 5 4))).toNat, pc := c }
  | 0x22 | 0x23 => { r with d := fieldAt p 5 6, pc := c }
  | 0x28 | 0x30 | 0x31 => { r with pc := c }
  | _ => r

/-- The window of a loaf from its ANCHOR (R288): none where it has NO_WINDOW set or starts with no ANCHOR. -/
def anchorWindow (out : Bytes) : Option Nat :=
  if byteAt out 0 = 2 ∧ 24 ≤ out.length ∧ !bitOf (byteAt out 2) 1 then some (fieldAt out 16 5) else none

/-! ### The comparison rule (R284) -/

/-- What the anvil keeps of a region within a loaf (R284): anchored, waiting for a divert, ended, block, position, DUE. -/
structure Compare where
  anch : Bool := false
  wait : Bool := false
  ended : Bool := false
  blk : PlanBlock := ⟨0, 1, 0, 2, false, 0, [], 0, 0⟩
  pos : Nat := 0
  due : Int := 0

/-- A deviation before it becomes a record: class, EXPECTED, OBSERVED. -/
abbrev Dev := Nat × Nat × Nat

/-- EXPECTED and OBSERVED that are not plan cycles. -/
def noIndex : Nat := 0xFFFFFFFF

/-- A plan cycle as the unsigned number that a record carries. -/
def cycleBits (w : Nat) (c : Int) : Nat := (BitVec.ofInt w c).toNat

/-- Advance over `n` bundles of which the last is at cycle `c` (R284), with fuel for the blocks. -/
def Compare.advance (blocks : List PlanBlock) : Nat → Compare → Nat → Int → Compare × List Dev
  | 0, q, _, _ => (q, [])
  | f + 1, q, n, c =>
    let k := min n (q.blk.n - q.pos)
    let q := { q with pos := q.pos + k }
    let n := n - k
    if q.pos < q.blk.n then ({ q with due := c + 1 }, [])
    else
      let e := c - n
      let o := q.blk
      let t := o.targets.headD noTarget
      if o.exit = 0 ∧ (n = 0 ∨ (o.gap = 0 ∧ t = o.start + o.n)) then
        match blocks.find? (fun b => b.start == t) with
        | none => ({ q with anch := false }, [])
        | some b =>
          let q := { q with blk := b, pos := 0, due := e + o.gap + 1 }
          if n = 0 then (q, []) else q.advance blocks f n c
      else if 0 < n then ({ q with anch := false }, [(4, o.start + o.n - 1, o.start + o.n)])
      else if o.exit = 1 then ({ q with wait := true, due := e + o.gap }, [])
      else ({ q with ended := true }, [])

/-- A run that only anchors (R284). -/
def Compare.anchorRun (q : Compare) (blocks : List PlanBlock) (x n : Nat) (c : Int) : Compare × List Dev :=
  match blocks.find? (fun b => decide (b.start ≤ x) && decide (x < b.start + b.n)) with
  | none => ({ q with anch := false }, [(8, 0, x)])
  | some b => { q with blk := b, pos := x - b.start, anch := true, wait := false, ended := false }.advance blocks (n + 2) n c

/-- A STEP (R284). -/
def Compare.step (q : Compare) (blocks : List PlanBlock) (x n : Nat) (c : Int) : Compare × List Dev :=
  let anchored (ds : List Dev) : Compare × List Dev := let (q, d) := q.anchorRun blocks x n c
                                                       (q, ds ++ d)
  if q.anch && q.ended then
    match blocks.find? (fun b => b.start == x && b.entry) with
    | some b => { q with blk := b, pos := 0, ended := false }.advance blocks (n + 2) n c
    | none => anchored [(5, 0, x)]
  else if q.anch && q.wait then anchored [(2, q.blk.div, noIndex)]
  else if q.anch && x != q.blk.start + q.pos then anchored [(1, q.blk.start + q.pos, x)]
  else if q.anch then
    let s := c - n + 1
    let (q', d) := q.advance blocks (n + 2) n c
    (q', (if s ≠ q.due then [(0, cycleBits 32 q.due, cycleBits 64 s)] else []) ++ d)
  else anchored []

/-- A DIVERT (R284). -/
def Compare.divert (q : Compare) (blocks : List PlanBlock) (i t : Nat) (c : Int) : Compare × List Dev :=
  let here := q.anch && q.wait && q.blk.div == i
  let shift : List Dev := if here && decide (c ≠ q.due) then [(0, cycleBits 32 q.due, cycleBits 64 c)] else []
  let land : Option PlanBlock := blocks.find? (fun b => b.start == t)
  let found (b : PlanBlock) : Compare := { q with blk := b, pos := 0, due := c + 1, anch := true, wait := false }
  let free (ds : List Dev) : Compare × List Dev :=
    match land with
    | none => ({ q with anch := false }, ds ++ [(8, 0, t)])
    | some b => ({ found b with ended := false }, ds)
  if here then
    if t ≠ noTarget ∧ t ∈ q.blk.targets then (match land with | some b => (found b, shift) | none => (q, shift))
    else free (shift ++ [(3, q.blk.targets.headD noTarget, t)])
  else if q.anch then free [(2, if q.wait then q.blk.div else noIndex, i)]
  else free []

/-- An access lies in a range of the block (R284). -/
def accessAllowed (img : Bytes) (b : PlanBlock) (space op d size : Nat) : Bool :=
  (List.range b.rcount).any (fun i =>
    let (lo, hi, sp, ops) := imgRange img (b.rfirst + i)
    sp == space && bitOf ops op && decide (lo ≤ d) && decide (d + size - 1 ≤ hi))

/-- One packet of a region against the plan (R284): `x` is A before, `d` D after its own update, `c` its plan cycle. -/
def Compare.packet (q : Compare) (img : Bytes) (blocks : List PlanBlock) (p : Bytes) (x d : Nat) (c : Int) : Compare × List Dev :=
  match byteAt p 0 with
  | 0x01 => if byteAt p 2 % 16 ∈ [0, 3, 4, 6] then ({ q with anch := false, wait := false, ended := false }, []) else (q, [])
  | 0x10 => q.step blocks x (fieldAt p 4 2) c
  | 0x11 => q.divert blocks (fieldAt p 4 2) (fieldAt p 6 4) c
  | 0x20 | 0x21 | 0x22 | 0x23 =>
    let a := byteAt p 2
    if q.anch && decide (0 < q.blk.rcount) && !accessAllowed img q.blk (a / 8) (byteAt p 0 % 2) d (2 ^ (a % 8))
    then (q, [(6, q.blk.start, d)]) else (q, [])
  | 0x42 => (q, [(7, 0, fieldAt p 4 4)])
  | _ => (q, [])

/-! ### One loaf (R283, R289, R290, R294) -/

/-- A deviation of a loaf: class, EXPECTED, OBSERVED, region, plan cycle, P(C). -/
structure LoafDev where
  dev : Dev
  region : Nat
  pc : Nat
  ft : BitVec 64

/-- A region of a loaf: reference state, comparison, and its SYNC of the sync group (FT_s, PC_s, period_s). -/
structure RegionRun where
  ref : RefState := {}
  cmp : Compare := {}
  group : Option (BitVec 64 × Nat × Nat) := none

/-- What the comparison of a loaf has found so far: regions, deviations, CFLAGS, mark times by barrier, SYNCs of the sync group still to
come. -/
structure LoafRun where
  regions : Sparse RegionRun := []
  devs : List LoafDev := []
  flags : Nat := 0
  marks : Sparse Nat := []
  left : Nat := 0

/-- A region of a loaf run. -/
def LoafRun.region (l : LoafRun) (p : Nat) : RegionRun := ((l.regions.find? (fun e => e.1 == p)).map Prod.snd).getD {}

/-- Keep a region of a loaf run. -/
def LoafRun.setRegion (l : LoafRun) (p : Nat) (r : RegionRun) : LoafRun :=
  { l with regions := sinsert p r (l.regions.filter (fun e => e.1 != p)) }

/-- The CFLAGS that a packet shows (R289): OVERFLOW, a SYNC of CAUSE FEED_LOSS, EXCLUDED and GATED as a packet or a STATE bit. -/
def packetFlags (p : Bytes) : Nat :=
  match byteAt p 0 with
  | 0x43 => 1
  | 0x01 => bit (byteAt p 2 % 16 == 6) * 2 + bit (bitOf (byteAt p 3) 0) * 4 + bit (bitOf (byteAt p 3) 1) * 8
  | 0x45 => 4
  | 0x40 => 8
  | _ => 0

/-- The barrier marks that a MARK reaches first. -/
def LoafRun.mark (l : LoafRun) (bars : List Barrier) (region marker : Nat) (ft : BitVec 64) : LoafRun :=
  let hit := (bars.zip (List.range 16)).filter (fun b => b.1.marker == marker && b.1.region == region && !(l.marks.any (fun e => e.1 == b.2)))
  { l with marks := l.marks ++ hit.map (fun b => (b.2, ft.toNat)) }

/-- Take one packet. An OVERFLOW between an ANCHOR and its SYNCs leaves the sync group to come (R116, R127). -/
def LoafRun.take (l : LoafRun) (img : Bytes) (bars : List Barrier) (period : Nat → Nat) (p : Bytes) : LoafRun :=
  let l := { l with flags := l.flags ||| packetFlags p }
  if isDiePacket p then { l with left := if byteAt p 0 = 2 then byteAt p 3 else l.left }
  else
    let i := packetRegion p
    let r := l.region i
    let c := r.ref.cycle p
    let ref := r.ref.take p
    let inGroup := decide (byteAt p 0 = 1) && decide (0 < l.left)
    let group := if inGroup ∧ r.group.isNone then some (ref.fta, ref.pc, period ref.n) else r.group
    let (cmp, devs) := match regionBlocks img i with
      | none => (r.cmp, [])
      | some bs => r.cmp.packet img bs p r.ref.a ref.d c
    let at_ := ref.time period c
    let l := if byteAt p 0 = 0x30 then l.mark bars i (fieldAt p 4 4) at_ else l
    { l.setRegion i { ref := ref, cmp := cmp, group := group } with
      devs := l.devs ++ devs.map (fun d => { dev := d, region := i, pc := c, ft := at_ }), left := if inGroup then l.left - 1 else 0 }

/-- Compare the uncompressed bytes of a loaf with an image (R283); whether a reserved packet ended it. -/
def compareLoaf (img : Bytes) (bars : List Barrier) (period : Nat → Nat) (out : Bytes) : LoafRun × Bool :=
  let (ps, err) := loafPackets (out.length + 1) 0 out
  (ps.foldl (fun l p => l.take img bars period p.2) {}, err)

/-- CYCLES and COST that a region of a loaf adds (R289, R290). -/
def RegionRun.cost (r : RegionRun) (period : Nat → Nat) : Option (Nat × Int) :=
  r.group.map (fun g =>
    let span := (r.ref.pc : Int) - g.2.1
    let planned := g.1 + BitVec.ofInt 64 (span * g.2.2 / 2 ^ 20)
    (span.toNat, ftDiff (r.ref.time period r.ref.pc) planned))

/-- Sums of coverage: CYCLES saturating at 2^31 − 1; COST is summed whole and saturates where it is shown (R290), so that no order of loaves
matters (R291). -/
def Coverage.addRegion (v : Coverage) (i : Nat) (cost : Nat × Int) (unplanned : Bool) : Coverage :=
  let (c, t, _) := sget (fun _ => ((0, 0, false) : Nat × Int × Bool)) v.regions i
  let e := (satTo (2 ^ 31 - 1) (c + cost.1), t + cost.2, unplanned)
  { v with regions := sinsert i e (v.regions.filter (fun x => x.1 != i)) }

/-- The coverage of a rank in a window. -/
def PassWin.coverOf (p : PassWin) (rank : Nat) : Coverage := sget (fun _ => ({} : Coverage)) p.cover rank

/-- Change the coverage of a rank in a window. -/
def Block.modCover (b : Block) (c w rank : Nat) (f : Coverage → Coverage) : Block :=
  b.modWin c w (fun p => { p with cover := smodify (fun _ => ({} : Coverage)) p.cover rank f })

/-! ### Ports and ranks (R15, R283) -/

/-- The context and rank whose die is on port `p` (R283): a tray's context that has started, a job context before the fleet context, the lowest
index first (log 21). -/
def Block.portRank (b : Block) (p : Nat) : Option (Nat × Nat) :=
  let at_ (c : Nat) : Option Nat :=
    ((b.ctx c).map.find? (fun e => slotOf e.2 == p && e.2 / 2 ^ 13 == b.da / 2 ^ 13)).map Prod.fst
  let cs := b.ctxIds.filter (fun c => (b.ctx c).isActive && (b.ctx c).level == 5 && (at_ c).isSome)
  match (cs.filter (fun c => (b.ctx c).job != 0) ++ cs.filter (fun c => (b.ctx c).job == 0)).head? with
  | none => none
  | some c => (at_ c).map (fun r => (c, r))

/-- MODE, LAG and RATE of a port, from the plan of its context; OFF without one. -/
def Block.portMode (b : Block) (p : Nat) : Nat × Nat × Nat :=
  match b.portRank p with
  | none => (0, 0, 0)
  | some (c, _) => let plan := b.ctxPlan c
                   if (planPart plan 9).isEmpty then (0, 0, 0) else planCoverage plan p

/-- Physical anvil of logical anvil `j`, and whether it is retired (R292). -/
def Block.anvilOf (b : Block) (j : Nat) : Nat := b.fld (Reg.ANV_MAP + 4 * (j / 4)) (8 * (j % 4) + 5) (8 * (j % 4))
def Block.anvilFailed (b : Block) (a : Nat) : Bool := if a < 32 then b.isSet Reg.ANV_FAIL a else b.isSet Reg.ANV_LSTS (a - 32)

/-- Port `p` has no anvil or no decompressor (R292, R459). -/
def Block.anvilLost (b : Block) (p : Nat) : Bool := b.anvilFailed (b.anvilOf p) || b.isSet Reg.IST_DEC_FAIL p

/-- An ingest port. -/
def Block.ingest (b : Block) (p : Nat) : IngestPort := sget (fun _ => ({} : IngestPort)) b.tray.history.ports p

/-- Change an ingest port. -/
def Block.modIngest (b : Block) (p : Nat) (f : IngestPort → IngestPort) : Block :=
  b.modHist (fun h => { h with ports := smodify (fun _ => ({} : IngestPort)) h.ports p f })

/-- The trailer of a loaf. -/
def Loaf.trailer (l : Loaf) (raw : Bytes) : Bytes := slice raw (16 + l.storedLen) 4

/-- The loaf that raw bytes hold, decoded; none where it faults. -/
def loafOf (raw : Bytes) : Option Loaf := (decodeLoaf raw (2 ^ 24)).toOption

/-- The window of a loaf of a context (R288): none with NO_WINDOW. A loaf that does not decode shows no window and counts in the one that runs
(log 22). -/
def Block.loafWindow (b : Block) (c : Nat) (raw : Bytes) : Option Nat :=
  match loafOf raw with
  | some l => anchorWindow l.out
  | none => some (windowOf (b.ctx c).k b.ft)

/-- Why the anvil of port `p` does not compare a loaf, where it does not: whether for want of an anvil (R292), or because the plane has halted
(R316) or ANV_CTL.EN is 0 in the loaf's window (R313, R330). -/
def Block.anvilIdle (b : Block) (p : Nat) (raw : Bytes) : Option Bool :=
  let en : Bool := match (b.portRank p).bind (fun r => (b.loafWindow r.1 raw).map (fun w => b.passReg r.1 w Reg.ANV_CTL)) with
    | some v => bitOf v.toNat 0
    | none => b.isSet Reg.ANV_CTL 0
  if b.anvilLost p then some true else if b.isSet Reg.PLN_STS 4 || !en then some false else none

/-- A loaf is skipped (R288); `lost` sets ANVIL_LOST. -/
def Block.skipLoaf (b : Block) (p : Nat) (raw : Bytes) (lost : Bool) : Block :=
  let b := (b.count Reg.ANV_SKIPPED 1).flag Reg.ANV_STS 3
  match b.portRank p, (b.portRank p).bind (fun r => b.loafWindow r.1 raw) with
  | some (c, r), some w => b.modCover c w r (fun v => { v with skipped := v.skipped + 1, flags := v.flags ||| (bit lost * 16) })
  | _, _ => b

/-! ### Faults (R151, R155) -/

/-- The loaf faults of the cycle that runs. -/
def Block.loafFaultsNow (b : Block) : LoafFaults :=
  if b.tray.loafFaults.cycle = b.time.cycles then b.tray.loafFaults else { cycle := b.time.cycles }

/-- Store the loaf faults of the cycle that runs. -/
def Block.setFaults (b : Block) (l : LoafFaults) : Block := { b with tray := { b.tray with loafFaults := l } }

/-- The capture registers hold the fault with the lowest UNIT of the cycle (R155); a write of the cycle that cleared VALID loses, and shows
in SDC (R7). -/
def Block.captureLowest (b : Block) (l : LoafFaults) : Block :=
  match l.faults with
  | [] => b.setFaults l
  | f :: fs =>
    let (unit, stream, seq, status, offset) := fs.foldl (fun a g => if g.1 < a.1 then g else a) f
    let b := ((b.setFld Reg.LOF_ERR_INFO 30 0 (2 ^ 30 + unit * 2 ^ 24 + stream * 2 ^ 8 + status)).setFld Reg.LOF_ERR_OFS 16 0
      offset).setFld Reg.LOF_ERR_SEQ 31 0 seq
    (if l.cleared then b.flag Reg.LOF_ERR_INFO 31 else b).setFaults { l with captured := true }

/-- A loaf faults (R155), when it is decoded or when a compressed loaf finds no space: counted by status, and captured while no fault of an
earlier cycle is. -/
def Block.captureFault (b : Block) (decode : Bool) (unit stream seq : Nat) (e : LoafFault) : Block :=
  let b := if e.status = 3 then b.flag Reg.LOF_STS 3 else b.countF Reg.LOF_DEC_CNT (6 * (e.status - 4) + 5) (6 * (e.status - 4)) 1
  let b := if decode then b.flag Reg.LOF_STS 2 else b
  let l := b.loafFaultsNow
  let l := { l with faults := l.faults ++ [(unit, stream, seq, e.status, e.offset)] }
  if b.isSet Reg.LOF_ERR_INFO 30 && !l.captured then b.setFaults l else b.captureLowest l

/-- LOF_ERR_INFO is written (R7, R155): where the write clears VALID in the cycle of a fault, the registers hold that fault. -/
def Block.writeErrInfo (b : Block) (v : Word) : Block :=
  if v.getLsbD 30 && b.isSet Reg.LOF_ERR_INFO 30 then
    (b.writeFields Reg.LOF_ERR_INFO v).captureLowest { b.loafFaultsNow with cleared := true }
  else b.writeFields Reg.LOF_ERR_INFO v

/-- A loaf faults on the anvil or search path (R151): captured, and told by a crumb. -/
def Block.loafFault (b : Block) (unit : Nat) (raw : Bytes) (e : LoafFault) : Block :=
  let seq := fieldAt raw 12 4
  let b := b.captureFault true unit (fieldAt raw 10 2) seq e
  b.healthOnce [e.status] 0x0701 e.status seq (unit + e.offset % 2 ^ 17 * 2 ^ 8)

/-! ### Comparing (R283 to R287) -/

/-- A deviation record (R286). -/
def deviationRecord (rank w seq port dflags : Nat) (d : LoafDev) : Bytes :=
  leBytes 4 rank ++ leBytes 5 w ++ leBytes 1 d.region ++ leBytes 1 d.dev.1 ++ leBytes 1 dflags ++ leBytes 6 d.pc ++ zeros 2 ++
    leBytes 4 d.dev.2.1 ++ leBytes 8 d.dev.2.2 ++ leBytes 8 d.ft.toNat ++ leBytes 4 seq ++ leBytes 1 port ++ zeros 3

/-- A deviation record stands before another one of its window: by rank, then by SEQ (R291). -/
def deviationBefore (x y : Bytes) : Bool :=
  let d := (fieldAt y 40 4 + 2 ^ 32 - fieldAt x 40 4) % 2 ^ 32
  decide (fieldAt x 0 4 < fieldAt y 0 4) || (fieldAt x 0 4 == fieldAt y 0 4 && d != 0 && decide (d < 2 ^ 31))

/-- Keep a deviation record among the first `limit` of its rank and class (R286). First is in the order of SEQ, and in a loaf of its packets, so that
the order in which loaves arrive does not matter (R291; DEDUCED, log 21). -/
def keepDeviation (limit : Nat) (ds : List Bytes) (d : Bytes) : List Bytes :=
  let later (e : Bytes) : Bool := deviationBefore d e
  let all := ds.filter (fun e => !later e) ++ [d] ++ ds.filter later
  let mine (e : Bytes) : Bool := fieldAt e 0 4 == fieldAt d 0 4 && byteAt e 10 == byteAt d 10
  if (all.filter mine).length ≤ limit then all else (all.reverse.eraseP mine).reverse

/-- One deviation of a rank (R286, R287). A LATE one goes to the ledger at once, and to the host rings with the next late supplement
(log 21). -/
def Block.deviation (b : Block) (c w rank seq port : Nat) (ring late : Bool) (d : LoafDev) : Block :=
  let cl := d.dev.1
  let rec_ := deviationRecord rank w seq port (bit ring + bit late * 2) d
  let b := (b.count (Reg.ANV_DEV + 4 * cl) 1).flag Reg.ANV_STS 1
  if late then (b.ledgerWrite c 3 w rec_).modAn c (fun a => { a with lateDevs := a.lateDevs ++ [rec_] })
  else
    let n := sget (fun _ => 0) (b.win c w).devCount (16 * rank + cl) + 1
    let ctl := (b.passReg c w Reg.ANV_CTL).toNat
    let b := b.modWin c w (fun p => { p with devCount := sput (fun _ => 0) p.devCount (16 * rank + cl) n,
                                             devs := keepDeviation (bitsOf ctl 15 8) p.devs rec_ })
    if n = 1 ∧ bitOf ctl 1 ∧ bitOf ctl (16 + cl) then
      (b.passAlarm c w 0x0E01 14 rank (cl + d.region * 2 ^ 8)).flag Reg.ANV_STS 0
    else b

/-- The mark time of barrier `j` (R294): that of the loaf that comes first in SEQ, each with its SEQ. -/
def firstMark (seq : Nat) (m : Sparse (Nat × Nat)) (j ft : Nat) : Sparse (Nat × Nat) :=
  match m.find? (fun e => e.1 == j) with
  | none => sinsert j (seq, ft) m
  | some e => if (e.2.1 + 2 ^ 33 - 1 - seq) % 2 ^ 32 < 2 ^ 31 then sinsert j (seq, ft) (m.filter (fun x => x.1 != j)) else m

/-- Compare loaf `l` of a rank on port `p` in its window: one whose window's anvil pass has run is late and counts as skipped (R283, R288). -/
def Block.compareAs (b : Block) (c rank p w : Nat) (raw : Bytes) (l : Loaf) (ring late : Bool) : Block :=
  let plan := b.ctxPlan c
  let slot := planImageOf plan rank
  let b := match slot with | some i => b.useSlot 2 i | none => b
  let img := match slot with | some i => (slotIn b.tray.plane.images i).bytes | none => []
  let bars := ((planStragglers plan).map Stragglers.bars).getD []
  let period := Config.oppPeriod p
  let (run, err) := compareLoaf img bars period l.out
  let b := if err then b.modIngest p (fun x => { x with decodeErr := x.decodeErr + 1 }) else b
  let b := b.forEach run.devs (fun b d => b.deviation c w rank l.seq p ring late d)
  if late then b.skipLoaf p raw false
  else
    let b := b.count Reg.ANV_LOAVES 1
    let b := b.modCover c w rank (fun v =>
      let v := { v with compared := v.compared + 1, flags := v.flags ||| run.flags,
                        marks := run.marks.foldl (fun m e => firstMark l.seq m e.1 e.2) v.marks }
      run.regions.foldl (fun v e => match e.2.cost period with
        | some x => v.addRegion e.1 x (regionBlocks img e.1).isNone
        | none => v) v)
    b.modAn c (fun a => { a with loaves := a.loaves ++ [(w, leBytes 4 p ++ leBytes 4 l.seq ++ l.trailer raw)] })

/-- Compare a decoded loaf of port `p` (R283). -/
def Block.compare (b : Block) (p : Nat) (raw : Bytes) (ring : Bool) : Block :=
  match b.portRank p, loafOf raw with
  | some (c, rank), some l =>
    match anchorWindow l.out with
    | none => b.skipLoaf p raw false
    | some w =>
      b.compareAs c rank p w raw l ring (match ((b.ctx c).an.rank rank).anvilTo with | some v => decide (windowDiff w v ≤ 0) | none => false)
  | _, _ => b

/-! ### LANE_LOCK, INGEST_LOAF_RECEIVE, DECOMPRESS_LOAF, ANVIL_COMPARE_LOAF, RING_ENTRY -/

/-- What a lane's word of an alignment super-block says (R131): its index and the count of alignment super-blocks. -/
def alignmentWord (w : Bytes) : Option (Nat × Nat) :=
  if w.length = 16 ∧ slice w 0 2 = [0xA5, 0x5A] ∧ byteAt w 2 < 4 ∧ zeroAt w 3 1 ∧ zeroAt w 8 8 then some (byteAt w 2, fieldAt w 4 4) else none

/-- A lane's alignment pattern three times in a row (R132): its index and the count of the third. -/
def laneFound (words : List Bytes) : Option (Nat × Nat) :=
  match words.map alignmentWord with
  | [some x, some y, some z] =>
    if x.1 = y.1 ∧ y.1 = z.1 ∧ y.2 = (x.2 + 1) % 2 ^ 32 ∧ z.2 = (y.2 + 1) % 2 ^ 32 then some z else none
  | _ => none

/-- A lane locks on three words of its own at a spacing of 4,096, when they are its alignment pattern (R132, R488). -/
def IngestPort.lock (x : IngestPort) (lane : Nat) (words : List Bytes) : IngestPort :=
  match laneFound words with
  | none => x
  | some (i, n) => { x with lanes := x.lanes.filter (fun l => l.lane != lane) ++ [{ lane := lane, index := i, head := 4096 * n + 1 }] }

/-- LANE_LOCK (R132), while the link is up (R488). -/
def execLaneLock (p : Fin 32) (lane : LaneWords) (s : State) : Host.Outcome State Fault Refusal :=
  onTray (fun b => b.when (b.ingest p).up (fun b => b.modIngest p (fun x => x.lock lane.lane lane.words))) s

/-- ing_link_up of a port changes (R488): while it is low no lane is locked, and a loaf that was coming is lost. -/
def IngestPort.setUp (x : IngestPort) (up : Bool) : IngestPort := if up then { x with up := true } else { x with up := false, lanes := [], loaf := [] }

/-- All four lanes are locked, each with an index of its own (R132). -/
def IngestPort.ready (x : IngestPort) : Bool := (List.range 4).all (fun i => x.lanes.any (fun l => l.index == i)) && x.lanes.length == 4

/-- The word at the head of a lane's queue at position `m` of an alignment super-block is the one that stands there (R131). -/
def IngestLane.aligned (l : IngestLane) (m : Nat) : Bool := (l.queue.head?.bind alignmentWord) == some (l.index, m / 4096 % 2 ^ 32)

/-- One word of each physical lane (R132, R488): a locked lane queues it; the lanes are deskewed to the same position, and the super-block of that
position comes out in the order of the lanes' indices, unless it is an alignment super-block. A lane whose word is not the alignment word of
that position has dropped or inserted a word: a framing error, after which that lane locks anew and the receiver searches. -/
def IngestPort.wordTime (x : IngestPort) (words : Bytes) : IngestPort × Option Bytes :=
  let lanes := x.lanes.map (fun l => { l with queue := l.queue ++ [slice words (16 * l.lane) 16] })
  let m : Nat := lanes.foldl (fun a l => max a l.head) 0
  let lanes := if x.ready then lanes.map (fun l =>
    let n := min l.queue.length (m - l.head)
    { l with head := l.head + n, queue := l.queue.drop n }) else lanes
  if x.ready ∧ lanes.all (fun l => l.head == m && !l.queue.isEmpty) then
    let blk := ((List.range 4).map (fun i => ((lanes.find? (fun l => l.index == i)).bind (fun l => l.queue.head?)).getD [])).flatten
    let next := lanes.map (fun l => { l with head := l.head + 1, queue := l.queue.tail })
    if m % 4096 ≠ 0 then ({ x with lanes := next }, some blk)
    else if lanes.all (fun l => l.aligned m) then ({ x with lanes := next }, none)
    else
      let good := (lanes.filter (fun l => l.aligned m)).map (fun l => { l with head := l.head + 1, queue := l.queue.tail })
      ({ x with lanes := good, loaf := [], framing := x.framing + 1, searching := true }, none)
  else ({ x with lanes := lanes }, none)

/-- Some row of the schedule in force has a ring slot for port `p` (R288). -/
def Block.ringReserved (b : Block) (p : Nat) : Bool :=
  match b.schedule with
  | none => false
  | some img => (List.range 6400).any (fun r => schedEntry img r 30 == (3, p))

/-- Decompressor `p`, or the anvil that serves port `p`, is under test (R458): until the row of the TEST entry, 64 TIM cycles, is over. -/
def Block.underTest (b : Block) (p : Nat) : Bool := b.tray.test.under == some p && decide (b.time.cycles < b.tray.plane.rowCycle + 64)

/-- Where a loaf at ingest goes on its way to the anvil (R288). -/
def Block.offerLoaf (b : Block) (p : Nat) (raw : Bytes) : Block :=
  let (mode, _, rate) := b.portMode p
  let seq := fieldAt raw 12 4
  let x := b.ingest p
  let later (b : Block) : Block := b.modIngest p (fun x => { x with deferred := x.deferred ++ [seq] })
  let live (b : Block) : Block :=
    if x.decoding.isNone && x.decoded.isNone && !b.underTest p then b.modIngest p (fun x => { x with decoding := some raw })
    else if b.ringReserved p then later b
    else b.skipLoaf p raw false
  if mode = 0 then b
  else match b.anvilIdle p raw, mode with
    | some lost, _ => b.skipLoaf p raw lost
    | none, 1 => live b
    | none, 2 => later b
    | none, _ => if seq % 2 ^ rate = 0 then live b else b.skipLoaf p raw false

/-- A loaf with a new SEQ is TRACE evidence for the ranks of the port's die (R209). -/
def Block.markTrace (b : Block) (p : Nat) (raw : Bytes) : Block :=
  if (b.ingest p).prevSeq = some (fieldAt raw 12 4) then b
  else { b with ctxs := b.ctxs.map (fun e =>
      if e.2.phase = .active ∧ e.2.level = 5 then
        (e.1, { e.2 with members := e.2.members.map (fun m =>
          if slotOf (sget (fun _ => (2 ^ 32 : Nat)) e.2.map m.1) = p then (m.1, { m.2 with fresh := m.2.fresh ||| 2 }) else m) })
      else e) }

/-- The loaves that a SEQ shows to be missing (R288). -/
def Block.seqGap (b : Block) (p : Nat) (raw : Bytes) : Block :=
  let seq := fieldAt raw 12 4
  let g := match (b.ingest p).prevSeq with | none => 0 | some s => (seq + 2 ^ 33 - s - 1) % 2 ^ 32
  let b := b.modIngest p (fun x => { x with prevSeq := some seq })
  if g = 0 ∨ 2 ^ 31 ≤ g then b
  else
    let b := (b.count Reg.ANV_LOST g).flag Reg.ANV_STS 2
    match b.portRank p, (b.portRank p).bind (fun r => b.loafWindow r.1 raw) with
    | some (c, r), some w => b.modCover c w r (fun v => { v with faulted := v.faulted + g })
    | _, _ => b

/-- A header whose lengths lie within its block size (R132, R135). -/
def headerFits (raw : Bytes) : Bool :=
  let n := fieldAt raw 4 3
  let m := fieldAt raw 7 3
  decide (byteAt raw 3 ≤ 4) && decide (1 ≤ n) && decide (n ≤ blkSize (byteAt raw 3)) && decide (1 ≤ m) && decide (m ≤ n)

/-- A whole loaf has been reassembled (R132, R348): it is written into the flight ring, one that shows no window with that in which it came
(log 22), and offered to the anvil. -/
def Block.wholeLoaf (b : Block) (p : Nat) (raw : Bytes) : Block :=
  let out := ((loafOf raw).map Loaf.out).getD []
  let job := match b.portRank p with | some (c, _) => (b.ctx c).job | none => 0
  let epoch := match b.portRank p with | some (c, _) => (b.ctx c).epoch | none => 0
  let w := ((b.portRank p).bind (fun r => b.loafWindow r.1 raw)).getD 0
  let r : HistRec := { job := job, epoch := epoch, w := w, kind := 0, seq := fieldAt raw 12 4,
                       ft := if byteAt out 0 = 2 then fieldAt out 8 8 else b.ft.toNat, bytes := raw }
  (((b.histWrite 0 p 0 r).markTrace p raw).seqGap p raw).offerLoaf p raw

/-- A super-block at a boundary between loaves (R132): idle, the start of a loaf, or a framing error, after which the receiver searches. -/
def IngestPort.boundary (x : IngestPort) (blk : Bytes) : IngestPort :=
  if slice blk 0 2 = [0xB7, 0xE1] then x
  else if slice blk 0 2 ≠ [0xB7, 0x1F] then if x.searching then x else { x with framing := x.framing + 1, searching := true }
  else if x.searching ∧ !headerFits blk then x
  else { x with loaf := blk, searching := false }

/-- A super-block of a locked port (R132). -/
def Block.superBlock (b : Block) (p : Nat) (blk : Bytes) : Block :=
  let x := b.ingest p
  let x := if x.loaf.isEmpty then x.boundary blk else { x with loaf := x.loaf ++ blk }
  if x.loaf.isEmpty ∨ x.loaf.length < loafSpan (fieldAt x.loaf 7 3) then b.modIngest p (fun _ => x)
  else (b.modIngest p (fun _ => { x with loaf := [] })).wholeLoaf p x.loaf

/-- One word of each lane of an ingest port. -/
def Block.ingestWords (b : Block) (p : Nat) (words : Bytes) : Block :=
  let (x, blk) := (b.ingest p).wordTime words
  let b := b.modIngest p (fun _ => x)
  match blk with
  | none => b
  | some blk => b.superBlock p blk

/-- INGEST_LOAF_RECEIVE (R132, R348): `words` are what the four physical lanes have delivered, 64 bytes for each word time, lane 0 first.
The port is off in RETAIN and OFF, and takes nothing while ing_link_up is low (R488). -/
def execIngestLoafReceive (p : Fin 32) (words : Bytes) (s : State) : Host.Outcome State Fault Refusal :=
  onTray (fun b => b.when (decide (b.power.phase < 2) && (b.ingest p).up) (fun b =>
    b.forEach (chunks 64 (words.length / 64) words) (fun b w => b.ingestWords p w))) s

/-- A loaf of port `p` faults in its decompressor: a gap in coverage (R151, R288). The rule names the window of the loaf, which a
discarded loaf does not show: it enters the window that runs now (log 22). -/
def Block.anvilFault (b : Block) (p : Nat) (raw : Bytes) (e : LoafFault) : Block :=
  let b := ((b.loafFault p raw e).count Reg.ANV_FAULTED 1).flag Reg.ANV_STS 2
  match b.portRank p with
  | some (c, r) => b.modCover c (windowOf (b.ctx c).k b.ft) r (fun v => { v with faulted := v.faulted + 1 })
  | none => b

/-- DECOMPRESS_LOAF (R150, R151): decompressor `p` ends the loaf that it decodes. -/
def execDecompressLoaf (p : Fin 32) (s : State) : Host.Outcome State Fault Refusal :=
  onTray (fun b =>
    match (b.ingest p).decoding with
    | none => b
    | some raw =>
      let b := b.modIngest p (fun x => { x with decoding := none })
      match decodeLoaf raw (2 ^ 24) with
      | .error e => b.anvilFault p raw e
      | .ok _ => b.modIngest p (fun x => { x with decoded := some raw })) s

/-- ANVIL_COMPARE_LOAF (R284): the anvil of port `p` compares the loaf that its decompressor has decoded, or skips it where it may not
(R292). -/
def execAnvilCompareLoaf (p : Fin 32) (s : State) : Host.Outcome State Fault Refusal :=
  onTray (fun b =>
    match (b.ingest p).decoded with
    | none => b
    | some raw =>
      let b := b.modIngest p (fun x => { x with decoded := none })
      match b.anvilIdle p raw with
      | some lost => b.skipLoaf p raw lost
      | none => b.compare p raw false) s

/-- One deferred loaf from the flight ring (R288): skipped where its segment has been reused. -/
def Block.ringLoaf (b : Block) (p seq : Nat) : Block :=
  let b := (b.modIngest p (fun x => { x with deferred := x.deferred.filter (· != seq) })).useLoaf p seq
  match b.tray.history.loafAt p (fun r => r.seq == seq) with
  | none | some (_, 2) => (b.count Reg.ANV_SKIPPED 1).flag Reg.ANV_STS 3
  | some (r, how) =>
    match b.anvilIdle p r.bytes, how == 1, decodeLoaf r.bytes (2 ^ 24) with
    | some why, _, _ => b.skipLoaf p r.bytes why
    | none, true, _ => let (e, b) := b.unreadable; b.anvilFault p r.bytes e
    | none, false, .error e => b.anvilFault p r.bytes e
    | none, false, .ok _ => b.compare p r.bytes true

/-- RING_ENTRY (R288): a ring slot of column 30 compares loaves of its port in ascending SEQ. How many loaves one slot compares is a free
value (log 4). Without an anvil every deferred loaf of the port is skipped (R292). -/
def execRingEntry (row : Fin 6400) (s : State) : Host.Outcome State Fault Refusal :=
  onTray (fun b => b.onEntry row 30 3 (fun b _ p =>
    let (f, b) := b.freeNat
    let d := (b.ingest p).deferred
    b.forEach (if b.anvilLost p then d else d.take (f % (d.length + 1))) (fun b q => b.ringLoaf p q))) s

/-! ### The anvil pass (R288, R289, R294 to R296) -/

/-- Saturation at signed 64 bits. -/
def sat64 (x : Int) : Int := max (-(2 ^ 63)) (min (2 ^ 63 - 1) x)

/-- A coverage record (R289). -/
def coverageRecord (rank w mode : Nat) (v : Coverage) : Bytes :=
  leBytes 4 rank ++ leBytes 5 w ++ leBytes 1 mode ++ leBytes 1 v.flags ++ leBytes 1 v.regions.length ++ leBytes 4 v.compared ++
    leBytes 4 v.skipped ++ leBytes 4 v.faulted ++ zeros 8 ++
    (v.regions.map (fun e => leBytes 1 e.1 ++ zeros 3 ++ leBytes 4 (e.2.1 % 2 ^ 31 + bit e.2.2.2 * 2 ^ 31) ++ leSigned 8 (sat64 e.2.2.1))).flatten

/-- Number of set bits of a straggler MASK. -/
def maskBits (m : Nat) : Nat := popCount 16 m

/-- The lateness of a rank at each barrier of window `w` (R295): barrier index and ticks. -/
def latenesses (t : Stragglers) (marks : Sparse (Nat × Nat)) (stats : List Item) : List (Nat × Int) :=
  (t.bars.zip (List.range 16)).filterMap (fun b =>
    match marks.find? (fun e => e.1 == b.2), stats.find? (fun i => i.id == b.1.item) with
    | some m, some i => if i.n = 0 then none else some (b.2, ftDiff (BitVec.ofNat 64 m.2.2) (BitVec.ofNat 64 (fieldAt i.body 8 8)))
    | _, _ => none)

/-- The straggler score of a rank for window `w` at the pass of window `pass` (R295, R296); `stats` are the job statistics of `w` that had
come by the close of window w + 1 (R31). -/
def Block.stragglerScore (b : Block) (c pass w rank : Nat) (t : Stragglers) (stats : List Item) : Block :=
  let x := b.ctx c
  let p := x.an.win w
  let ls := latenesses t (p.coverOf rank).marks stats
  let best := ls.foldl (fun (a : Option (Nat × Int)) l => match a with
    | none => some l
    | some m => if m.2 < l.2 then some l else a) none
  let score := best.map (fun l => satTo (2 ^ 31 - 1) l.2.toNat)
  let late : Bool := match score with | some s => decide (t.late ≤ s) | none => false
  let old := x.an.rank rank
  let mask := (old.mask * 2 + bit late) % 2 ^ 16
  let persistent := decide (t.persist ≤ maskBits mask)
  let b := b.modRank c rank (fun r => { r with mask := mask, score := score })
  let b := match score with
    | some s => b.modWin c pass (fun q => { q with scores := sput (fun _ => 0) q.scores rank (bit persistent * 2 ^ 31 + s) })
    | none => b
  if !late && !persistent then b
  else
    let none_ := Config.noScore rank w
    let cost := (p.coverOf rank).regions.foldl (fun (a : Int) e => a + e.2.2.1) 0
    let bar := match best with | some l => l.1 | none => none_.1 % 16
    let rec_ := leBytes 4 rank ++ leBytes 5 w ++ leBytes 1 (bar + bit persistent * 128) ++ leBytes 2 mask ++
      leBytes 4 (score.getD (none_.2 % 2 ^ 32)) ++ leSigned 8 (sat64 cost) ++ leBytes 4 (sget (fun _ => 0) p.devCount (16 * rank)) ++ zeros 4
    b.modWin c pass (fun q => { q with stragglers := q.stragglers ++ [rec_] })

/-- The mark record that the ledger keeps of the anvil pass of a rank, in the model's own layout (R336; DESIGN CHOICE, log 27): rank, deviation
counts by class, and for each barrier with a mark its index, the SEQ of its loaf and the mark time. -/
def markRecord (rank : Nat) (p : PassWin) : Bytes :=
  leBytes 4 rank ++ ((List.range 16).map (fun k => leBytes 4 (sget (fun _ => 0) p.devCount (16 * rank + k)))).flatten ++
    ((p.coverOf rank).marks.map (fun m => leBytes 4 m.1 ++ leBytes 4 m.2.1 ++ leBytes 8 m.2.2)).flatten

/-- The deviation counts of a rank, by 16 × rank + class, and the marks that a mark record holds. -/
def markCounts (r : Bytes) : Sparse Nat :=
  (List.range 16).foldl (fun m k => sput (fun _ => 0) m (16 * fieldAt r 0 4 + k) (fieldAt r (4 + 4 * k) 4)) []
def markTimes (r : Bytes) : Sparse (Nat × Nat) :=
  (chunks 16 ((r.length - 68) / 16) (r.drop 68)).map (fun m => (fieldAt m 0 4, fieldAt m 4 4, fieldAt m 8 8))

/-- The coverage that a coverage record holds (R289), with the marks of the mark record beside it. -/
def coverFrom (cov : Bytes) (marks : Sparse (Nat × Nat)) : Coverage :=
  { compared := fieldAt cov 12 4, skipped := fieldAt cov 16 4, faulted := fieldAt cov 20 4, flags := byteAt cov 11, marks := marks,
    regions := (chunks 16 (byteAt cov 10) (cov.drop 32)).map (fun e =>
      (byteAt e 0, fieldAt e 4 4 % 2 ^ 31, signed 64 (fieldAt e 8 8), bitOf (fieldAt e 4 4) 31)) }

/-- ANVIL for window `w` of a context (R288, R289, R295): the anvil pass of window w − LAG for each rank of the tray, then the scores of the
window before that. -/
def Block.anvilStep (b : Block) (c w : Nat) : Block :=
  let plan := b.ctxPlan c
  b.forEach (b.ctx c).map (fun b e =>
    let p := slotOf e.2
    let (mode, lag, _) := if (planPart plan 9).isEmpty then (0, 0, 0) else planCoverage plan p
    let done := (w + 2 ^ 40 - lag) % 2 ^ 40
    let rec_ := coverageRecord e.1 done mode ((b.win c done).coverOf e.1)
    let b := b.modRank c e.1 (fun r => { r with anvilTo := some done })
    let b := (b.modWin c w (fun q => { q with coverage := q.coverage ++ [rec_] })).ledgerWrite c 12 w (markRecord e.1 (b.win c done))
    match planStragglers plan with
    | none => b
    | some t => b.stragglerScore c w ((done + 2 ^ 40 - 1) % 2 ^ 40) e.1 t ((b.win c done).stats.getD []))

end Sys2Proof.Machine
end

