-- ==== Sys2Proof/Machine/Export.lean ====
section
/-! DEFINITION. Cutting bytes into loaves (R152) and the export rings (R389 to R392): placing a bundle, holding it, gaps, draining. -/

namespace Sys2Proof.Machine

/-! ### Loaves of a job or a bundle (R152, R389) -/

/-- Cut bytes into loaves of a block size, sequence numbers from `seq`, each with the EFFORT and RAW_ONLY that `how` gives it; the last loaf
carries `lastFlags` of its length. -/
def cutBy (how : Nat → Nat × Bool) (blk stream seq : Nat) (lastFlags : Nat → Nat) (data : Bytes) : List Bytes :=
  let ps := chunks (blkSize blk) (data.length / blkSize blk + 1) data
  (ps.zip (List.range ps.length)).map (fun p =>
    let flags := if p.2 + 1 = ps.length then lastFlags p.1.length else 0
    buildLoaf flags blk stream ((seq + p.2) % 2 ^ 32) (how p.2).2 (how p.2).1 p.1)

/-- Cut bytes into loaves of one EFFORT and RAW_ONLY. -/
def cutLoaves (blk effort stream seq : Nat) (rawOnly : Bool) (lastFlags : Nat → Nat) (data : Bytes) : List Bytes :=
  cutBy (fun _ => (effort, rawOnly)) blk stream seq lastFlags data

/-- The compressor engines count what they took and emitted (R155). -/
def Block.countLoaves (b : Block) (input : Nat) (loaves : List Bytes) : Block :=
  let b := (b.countWide Reg.LOF_IN_LO input).countWide Reg.LOF_OUT_LO (loaves.foldl (fun a l => a + l.length) 0)
  let raws := (loaves.filter loafIsRaw).length
  if raws = 0 then b else (b.count Reg.LOF_RAW raws).flag Reg.LOF_STS 1

/-- The EFFORT and RAW_ONLY of LOF_CTL. -/
def Block.effort (b : Block) : Nat := b.fld Reg.LOF_CTL 1 0
def Block.rawOnly (b : Block) : Bool := b.isSet Reg.LOF_CTL 3

/-! ### Export rings (R390, R391) -/

/-- The export ring of a stream (R390): that of the first enabled route of its job tag, else HST_EXP_DEF's. -/
def Block.exportRing (b : Block) (job : Nat) : Nat :=
  let route (i : Nat) : Nat := Reg.HST_EXP_ROUTE + 4 * i
  match (List.range 16).find? (fun i => b.isSet (route i) 31 && b.fld (route i) 15 0 == job) with
  | some i => b.fld (route i) 29 28
  | none => b.fld Reg.HST_EXP_DEF 1 0

/-- The free data space of a ring: from the write offset to the offset of the oldest loaf that an entry in use names (R391). A GAP names
no data. -/
def ExpRing.dataFree (r : ExpRing) (size : Nat) : Nat :=
  match r.extents.find? (fun e => e.2 != 0) with
  | none => size
  | some e => (e.1 + size - r.offset) % size

/-- Where each loaf goes from the write offset on: none where one does not fit the space. -/
def placeLoaves (size : Nat) : Nat → Nat → List Bytes → Option (List (Nat × Bytes) × Nat)
  | off, _, [] => some ([], off)
  | off, free, l :: ls =>
    let n := (l.length + 63) / 64 * 64
    let start := if off + n ≤ size then off else 0
    let used := if off + n ≤ size then n else size - off + n
    if used ≤ free ∧ n ≤ size then
      (placeLoaves size ((start + n) % size) (free - used) ls).map (fun r => ((start, l) :: r.1, r.2))
    else none

/-- Ring `e` may write entries now: owned, bus master on, enabled. -/
def Block.exportOpen (b : Block) (e : Nat) : Bool :=
  b.tray.host.owner == 1 && b.tray.host.busMaster && b.isSet (expReg Reg.HST_EXP_CFG e) 31

/-- The free entries of a ring. -/
def OutRing.room (r : OutRing) (log2 : Nat) : Nat := ringSize log2 - 1 - r.unread log2 - r.queued

/-- An export entry without its PHASE. -/
def exportEntry (off size stream xtype xflags w w2 count : Nat) : Bytes :=
  leBytes 4 off ++ leBytes 4 size ++ leBytes 2 stream ++ leBytes 1 xtype ++ leBytes 1 xflags ++ leBytes 5 w ++ leBytes 5 w2 ++
    leBytes 4 count ++ zeros 6

/-- Queue one export entry (R391, R395). -/
def Block.writeExport (b : Block) (e : Nat) (entry : Bytes) : Block := b.queueEntry (33 + e) (68 + e) entry

/-- The bundle may go to ring `e` now: rights, space, positions. -/
def Block.bundlePlaces (b : Block) (e : Nat) (u : Bundle) : Option (List (Nat × Bytes) × Nat) :=
  let cfg := (b.reg (expReg Reg.HST_EXP_CFG e)).toNat
  let x := b.tray.host.expRing e
  let size := 2 ^ bitsOf cfg 20 16
  if b.exportOpen e && (!u.fleet || bitOf cfg 30) && decide (u.loaves.length ≤ x.ring.room (bitsOf cfg 28 24))
  then placeLoaves size x.offset (x.dataFree size) u.loaves else none

/-- Write a bundle whose places are known: its loaves into the data area, then one entry each (R365, R391). It flies until its last entry
leaves. -/
def Block.writeBundle (b : Block) (e : Nat) (u : Bundle) (places : List (Nat × Bytes)) (off : Nat) : Block :=
  let base := b.base64 (expReg Reg.HST_EXP_DATA_LO e)
  let b := b.forEach places (fun b p => b.queueData (68 + e) (base + p.1) none (padTo 64 p.2))
  let n := places.length
  let b := b.forEach (places.zip (List.range n)) (fun b p =>
    let last : Bool := p.2 + 1 == n
    let size := (p.1.2.length + 63) / 64 * 64
    let b := b.writeExport e (exportEntry p.1.1 size u.stream 1 (bit (p.2 == 0) + bit last * 2) u.window 0 0)
    b.modExp e (fun x => { x with extents := x.extents ++ [(p.1.1, size)] }))
  b.modExp e (fun x => { x with offset := off, flying := x.flying ++ [u] })

/-- The bytes of the loaves of held bundles. -/
def heldBytes (us : List Bundle) : Nat := us.foldl (fun a u => a + u.loaves.foldl (fun a l => a + (l.length + 63) / 64 * 64) 0) 0

/-- The gaps of one stream join. -/
def GapEntry.join (g h : GapEntry) : GapEntry :=
  { g with lo := if windowDiff h.lo g.lo < 0 then h.lo else g.lo, hi := if windowDiff g.hi h.hi < 0 then h.hi else g.hi,
           count := satTo (2 ^ 32 - 1) (g.count + h.count) }

/-- A gap enters the gap list (R391). -/
def gapPut (gs : List GapEntry) (h : GapEntry) : List GapEntry :=
  if gs.any (fun g => g.stream == h.stream) then gs.map (fun g => if g.stream = h.stream then g.join h else g) else gs ++ [h]

/-- A discarded bundle enters the gap list (R391). -/
def gapAdd (gs : List GapEntry) (u : Bundle) : List GapEntry := gapPut gs ⟨u.stream, u.window, u.window, 1⟩

/-- Discard the oldest held bundles until the rest with a new one take at most 8 MiB. -/
def trimHold : Nat → List Bundle → List Bundle × List Bundle
  | 0, us => (us, [])
  | n + 1, us => match us with
    | [] => ([], [])
    | u :: rest => if heldBytes us ≤ 2 ^ 23 then (us, []) else (let (k, d) := trimHold n rest; (k, u :: d))

/-- A bundle for ring `e`: written when nothing is held before it and it fits, else held (R391). -/
def Block.exportBundle (b : Block) (e : Nat) (u : Bundle) : Block :=
  let x := b.tray.host.expRing e
  match if x.hold.isEmpty && x.gaps.isEmpty then b.bundlePlaces e u else none with
  | some (places, off) => b.writeBundle e u places off
  | none =>
    let (kept, dropped) := trimHold (x.hold.length + 1) (x.hold ++ [u])
    let b := if dropped.isEmpty then b else (b.count Reg.HST_EXP_GAP dropped.length).flag Reg.HST_STS 5
    b.modExp e (fun x => { x with hold := kept, gaps := dropped.foldl gapAdd x.gaps })

/-- Write GAP entries while positions are free. -/
def Block.drainGaps (b : Block) (e : Nat) : Block :=
  let log2 := b.fld (expReg Reg.HST_EXP_CFG e) 28 24
  b.forEach (b.tray.host.expRing e).gaps (fun b g =>
    if (b.tray.host.expRing e).ring.hasSpace log2 then
      let wid : Bool := decide ((g.count : Int) < windowDiff g.hi g.lo + 1)
      let b := b.writeExport e (exportEntry 0 0 g.stream 2 (bit wid * 4) g.lo g.hi g.count)
      b.modExp e (fun x =>
        let left := x.gaps.filter (fun h => h.stream != g.stream)
        { x with extents := x.extents ++ [(x.offset, 0)], gaps := left, flyingGaps := x.flyingGaps ++ [g] })
    else b)

/-- Write held bundles while they fit, with fuel for their number. -/
def Block.drainBundles (b : Block) (e : Nat) : Nat → Block
  | 0 => b
  | n + 1 =>
    match (b.tray.host.expRing e).hold with
    | [] => b
    | u :: rest =>
      match b.bundlePlaces e u with
      | none => b
      | some (places, off) => ((b.writeBundle e u places off).modExp e (fun x => { x with hold := rest })).drainBundles e n

/-- The routes change (R390, R422): fleet-context bundles that wait at a ring that may not carry them go to the ring that the route now
names (log 82). -/
def Block.rerouteFleet (b : Block) : Block :=
  let now := b.exportRing 0
  b.forEach ((List.range 4).filter (fun e => e != now && !b.isSet (expReg Reg.HST_EXP_CFG e) 30)) (fun b e =>
    let us := (b.tray.host.expRing e).hold
    (b.modExp e (fun x => { x with hold := us.filter (fun u => !u.fleet) })).forEach (us.filter Bundle.fleet) (fun b u => b.exportBundle now u))

/-- EXPORT_HOLD_DRAIN (R391): ring `e` writes GAP entries, then held bundles, as far as it has space. -/
def execExportHoldDrain (e : Fin 4) (s : State) : Host.Outcome State Fault Refusal :=
  onTray (fun b =>
    let x := b.tray.host.expRing e
    b.when (b.exportOpen e && !(x.hold.isEmpty && x.gaps.isEmpty)) (fun b =>
      let b := b.drainGaps e
      if (b.tray.host.expRing e).gaps.isEmpty then b.drainBundles e x.hold.length else b)) s

/-- Cut a bundle into loaves and give it to the ring of its stream (R389, R390). -/
def Block.sendBundle (b : Block) (job window : Nat) (bytes : Bytes) : Block :=
  let e := b.exportRing job
  let stream := if job = 0 then 0xFFFF else job
  let blk := b.fld (expReg Reg.HST_EXP_CFG e) 23 21
  let seq := sget (fun _ => 0) b.tray.host.expSeq stream
  let loaves := cutLoaves blk b.effort stream seq b.rawOnly (fun n => if n < blkSize blk then 2 else 0) bytes
  let b := (b.countLoaves bytes.length loaves).modHost (fun h =>
    { h with expSeq := sput (fun _ => 0) h.expSeq stream ((seq + loaves.length) % 2 ^ 32) })
  b.exportBundle e { stream := stream, fleet := job == 0, window := window, loaves := loaves }

end Sys2Proof.Machine
end

