-- ==== Sys2Proof/Machine/Image.lean ====
section
/-! DEFINITION. State images (R337, R339): their header, and what they hold. The layout of the body is not in the spec: body bytes are free,
and so is the state of an image that this block has not written (log 24). -/

namespace Sys2Proof.Machine

/-- The body bytes of the state image of a state: free (R331, log 24). -/
opaque Config.imageBody : Snapshot → Bytes

/-- The state that an image written by another block stands for: free (log 24). -/
opaque Config.imageState : Bytes → Snapshot

/-- The settings that a pass reads (R330, R337). -/
def passSettings : List Nat := [Reg.FTZ_AUDIT, Reg.FTZ_AUDIT_SALT, Reg.FTZ_AUDIT_LIM, Reg.ENS_CTL, Reg.ANV_CTL, Reg.WIT_CTL]

/-- The state of the cut after window `w` (R337). -/
def Block.snapshot (b : Block) (c w : Nat) : Snapshot :=
  let x := b.ctx c
  { w := w, an := { x.an with wins := x.an.wins.filter (fun p => decide (windowDiff p.w w ≤ 0)) }, members := x.members, seq := x.seq,
    dups := x.dups, settings := passSettings.map (fun r => (r, b.passReg c w r)) }

/-- A state image from its header fields and body (R339). -/
def imageBytes (job epoch w : Nat) (plan body : Bytes) : Bytes :=
  let head := [0xA9, 0x51, 0x01, 0x00] ++ leBytes 2 job ++ zeros 2 ++ leBytes 4 epoch ++ leBytes 5 w ++ zeros 7 ++
    leBytes 8 (64 + body.length) ++ plan
  head ++ digest16 (head ++ zeros 16 ++ body) ++ body

/-- The header fields of an image. -/
def imgJob (i : Bytes) : Nat := fieldAt i 4 2
def imgEpoch (i : Bytes) : Nat := fieldAt i 8 4
def imgWindow (i : Bytes) : Nat := fieldAt i 12 5
def imgPlan (i : Bytes) : Bytes := slice i 32 16
def imgDigest (i : Bytes) : Bytes := slice i 48 16

/-- The header and SIZE of an image (R339, R340). -/
def imageFormGood (i : Bytes) : Bool :=
  decide (64 ≤ i.length) && slice i 0 3 == [0xA9, 0x51, 0x01] && zeroAt i 3 1 && zeroAt i 6 2 && zeroAt i 17 7 && fieldAt i 24 8 == i.length

/-- DIGEST of an image is right. -/
def imageDigestGood (i : Bytes) : Bool := imgDigest i == digest16 (i.take 48 ++ zeros 16 ++ i.drop 64)

/-- Form the image of the cut after window `w`; the block keeps what it stands for. -/
def Block.takeImage (b : Block) (c w : Nat) : Bytes × Block :=
  let x := b.ctx c
  let snap := b.snapshot c w
  let img := imageBytes x.job x.epoch w x.plan (Config.imageBody snap)
  (img, b.modPlane (fun u => { u with saved := u.saved.filter (fun e => e.1 != imgDigest img) ++ [(imgDigest img, snap)] }))

/-- The state that an image stands for. -/
def Block.imageSnapshot (b : Block) (i : Bytes) : Snapshot :=
  match b.tray.plane.saved.find? (fun e => e.1 == imgDigest i) with
  | some e => e.2
  | none => { Config.imageState i with w := imgWindow i }

end Sys2Proof.Machine
end

