-- ==== Sys2Proof/Machine/Witness.lean ====
section
/-! DEFINITION. The witness unit of Borlu-T (R300 to R307): digest records on their way to the vote node, keys, decisions, vote records,
conditioning sieves. -/

namespace Sys2Proof.Machine

/-! ### Digest records (R299, R301) -/

/-- RANK, CHANNEL, CMD, FT and DIGEST of a digest record. -/
def digRank (r : Bytes) : Nat := bitsOf (fieldAt r 8 4) 17 0
def digChannel (r : Bytes) : Nat := byteAt r 12 % 8
def digCmd (r : Bytes) : Nat := bitsOf (fieldAt r 16 4) 21 0
def digFt (r : Bytes) : BitVec 64 := BitVec.ofNat 64 (fieldAt r 20 8)
def digValue (r : Bytes) : Bytes := slice r 28 16

/-- The group of a rank on a channel (R300). -/
def groupFor (plan : Bytes) (rank ch : Nat) : Option Replicas := (planReplicas plan).find? (fun g => g.channel == ch && rank ∈ g.members)

/-- The group of an identifier. -/
def groupById (plan : Bytes) (id : Nat) : Option Replicas := (planReplicas plan).find? (fun g => g.id == id)

/-- Every member of a group is in the subtree of this node. -/
def Ctx.holdsAll (x : Ctx) (g : Replicas) : Bool := g.members.all (fun r => x.map.any (fun e => e.1 == r))

/-- This node is the vote node of a group (R300): it holds every member, and no child of it does. -/
def Ctx.votesFor (x : Ctx) (g : Replicas) : Bool := x.holdsAll g && !x.children.any (fun k => g.members.all (fun r => r ∈ k.ranks))

/-- The groups with open keys over all contexts (R302). -/
def Block.openGroups (b : Block) : List (Nat × Nat) :=
  (b.ctxs.map (fun e => (e.2.an.keys.map (fun k => (e.1, k.group))).eraseDups)).flatten

/-- A digest arrives at its vote node (R302). -/
def Block.takeDigest (b : Block) (c : Nat) (g : Replicas) (r : Bytes) : Block :=
  let x := b.ctx c
  let cmd := digCmd r
  let now := windowOf x.k b.ft
  let isKey (k : VoteKey) : Bool := k.group == g.id && k.cmd == cmd
  if x.an.decided.any (fun e => e.1 == g.id && e.2.1 == cmd && decide (windowDiff now e.2.2 < 2)) then
    (b.count Reg.WIT_LATE 1).flag Reg.WIT_STS 3
  else match x.an.keys.find? isKey with
    | some k =>
      if k.records.any (fun q => digRank q == digRank r) then (b.count Reg.WIT_DUP 1).flag Reg.WIT_STS 2
      else b.modAn c (fun a => { a with keys := a.keys.map (fun k => if isKey k then { k with records := k.records ++ [r], last := b.ft } else k) })
    | none =>
      let groups := b.openGroups
      let full := 256 ≤ (x.an.keys.filter (fun k => k.group == g.id)).length
      if full ∨ (64 ≤ groups.length ∧ !((c, g.id) ∈ groups)) then (b.count Reg.WIT_OVF 1).flag Reg.WIT_STS 4
      else b.modAn c (fun a => { a with keys := a.keys ++ [{ group := g.id, cmd := cmd, records := [r], last := b.ft }] })

/-- A digest record at a node (R301, R302): a tray keeps those of its own ranks; the vote node takes it; a node below passes it on. -/
def Block.digestRecord (b : Block) (f : Frame) (r : Bytes) : Block :=
  match b.fromChild f with
  | none => b
  | some c =>
    let x := b.ctx c
    let b := b.count Reg.WIT_RX 1
    if !b.isSet Reg.WIT_CTL 0 then b
    else match groupFor (b.ctxPlan c) (digRank r) (digChannel r) with
      | none => b
      | some g =>
        let b := if x.level = 5 ∧ f.level = 3 then b.modAn c (fun a => { a with held := a.held ++ [r] }) else b
        if x.votesFor g then b.takeDigest c g r
        else if x.holdsAll g then b
        else b.sendControl (some c) (.parent c) 0x0301 (r.drop 8)

/-- DIGEST_RECORD_RECEIVE (R301, R302). -/
def execDigestRecordReceive (port : Fin 8) (link : Fin 64) (frame : Bytes) (s : State) : Host.Outcome State Fault Refusal :=
  let _ := port
  onTray (fun b => b.receiveControl link frame 0x0301 Block.digestRecord) s

/-! ### Deciding (R303 to R305) -/

/-- The window of a digest record's stamp. -/
def Ctx.digWindow (x : Ctx) (r : Bytes) : Nat := windowOf x.k (digFt r)

/-- W_min of the digest records of a key (R303). -/
def Ctx.wMinOf (x : Ctx) (rs : List Bytes) : Nat :=
  (rs.map x.digWindow).foldl (fun a w => if windowDiff w a < 0 then w else a) ((rs.head?.map x.digWindow).getD 0)
def Ctx.wMin (x : Ctx) (k : VoteKey) : Nat := x.wMinOf k.records

/-- The latest window that has closed at the node. -/
def Ctx.lastClosed (x : Ctx) (ft : BitVec 64) : Nat := (windowOf x.k (ft - BitVec.ofNat 64 x.closeDelay) + 2 ^ 40 - 1) % 2 ^ 40

/-- The window whose pass a key decided now belongs to: that of the latest close, or at a tray the one whose witness step files it (R306, R335;
DEDUCED, log 27). -/
def Ctx.decidedIn (x : Ctx) (ft : BitVec 64) : Nat := (x.lastClosed ft + bit (x.level == 5)) % 2 ^ 40

/-- A key is decided now (R303): a close has come since every member delivered, or the close of W_min + 1 has. -/
def Ctx.keyDue (x : Ctx) (ft : BitVec 64) (g : Replicas) (k : VoteKey) : Bool :=
  let all := g.members.all (fun m => k.records.any (fun r => digRank r == m))
  ftGe ft (x.closeTime ft ((x.wMin k + 1) % 2 ^ 40)) || (all && ftGe (x.closeTime ft (x.lastClosed ft)) k.last)

/-- The digest value that more than half of the delivered records hold. -/
def majority (rs : List Bytes) : Option Bytes :=
  (rs.map digValue).find? (fun d => decide (rs.length < 2 * (rs.filter (fun r => digValue r == d)).length))

/-- The outcome of a member (R303): 0 AGREE, 1 DISSENT, 2 SPLIT, 3 ABSENT, 4 ALONE. -/
def outcomeOf (rs : List Bytes) (m : Nat) : Nat :=
  match rs.find? (fun r => digRank r == m) with
  | none => 3
  | some r =>
    if rs.length = 1 then 4
    else match majority rs with
      | some d => if digValue r = d then 0 else 1
      | none => 2

/-- The body of a vote record from byte 8 (R304). -/
def voteBody (g : Replicas) (cmd w : Nat) (outs : List Nat) (maj : Bytes) : Bytes :=
  leBytes 2 g.id ++ leBytes 1 g.channel ++ leBytes 1 g.members.length ++ leBytes 4 cmd ++ leBytes 5 w ++ zeros 3 ++
    leBytes 8 ((outs.zip (List.range 16)).foldl (fun a o => a + o.1 * 16 ^ o.2) 0) ++ maj

/-- The body of the vote record of a key decided on some digest records (R303, R304). -/
def Ctx.voteOf (x : Ctx) (g : Replicas) (cmd : Nat) (rs : List Bytes) : Bytes :=
  voteBody g cmd (x.wMinOf rs) (g.members.map (outcomeOf rs)) (if 2 ≤ rs.length then (majority rs).getD (zeros 16) else zeros 16)

/-- A vote record leaves toward the children whose subtree holds a member; a tray keeps it for its witness step (R304, R306). -/
def Block.passVote (b : Block) (c : Nat) (g : Replicas) (body : Bytes) : Block :=
  let x := b.ctx c
  if x.level = 5 then b.modAn c (fun a => { a with votes := a.votes ++ [(b.ft.toNat, controlRecord 0x0302 body)] })
  else b.forEach (x.children.filter (fun k => g.members.any (fun m => m ∈ k.ranks)))
    (fun b k => b.sendControl (some c) (childDest c k) 0x0302 body)

/-- The alarms of a decision (R305). -/
def Block.voteAlarms (b : Block) (c w : Nat) (g : Replicas) (rs : List Bytes) : Block :=
  let param (o : Nat) : Nat := g.id + g.channel * 2 ^ 16 + o * 2 ^ 19
  let outs := g.members.map (fun m => (m, outcomeOf rs m))
  if !(g.alarm && b.isSet Reg.WIT_CTL 1) then b
  else
    let b := b.forEach (outs.filter (fun o => o.2 == 1)) (fun b o => b.raiseAlarm c 0x0F01 15 (some o.1) w (param 1))
    match (outs.filter (fun o => o.2 == 2)).map Prod.fst with
    | [] => b
    | m :: ms => b.raiseAlarm c 0x0F01 15 (some (ms.foldl min m)) w (param 2)

/-- Decide a key (R303 to R305). -/
def Block.decideKey (b : Block) (c : Nat) (g : Replicas) (k : VoteKey) : Block :=
  let x := b.ctx c
  let w := x.wMin k
  let outs := g.members.map (outcomeOf k.records)
  let n (o : Nat) : Nat := (outs.filter (· == o)).length
  let body := x.voteOf g k.cmd k.records
  let now := windowOf x.k b.ft
  let b := b.modAn c (fun a => { a with
    keys := a.keys.filter (fun q => !(q.group == k.group && q.cmd == k.cmd)),
    decided := (a.decided ++ [(k.group, k.cmd, now)]).filter (fun e => decide (windowDiff now e.2.2 < 2)) })
  let b := (((b.count Reg.WIT_VOTES 1).count Reg.WIT_DISSENT (n 1)).count Reg.WIT_SPLIT (n 2)).count Reg.WIT_ABSENT (n 3)
  let b := if n 1 = 0 then b else b.flag Reg.WIT_STS 0
  let b := if n 2 = 0 then b else b.flag Reg.WIT_STS 1
  let b := b.modWin c (x.decidedIn b.ft) (fun p => { p with digests := p.digests ++ k.records })
  let b := if x.level = 5 then b else b.ledgerWrite c 6 w (controlRecord 0x0302 body)
  (b.passVote c g body).voteAlarms c w g k.records

/-- VOTE_DECIDE (R303): the key of a group and CMD, at a close that decides it. A halted plane writes no result (R316). -/
def execVoteDecide (c : Fin 64) (group : Fin 65536) (cmd : BitVec 22) (s : State) : Host.Outcome State Fault Refusal :=
  onTray (fun b =>
    let x := b.ctx c
    match x.an.keys.find? (fun k => k.group == group.val && k.cmd == cmd.toNat), groupById (b.ctxPlan c) group with
    | some k, some g => b.when (!b.isSet Reg.PLN_STS 4 && x.isActive && b.roleActs c (x.lastClosed b.ft) && x.keyDue b.ft g k) (fun b => b.decideKey c g k)
    | _, _ => b) s

/-- A vote record without a reserved OUTCOME (R304). -/
def voteGood (r : Bytes) : Bool := (List.range (min 16 (byteAt r 11))).all (fun i => decide (fieldAt r 24 8 / 16 ^ i % 16 ≤ 4))

/-- A vote record from above (R304); one with a reserved OUTCOME is discarded and counted (R11). -/
def Block.voteRecord (b : Block) (f : Frame) (r : Bytes) : Block :=
  if !voteGood r then b.recordBad
  else match b.fromParent f with
  | none => b
  | some c =>
    match groupById (b.ctxPlan c) (fieldAt r 8 2) with
    | some g => b.passVote c g (r.drop 8)
    | none => b

/-- VOTE_RECEIVE (R304). -/
def execVoteReceive (port : Fin 8) (link : Fin 64) (frame : Bytes) (s : State) : Host.Outcome State Fault Refusal :=
  let _ := port
  onTray (fun b => b.receiveControl link frame 0x0302 Block.voteRecord) s

/-! ### Holding and filing (R301, R306, R307) -/

/-- The FT at which a tray lets a digest record go (R301): two windows after the last close that could decide its key. Above the tray
that close is taken at the level of the job hearth (log 23). -/
def Ctx.holdEnd (x : Ctx) (now : BitVec 64) (g : Replicas) (r : Bytes) : BitVec 64 :=
  let y : Ctx := if x.holdsAll g then x else { x with level := x.hlevel }
  ftAdd (y.closeTime now ((x.digWindow r + 1) % 2 ^ 40)) (2 * windowTicks x.k)

/-- DIGEST_HOLD_EXPIRE (R301). -/
def execDigestHoldExpire (c : Fin 64) (s : State) : Host.Outcome State Fault Refusal :=
  onTray (fun b =>
    let x := b.ctx c
    let plan := b.ctxPlan c
    let keep (r : Bytes) : Bool := match groupFor plan (digRank r) (digChannel r) with | some g => !ftGe b.ft (x.holdEnd b.ft g r) | none => false
    b.when (x.an.held.any (fun r => !keep r)) (fun b => b.modAn c (fun a => { a with held := a.held.filter keep }))) s

/-- The conditions of a digest record that are present: index 0 TEMP, 1 VOLT, 2 MARGIN, 3 LOAD, and value. -/
def digConditions (r : Bytes) : List (Nat × Nat) :=
  [(0, fieldAt r 44 2), (1, fieldAt r 46 2), (2, fieldAt r 48 2), (3, fieldAt r 52 4)].filter (fun e => !bitOf (byteAt r 50) e.1)

/-- Enter the conditions of a member's digest record into sieves `base` to `base + 3` of its rank (R306). -/
def Block.fileConditions (b : Block) (c w rank base : Nat) (plan r : Bytes) : Block :=
  b.modWin c w (fun p => { p with sieves := (digConditions r).foldl (fun m e =>
    smodify (fun _ => ({} : Sieve)) m (8 * rank + base + e.1) (fun s => { s with shift := planWitnessShift plan e.1, n := 1 }.enter e.2)) p.sieves })

/-- One member's outcome `o` is filed with its digest record (R306, R307). -/
def Block.fileOutcome (b : Block) (c w rank ch o : Nat) (plan r : Bytes) : Block :=
  let b := b.fileConditions c w rank 0 plan r
  if o = 1 ∨ o = 2 then
    (b.modWin c w (fun p => { p with disagree := smodify (fun _ => 0) p.disagree (8 * rank + ch) (· + 1) })).fileConditions c w rank 4 plan r
  else b

/-- File one vote record at a tray for the pass of window `w` (R306). A record of which the tray does not hold the digest record of each of
its own members but the ABSENT ones files nothing, also for the others (DEDUCED, log 23); the vote node writes its own all the same (R304). -/
def Block.fileVote (b : Block) (c w : Nat) (plan v : Bytes) : Block :=
  match groupById plan (fieldAt v 8 2) with
  | none => b
  | some g =>
    let x := b.ctx c
    let cmd := fieldAt v 12 4
    let mine := ((g.members.zip (List.range 16)).filter (fun m => x.map.any (fun e => e.1 == m.1))).map (fun m =>
      (m.1, bitsOf (fieldAt v 24 8) (4 * m.2 + 3) (4 * m.2),
        x.an.held.find? (fun r => digRank r == m.1 && digChannel r == g.channel && digCmd r == cmd)))
    let told := mine.filter (fun m => m.2.1 != 3)
    let b := if told.any (fun m => m.2.2.isNone) then
        ((b.count Reg.WIT_LATE 1).flag Reg.WIT_STS 3).when (x.votesFor g) (fun b => b.modWin c w (fun p => { p with votes := p.votes ++ [v] }))
      else (b.modWin c w (fun p => { p with votes := p.votes ++ [v] })).forEach told (fun b m =>
        match m.2.2 with | some r => b.fileOutcome c w m.1 g.channel m.2.1 plan r | none => b)
    b.modAn c (fun a => { a with held := a.held.filter (fun r => !(digChannel r == g.channel && digCmd r == cmd && digRank r ∈ g.members)) })

/-- WITNESS for window `w` of a context (R306). -/
def Block.witnessStep (b : Block) (c w : Nat) : Block :=
  let x := b.ctx c
  let due := x.an.votes.filter (fun v => !ftGe (BitVec.ofNat 64 v.1) (x.closeTime b.ft w))
  let plan := b.ctxPlan c
  let b := b.modAn c (fun a => { a with votes := a.votes.filter (fun v => ftGe (BitVec.ofNat 64 v.1) (x.closeTime b.ft w)) })
  (b.forEach due (fun b v => b.fileVote c w plan v.2)).modWin c w (fun p => { p with witnessed := true })

end Sys2Proof.Machine
end

