-- ==== Sys2Proof/Machine/Reduce.lean ====
section
/-! DEFINITION. Reduction along the job tree (R170 to R174, R181, R319, R322): leaf operands of a tray's ranks, partials of children,
the MERGE and SEND steps, straggler swaps. -/

namespace Sys2Proof.Machine

/-! ### Leaf operands (R172, R319) -/

/-- What a leaf source gives: nothing, an unsigned number and whether its counter was saturated, a signed number, a binary32 value,
a sieve. -/
inductive LeafVal
  | absent
  | nat (v : Nat) (sat : Bool)
  | int (v : Int)
  | f32 (v : Nat)
  | sieve (s : Sieve)
deriving DecidableEq, Repr

/-- The counter that a source of spaces 1 to 3 names was saturated (R89, R177). -/
def counterSat (rs : List Bytes) (src : Nat) : Bool :=
  let i := src % 4096
  let (key, j) := match src / 4096 with
    | 1 => (i / 64, i % 64)
    | 2 => (64, i)
    | _ => (128 + i / 64, i % 64)
  decide (1 ≤ src / 4096) && decide (src / 4096 ≤ 3) &&
    match rs.find? (fun r => byteAt r 0 == 1 && byteAt r 1 == key) with
    | some r => bitOf (fieldAt r 8 8) j
    | none => false

/-- A source value as a leaf value. -/
def SrcVal.leaf (v : SrcVal) (sat : Bool) : LeafVal :=
  match v with
  | .missing => .absent
  | .int n _ => .nat n sat
  | .f32 x => .f32 x
  | .sieve s m => .sieve { s with n := 1, sat := m }

/-- The value of a leaf source for a rank at the merge of window `w` (R319). Late leaves come from annex inputs and late vectors alone
(R170): other spaces give nothing there. -/
def Block.leafValue (b : Block) (c w rank src : Nat) (late : Bool) (view : SourceView) : LeafVal :=
  let p := b.win c w
  let i := src % 4096
  let plan := b.ctxPlan c
  match src / 4096 with
  | 7 => if late then .absent else if witnessed plan rank i then .nat (sget (fun _ => 0) p.disagree (8 * rank + i)) false else .absent
  | 8 =>
    let lag := (planCoverage plan (slotOf (sget (fun _ => 0) (b.ctx c).map rank))).2.1
    if late then .absent else .nat (sget (fun _ => 0) (b.win c ((w + 2 ^ 40 - lag) % 2 ^ 40)).devCount (16 * rank + i)) false
  | 9 => match p.vectors.find? (fun v => v.rank == rank && v.late == late) with
    | some v => .f32 (sget (fun _ => f32NaN) v.feats i)
    | none => if late then .absent else .f32 f32NaN
  | 13 => match (p.verdicts.find? (fun v => v.rank == rank && v.late == late && v.ens == i / 4)).bind (fun v => v.acc[i % 4]?) with
    | some a => .int a
    | none => .absent
  | 14 =>
    let lag := (planCoverage plan (slotOf (sget (fun _ => 0) (b.ctx c).map rank))).2.1
    match ((b.win c ((w + 2 ^ 40 - lag) % 2 ^ 40)).coverOf rank).marks.find? (fun e => e.1 == i) with
    | some e => if late then .absent else .nat e.2.2 false
    | none => .absent
  | 15 => match p.sieves.find? (fun e => e.1 == 8 * rank + i) with
    | some e => if late then .absent else .sieve e.2
    | none => .absent
  | sp => if late && (sp == 6 || sp == 10 || sp == 11) then .absent else (view.get src).leaf (counterSat view.records src)

/-- A leaf value as an integer, for the integer forms. -/
def LeafVal.toInt? : LeafVal → Option Int
  | .nat v _ => some v
  | .int v => some v
  | _ => none

/-- A leaf value in binary32; the canonical NaN for a missing one. -/
def LeafVal.toF32 : LeafVal → Nat
  | .nat v _ => f32OfInt v
  | .int v => f32OfInt v
  | .f32 v => v
  | _ => f32NaN

/-- The leaf's counter was saturated. -/
def LeafVal.sat : LeafVal → Bool
  | .nat _ s => s
  | _ => false

/-- The leaf operand of an item that is no TOPK and no PRESENCE (R177, R178, R182). A missing value is a NaN leaf in FORM F32 and no
operand in every other form. -/
def leafItem (e : ListEntry) (rank : Nat) (late : Bool) (v : LeafVal) : Option Item :=
  let item (sat nan : Bool) (form : Nat) (body : Bytes) : Item := { id := e.item, op := e.op, form := form, sat := sat, nan := nan,
                                                                    late := late, body := body }
  match e.op with
  | 1 => v.toInt?.map (fun n =>
      if e.form = 0 then item v.sat false 0 (leBytes 4 1 ++ zeros 4 ++ leBytes 8 n.toNat)
      else item v.sat false 1 (leBytes 4 1 ++ zeros 4 ++ leBytes 8 n.toNat ++ leBytes 8 (-n).toNat))
  | 7 =>
    match v with
    | .nat n s => let (f, body, sat) := (({ shift := e.param, n := 1, sat := s } : Sieve).enter n).store; some (item sat false f body)
    | .sieve s => let (f, body, sat) := s.store; some (item sat false f body)
    | _ => none
  | op =>
    let r := if op = 4 ∨ op = 5 then rank else 0
    if e.form = 2 then
      let x := v.toF32
      if f32IsNaN x then some (item false true 2 (extremeBody 0 0 0)) else some (item false false 2 (extremeBody 1 r x))
    else v.toInt?.map (fun n => item false false e.form (extremeBody 1 r (BitVec.ofInt 64 n).toNat))

/-- The TOPK key of a leaf value. Signed values map to keys in their order, by 2^31; a number that does not fit 32 bits has no key that the
rules state: a free value of the number stands for it (R331, log 4). -/
def topKey (v : LeafVal) : Option Nat :=
  let key (n : Int) : Nat := if 0 ≤ n ∧ n < 2 ^ 32 then n.toNat else Config.wideKey n % 2 ^ 32
  match v with
  | .nat n _ => some (key n)
  | .int n => some (key (n + 2 ^ 31))
  | _ => none

/-- The leaf operand of a rank for an item (R172, R181, R296, R319). -/
def Block.leafOf (b : Block) (c w rank : Nat) (e : ListEntry) (late : Bool) (view : SourceView) : Option Item × Block :=
  let item (body : Bytes) : Item := { id := e.item, op := e.op, form := e.form, sat := false, nan := false, late := late, body := body }
  let strag := (planStragglers (b.ctxPlan c)).filter (fun t => t.topk == e.item)
  if e.op = 8 then (if late then (none, b) else (some (item (presenceBody rank 1 (fun _ => view.presence))), b))
  else if e.op = 6 then
    let key := if strag.isSome then (if late then none else ((b.win c w).scores.find? (fun x => x.1 == rank)).map Prod.snd)
      else topKey (b.leafValue c w rank e.source late view)
    (key.map (fun k => item (topBody 1 e.param [(k, rank)])), b)
  else
    let r := leafItem e rank late (b.leafValue c w rank e.source late view)
    match r with
    | some i => (some i, if i.nan then (b.count Reg.KND_NAN_CNT 1).flag Reg.KND_STS 1 else b)
    | none => (none, b)

/-- The ranks of a tray that have a complete output among frames. -/
def rankComplete (fs : List Frame) (rank : Nat) : Bool := fs.any (fun f => f.level == 3 && f.rank == rank)

/-- The leaf operands of a tray's ranks for an item of window `w` (R172): a rank without a complete output gives its presence code
alone. -/
def Block.trayOperands (b : Block) (c w : Nat) (e : ListEntry) (late : Bool) : List Item × Block :=
  let x := b.ctx c
  let slot := x.winSlot w
  let of := if late then x.windowBefore w else w
  let frames := if late then slot.annex else slot.inputs
  x.map.foldl (fun (a : List Item × Block) m =>
    if rankComplete frames m.1 || (e.op == 8 && !late) then
      let on := a.2.sourceView c of m.1 frames
      let view := if late then { on with events := frames.any (fun f => f.level == 3 && f.rank == m.1 && f.cls == 3) } else on
      let (i, b) := a.2.leafOf c w m.1 e late view
      (a.1 ++ i.toList, b)
    else a) ([], b)

/-! ### Partials of children (R173, R176, R181) -/

/-- The items of the complete outputs among frames: none for an output with a fragment fault. -/
def outputItems (fs : List Frame) : List (Frame × Option (List Item)) :=
  (outputsOf (fs.filter (fun f => f.level != 3))).map (fun f => (f, readItems (outputPayloads fs f)))

/-- The items that every node sends for each window: the PRESENCE items of the plan's list (R172, R319). -/
def presenceItems (plan : Bytes) : List Nat := (((planList plan).filter (fun e => e.op == 8)).map ListEntry.item).eraseDups

/-- A child's partial is complete (R173, R181): it has a complete output, and every PRESENCE item of the plan in one; none of its
outputs is incomplete or has a fragment fault. -/
def Child.complete (k : Child) (plan : Bytes) (slot : WinSlot) : Bool :=
  let mine := slot.inputs.filter (fun f => f.level == k.level && f.rank ∈ k.ranks)
  !(completeFrames mine).isEmpty && (openFrames mine).isEmpty && !slot.held.any (fun f => f.level == k.level && f.rank ∈ k.ranks) &&
    (outputItems mine).all (fun o => o.2.isSome) &&
    (presenceItems plan).all (fun id => (outputItems mine).any (fun o => (o.2.getD []).any (fun i => i.op == 8 && i.id == id)))

/-- The operands of an item at a node of level 6 or above. -/
def Block.nodeOperands (b : Block) (c w : Nat) (e : ListEntry) (late : Bool) : List Item :=
  let x := b.ctx c
  let slot := x.winSlot w
  let fs := if late then slot.annex else slot.inputs
  let got := ((outputItems fs).map (fun o => (o.2.getD []).filter (fun i => i.id == e.item && i.known))).flatten
  if late then got.map (fun i => { i with late := true })
  else if e.op ≠ 8 then got
  else
    let next := x.winSlot ((w + 1) % 2 ^ 40)
    let absent := x.children.filter (fun k => !k.complete (b.ctxPlan c) { slot with held := slot.held ++ next.held.filter (fun f => f.window == w) })
    let lateItem (k : Child) : List Item := k.ranks.map (fun r =>
      { id := e.item, op := 8, form := 0, sat := false, nan := false, late := false, body := presenceBody r 1 (fun _ => 2) })
    got ++ (absent.map lateItem).flatten

/-! ### Straggler swaps (R297) -/

/-- The swap window: the lowest one that ends late enough and keeps the period. -/
def Ctx.swapWindow (x : Ctx) (t : Stragglers) (ft : BitVec 64) : Nat :=
  let w0 := windowOf x.k (ftAdd ft (2 * x.traversal))
  let ok (w : Nat) : Bool := ftGe (windowStart x.k ft w) (ftAdd ft (2 * x.traversal)) && w % t.swapPer == t.swapOfs
  ((List.range (2 * t.swapPer + 2)).map (fun i => (w0 + i) % 2 ^ 40)).find? ok |>.getD w0

/-- One STRAGGLER_SWAP notice (R297, R387). -/
def Block.swapTold (b : Block) (c w : Nat) (t : Stragglers) (e : Nat × Nat) : Block :=
  let x := b.ctx c
  let body := leBytes 4 e.2 ++ leBytes 4 (e.1 % 2 ^ 31) ++ leBytes 4 (sget (fun _ => 0) x.map e.2) ++ leBytes 5 (x.swapWindow t b.ft)
  (b.modAn c (fun a => { a with swaps := sput (fun _ => 2 ^ 41) a.swaps e.2 w })).pushNotice 0x0E02 x.job body

/-- The job hearth completes TOPK_ITEM (R297): persistent ranks are told to the host. -/
def Block.stragglerSwaps (b : Block) (c w : Nat) (i : Item) : Block :=
  match planStragglers (b.ctxPlan c) with
  | none => b
  | some t =>
    if t.topk ≠ i.id ∨ t.swapPer = 0 ∨ !(b.ctx c).isHearth then b
    else b.forEach ((topEntries i.body).filter (fun e => bitOf e.1 31)) (fun b e =>
      let x := b.ctx c
      match x.an.swaps.find? (fun s => s.1 == e.2) with
      | some s => if windowDiff w s.2 < t.again then b else b.swapTold c w t e
      | none => b.swapTold c w t e)
/-! ### MERGE (R322, R324) -/

/-- A node may merge or send for window `w` (R25, R44, R173): its role acts for the window, no step passed over it, and its close has come, or
every child has delivered. -/
def Block.mayMerge (b : Block) (c w : Nat) : Bool :=
  let x := b.ctx c
  b.roleActs c w && !x.skips w && (x.level == 5 || ftGe b.ft (x.closeTime b.ft w) || x.children.all (fun k => k.complete (b.ctxPlan c) (x.winSlot w)))

/-- Outputs of window `w` with a fragment fault, and items of a reserved OP or FORM, are discarded and counted, once (R11, R175, R176). -/
def Block.countFaulty (b : Block) (c w : Nat) : Block :=
  let slot := (b.ctx c).winSlot w
  let outs := outputItems slot.inputs ++ outputItems slot.annex
  let n := (outs.filter (fun o => o.2.isNone)).length
  if (b.ctx c).level = 5 ∨ !(b.win c w).merged.isEmpty then b
  else (if n = 0 then b else (b.count Reg.FRM_BAD n).flag Reg.FRM_STS 1).badItems (outs.map (fun o => o.2.getD [])).flatten

/-- Merge list entry `i` for window `w`: the item of the window, and the late item of the window before. -/
def Block.mergeEntry (b : Block) (c w i : Nat) (e : ListEntry) : Block :=
  if i ∈ (b.win c w).merged then b
  else
    let tray : Bool := (b.ctx c).level == 5
    let (ops, b) := if tray then b.trayOperands c w e false else (b.nodeOperands c w e false, b)
    let (late, b) := if tray then b.trayOperands c w e true else (b.nodeOperands c w e true, b)
    let (r, b) := b.knead w ops
    let (l, b) := b.knead ((b.ctx c).windowBefore w) late
    let b := b.modWin c w (fun p => { p with merged := p.merged ++ [i], parts := p.parts ++ r.toList, lateParts := p.lateParts ++ l.toList })
    match r with | some x => b.stragglerSwaps c w x | none => b

/-- MERGE for window `w` of a context: list entries from `first` on. -/
def Block.mergeStep (b : Block) (c w first count : Nat) : Block :=
  if !b.mayMerge c w then b
  else
    let list := (((planList (b.ctxPlan c)).zip (List.range 65536)).drop first).take count
    b.countFaulty c w |>.forEach list (fun b e => b.mergeEntry c w e.2 e.1)

/-! ### SEND (R173, R174) -/

/-- Form the frames of one output and queue each of them toward every destination; the frames are kept for a new parent (R214). -/
def Block.sendAll (b : Block) (c : Nat) (w : Send) (dests : List Dest) (payloads : List Bytes) : Block :=
  let n := payloads.length
  (payloads.foldl (fun (a : Block × Nat) p =>
    let x := a.1
    let raw := x.frameFor w a.2 n p
    let x := x.forEach dests (fun x d => (x.queueItem (x.egressCtx c) w.cls d raw).frameSent)
    let x := if w.down then x else x.modCtx c (fun y => { y with
      outputs := y.outputs.filter (fun f => decide (windowDiff w.window f.window < 8)) ++ [readFrame raw] })
    (x.seqNext (some c), a.2 + 1)) (b, 0)).1

/-- An item in the form that a job result and a frame down take: sieves RESOLVED (R174, R185). -/
def Item.resolved (i : Item) : Item :=
  if i.op ≠ 7 then i
  else match readSieve i.form i.sat i.body with
    | some s => let (body, sat) := s.resolve; { i with form := 2, body := body, sat := sat }
    | none => i

/-- Send items of one window upward, one output for each class; FT is that of the end of the window (R157). -/
def Block.sendUp (b : Block) (c window : Nat) (late : Bool) (list : List ListEntry) (items : List Item) : Block :=
  b.forEach [2, 3, 4] (fun b cls =>
    let mine := items.filter (fun i => list.any (fun e => e.item == i.id && e.cls == cls))
    if mine.isEmpty then b
    else b.sendAll c { ctx := some c, cls := cls, dest := .parent c, window := window, ft := windowEnd (b.ctx c).k b.ft window, late := late }
      [.parent c]
      (packRecords (mine.map Item.records).flatten))

/-- The close of window `w` at the parent has passed while the context catches up: its outputs stay here (R340). -/
def Block.parentClosed (b : Block) (c w : Nat) : Bool :=
  let x := b.ctx c
  let up : Ctx := { x with level := x.level + 1 }
  x.catchup && ftGe b.ft (up.closeTime b.ft w)

/-- SEND for window `w`: the partials upward, or job statistics down from the job hearth, whose other roles in the job tree have them at
once (R174). -/
def Block.sendStep (b : Block) (c w first count : Nat) : Block :=
  if !b.mayMerge c w then b
  else
    let b := b.sendAlarms c w true
    let x := b.ctx c
    let list := (((planList (b.ctxPlan c)).zip (List.range 65536)).drop first).take count |>.filter (fun e => !(e.2 ∈ (b.win c w).sent))
    let entries := list.map Prod.fst
    let pick (is : List Item) : List Item := is.filter (fun i => entries.any (fun e => e.item == i.id))
    let items := pick (b.win c w).parts
    let late := pick (b.win c w).lateParts
    let b := b.modWin c w (fun p => { p with sent := p.sent ++ list.map Prod.snd })
    if x.isHearth then
      let stats := items.map Item.resolved
      let kids := b.statsDests x.job
      let b := if stats.isEmpty ∨ kids.isEmpty then b
        else b.sendAll c { ctx := some c, cls := 2, dest := .parent c, window := w, ft := windowEnd x.k b.ft w, down := true } kids
          (packRecords (stats.map Item.records).flatten)
      b.forEach (b.jobNodes x.job) (fun b i => b.keepStats i w stats)
    else if b.parentClosed c w then b
    else (b.sendUp c w false entries items).sendUp c (x.windowBefore w) true entries late

end Sys2Proof.Machine
end

