-- ==== Sys2Proof/Machine/Result.lean ====
section
/-! DEFINITION. The result unit (R334, R337, R389): the records of a window, its output digest, the ledger, the window bundles, checkpoints. -/

namespace Sys2Proof.Machine

/-- The nine kinds of records of a pass, in the order of R334. The counts of a replay job's outputs are the same. -/
abbrev PassRecords := List (List Bytes)

/-- A whole item as a record: header and body, filled to a multiple of 8 bytes. -/
def Item.record (i : Item) : Bytes := padTo 8 (itemHeader i.id i.op i.form i.flags 0 i.body.length ++ i.body)

/-- The deviation records that the anvil pass of this pass covers: of each rank those of the window that its LAG names (R286, R288). -/
def Block.passDeviations (b : Block) (c w : Nat) : List Bytes :=
  let x := b.ctx c
  let plan := b.ctxPlan c
  let lagOf (r : Nat) : Nat := (planCoverage plan (slotOf (sget (fun _ => 0) x.map r))).2.1
  ((List.range 9).map (fun i =>
    let lag := 8 - i
    ((x.an.win ((w + 2 ^ 40 - lag) % 2 ^ 40)).devs).filter (fun d => lagOf (fieldAt d 0 4) == lag))).flatten

/-- The vote records of the keys that a vote node decided for the pass of a window, from the digest records that it decided on, in order of
decision (R303, R304). A rank lies in one group per channel (R300). -/
def Ctx.votesOn (x : Ctx) (plan : Bytes) (ds : List Bytes) : List Bytes :=
  let groupOf (d : Bytes) : Option Replicas := (planReplicas plan).find? (fun g => g.channel == digChannel d && g.members.contains (digRank d))
  let keyOf (d : Bytes) : Option (Replicas × Nat) := (groupOf d).map (fun g => (g, digCmd d))
  (ds.filterMap keyOf).eraseDups.map (fun k => controlRecord 0x0302 (x.voteOf k.1 k.2 (ds.filter (fun d => keyOf d == some k))))

/-- The records of the pass of window `w`: those of the window itself, or of its late supplement (R334, R389). -/
def Block.passRecords (b : Block) (c w : Nat) (late : Bool) : PassRecords :=
  let p := b.win c w
  let fs := planFeatures (b.ctxPlan c)
  let vs := (p.vectors.filter (fun v => v.late == late)).map FeatVec.record
  let es := ({ p with verdicts := p.verdicts.filter (fun v => v.late == late) } : PassWin).verdictRecords fs
  if late then [vs, es, [], [], [], [], [], p.lateParts.map Item.record, []]
  else
    let results := if (b.ctx c).isHearth then p.parts.map (fun i => i.resolved.record) else []
    let votes := if (b.ctx c).level = 5 then p.votes else (b.ctx c).votesOn (b.ctxPlan c) p.digests
    [vs, es, b.passDeviations c w, p.coverage, p.stragglers, votes, p.sieves.map (fun e => e.2.store.2.1), p.parts.map Item.record,
     results]

/-- The window output digest (R334). -/
def outputDigest (rs : PassRecords) : Bytes := digest16 (rs.map List.flatten).flatten

/-- A window bundle (R389). -/
def bundleBytes (job kind w : Nat) (rs : PassRecords) (digest : Bytes) : Bytes :=
  leBytes 2 job ++ leBytes 1 kind ++ zeros 1 ++ leBytes 5 w ++ zeros 3 ++ (rs.map (fun r => leBytes 4 r.length)).flatten ++ digest ++
    (rs.map List.flatten).flatten

/-- The audits of ensembles whose plan gives no row in this window take no tree, and the window's audit ends (R237, R254). -/
def Block.closeAudit (b : Block) (c w : Nat) : Block :=
  let ens := (planEnsembles (b.ctxPlan c)).length
  let open_ := (List.range ens).filter (fun e => sget (fun _ => 0) (b.win c w).auditUsed e != 1)
  let b := if (b.win c w).vectors.any FeatVec.audited then b.forEach open_ (fun b e => b.auditEnsemble c w e 0 []) else b
  b.auditEnd c w

/-- Write the records of a pass into the ledger (R296, R304, R306, R334). The vote node wrote its vote records when it decided. -/
def Block.ledgerRecords (b : Block) (c w : Nat) (rs : PassRecords) : Block :=
  let vote (k : Nat) : Bool := k == 5 && (b.ctx c).level != 5
  b.forEach (rs.zip (List.range 9)) (fun b r => if vote r.2 then b else b.forEach r.1 (fun b x => b.ledgerWrite c (r.2 + 1) w x))

/-- Job results of a job hearth, kept with the window. -/
def Block.keepResults (b : Block) (c w : Nat) : Block :=
  b.modWin c w (fun p => { p with results := if (b.ctx c).isHearth then p.parts.map Item.resolved else [] })

/-- The loaves whose anvil pass belongs to the pass of window `w`, of each window that the LAG of their ports names, enter the replay log
(R291, R335). -/
def Block.logLoaves (b : Block) (c w : Nat) : Block :=
  let plan := b.ctxPlan c
  b.forEach (List.range 9) (fun b lag =>
    let of := (w + 2 ^ 40 - lag) % 2 ^ 40
    let due (l : Nat × Bytes) : Bool := l.1 == of && (planCoverage plan (fieldAt l.2 0 4)).2.1 == lag
    let ls := ((b.ctx c).an.loaves.filter due).map Prod.snd
    b.when (!ls.isEmpty) (fun b => (b.replayWrite c 3 of ls.length ls.flatten).modAn c (fun a => { a with loaves := a.loaves.filter (fun l => !due l) })))

/-- The digest records of the keys decided for the pass of a window enter the replay log (R303, R335). -/
def Block.logDigests (b : Block) (c w : Nat) : Block :=
  let ds := (b.win c w).digests
  b.when (!ds.isEmpty) (fun b => b.replayWrite c 4 w ds.length ds.flatten)

/-- The late supplement of window `before` for the host of a role (R33, R389), where it holds anything; late deviations found since the one before
leave in it (R286; DESIGN CHOICE, log 21). -/
def Block.lateBundle (b : Block) (c before : Nat) (ls : PassRecords) : Block :=
  let ls := ls.set 2 (b.ctx c).an.lateDevs
  let job := (b.ctx c).job
  if ls.all List.isEmpty then b
  else (b.modAn c (fun a => { a with lateDevs := [] })).sendBundle job before (bundleBytes job 1 before ls (zeros 16))

/-- RESULT for window `w` of a context (R334, R335, R389): ledger, digest, replay log, bundles. -/
def Block.resultStep (b : Block) (c w : Nat) : Block :=
  let b := ((b.sendAlarms c w true).closeAudit c w).keepResults c w
  let rs := b.passRecords c w false
  let ls := b.passRecords c w true
  let before := (b.ctx c).windowBefore w
  let digest := outputDigest rs
  let p := b.win c w
  let b := (b.ledgerRecords c w rs).ledgerWrite c 10 w digest
  let b := b.ledgerWrite c 11 w (leBytes 4 p.trees ++ leBytes 4 p.treeFlips ++ leBytes 4 p.verdictFlips)
  let b := b.ledgerRecords c before ls
  let b := (b.modWin c w (fun p => { p with digest := some digest })).replayWrite c 6 w 1 digest
  let b := (b.logLoaves c w).logDigests c w
  let job := (b.ctx c).job
  (b.sendBundle job w (bundleBytes job 0 w rs digest)).lateBundle c before ls

/-- CKPT for window `w` (R337). -/
def Block.ckptStep (b : Block) (c w : Nat) : Block :=
  let per := b.fld Reg.PLN_CKPT 15 0
  if !b.isSet Reg.PLN_CTL 1 ∨ per = 0 ∨ w % per ≠ 0 then b
  else
    let (img, b) := b.takeImage c w
    let x := b.ctx c
    (b.histWrite 3 0 (classOfLevel x.level) { job := x.job, epoch := x.epoch, w := w, kind := 0, level := x.level, ft := b.ft.toNat, bytes := img }).count
      Reg.PLN_CKPTS 1

end Sys2Proof.Machine
end

