-- ==== Sys2Proof/Machine/Pass.lean ====
section
/-! DEFINITION. What one step of a schedule does for one context and window, the close of a window, the pass of a window that is behind,
state images of a quench (R169, R181, R322 to R325, R338 to R340). -/

namespace Sys2Proof.Machine

/-! ### One step (R322) -/

/-- The ensembles that a step acts on for binding `i`: those of its pairs in the batch. -/
def stepEnsembles (img e : Bytes) (i : Nat) : List Nat :=
  ((batchPairs img (stepArg e 6 2)).filter (fun p => p.1 == i)).map Prod.snd

/-- Run a step of binding `i` in a column for window `w` of context `c`. `errs` are the uncorrected memory errors that it meets: for SCORE the
contexts and the positions of vectors (R257), as for RULE (R277), for AUDIT the stores and slots of reference images (R254). -/
def Block.runStep (b : Block) (img : Bytes) (c w i : Nat) (e : Bytes) (col : Nat) (errs : List (Nat × Nat)) : Block :=
  match stepKind e with
  | 1 => b.mergeStep c w (stepArg e 6 2) (stepArg e 8 2)
  | 2 => b.featurise c w (stepArg e 6 2) (stepArg e 8 1)
  | 3 => b.forEach (stepEnsembles img e i) (fun b n => b.scoreStep c w n (stepArg e 8 4) (stepArg e 12 2) col ((errs.filter (fun p => p.1 == c)).map Prod.snd))
  | 4 => b.forEach (stepEnsembles img e i) (fun b n => b.auditStep img c w n (col - 4) errs)
  | 5 => b.forEach (stepEnsembles img e i) (fun b n => b.ruleStep c w n (stepArg e 8 2) (col - 8) ((errs.filter (fun p => p.1 == c)).map Prod.snd))
  | 6 => b.anvilStep c w
  | 7 => b.witnessStep c w
  | 8 => b.forEach (stepEnsembles img e i) (fun b n => b.digestStep c w n)
  | 9 => b.sendStep c w (stepArg e 6 2) (stepArg e 8 2)
  | 10 => b.resultStep c w
  | 11 => b.ckptStep c w
  | _ => b

/-! ### The close of a window (R169, R181) -/

/-- Every output of a rank for the window is complete, and there is one (R181). -/
def WinSlot.rankPresent (inputs left : List Frame) (rank : Nat) : Bool :=
  let mine (f : Frame) : Bool := f.level == 3 && f.rank == rank
  inputs.any mine && !left.any mine

/-- The presence code of a rank at the close, by the rows of R181 in their order: 0 absent, 1 present, 2 late, 3 contested. -/
def Ctx.presenceCode (x : Ctx) (inputs left : List Frame) (rank : Nat) : Nat :=
  let m := (sget (fun _ => ({} : Member)) x.members rank).phase
  let armed : Bool := match x.armedRanks with | none => true | some rs => rank ∈ rs
  if WinSlot.rankPresent inputs left rank then 1
  else if !armed ∨ m = .silent ∨ m = .retired then 0
  else if m = .contested then 3 else 2

/-- A general counter of a rank advanced in a window (R209): it counted in a record that is cleared on snapshot (DELTA, R104); otherwise it
stands above its value in the record of the window before. -/
def counterAdvanced (inputs before : List Frame) (rank i : Nat) : Bool :=
  let rs := rankRecords inputs rank
  let delta : Bool := match rs.find? (fun r => byteAt r 0 == 1 && byteAt r 1 == i / 64) with | some r => bitOf (fieldAt r 2 2) 2 | none => false
  let old : Nat := match counterSource (rankRecords before rank) 0 (i / 64) (i % 64) with | .int v _ => v | _ => 0
  match counterSource rs 0 (i / 64) (i % 64) with
  | .int v _ => decide ((if delta then 0 else old) < v)
  | _ => false

/-- A neighbour counter of the plan advanced in the window (R209). -/
def linkSeen (plan : Bytes) (inputs before : List Frame) (rank : Nat) : Bool :=
  (planNeighbours plan).any (fun n => n.1 == rank && counterAdvanced inputs before n.2.1 n.2.2)

/-- What the pass of window `w` finds of the close: presence codes, member states with M, the job statistics of the window before. -/
def Block.notePresence (b : Block) (c w : Nat) (inputs left : List Frame) : Block :=
  let x := b.ctx c
  let ranks := if x.level = 5 then x.map.map Prod.fst else []
  let stats := (x.an.stats.find? (fun e => e.1 == (w + 2 ^ 40 - 1) % 2 ^ 40)).map Prod.snd
  b.modWin c w (fun p => { p with
    closed := true,
    eventsLost := ranks.filter (fun r => left.any (fun f => f.level == 3 && f.rank == r && f.cls == 3)),
    presence := ranks.foldl (fun m r => sput (fun _ => 0) m r (x.presenceCode inputs left r)) [],
    states := ranks.foldl (fun m r => let y := sget (fun _ => ({} : Member)) x.members r
      sput (fun _ => 0) m r (y.phase.code + 8 * y.missed)) [],
    stats := stats })

/-- The frames of a window as the node sorts them, and what moves to the next window (R169). -/
def Block.sortWindow (b : Block) (c w : Nat) : Block :=
  let x := b.ctx c
  let next := x.windowAfter w
  let s := x.winSlot w
  let before := (x.winSlot ((w + 2 ^ 40 - 1) % 2 ^ 40)).inputs
  let inputs := completeFrames s.inputs
  let left := openFrames s.inputs
  let all := s.held ++ s.annex
  let annex := completeFrames all
  let lost := (outputsOf (openFrames all)).length
  let x := x.setWinSlot { s with inputs := inputs, annex := annex, held := [], closed := true }
  let x := if left.isEmpty then x else x.setWinSlot { x.winSlot next with held := (x.winSlot next).held ++ left }
  let keep (t : WinSlot) : Bool := decide (windowDiff w t.w < 2)
  let b := (b.setCtx c { x with wins := x.wins.filter keep }).tooLate lost
  let b := (b.replayWrite c 1 w inputs.length (inputs.map Frame.raw).flatten)
  let b := if annex.isEmpty then b else b.replayWrite c 2 w annex.length (annex.map Frame.raw).flatten
  (b.notePresence c w inputs left).modCtx c (fun y => { y with
    members := y.members.map (fun m => (m.1, { m.2 with link := linkSeen (b.ctxPlan c) inputs before m.1 })) })

/-- The writes that commits applied within a window enter the replay log (R335). -/
def Block.logTxns (b : Block) (c w : Nat) : Block :=
  let k := (b.ctx c).k
  let ts := b.txn.log.filter (fun t => windowOf k t.1 == w)
  if ts.isEmpty then b
  else b.replayWrite c 5 w ts.length ((ts.map (fun t => leBytes 8 t.1.toNat ++ leBytes 4 t.2.1 ++ leBytes 4 t.2.2.2.toNat)).flatten)

/-! ### State images of a quench (R338) -/

/-- A window lies beyond the cut that a quench of the context names. -/
def Ctx.pastCut (x : Ctx) (w : Nat) : Bool := match x.quenchAt with | some l => decide (0 < windowDiff w l) | none => false

/-- A frozen context: its rows are idle, and it does not catch up (R338). -/
def Ctx.freeze (x : Ctx) (l : Nat) : Ctx := { x with quenched := true, passed := some l, catchup := false, behind := 0 }

/-- The context freezes at the cut that its quench names, and the image goes to the descriptor's output space (R338). -/
def Block.finishQuench (b : Block) (c : Nat) : Block :=
  let x := b.ctx c
  match x.quenchAt with
  | none => b
  | some l =>
    let (img, b) := b.takeImage c l
    let b := b.modCtx c (fun x => { x.freeze l with quenchAt := none, quenchDesc := none })
    match x.quenchDesc with
    | none => b
    | some id => match b.takenById id with
      | none => b
      | some t => if t.outLen < img.length then (b.complete t 0x03).flag Reg.LOF_STS 3
                  else (b.writeOut t 0 img).complete t 0 img.length (leBytes 5 l)

/-- The pass of a window has started. -/
def PassWin.started (p : PassWin) : Bool :=
  !(p.merged.isEmpty && p.featured.isEmpty && p.coverage.isEmpty && p.vectors.isEmpty && p.sent.isEmpty) || p.witnessed || p.digest.isSome

/-- The lowest window whose pass has not started (R338). -/
def Ctx.nextPass (x : Ctx) : Nat :=
  let first := match x.passed with | some w => (w + 1) % 2 ^ 40 | none => windowOf x.k x.start
  x.an.wins.foldl (fun a p => if p.started && decide (0 ≤ windowDiff p.w a) then (p.w + 1) % 2 ^ 40 else a) first

/-! ### Windows behind (R340) -/

/-- The frames of a byte string. -/
def readFrames : Nat → Bytes → List Frame
  | 0, _ => []
  | n + 1, bs => if bs.length < 64 then [] else (readFrame bs) :: readFrames n (bs.drop (64 + fieldAt bs 22 2))

/-- The replay record of a kind for a window of a context. -/
def HistoryUnit.replayOf (h : HistoryUnit) (x : Ctx) (w kind : Nat) : Option Bytes :=
  ((h.records 2).find? (fun r => r.job == x.job && r.epoch == x.epoch && r.level == x.level && r.w == w && r.kind == kind)).map
    (fun r => r.bytes.drop 32)

/-- The inputs of a window as the replay log holds them (R171). -/
def Block.loadInputs (b : Block) (c w : Nat) : Block :=
  let x := b.ctx c
  let read (kind : Nat) : List Frame := match b.tray.history.replayOf x w kind with
    | some body => readFrames (body.length / 64 + 1) body
    | none => []
  let b := b.modCtx c (fun x => x.setWinSlot { w := w, inputs := read 1, annex := read 2, closed := true })
  if (b.win c w).closed then b else b.notePresence c w (read 1) []

/-- What inputs gave the passes of windows after a cut; what the passes themselves formed is gone (R340). -/
def PassWin.inputsOnly (p : PassWin) : PassWin :=
  { w := p.w, closed := p.closed, eventsLost := p.eventsLost, presence := p.presence, states := p.states, sensors := p.sensors, stats := p.stats, cover := p.cover,
    devCount := p.devCount, devs := p.devs, digests := p.digests }

/-- Run the whole pass of a window, step by step in the order of the rows. -/
def Block.runPass (b : Block) (img : Bytes) (c w i : Nat) : Block :=
  let places := (schedPlaces img).filter (fun p => p.bind == i && p.cls == ((w : Int) % (p.per : Int)))
  b.forEach places (fun b p => b.runStep img c w i p.step p.col [])

/-- The next window that a context in catch-up has to run. -/
def Ctx.nextBehind (x : Ctx) : Nat := (x.openWin + 2 ^ 40 - x.behind) % 2 ^ 40

/-- One catch-up pass of a context (R340; log 25); a quench ends the catch-up after the pass of its last window (R338). -/
def Block.catchupPass (b : Block) (c : Nat) : Block :=
  let x := b.ctx c
  match b.schedule, x.bind with
  | some img, some i =>
    if !x.catchup ∨ x.behind = 0 then b
    else if x.pastCut x.nextBehind then b.finishQuench c
    else
      let b := (b.useRegion 2).usePlan x.plan
      let w := x.nextBehind
      (if x.skips w then b else (b.loadInputs c w).runPass img c w i).modCtx c (fun x =>
        { x with behind := x.behind - 1, passed := some w, settings := x.laterSettings b.txn.log b.ft w })
  | _, _ => b

/-- A context goes into catch-up from the cut of a snapshot (R340). -/
def Block.startCatchup (b : Block) (c : Nat) (s : Snapshot) : Block :=
  b.modCtx c (fun x =>
    let later := (x.an.wins.filter (fun p => decide (0 < windowDiff p.w s.w))).map PassWin.inputsOnly
    let isAfter (v : Nat × Bytes) : Bool := ftGe (BitVec.ofNat 64 v.1) (x.closeTime b.ft s.w)
    let an : Analysis := { s.an with
      wins := s.an.wins ++ later
      votes := s.an.votes.filter (fun v => !isAfter v) ++ x.an.votes.filter isAfter
      held := x.an.held
      loaves := x.an.loaves
      stats := x.an.stats }
    { x with
      an := an
      members := s.members
      seq := s.seq
      dups := s.dups
      settings := s.settings
      catchup := true
      quenched := false
      quenchAt := none
      passed := some s.w
      behind := (x.openWin + 2 ^ 40 - s.w - 1) % 2 ^ 40 })

end Sys2Proof.Machine
end

