-- ==== Sys2Proof/Machine/Plane.lean ====
section
/-! DEFINITION. The commands of the analysis plane (R320 to R325, R338, R340): the steps of rows, window closes, switch boundaries, quench
and restore, catch-up, a new hearth, a phase mismatch. -/

namespace Sys2Proof.Machine

/-! ### Steps of rows -/

/-- A step of a row for one of its bindings (R323): the contexts bound to it whose window it names by the FT at which the row started, but for a
window that a step of the time passed over (R44). A quench ends before the first step past its cut; a context in catch-up runs one pass in the row
of its RESULT step and no other (log 25). -/
def Block.liveStep (b : Block) (img e : Bytes) (i col : Nat) (errs : List (Nat × Nat)) : Block :=
  let k := bindK (schedBind img i)
  let w := (windowOf k b.tray.plane.rowFt + 2 ^ 40 - stepLag e) % 2 ^ 40
  if !stepRuns k (stepPhase e) b.tray.plane.period then b
  else b.forEach (b.ctxIds.filter (fun c => (b.ctx c).bind == some i && (b.ctx c).isActive)) (fun b c =>
    let x := b.ctx c
    let past : Bool := match x.lastWin with | some l => decide (0 < windowDiff w l) | none => false
    let done : Bool := match x.passed with | some l => decide (windowDiff w l ≤ 0) | none => false
    if x.quenched ∨ windowDiff w (windowOf x.k x.start) < 0 ∨ past ∨ x.skips w then b
    else if x.catchup then (if stepKind e = 10 then b.catchupPass c else b)
    else if x.pastCut w then b.finishQuench c
    else if done then b
    else (b.usePlan x.plan).runStep img c w i e col errs)

/-- A step of a kind in a row and column: it runs for each of its bindings once. `fixed` counts the errors that a store corrected for it. -/
def Block.rowStep (b : Block) (kind : Nat) (row : Fin 6400) (col : Fin 32) (errs : List (Nat × Nat) := []) (fixed : Block → Block := id) :
    Block :=
  match b.entryDue row col 2 with
  | none => b
  | some (img, arg) =>
    let e := schedStep img arg
    b.when (stepKind e == kind) (fun b =>
      (fixed (b.enterRow col)).forEach (stepBinds img e).eraseDups (fun b i => b.liveStep img e i col errs))

/-- MERGE_STEP (R172, R173, R322). -/
def execMergeStep (row : Fin 6400) (col : Fin 32) (s : State) : Host.Outcome State Fault Refusal :=
  onTray (fun b => b.rowStep 1 row col) s

/-- FEATURISE_STEP (R233, R322). -/
def execFeaturiseStep (row : Fin 6400) (col : Fin 32) (s : State) : Host.Outcome State Fault Refusal :=
  onTray (fun b => b.rowStep 2 row col) s

/-- SCORE_STEP (R247, R255, R256): `errs.failed` are the contexts and vector positions whose fetch returned an uncorrected error (R257), and
`errs.corrected` counts the errors that the tree store corrected (R260). -/
def execScoreStep (row : Fin 6400) (col : Fin 32) (errs : ScoreErrs) (s : State) : Host.Outcome State Fault Refusal :=
  onTray (fun b => b.rowStep 3 row col errs.failed (fun b => b.count Reg.ENS_STORE_CE errs.corrected)) s

/-- AUDIT_STEP (R253, R254). -/
def execAuditStep (row : Fin 6400) (col : AuditCol) (s : State) : Host.Outcome State Fault Refusal :=
  onTray (fun b => b.rowStep 4 row col.col col.failed) s

/-- RULE_STEP (R275): `col.corrected` counts the leaf errors that the bank corrected, `col.failed` are the contexts and vector positions whose
search met a faulty entry (R277). -/
def execRuleStep (row : Fin 6400) (col : RuleCol) (s : State) : Host.Outcome State Fault Refusal :=
  onTray (fun b => b.rowStep 5 row col.col col.failed (fun b => b.count Reg.RUL_CE col.corrected)) s

/-- ANVIL_STEP (R288, R289, R295). -/
def execAnvilStep (row : Fin 6400) (col : Fin 32) (s : State) : Host.Outcome State Fault Refusal :=
  onTray (fun b => b.rowStep 6 row col) s

/-- WITNESS_STEP (R306). -/
def execWitnessStep (row : Fin 6400) (col : Fin 32) (s : State) : Host.Outcome State Fault Refusal :=
  onTray (fun b => b.rowStep 7 row col) s

/-- DIGEST_STEP (R251). -/
def execDigestStep (row : Fin 6400) (col : Fin 32) (s : State) : Host.Outcome State Fault Refusal :=
  onTray (fun b => b.rowStep 8 row col) s

/-- SEND_STEP (R173, R174). -/
def execSendStep (row : Fin 6400) (col : Fin 32) (s : State) : Host.Outcome State Fault Refusal :=
  onTray (fun b => b.rowStep 9 row col) s

/-- RESULT_STEP (R334). -/
def execResultStep (row : Fin 6400) (col : Fin 32) (s : State) : Host.Outcome State Fault Refusal :=
  onTray (fun b => b.rowStep 10 row col) s

/-- CKPT_STEP (R337). -/
def execCkptStep (row : Fin 6400) (col : Fin 32) (s : State) : Host.Outcome State Fault Refusal :=
  onTray (fun b => b.rowStep 11 row col) s

/-! ### WINDOW_CLOSE (R169, R181, R204) -/

/-- The annex of the last window of a draining context, reduced alone as a late supplement (R204), which each role tells its host (R33, R389). -/
def Block.lateSupplement (b : Block) (c w : Nat) : Block :=
  let list := planList (b.ctxPlan c)
  let before := (b.ctx c).windowBefore w
  let tray : Bool := (b.ctx c).level == 5
  let b := b.forEach list (fun b e =>
    let (ops, b) := if tray then b.trayOperands c w e true else (b.nodeOperands c w e true, b)
    let (l, b) := b.knead before ops
    b.modWin c w (fun p => { p with lateParts := p.lateParts ++ l.toList }))
  let ls := b.passRecords c w true
  let b := (b.ledgerRecords c before ls).lateBundle c before ls
  if (b.ctx c).isHearth then b else b.sendUp c before true list (b.win c w).lateParts

/-- A node of a draining context passes the close `w` of the annex of its last window `l`: what is left is merged and sent, then RELEASED goes up
and the context waits for its release (R204); nothing is sent for a last window that a step passed over (R44). A halted plane writes no result
(R316). -/
def Block.lastClose (b : Block) (c w l : Nat) : Block :=
  let n := (planList (b.ctxPlan c)).length
  if b.isSet Reg.PLN_STS 4 then b.endDraining c
  else
    let b := if (b.ctx c).quenched ∨ (b.ctx c).skips l then b else (b.mergeStep c l 0 n).sendStep c l 0 n
    (b.lateSupplement c w).endDraining c

/-- WINDOW_CLOSE (R169, R181): FT has reached the close of the context's next open window. Windows that a forward step passed over whole are not
closed (R44). -/
def execWindowClose (c : Fin 64) (s : State) : Host.Outcome State Fault Refusal :=
  onTray (fun b =>
    let x := b.ctx c
    let w := x.openWin
    b.when (x.isActive && ftGe b.ft (x.closeTime b.ft w)) (fun b =>
      let next := x.windowAfter w
      let b := (b.sortWindow c w).modCtx c (fun x =>
        { x with openWin := next, behind := if x.catchup then x.behind + (windowDiff next w).toNat else x.behind })
      let b := b.logTxns c w
      match x.lastWin with
      | some l => if 1 ≤ windowDiff w l then b.lastClose c w l else b
      | none => b)) s

/-! ### SWITCH_BOUNDARY (R206, R311, R325, R349) -/

/-- The active scans share the search slots of the new period, in ascending number (R311). -/
def Block.shareSlots (b : Block) : Block :=
  b.modPlane (fun u =>
    let n := u.scans.length + u.replays.length
    { u with scans := u.scans.map (fun e => (e.1, { e.2 with share := n })),
             replays := u.replays.map (fun e => (e.1, { e.2 with share := n })),
             sharers := (u.scans.map Prod.fst ++ u.replays.map Prod.fst).mergeSort (fun x y => decide (x ≤ y)) })

/-- SWITCH_BOUNDARY (R206, R325): FT has crossed a switch boundary that the block has not acted on; row 0 of the new period starts. -/
def execSwitchBoundary (b : Build) (s : State) : Host.Outcome State Fault Refusal :=
  onBlock b (fun x =>
    let p := periodOf x.ft
    x.when (decide (x.switchMark < p)) (fun x =>
      let x := match x.build with
        | .D => x
        | .T => ((x.abandonRows.shareSlots.sealLogs).useSlot 5 (x.fld Reg.PLN_SCHED 0 0)).startRow p 0
      { x with switchMark := p }.switchContexts (p * switchTicks))) s

/-! ### QUENCH and RESTORE (R338, R340) -/

/-- The context of a job at this block that is ACTIVE; of several, that of the lowest role (log 48). -/
def Block.activeOf (b : Block) (job : Nat) : Option Nat :=
  match b.lowestNode job with
  | some c => if (b.ctx c).phase = .active then some c else none
  | none => none

/-- QUENCH (R338): the passes run up to L'. -/
def Block.quenchDesc (b : Block) (t : Taken) : Block :=
  match b.activeOf t.job with
  | none => b.complete t 0x09
  | some c =>
    let x := b.ctx c
    let l := fieldAt t.bytes 32 5
    let next := x.nextPass
    if x.quenched ∨ x.quenchAt.isSome then b.complete t 0x09
    else b.modCtx c (fun x => { x with quenchAt := some (if windowDiff l next < 0 then next else l), quenchDesc := some t.id })

/-- QUENCH (R338). -/
def execQuench (id : Nat) (s : State) : Host.Outcome State Fault Refusal :=
  onTray (fun b => b.onDesc 0x15 1 id Block.quenchDesc) s

/-- Every window from the one after a cut up to the latest closed one has its replay records, but for those that a step passed over (R44, R340). -/
def Block.replayHeld (b : Block) (x : Ctx) (cut : Nat) : Bool :=
  let n := (x.openWin + 2 ^ 40 - cut - 1) % 2 ^ 40
  let held := (b.tray.history.records 2).filter (fun r => r.job == x.job && r.epoch == x.epoch && r.level == x.level && r.kind == 1)
  (List.range (min n (held.length + (x.skipped.map Prod.snd).sum + 1))).all (fun i =>
    x.skips ((cut + 1 + i) % 2 ^ 40) || held.any (fun r => r.w == (cut + 1 + i) % 2 ^ 40))

/-- RESTORE (R340): the checks in their order, then the state. -/
def Block.restoreDesc (b : Block) (t : Taken) : Block :=
  let img := b.descInput t
  if !imageFormGood img then b.complete t 0x0C
  else if !imageDigestGood img then b.complete t 0x13
  else match b.activeOf t.job with
    | none => b.complete t 0x09
    | some c =>
      let x := b.ctx c
      if !x.quenched ∨ x.bind = none ∨ imgJob img ≠ x.job ∨ imgEpoch img ≠ x.epoch ∨ imgPlan img ≠ x.plan then b.complete t 0x09
      else
        let b := b.useRegion 2
        if !b.replayHeld x (imgWindow img) then b.complete t 0x0F
        else (b.startCatchup c (b.imageSnapshot img)).complete t 0

/-- RESTORE (R340). -/
def execRestore (id : Nat) (s : State) : Host.Outcome State Fault Refusal :=
  onTray (fun b => b.onMemory 0x16 1 id Block.restoreDesc) s

/-- CATCHUP_END (R340): no window is behind, and the context runs live again. -/
def execCatchupEnd (c : Fin 64) (s : State) : Host.Outcome State Fault Refusal :=
  onTray (fun b =>
    let x := b.ctx c
    b.when (x.catchup && x.behind == 0) (fun b => b.modCtx c (fun x => { x with catchup := false, settings := [] }))) s

/-! ### HEARTH_ACTIVATION (R213, R214, R337) -/

/-- The state from which a new hearth takes a context up (R214, R337, R359): the latest checkpoint of its role among this block's own and those that
it has rebuilt of a lost hearth; without one, the start of the context, where the replay log reaches back to it; else nothing that this block holds
gives it, and it is free (log 59). -/
def Block.takeUpState (b : Block) (c : Nat) : Snapshot :=
  let x := b.ctx c
  let first := windowOf x.k x.start
  let marks := (b.tray.history.records 3).filter (fun r =>
    r.job == x.job && r.epoch == x.epoch && r.level == x.level && imgPlan r.bytes == x.plan)
  let latest := marks.foldl (fun (a : Option HistRec) r => match a with
    | some q => if windowDiff r.w q.w < 0 then a else some r
    | none => some r) none
  match latest, b.tray.history.replayOf x first 1 with
  | some r, _ => b.imageSnapshot r.bytes
  | none, some _ => { w := (first + 2 ^ 40 - 1) % 2 ^ 40, members := x.members }
  | none, none => Config.imageState (leBytes 2 x.job ++ leBytes 4 x.epoch)

/-- A new hearth restores the state of a context, sequence counter and duplicate state with it, and catches up (R214, R337). -/
def Block.takeUpContext (b : Block) (c : Nat) : Block :=
  let b := ((b.useRegion 1).useRegion 2).useRegion 3
  (b.startCatchup c (b.takeUpState c)).modCtx c (fun x => { x with takenUp := some (b.roleAt x.level).gen })

/-- The contexts of a level that its new hearth has still to take up. -/
def Block.toTakeUp (b : Block) (level : Nat) : List Nat :=
  b.ctxIds.filter (fun c => (b.ctx c).isActive && (b.ctx c).level == level && (b.ctx c).takenUp != some (b.roleAt level).gen)

/-- The contexts whose next window boundary after the TAKEOVER has come are taken up (R213). -/
def Block.takeUpDue (b : Block) (level : Nat) : Block :=
  let mark := (b.roleAt level).mark
  b.forEach ((b.toTakeUp level).filter (fun c => windowOf (b.ctx c).k b.ft != windowOf (b.ctx c).k mark)) Block.takeUpContext

/-- A takeover is complete: the role is active, and its descriptor completes (R213). -/
def Block.endTakeover (b : Block) (level : Nat) : Block :=
  let r := b.roleAt level
  let b := (b.setRole level { r with role := 1, pending := false, missed := 0, desc := none, past := [] }).flag Reg.MBR_STS 4
  match r.desc with
  | none => b
  | some id => match b.takenById id with | some t => b.complete t 0 0 (leBytes 4 r.gen) | none => b

/-- HEARTH_ACTIVATION (R25, R213): at its own window boundary the new hearth of level 6 + l is active for each context it carries; its role
is, when it is for all of them. -/
def execHearthActivation (l : Fin 4) (s : State) : Host.Outcome State Fault Refusal :=
  onTray (fun b =>
    let level := l.val + 6
    b.when (b.roleAt level).pending (fun b =>
      let b := b.takeUpDue level
      if (b.toTakeUp level).isEmpty then b.endTakeover level else b)) s

/-! ### PHASE_ERROR (R316) -/

/-- PHASE_ERROR (R316): the checker finds domain `d` (0 ANL, 1 MEM, 2 ING, 3 STW, 4 TIM) out of phase. -/
def execPhaseError (d : Fin 5) (s : State) : Host.Outcome State Fault Refusal :=
  onTray (fun b => b.when (!b.isSet Reg.PLN_STS 4) (fun b =>
    (((b.flag Reg.PLN_STS 3).flag Reg.PLN_STS 4).setFld Reg.PLN_PHASE 2 0 d.val).healthCrumb 0x1001 d.val 0 0)) s

end Sys2Proof.Machine
end

