-- ==== Sys2Proof/Machine/Egress.lean ====
section
/-! DEFINITION. Egress (R394 to R407): which requesters are eligible, the arbiter's decision, the end of a frame, freezing, the buckets and
their refill, the leaving of coalesced alarms, the alarm slots of Borlu-D (R27, R396). What leaves the host port is written into host
memory, entries of a ring in ring order, and its MSI-X message follows (R365, R373, R392). -/

namespace Sys2Proof.Machine

/-- The number of requesters of a port (R395). -/
def requesterCount (build : Build) (p : Nat) : Nat := match build with | .D => 37 | .T => if p = 8 then 72 else 328

/-- The number of egress ports of a build (R394). -/
def portCount (build : Build) : Nat := match build with | .D => 1 | .T => 9

/-- The tier of a requester (R400). -/
def requesterTier (build : Build) (p r : Nat) : Nat :=
  match build with
  | .D => if 36 ≤ r then 2 else min 2 (r % 4)
  | .T => if p = 8 then (if r ≤ 64 then 0 else if r ≤ 66 then 1 else 2) else if 325 ≤ r then 2 else min 2 (r % 5)

/-- FREEZE of a port (R401). -/
def Block.portFrozen (b : Block) (p : Nat) : Bool := b.isSet (Reg.EGR_PORT_CTL + 0x10 * p) 0

/-- The output writes of a completion's descriptor have left (R365): only then is the completion there to leave. -/
def EgPort.outputsGone (x : EgPort) (r : Nat) (i : EgItem) : Bool :=
  r != 66 || i.desc.isNone || (x.queue 67).all (fun o => o.desc != i.desc)

/-- The event entry at the head of requester `r` may be written: no held entry that was queued before it waits (R388). -/
def HostUnit.eventTurn (h : HostUnit) (r : Nat) : Bool := !(h.evtQueue.takeWhile (fun e => e.1 != r)).any Prod.snd

/-- The item at the head of a requester of the host port may leave: Bus Master Enable is 1 (R366), a completion has its output writes
before it (R365), an entry has an enabled ring with a free position (R372, R373), and an event entry its turn (R388). -/
def Block.hostReady (b : Block) (r : Nat) (i : EgItem) : Bool :=
  b.tray.host.busMaster && (b.port 8).outputsGone r i && (match i.dest with
    | .ring d => b.ringOn d && (b.tray.host.outRing d).tailFree (b.fld (ringCfg d) 28 24) && (d != 32 || b.tray.host.eventTurn r)
    | _ => true)

/-- A requester has a whole item at its head, tokens for it, and a port that starts grants (R398). -/
def Block.eligible (b : Block) (p r : Nat) : Bool :=
  let x := b.port p
  !b.portFrozen p && (match x.queue r with
    | [] => false
    | i :: _ => x.tokensFor r (x.costOf r i) && (b.build == .D || p != 8 || b.hostReady r i))

/-- The round-robin pointer of a tier. -/
def EgPort.pointer (x : EgPort) (tier : Nat) : Nat := match tier with | 0 => x.rr0 | 1 => x.rr1 | _ => x.rr2

/-- Move the pointer of a tier. -/
def EgPort.setPointer (x : EgPort) (tier v : Nat) : EgPort :=
  match tier with | 0 => { x with rr0 := v } | 1 => { x with rr1 := v } | _ => { x with rr2 := v }

/-- The first of some requesters at or after a pointer, with wrap (R400). -/
def firstFrom (ptr : Nat) (rs : List Nat) : Option Nat :=
  match rs.find? (fun r => decide (ptr ≤ r)) with
  | some r => some r
  | none => rs.head?

/-- The requester that the arbiter picks within a tier. -/
def Block.pickTier (b : Block) (p tier : Nat) : Option Nat :=
  firstFrom ((b.port p).pointer tier)
    (((b.port p).queues.map Prod.fst).filter (fun r => requesterTier b.build p r == tier && b.eligible p r))

/-- The body of a BEACON record: FT and the upper 8 fraction bits of the accumulator (R45, R54). -/
def Block.beaconBody (b : Block) : Bytes :=
  leBytes 8 b.ft.toNat ++ leBytes 1 (b.time.acc.toNat / 2 ^ 24 % 256) ++ zeros 7

/-- The record of a BEACON that a Borlu-T sends carries the time of the cycle of its departure (R45, R54). -/
def Block.stampBeacon (b : Block) (i : EgItem) : EgItem :=
  if b.build = .T ∧ byteAt i.bytes 1 = 1 ∧ fieldAt i.bytes 64 2 = 0x0A01 then
    let head := i.bytes.take 60
    let payload := controlRecord 0x0A01 b.beaconBody
    { i with bytes := head ++ leBytes 4 (crc32c (head ++ payload)).toNat ++ payload }
  else i

/-- An entry of ring `d` as it is written (R373, R386, R392): at the ring's tail, with its phase, an event with ESEQ and the fleet time, and
with its message where it signals. -/
def Block.entryWritten (b : Block) (d : Nat) (i : EgItem) : EgItem × OutRing :=
  let cfg := (b.reg (ringCfg d)).toNat
  let r := b.tray.host.outRing d
  let e := if d = 32 then eventWritten i.bytes b.tray.host.eseq b.ft else i.bytes
  let m := if d < 33 then (bitsOf cfg 21 16, r.moderate (bitsOf cfg 15 8) (bitsOf cfg 7 0) b.ft)
    else (bitsOf cfg 13 8, r.moderateExport (bitsOf cfg 7 0) e)
  ({ i with dest := .host ((b.base64 (ringBaseLo d) + r.tail * e.length) % 2 ^ 64), bytes := withPhase r.phase e,
            msix := if m.2.1 then some m.1 else none }, m.2.2.advance (bitsOf cfg 28 24))

/-- What an entry of ring `d` from requester `r` leaves behind: an event has its sequence number, a bundle or a gap of an export ring is
through with its last entry. -/
def Block.entryGone (b : Block) (d r : Nat) (entry : Bytes) : Block :=
  if d = 32 then b.modHost (fun h => { h with eseq := (h.eseq + 1) % 2 ^ 32, evtQueue := h.evtQueue.eraseP (fun e => e.1 == r) })
  else if d < 33 then b
  else if byteAt entry 10 = 2 then b.modExp (d - 33) (fun x => { x with flyingGaps := x.flyingGaps.drop 1 })
  else if bitOf (byteAt entry 11) 1 then b.modExp (d - 33) (fun x => { x with flying := x.flying.drop 1 })
  else b

/-- An item in the cycle of its departure from requester `r`: data leave with Relaxed Ordering where the host has enabled it, entries never
do (R365). -/
def Block.departing (b : Block) (r : Nat) (i : EgItem) : EgItem × Block :=
  match i.dest with
  | .ring d =>
    let (i', ring) := b.entryWritten d i
    (i', (b.modOut d (fun _ => ring)).entryGone d r i.bytes)
  | .host _ => ({ i with relaxed := b.tray.host.pcie.relaxed && !i.bytes.isEmpty }, b)
  | _ => (b.stampBeacon i, b)

/-- The first beat of the item at the head of a requester, its departure: it goes out in the next cycle, in which the bucket pays its cost
(R400, R402). -/
def Block.firstBeat (b : Block) (p r : Nat) : Block :=
  match (b.port p).queue r with
  | [] => b
  | i :: q =>
    let (i', b) := b.departing r i
    let x := b.port p
    b.setPort p ((x.setQueue r (i' :: q)).debit r (x.costOf r i))

/-- Grant a requester of a tier (R400): the pointer moves past it, and the grant is counted. -/
def Block.grantTo (b : Block) (p tier r : Nat) : Block :=
  let x := ((b.port p).setPointer tier ((r + 1) % requesterCount b.build p))
  let b := b.setPort p { x with grant := some { owner := r, sent := 0 }, latestOwner := r }
  (b.count (Reg.EGR_GRANTS + 0x10 * p) 1).firstBeat p r

/-! ### Coalesced alarms (R397) -/

/-- The context of an egress context index; none for one that holds no context. -/
def Block.ctxOfEgress (b : Block) (k : Nat) : Option Nat :=
  let c := match b.build with | .D => some k | .T => if k = 64 then b.lowestNode 0 else some k
  c.bind (fun c => if (b.ctx c).phase = .free then none else some c)

/-- Records of one entry list leave as one frame of their own: queued in the waiting place, with its own sequence number. -/
def Block.sendCoalesced (b : Block) (p k : Nat) (es : List CoalEntry) : Block :=
  match es with
  | [] => b
  | e :: _ =>
    let c := b.ctxOfEgress k
    let w : Send := { ctx := c, cls := 0, dest := e.dest, window := fieldAt e.record 8 5, ft := b.ft }
    ((b.placeAlarm p k e.dest (b.frameFor w 0 1 (es.map CoalEntry.record).flatten)).seqNext c).alarmsSent (es.map CoalEntry.record)

/-- How many of `n` entries of a context's alarms one frame can carry under the tokens of its requester. -/
def EgPort.alarmFit (x : EgPort) (r : Nat) : Nat → Nat
  | 0 => 0
  | n + 1 => if x.tokensFor r (64 + 32 * (n + 1) + x.overheadOf r) then n + 1 else x.alarmFit r n

/-- The entries that leave in the next frame of a port: those of the first context whose place is free and whose tokens suffice for one, as
many as they suffice for, at most eight in Borlu-T and one in Borlu-D (R396, R397). -/
def Block.nextCoalesced (b : Block) (p : Nat) : List CoalEntry :=
  let x := b.port p
  let mine (e : CoalEntry) : List CoalEntry := (x.coal.filter (fun y => y.key == e.key && y.dest == e.dest)).take
    (match b.build with | .D => 1 | .T => 8)
  match x.coal.find? (fun e =>
      (x.queue (b.requester e.key 0)).isEmpty && decide (0 < x.alarmFit (b.requester e.key 0) (mine e).length)) with
  | none => []
  | some e => (mine e).take (x.alarmFit (b.requester e.key 0) (mine e).length)

/-- Coalesced entries leave the table of a port while one can. -/
def Block.drainCoal (b : Block) (p : Nat) : Nat → Block
  | 0 => b
  | f + 1 =>
    match b.nextCoalesced p with
    | [] => b
    | e :: es =>
      let x := b.port p
      ((b.setPort p { x with coal := x.coal.filter (fun y => !(y ∈ e :: es)) }).sendCoalesced p e.key (e :: es)).drainCoal p f

/-- Every coalesced entry of a port that can leave does. -/
def Block.drainPort (b : Block) (p : Nat) : Block := b.drainCoal p (b.port p).coal.length

/-! ### MSI-X (R367, R392) -/

/-- A word of the MSI-X table before anything is written: every vector is masked. -/
def msixReset (k : Nat) : Word := if k % 4 = 3 then 1 else 0

/-- A word of the MSI-X table. -/
def HostUnit.msixWord (h : HostUnit) (k : Nat) : Word := sget msixReset h.msixTable k

/-- Signal a vector: its message is a memory write, or, while the vector is masked or Bus Master Enable is 0, its pending bit (R366,
R392). -/
def HostUnit.signal (h : HostUnit) (v : Nat) : HostUnit :=
  if (h.msixWord (4 * v + 3)).getLsbD 0 || !h.busMaster then { h with msixPending := setB h.msixPending v }
  else h.write ((h.msixWord (4 * v)).toNat + (h.msixWord (4 * v + 1)).toNat * 2 ^ 32) (leBytes 4 (h.msixWord (4 * v + 2)).toNat)

/-- Write a word of the MSI-X table: a vector that is pending signals when its mask is taken away. -/
def HostUnit.writeMsix (h : HostUnit) (k : Nat) (v : Word) : HostUnit :=
  let h := { h with msixTable := sput msixReset h.msixTable k v }
  if k % 4 = 3 ∧ !v.getLsbD 0 ∧ h.msixPending.getLsbD (k / 4)
  then ({ h with msixPending := clearB h.msixPending (k / 4) }).signal (k / 4) else h

/-- Bus Master Enable changes (R366): where it becomes 1, the vectors that are pending without a mask signal. -/
def HostUnit.setBusMaster (h : HostUnit) (on : Bool) : HostUnit :=
  let h := { h with busMaster := on }
  if !on then h
  else (List.range 64).foldl (fun h v => if h.msixPending.getLsbD v && !(h.msixWord (4 * v + 3)).getLsbD 0
    then ({ h with msixPending := clearB h.msixPending v }).signal v else h) h

/-! ### The last beat (R399, R404, R407) -/

/-- The sojourn of an item in ns (R404): a tick is 1/16 ns (R34). -/
def Block.sojourn (b : Block) (i : EgItem) : Nat := (ftDiff b.ft i.whole).toNat / 16

/-- The sojourn of an item that leaves: its mark, and for tier 0 the budget of the port (R407). -/
def Block.sojournEnd (b : Block) (p r : Nat) (i : EgItem) : Block :=
  let ns := b.sojourn i
  let x := b.port p
  let mark := satTo (2 ^ 32 - 1) ns
  let x := if (sget (fun _ => (0 : Word)) x.shwm r).toNat < mark
    then { x with shwm := sput (fun _ => (0 : Word)) x.shwm r (BitVec.ofNat 32 mark) } else x
  let b := b.setPort p x
  let budget := b.fld (Reg.EGR_ALARM_BUDGET + 0x10 * p) 15 0
  if requesterTier b.build p r = 0 ∧ budget < ns
  then ((b.count Reg.EGR_LATE 1).flag Reg.EGR_STS 1).healthOnce [p] 0x1301 p mark budget else b

/-- The beats of the protected channel that carry some bytes, each of 16 bytes with a fill bit for each half that carries any; unfilled bytes
are zero (R478). -/
def beatsOf (bs : Bytes) : List (Bytes × Nat) :=
  (chunks 16 (bs.length / 16 + 1) bs).map (fun c => (padTo 16 c, bit (!c.isEmpty) + 2 * bit (decide (8 < c.length))))

/-- What Borlu-D drives on the protected channel (R478): `f` of the beats so far. A Borlu-T has none. -/
def Block.modBeats (b : Block) (f : List (Bytes × Nat) → List (Bytes × Nat)) : Block :=
  match b.build with | .D => { b with die := { b.die with beats := f b.die.beats } } | .T => b

/-- The last byte of the item at the head of a requester leaves the port. -/
def Block.leave (b : Block) (p r : Nat) : Block :=
  let x := b.port p
  match x.queue r with
  | [] => b
  | i :: q =>
    let b := (b.setPort p (x.setQueue r q)).sojournEnd p r i
    match i.dest with
    | .host a => b.modHost (fun h =>
        let h := h.write a i.bytes
        match i.msix with | some v => h.signal v | none => h)
    | _ => b.modBeats (· ++ beatsOf i.bytes)

/-- The last beat of a frame: the grant goes on with the owner's next frame, or ends (R399). A coalesced alarm that finds its place free
enters it in the next cycle (R398). -/
def Block.lastBeat (b : Block) (p : Nat) (g : Grant) : Block :=
  let n := match (b.port p).queue g.owner with | [] => 0 | i :: _ => i.bytes.length
  let b := (b.modBeats (fun _ => [])).leave p g.owner
  let sent := g.sent + n
  let x := b.port p
  let goesOn := match x.queue g.owner with
    | [] => false
    | i :: _ => b.eligible p g.owner && decide (i.bytes.length + sent ≤ x.limitOf g.owner)
  if goesOn then (b.setPort p { x with grant := some { g with sent := sent } }).firstBeat p g.owner
  else b.setPort p { x with grant := none }

/-- FRAME_LAST_BEAT (R399) of a port. -/
def execFrameLastBeat (b : Build) (p : Fin 9) (s : State) : Host.Outcome State Fault Refusal :=
  onBlock b (fun x =>
    match (x.port p).grant with
    | none => x
    | some g => x.when (decide (p.val < portCount x.build)) (fun x => x.lastBeat p g)) s

/-- The decision of an arbiter (R400). In Borlu-D class 0 frames do not travel in the bulk lane (R396). -/
def Block.decision (b : Block) (p : Nat) : Block :=
  let tiers := match b.build with | .D => [1, 2] | .T => [0, 1, 2]
  match (tiers.filterMap (fun t => (b.pickTier p t).map (fun r => (t, r)))).head? with
  | none => b
  | some (t, r) => b.grantTo p t r

/-- EGRESS_DECISION (R400) of a port on which no grant runs. -/
def execEgressDecision (b : Build) (p : Fin 9) (s : State) : Host.Outcome State Fault Refusal :=
  onBlock b (fun x => x.when (decide (p.val < portCount x.build) && (x.port p).grant.isNone) (fun x => x.decision p)) s

/-! ### Freezing and buckets (R401 to R403) -/

/-- A write of EGR_PORT_CTL of a port. -/
def Block.writeFreeze (b : Block) (p : Nat) (v : Word) : Block := b.setReg (Reg.EGR_PORT_CTL + 0x10 * p) (v &&& 1)

/-- EGR_FREEZE_WRITE (R401). -/
def execEgrFreezeWrite (b : Build) (p : Fin 9) (v : Word) (s : State) : Host.Outcome State Fault Refusal :=
  onBlock b (fun x => x.when (decide (p.val < portCount x.build)) (fun x => x.writeFreeze p v)) s

/-- The port and the requester that EGR_SEL selects; none where it selects nothing (R395). -/
def Block.egrSel (b : Block) : Option (Nat × Nat) :=
  let p := b.fld Reg.EGR_SEL 27 24
  let r := b.fld Reg.EGR_SEL 8 0
  if p < portCount b.build ∧ r < requesterCount b.build p then some (p, r) else none

/-- The tokens of a bucket in the cycle after its reconfiguration (R403). -/
def EgPort.resetTok (x : EgPort) (r : Nat) : EgPort := x.setTok r (if (x.cfgOf r).getLsbD 31 then 256 * (x.burstOf r : Int) else 0)

/-- A bucket is reconfigured: the next cycle sets its tokens (R403). -/
def EgPort.reconfigure (x : EgPort) (r : Nat) : EgPort := { x with reconf := if r ∈ x.reconf then x.reconf else x.reconf ++ [r] }

/-- A write of EGR_BKT_RATE, EGR_BKT_BURST or EGR_BKT_CFG of the selected bucket. -/
def Block.writeBucket (b : Block) (off : Nat) (v : Word) : Block :=
  match b.egrSel with
  | none => b
  | some (p, r) =>
    let x := b.port p
    let x := if off = Reg.EGR_BKT_RATE then { x with rate := sput (fun _ => (0x100 : Word)) x.rate r (v &&& 0xFFFFFF) }
      else if off = Reg.EGR_BKT_BURST then { x with burst := sput (fun _ => (0x1000 : Word)) x.burst r (v &&& 0xFFFFFF) }
      else { x with cfg := sput (fun _ => (0x80001000 : Word)) x.cfg r (v &&& 0x80FF7FFF) }
    b.setPort p (x.reconfigure r)

/-- EGR_BKT_RECONFIG (R403): `which` 0 writes RATE, 1 BURST, 2 CFG. -/
def execEgrBktReconfig (b : Build) (which : Fin 3) (v : Word) (s : State) : Host.Outcome State Fault Refusal :=
  onBlock b (fun x => x.writeBucket (match which with | 0 => Reg.EGR_BKT_RATE | 1 => Reg.EGR_BKT_BURST | _ => Reg.EGR_BKT_CFG) v) s

/-- One bucket's refill in one cycle of its port's clock (R402). -/
def EgPort.refillOne (x : EgPort) (r : Nat) : EgPort :=
  x.setTok r (min (256 * (x.burstOf r : Int)) (x.tokOf r + x.rateOf r))

/-- One cycle of a port's clock (R402): reconfigured buckets are set, the others refilled up to BURST, and then the first beats are paid. -/
def EgPort.refillAll (x : EgPort) : EgPort :=
  let keys := (x.tok.map Prod.fst ++ (x.burst.map Prod.fst).filter (fun k => !x.tok.any (fun e => e.1 == k))).filter (fun k => !(k ∈ x.reconf))
  let x := x.reconf.foldl EgPort.resetTok (keys.foldl EgPort.refillOne x)
  let x := x.debits.foldl (fun x e => x.setTok e.1 (x.tokOf e.1 - 256 * e.2)) x
  { x with reconf := [], debits := [] }

/-- `n` cycles of a port's clock. -/
def EgPort.refill (x : EgPort) : Nat → EgPort
  | 0 => x
  | n + 1 => x.refillAll.refill n

/-- The buckets of every port move on, one cycle in Borlu-D and four ANL cycles for a TIM cycle of Borlu-T, and what is coalesced leaves
where it can (R397, R402). -/
def Block.refillPorts (b : Block) : Block :=
  let n := match b.build with | .D => 1 | .T => 4
  b.forEach (b.egress.map Prod.fst) (fun b p => (b.setPort p ((b.port p).refill n)).drainPort p)

/-! ### Alarm slots (R27, R396) -/

/-- Send one class 0 frame in an alarm slot. -/
def Block.slotFrame (b : Block) : Block :=
  if b.portFrozen 0 then b
  else match b.pickTier 0 0 with
    | none => b
    | some r =>
      let x := (b.port 0).setPointer 0 ((r + 1) % requesterCount .D 0)
      let b := (b.setPort 0 { x with latestOwner := r }).count Reg.EGR_GRANTS 1
      (b.firstBeat 0 r).leave 0 r

/-- The gap since the latest alarm slot (R27), in 2^-32 tick. -/
def Block.slotGapNow (b : Block) : Option Nat := b.die.slotMark.map (fun m => (b.time.cycles - m) * b.incr)

/-- The gap of an alarm slot is recorded, and one above 128 ns raises a health crumb. No rule says which context it names (log 4). -/
def Block.measureSlot (b : Block) : Block :=
  let gap := b.slotGapNow
  let ns := (gap.getD 0) / 2 ^ 36
  let span := b.healthSpanNow
  let largest := if b.die.slotSpan = span then max b.die.slotGap ns else ns
  let b := { b with die := { b.die with slotMark := some b.time.cycles, slotSpan := span, slotGap := largest } }
  if 128 * 2 ^ 36 < gap.getD 0 then
    let (c, b) := b.freeNat
    b.healthOnce [] 0x0801 ns (c % 2 ^ 32) 0
  else b

/-- The beats of an alarm slot of 192 bytes (R396, R478): those after its frames are unfilled. -/
def slotBeats (bs : List (Bytes × Nat)) : List (Bytes × Nat) := if bs.isEmpty then [] else bs ++ List.replicate (12 - bs.length) (zeros 16, 0)

/-- ALARM_SLOT_ARRIVAL (R27, R396): an alarm slot starts and carries up to two class 0 frames. -/
def execAlarmSlotArrival (s : State) : Host.Outcome State Fault Refusal :=
  onDie (fun b => (((b.measureSlot.modBeats (fun _ => [])).slotFrame).slotFrame).modBeats slotBeats) s

end Sys2Proof.Machine
end

