-- ==== Sys2Proof/Machine/Search.lean ====
section
/-! DEFINITION. Retrospective search (R308 to R312): specifications, matching, outputs; replay jobs (R336); the search slots. -/

namespace Sys2Proof.Machine

/-! ### Specifications (R308, R309) -/

def scanSource (s : Bytes) : Nat := byteAt s 0
def scanOutput (s : Bytes) : Nat := byteAt s 1
def scanJob (s : Bytes) : Nat := fieldAt s 2 2
def scanByFt (s : Bytes) : Bool := bitOf (byteAt s 4) 0
def scanRescore (s : Bytes) : Bool := bitOf (byteAt s 4) 1
def scanParam (s : Bytes) : Nat := byteAt s 5
def scanStream (s : Bytes) : Nat := fieldAt s 6 2
def scanFrom (s : Bytes) : Nat := fieldAt s 8 8
def scanTo (s : Bytes) : Nat := fieldAt s 16 8
def scanLo (s : Bytes) : Nat := fieldAt s 24 4
def scanHi (s : Bytes) : Nat := fieldAt s 28 4
def scanMax (s : Bytes) : Nat := fieldAt s 116 4

/-- Condition `i`: KIND, SEL, LO, HI. -/
def scanCond (s : Bytes) (i : Nat) : Nat × Nat × Nat × Nat :=
  let c := slice s (64 + 8 * i) 8
  (byteAt c 0, fieldAt c 2 2, fieldAt c 4 2, fieldAt c 6 2)

/-- The sources that a condition KIND may be used with (R309). -/
def condSuits (source kind : Nat) : Bool :=
  match kind with
  | 0 => true | 1 => source == 1 | 2 => source == 2 | 3 => source == 2 | 4 => source == 3 | 5 => source == 3 | 6 => source == 4
  | 7 => source == 4 | _ => false

/-- A specification keeps the table of R308. -/
def scanGood (s : Bytes) : Bool :=
  decide (scanSource s ≤ 4) && decide (scanOutput s ≤ 3) && decide (byteAt s 4 < 16) && (!scanRescore s || scanSource s == 1) &&
    (match scanOutput s with
      | 3 => decide (1 ≤ scanParam s) && decide (scanParam s ≤ 64)
      | 2 => decide (scanParam s ≤ 16)
      | _ => scanParam s == 0) &&
    scanStream s != 0 && decide (scanHi s < 2 ^ 18) && decide (scanLo s ≤ scanHi s) && zeroAt s 113 3 && zeroAt s 120 8 &&
    (List.range 4).all (fun i => condSuits (scanSource s) (scanCond s i).1 && byteAt s (65 + 8 * i) == 0)

/-- A rank lies in the range of a specification. -/
def rankIn (s : Bytes) (r : Nat) : Bool := decide (scanLo s ≤ r) && decide (r ≤ scanHi s)

/-- A window of exponent `k` lies in a specification's range, or its span meets it under BY_FT; `start` bounds the range (R309, R311). -/
def windowIn (s : Bytes) (k : Nat) (start : BitVec 64) (w : Nat) : Bool :=
  if scanByFt s then
    let from_ : Int := windowAbs k start w * windowTicks k
    decide (from_ < min (scanTo s) start.toNat) && decide ((scanFrom s : Int) < from_ + windowTicks k)
  else decide (scanFrom s ≤ w) && decide (w < scanTo s)

/-! ### Ledger records (R309) -/

/-- The value of a condition for a record and a rank. -/
def condValue (source kind sel : Nat) (fs : List Feature) (rec : Bytes) (outcome : Nat) : Nat :=
  match source, kind with
  | 1, 1 => let half := decide (256 ≤ sel); (codeOf fs (vectorCodeBytes rec) (sel % 256) half).1
  | 2, 2 => byteAt rec 10
  | 2, 3 => byteAt rec 9
  | 3, 4 => byteAt rec 10
  | 3, 5 => byteAt rec 9
  | 4, 6 => outcome
  | _, _ => fieldAt rec 8 2

/-- Every used condition holds. -/
def condsHold (s : Bytes) (fs : List Feature) (rec : Bytes) (outcome : Nat) : Bool :=
  (List.range 4).all (fun i =>
    let (kind, sel, lo, hi) := scanCond s i
    let v := condValue (scanSource s) kind sel fs rec outcome
    kind == 0 || (decide (lo ≤ v) && decide (v ≤ hi)))

/-- The ranks of a ledger record with their outcomes: its own rank, or the members of a vote record's group. -/
def recordRanks (plan : Bytes) (source : Nat) (rec : Bytes) : List (Nat × Nat) :=
  if source = 4 then
    match groupById plan (fieldAt rec 8 2) with
    | some g => (g.members.zip (List.range 16)).map (fun m => (m.1, bitsOf (fieldAt rec 24 8) (4 * m.2 + 3) (4 * m.2)))
    | none => []
  else [(bitsOf (fieldAt rec 0 4) 17 0, 0)]

/-- The region of a deviation record is asked for. -/
def regionAsked (s : Bytes) (rec : Bytes) : Bool := scanSource s != 3 || bitOf (fieldAt s 32 8) (byteAt rec 9 % 64)

/-- The matches of a ledger record: one for each rank of it that matches. -/
def ledgerHits (s plan : Bytes) (fs : List Feature) (rec : Bytes) : List (Nat × Bytes) :=
  ((recordRanks plan (scanSource s) rec).filter (fun r => rankIn s r.1 && regionAsked s rec && condsHold s fs rec r.2)).map
    (fun r => (r.1, rec))

/-- The causes for which a rescored verdict is INVALID (R257, R275): a group on a lost lane of the quad, a BAD tree, or a group that is BAD
or in a failed bank, a fetch from the ledger that failed. -/
def Block.rescoreCauses (b : Block) (e : Ensemble) (quad : Nat) (fetchErr : Bool) : List Nat :=
  let u := b.tray.plane
  let bad (t : TreeRef) : Bool := let g := slotIn u.groups t.slot; t.rule && (!g.usable || b.isSet Reg.RUL_STS (4 + g.bank))
  (if (List.range (min 32 e.trees.length)).any (b.laneLost quad) then [1] else []) ++
    (if u.storeErr e || e.trees.any bad then [2] else []) ++ (if fetchErr then [3] else [])

/-- The searches of the groups of an ensemble for one rescored vector (R270, R275). -/
def Block.rescoreSearches (b : Block) (fs : List Feature) (e : Ensemble) (codes : Bytes) : Block :=
  b.forEach (e.trees.filter TreeRef.rule) (fun b t =>
    let g := slotIn b.tray.plane.groups t.slot
    if b.isSet Reg.RUL_STS (4 + g.bank) then b else b.countSearches 1 (bit (ruleMatch g.bytes (ruleKey fs g.bytes codes)).isNone))

/-- The verdict record that RESCORE gives for a vector record (R309), with its digest over the plan named (R251). The quad that scores it is a
free value of the record (log 4). -/
def Block.rescore (b : Block) (s plan : Bytes) (fetchErr : Bool) (rec : Bytes) : Bytes × Block :=
  let ens := byteAt s 112
  let fs := planFeatures plan
  match (planEnsembles plan)[ens]? with
  | none => ([], b)
  | some e =>
    let c := (b.lowestNode (scanJob s)).getD 0
    let codes := vectorCodeBytes rec
    let b := if fetchErr then b.flag Reg.ENS_STS 4 else b
    let b := (b.rescoreSearches fs e codes).countWide Reg.ENS_EVALS_LO (e.trees.filter (fun t => !t.rule)).length
    let (r, b) := b.scoreVector c fs e codes (b.rescoreCauses e (Config.rescoreQuad rec % 4) fetchErr)
    let digest : Option Bytes :=
      if bitOf e.flags 0 && b.isSet Reg.ENS_CTL 1 && r.code != 3 then some (digest16 (e.digest ++ slice s 96 16 ++ rec)) else none
    let late := bitOf (byteAt rec 9) 0
    (verdictRecord fs { rank := fieldAt rec 0 4, late := late, ens := ens, code := r.code, acc := r.acc, satMask := r.satMask, cause := r.cause,
                        digest := digest }
      { rank := fieldAt rec 0 4, late := late, audited := bitOf (byteAt rec 9) 2, record := rec } none,
     if digest.isSome then b.count Reg.ENS_DIGESTS 1 else b)

/-- The window that a ledger record names in its own WINDOW field (R218, R250, R286, R304). -/
def recordWindow (source : Nat) (rec : Bytes) : Nat := if source = 4 then fieldAt rec 16 5 else fieldAt rec 4 5

/-- What a ledger scan finds: records read, and matches in ascending window and rank. -/
def Block.ledgerScan (b : Block) (s : Bytes) (k : Nat) (plan : Bytes) (start : BitVec 64) : Nat × List (Nat × Bytes) :=
  let kind := match scanSource s with | 1 => 1 | 2 => 2 | 3 => 3 | _ => 6
  let recs := (b.tray.history.records 1).filter (fun r => r.job == scanJob s && r.kind == kind && windowIn s k start (recordWindow (scanSource s) r.bytes))
  let order (x y : Nat × Nat × Bytes) : Bool := decide (x.1 < y.1) || (x.1 == y.1 && decide (x.2.1 ≤ y.2.1))
  let fs := planFeatures plan
  let hits := ((recs.map (fun r => (ledgerHits s plan fs r.bytes).map (fun h => (recordWindow (scanSource s) r.bytes, h)))).flatten).mergeSort order
  (recs.length, hits.map Prod.snd)

/-! ### Trace packets (R309, R310) -/

/-- The FT that a packet carries or stands at: its own FT for a die packet and for a SYNC, which P(C) then starts from (R111); P(C) for any other
region packet. -/
def packetFt (ref : RefState) (period : Nat → Nat) (p : Bytes) : BitVec 64 :=
  if isDiePacket p then BitVec.ofNat 64 (if byteAt p 0 = 0x43 then fieldAt p 20 8 else fieldAt p 8 8)
  else if byteAt p 0 = 1 then BitVec.ofNat 64 (fieldAt p 24 8)
  else ref.time period (ref.cycle p)

/-- The addresses that a packet carries: bundle, target, data. -/
def packetAddrs (before after : RefState) (p : Bytes) : List Nat :=
  match byteAt p 0 with
  | 0x01 => [fieldAt p 10 6, fieldAt p 16 4]
  | 0x10 => [before.a]
  | 0x11 => [fieldAt p 6 4]
  | 0x12 => [fieldAt p 2 4]
  | 0x20 | 0x21 | 0x22 | 0x23 => [after.d]
  | _ => []

/-- A packet of a loaf matches a TRACE specification. The region condition does not apply to a die packet. -/
def packetHit (s : Bytes) (ft : BitVec 64) (start : BitVec 64) (addrs : List Nat) (p : Bytes) : Bool :=
  let types := (List.range 8).map (fun i => byteAt s (40 + i))
  (types.filter (· != 0)).any (· == byteAt p 0) && (isDiePacket p || bitOf (fieldAt s 32 8) (packetRegion p)) &&
    (!scanByFt s || (decide (scanFrom s ≤ ft.toNat) && decide (ft.toNat < min (scanTo s) start.toNat))) &&
    (!bitOf (byteAt s 4) 2 || addrs.any (fun a => decide (fieldAt s 48 6 ≤ a) && decide (a ≤ fieldAt s 54 6))) &&
    (!bitOf (byteAt s 4) 3 || byteAt p 0 != 0x30 || fieldAt p 4 4 == fieldAt s 60 4)

/-- A TRACE match (R310). -/
def traceMatch (rank seq off : Nat) (pc : Nat) (ft : BitVec 64) (p : Bytes) : Bytes :=
  leBytes 4 rank ++ leBytes 1 (if isDiePacket p then 0 else packetRegion p) ++ leBytes 1 (byteAt p 0) ++ zeros 2 ++ leBytes 6 pc ++ zeros 2 ++
    leBytes 8 ft.toNat ++ leBytes 4 seq ++ leBytes 4 off ++ (slice p 2 8 ++ zeros 8).take 8

/-- The matches of a loaf's uncompressed bytes. -/
def loafHits (s : Bytes) (period : Nat → Nat) (start : BitVec 64) (rank seq : Nat) (out : Bytes) : List (Nat × Bytes) :=
  let (ps, _) := loafPackets (out.length + 1) 0 out
  (ps.foldl (fun (a : Sparse RefState × List (Nat × Bytes)) op =>
    let p := op.2
    let i := packetRegion p
    let ref := ((a.1.find? (fun e => e.1 == i)).map Prod.snd).getD {}
    let after := if isDiePacket p then ref else ref.take p
    let ft := packetFt ref period p
    let pc := if isDiePacket p then 0 else ref.cycle p
    let refs := if isDiePacket p then a.1 else sinsert i after (a.1.filter (fun e => e.1 != i))
    if packetHit s ft start (packetAddrs ref after p) p then (refs, a.2 ++ [(rank, traceMatch rank seq op.1 pc ft p)]) else (refs, a.2))
    (([] : Sparse RefState), ([] : List (Nat × Bytes)))).2

/-- An entry of the unreadable list (R312): port, cause, status, SEQ, FT or window (log 26). -/
def lostEntry (port seq cause status place : Nat) : Bytes :=
  leBytes 1 port ++ leBytes 1 cause ++ leBytes 1 status ++ zeros 1 ++ leBytes 4 seq ++ leBytes 8 place

/-- The loaves that a TRACE scan has to read, in the order of R311: window, rank, SEQ; and what is missing before it starts. Loaves of a LOST
member's ports that are not CODED are not held (R360): what this heir has rebuilt tells them by their gaps in SEQ. Under BY_FT they
are those whose span from their ANCHOR to the next one meets the range, and any other that holds a packet in it. -/
def Block.traceLoaves (b : Block) (s : Bytes) (map : List (Nat × Nat)) (start : BitVec 64) : List (Nat × Nat × Nat × Nat) × List Bytes :=
  let key (da : Nat) : Option Nat := b.tray.history.heirOf.find? (fun k => (b.peerOf (k / 16) (k % 16)).da / 2 ^ 13 == da / 2 ^ 13)
  let port (da : Nat) : Option Nat :=
    if da / 2 ^ 13 = b.da / 2 ^ 13 then some (slotOf da) else (key da).map (fun k => 256 * (k + 1) + slotOf da)
  let ports := (map.filter (fun m => rankIn s m.1)).filterMap (fun m => (port m.2).map (fun p => (m.1, p)))
  let segs := b.tray.history.segs.filter (fun g => g.region == 0)
  let of (p : Nat) : List HistRec :=
    (if 256 ≤ p then b.tray.history.loavesOf (p / 256 - 1) (p % 256)
     else ((segs.filter (fun g => g.port == p)).map Segment.recs).flatten).filter (fun r => r.job == scanJob s)
  let hit (rp : Nat × Nat) (r : HistRec) : Bool := scanByFt s && match decodeLoaf r.bytes (2 ^ 24) with
    | .ok l => !(loafHits s (Config.oppPeriod rp.2) start rp.1 r.seq l.out).isEmpty
    | .error _ => false
  let inRange (r : HistRec) (next : Option HistRec) : Bool :=
    if scanByFt s then decide (r.ft < min (scanTo s) start.toNat) &&
        (match next with | some n => decide (scanFrom s < n.ft) | none => true)
    else decide (scanFrom s ≤ r.w) && decide (r.w < scanTo s)
  let all := (ports.map (fun rp =>
    let rs := of rp.2
    let chain := rs.zip (rs.drop 1 |>.map some |>.append [none])
    let picked := (chain.filter (fun x => inRange x.1 x.2 || hit rp x.1)).map Prod.fst
    let span := (chain.filter (fun x => inRange x.1 x.2)).map Prod.fst
    let gaps := (span.zip (span.drop 1)).filter (fun x => x.2.seq != (x.1.seq + 1) % 2 ^ 32)
    let old := match rs.head? with
      | some r => decide (scanFrom s < if scanByFt s then r.ft else r.w)
      | none => true
    (picked.map (fun r => (rp.1, rp.2, r.seq, r.w)),
     (if old then [lostEntry (rp.2 % 256) 0 3 0 (scanFrom s)] else []) ++ gaps.map (fun x => lostEntry (rp.2 % 256) ((x.1.seq + 1) % 2 ^ 32)
       (if 256 ≤ rp.2 then 3 else 2) 0
       (if scanByFt s then x.2.ft else x.2.w)))))
  let order (x y : Nat × Nat × Nat × Nat) : Bool :=
    decide (x.2.2.2 < y.2.2.2) || (x.2.2.2 == y.2.2.2 && decide (x.1 ≤ y.1))
  ((all.map Prod.fst).flatten.mergeSort order, (all.map Prod.snd).flatten)

/-- Decompressor `unit` reads one loaf of a TRACE scan. -/
def Block.readLoaf (b : Block) (unit : Nat) (x : Scan) (l : Nat × Nat × Nat × Nat) : Scan × Block :=
  let (rank, port, seq, w) := l
  let b := b.useLoaf port seq
  match b.tray.history.loafAt port (fun r => r.seq == seq && r.w == w) with
  | none => ({ x with lost := x.lost ++ [lostEntry (port % 256) seq 1 0 w] }, b)
  | some (_, 2) => ({ x with lost := x.lost ++ [lostEntry (port % 256) seq 3 0 w] }, b)
  | some (r, 1) =>
    let (e, b) := b.unreadable
    ({ x with lost := x.lost ++ [lostEntry port seq 0 e.status (if scanByFt x.spec then r.ft else w)], read := x.read + 1 },
     b.loafFault unit r.bytes e)
  | some (r, _) =>
    match decodeLoaf r.bytes (2 ^ 24) with
    | .error e => ({ x with lost := x.lost ++ [lostEntry (port % 256) seq 0 e.status (if scanByFt x.spec then r.ft else w)], read := x.read + 1 },
                   b.loafFault unit r.bytes e)
    | .ok loaf => ({ x with hits := x.hits ++ loafHits x.spec (Config.oppPeriod port) x.start rank seq loaf.out, read := x.read + 1 }, b)

/-! ### SEARCH -/

/-- The numbers in use by scans and replay jobs; the lowest free one of 16. -/
def Block.freeScan (b : Block) : Option Nat :=
  (List.range 16).find? (fun i => !b.tray.plane.scans.any (fun e => e.1 == i) && !b.tray.plane.replays.any (fun e => e.1 == i))

/-- Add a scan. -/
def Block.addScan (b : Block) (n : Nat) (x : Scan) : Block := b.modPlane (fun u => { u with scans := sinsert n x u.scans })

/-- The context of a job and epoch that is no longer live (log 60), at its lowest level, with the first binding of the schedule in force that has its
fields and whose plan the store holds. -/
def Block.pastCtx (b : Block) (mine : Ctx → Bool) : Option Ctx :=
  let bound (x : Ctx) : Option Nat := match b.schedule with
    | some img => (List.range (schedBinds img)).find? (fun i => x.bindsTo (schedBind img i) && (b.tray.plane.planOf x.plan).isSome)
    | none => none
  ((List.range 5).findSome? (fun l => (b.tray.plane.past.filter (fun y => mine y && y.level == l + 5)).getLast?)).map (fun x => { x with bind := bound x })

/-- The context that a search of a job goes by: the live one, else the latest that was given back. -/
def Block.searchCtx (b : Block) (job : Nat) : Option Ctx :=
  match b.lowestNode job with
  | some c => some (b.ctx c)
  | none => b.pastCtx (fun y => y.job == job)

/-- The context that a replay of a job and epoch goes by: the live one, where it has that epoch, else one that was given back. -/
def Block.replayCtx (b : Block) (job epoch : Nat) : Option Ctx :=
  let past := b.pastCtx (fun y => y.job == job && y.epoch == epoch)
  match b.lowestNode job with
  | some c => if (b.ctx c).epoch = epoch then some (b.ctx c) else past
  | none => past

/-- SEARCH (R308, R309). PLAN names no plan of the store, or ENS no ensemble of it, breaks the table of R308 (DEDUCED, log 25). -/
def Block.searchDesc (b : Block) (t : Taken) : Block :=
  let s := b.descInput t
  let x := b.searchCtx (scanJob s)
  let plan := (x.bind (fun x => b.tray.plane.planOf x.plan)).getD []
  let k := (x.map Ctx.k).getD 0
  match b.freeScan with
  | none => b.complete t 0x11
  | some n =>
    if !scanGood s ∨ scanJob s ≠ t.job then b.complete t 0x0C
    else if scanSource s = 0 then
      let (ls, lost) := b.traceLoaves s ((x.map Ctx.map).getD []) b.ft
      b.addScan n { desc := t.id, spec := s, start := b.ft, loaves := ls, lost := lost }
    else
      let b := (b.useRegion 1).usePlan (slice s 96 16)
      let named := (b.tray.plane.planOf (slice s 96 16)).getD []
      let (read, hits) := b.ledgerScan s k plan b.ft
      let oldest := ((b.tray.history.own 1).filter (fun r => r.job == scanJob s)).head?
      let old := match oldest with
        | some r => !(if scanByFt s then decide (windowAbs k b.ft r.w * windowTicks k ≤ (scanFrom s : Int)) else decide (r.w ≤ scanFrom s))
        | none => true
      let faulted := ((b.tray.history.segs.filter (fun g => g.region == 1 && g.faulted)).map (fun g =>
        (g.recs.filter (fun r => r.job == scanJob s && windowIn s k b.ft r.w)).take 1)).flatten
      let gone := (((b.tray.history.segs.filter (fun g => g.region == 1 && g.lost)).map Segment.recs).flatten.filter (fun r =>
        r.job == scanJob s && windowIn s k b.ft r.w)).map HistRec.w
      let lost := (if old then [lostEntry 0 0 3 0 (scanFrom s)] else []) ++ faulted.map (fun r => lostEntry 0 0 0 0 r.w) ++
        gone.eraseDups.map (lostEntry 0 0 3 0)
      let x : Scan := { desc := t.id, spec := s, start := b.ft, read := read, hits := hits, lost := lost }
      if !scanRescore s then b.addScan n x
      else match (planEnsembles named)[byteAt s 112]? with
        | none => b.complete t 0x0C
        | some _ =>
          if planPart named 1 ≠ planPart plan 1 then b.complete t 0x10
          else b.addScan n { x with hits := [], unscored := hits }

/-- SEARCH (R308). -/
def execSearch (id : Nat) (s : State) : Host.Outcome State Fault Refusal :=
  onTray (fun b => b.onMemory 0x22 2 id Block.searchDesc) s

/-! ### Outputs (R310, R312) -/

/-- The match counts by rank, ascending. -/
def hitCounts (hits : List (Nat × Bytes)) : Sparse Nat := hits.foldl (fun m h => smodify (fun _ => 0) m h.1 (· + 1)) []

/-- What a scan writes: its bytes, and the number of records. -/
def Scan.result (x : Scan) : Bytes × Nat :=
  let s := x.spec
  let counts := hitCounts x.hits
  match scanOutput s with
  | 0 => let hs := if scanMax s = 0 then x.hits else x.hits.take (scanMax s)
         ((hs.map Prod.snd).flatten, hs.length)
  | 1 => ((counts.map (fun e => leBytes 4 e.1 ++ leBytes 4 e.2)).flatten, counts.length)
  | 2 =>
    let n := scanHi s - scanLo s + 1
    let rest := n - counts.length
    let v : Sieve := counts.foldl (fun v e => v.enter e.2) { shift := scanParam s, n := n }
    let v : Sieve := if rest = 0 then v else { v with bins := smodify (fun _ => 0) v.bins 0 (· + rest) }
    (v.resolve.1, 1)
  | _ => (topBody counts.length (scanParam s) (topFirst (scanParam s) (counts.map (fun e => (satTo (2 ^ 32 - 1) e.2, e.1)))), 1)

/-- The summary record (R312). -/
def Scan.summary (x : Scan) (written : Nat) : Bytes :=
  let cut := scanOutput x.spec = 0 ∧ scanMax x.spec ≠ 0 ∧ scanMax x.spec < x.hits.length
  leBytes 8 x.read ++ leBytes 8 x.hits.length ++ leBytes 4 written ++ leBytes 1 (if cut then 1 else 0) ++ zeros 3 ++
    leBytes 4 x.lost.length ++ zeros 4 ++ x.lost.flatten

/-- Compressed output that does not fit its space (R152): the engines have taken what stands before the end of the loaf that did not fit and emitted
the loaves before it, and NO_SPACE is captured for that loaf, with offset 0 (R155; DESIGN CHOICE, log 4: no offset of detection is given). No
rule says which compressor took the job (log 4). Where every loaf fits and the record after them does not, no engine met the end. -/
def Block.noSpace (b : Block) (space blk stream seq : Nat) (data : Bytes) (loaves : List Bytes) : Block :=
  let fit := (loaves.foldl (fun (a : Nat × Nat) l =>
    let n := a.2 + (l.length + 63) / 64 * 64
    (if n ≤ space then a.1 + 1 else a.1, n)) (0, 0)).1
  let b := b.countLoaves (min data.length ((fit + 1) * blkSize blk)) (loaves.take fit)
  if loaves.length ≤ fit then b.flag Reg.LOF_STS 3
  else
    let (u, b) := b.freeNat
    b.captureFault false (32 + u % 8) stream ((seq + fit) % 2 ^ 32) ⟨3, 0⟩

/-- SEARCH_DONE (R312): scan `n` has read everything; SCAN_DONE is set. The block size of its loaves is a free value (log 4). A halted plane
writes no result (R316). -/
def execSearchDone (n : Fin 16) (s : State) : Host.Outcome State Fault Refusal :=
  onTray (fun b =>
    match b.tray.plane.scans.find? (fun e => e.1 == n.val) with
    | none => b
    | some (_, x) =>
      b.when (x.loaves.isEmpty && x.unscored.isEmpty && decide (0 < x.slots) && b.stewardRuns 2 && !b.isSet Reg.PLN_STS 4) (fun b =>
        let b := (b.modPlane (fun u => { u with scans := u.scans.filter (fun e => e.1 != n.val) })).flag Reg.ANV_STS 4
        match b.takenById x.desc with
        | none => b
        | some t =>
          let (f, b) := b.freeNat
          let (data, written) := x.result
          let loaves := cutLoaves (f % 5) b.effort (scanStream x.spec) 0 b.rawOnly (fun _ => 4) data
          let bytes := (loaves.map (padTo 64)).flatten ++ x.summary written
          if t.outLen < bytes.length then (b.noSpace t.outLen (f % 5) (scanStream x.spec) 0 data loaves).complete t 0x03
          else ((b.countLoaves data.length loaves).writeOut t 0 bytes).complete t 0 bytes.length
            (leBytes 8 x.hits.length ++ leBytes 4 written))) s

/-! ### REPLAY (R336) -/

/-- The context as a replay job sees it before its first window: the state of an image, or the start of the context. -/
def Ctx.replayFrom (x : Ctx) (s : Snapshot) : Ctx :=
  { x with an := s.an, members := s.members, seq := s.seq, dups := s.dups, settings := s.settings, catchup := true, behind := 0, outputs := [],
           wins := [], isHearth := x.isHearth }

/-- REPLAY: the checks, and the job. -/
def Block.replayDesc (b : Block) (t : Taken) : Block :=
  let first := fieldAt t.bytes 32 5
  let last := fieldAt t.bytes 37 5
  let mode := byteAt t.bytes 42
  let start := byteAt t.bytes 43
  let epoch := fieldAt t.bytes 44 4
  let img := b.descInput t
  match b.freeScan, b.replayCtx t.job epoch with
  | none, _ => b.complete t 0x11
  | _, none => b.complete t 0x09
  | some n, some x =>
    let go (b : Block) (s : Snapshot) : Block :=
      if windowDiff s.w first < 0 then
        b.modPlane (fun u => { u with replays := sinsert n { desc := t.id, job := t.job, epoch := epoch, first := first, next := (s.w + 1) % 2 ^ 40,
                                                             last := last, mode := mode, ctx := x.replayFrom s } u.replays })
      else b.complete t 0x0C
    if 1 < mode ∨ 2 < start ∨ windowDiff last first < 0 then b.complete t 0x0C
    else if x.bind = none then b.complete t 0x09
    else match start with
      | 0 =>
        if !imageFormGood img then b.complete t 0x0C
        else if !imageDigestGood img then b.complete t 0x13
        else if imgJob img ≠ x.job ∨ imgEpoch img ≠ epoch ∨ imgPlan img ≠ x.plan then b.complete t 0x09
        else go b (b.imageSnapshot img)
      | 1 =>
        let b := b.useRegion 3
        let marks := (b.tray.history.records 3).filter (fun r =>
          r.job == x.job && r.epoch == epoch && r.level == x.level && decide (windowDiff r.w first < 0))
        match marks.getLast? with
        | none => b.complete t 0x0F 0 (leBytes 5 first)
        | some r => go b (b.imageSnapshot r.bytes)
      | _ => go b { w := (windowOf x.k x.start + 2 ^ 40 - 1) % 2 ^ 40 }

/-- REPLAY (R336). -/
def execReplay (id : Nat) (s : State) : Host.Outcome State Fault Refusal :=
  onTray (fun b => b.onMemory 0x17 2 id Block.replayDesc) s

/-- The ledger records of a kind for a window of a context. -/
def Block.ledgerOf (b : Block) (x : Ctx) (w kind : Nat) : List Bytes :=
  ((b.tray.history.records 1).filter (fun r => r.job == x.job && r.epoch == x.epoch && r.level == x.level && r.w == w && r.kind == kind)).map HistRec.bytes

/-- The loaves that the anvil passes of the pass of window `w` compared, as the replay log names them: the window that the LAG of their port gives,
and port, SEQ and trailer (R288, R335). -/
def Block.namedLoaves (b : Block) (x : Ctx) (plan : Bytes) (w : Nat) : List (Nat × Bytes) :=
  ((List.range 9).map (fun lag =>
    let of := (w + 2 ^ 40 - lag) % 2 ^ 40
    let body := (b.tray.history.replayOf x of 3).getD []
    ((chunks 12 (body.length / 12) body).filter (fun n => (planCoverage plan (fieldAt n 0 4)).2.1 == lag)).map (fun n => (of, n)))).flatten

/-- A named loaf and its bytes, where the flight ring still holds it. -/
def Block.heldLoaf (b : Block) (n : Bytes) : Option (Bytes × Loaf) :=
  let mine (r : HistRec) : Bool := r.seq == fieldAt n 4 4 &&
    match loafOf r.bytes with | some l => l.trailer r.bytes == slice n 8 4 | none => false
  match b.tray.history.loafAt (fieldAt n 0 4) mine with
  | some (r, 0) => (loafOf r.bytes).map (fun l => (r.bytes, l))
  | _ => none

/-- What the anvil gives a replayed pass of window `w` (R336): the named loaves are compared again while the flight ring holds them all, else the
deviation, coverage and mark records of the ledger stand in. Loaves skipped and faulted are the ledger's in both cases, and so is the RING bit of a
loaf that a LIVE port deferred (log 27). -/
def Block.anvilAgain (b : Block) (c w : Nat) : Block :=
  let x := b.ctx c
  let plan := b.ctxPlan c
  let named := (b.namedLoaves x plan w).map (fun n => (n.1, n.2, b.heldLoaf n.2))
  let again := named.all (fun n => n.2.2.isSome)
  let devs := (b.ledgerOf x w 3).filter (fun d => !bitOf (byteAt d 11) 1)
  let b := b.forEach x.map (fun b e =>
    let lag := (planCoverage plan (slotOf e.2)).2.1
    let of (kind : Nat) : Bytes := ((b.ledgerOf x w kind).find? (fun r => fieldAt r 0 4 == e.1)).getD []
    let v := coverFrom (of 4) (markTimes (of 12))
    let v := if again then { v with compared := 0, flags := v.flags &&& 16, regions := [], marks := [] } else v
    b.modWin c ((w + 2 ^ 40 - lag) % 2 ^ 40) (fun p =>
      let p := { p with cover := sput (fun _ => {}) p.cover e.1 v, devCount := p.devCount.filter (fun d => d.1 / 16 != e.1),
                        devs := p.devs.filter (fun d => fieldAt d 0 4 != e.1) }
      if again then p
      else { p with devCount := p.devCount ++ markCounts (of 12), devs := p.devs ++ devs.filter (fun d => fieldAt d 0 4 == e.1) }))
  if !again then b
  else b.forEach named (fun b n =>
    let p := fieldAt n.2.1 0 4
    match x.map.find? (fun e => slotOf e.2 == p), n.2.2 with
    | some e, some (raw, l) =>
      let ring := (planCoverage plan p).1 == 2 || devs.any (fun d => fieldAt d 0 4 == e.1 && fieldAt d 40 4 == l.seq && bitOf (byteAt d 11) 0)
      b.compareAs c e.1 p n.1 raw l ring false
    | _, _ => b)

/-- One window of a replay job on a scratch copy of the block (R336): its inputs and the digests that keys were decided on from the replay log, the
anvil's part again where it can be; the votes and sieves that a tray filed, from the ledger (log 27). The copy after it, with the context as
number 64, its records, its frames. -/
def Block.replayWindow (b : Block) (img : Bytes) (i : Nat) (x : Ctx) (w : Nat) : Block × PassRecords × List Bytes :=
  let c := 64
  let live : PassWin := match b.ctxAt x.job x.level with
    | some l => if (b.ctx l).epoch = x.epoch then (b.win l w).inputsOnly else { w := w }
    | none => { w := w }
  let y := (b.setCtx c x).loadInputs c w
  let ds := (b.tray.history.replayOf x w 4).getD []
  let y := y.modWin c w (fun p => { p with sensors := live.sensors, stats := live.stats, digests := chunks 56 (ds.length / 56) ds,
                                           presence := if live.closed then live.presence else p.presence,
                                           states := if live.closed then live.states else p.states })
  let y := (y.anvilAgain c w).runPass img c w i
  let kept (kind : Nat) (mine : List Bytes) : List Bytes := let l := b.ledgerOf x w kind; if l.isEmpty then mine else l
  let rs := ((y.passRecords c w false).zip (List.range 9)).map (fun r =>
    if x.level = 5 ∧ (r.2 = 5 ∨ r.2 = 6) then kept (r.2 + 1) r.1 else r.1)
  (y, rs, ((y.ctx c).outputs.filter (fun f => f.window == w)).map Frame.raw)

/-- A frame with FLAGS.REPLAY and the CRC that goes with it (R336). -/
def replayFrame (raw : Bytes) : Bytes :=
  let head := raw.take 17 ++ leBytes 1 (byteAt raw 17 ||| 4) ++ slice raw 18 42
  head ++ leBytes 4 (crc32c (head ++ raw.drop 64)).toNat ++ raw.drop 64

/-- The counters and the status bits of the engines that a replay pass runs through: kneaders, featuriser, quads and rule banks (log 25). -/
def engineCounts : List Nat :=
  [Reg.KND_SAT_CNT, Reg.KND_NAN_CNT, Reg.KND_WIDE_CNT, Reg.FTZ_VECTORS, Reg.FTZ_LATE_VEC, Reg.FTZ_MISSING, Reg.FTZ_CLAMPS, Reg.FTZ_AUDITED,
   Reg.FTZ_TREE_FLIPS, Reg.FTZ_VERDICT_FLIPS, Reg.ENS_VERDICTS, Reg.ENS_SAT_CNT, Reg.ENS_INVALID, Reg.ENS_DIGESTS, Reg.ENS_AUDIT_SKIP,
   Reg.RUL_NOMATCH, Reg.KND_STS, Reg.FTZ_STS, Reg.ENS_STS, Reg.RUL_STS]

/-- What the engines counted in a replay pass on the scratch copy `y` (R270, R278, log 25). -/
def Block.countEngines (b y : Block) : Block :=
  let b := b.forEach engineCounts (fun b off => b.setReg off (y.reg off))
  b.forEach [Reg.KND_OPS_LO, Reg.ENS_EVALS_LO, Reg.RUL_SEARCH_LO] (fun b off => { b with wide := sput (fun _ => 0) b.wide off (sget (fun _ => 0) y.wide off) })

/-- Run the next window of a replay job: the job and the block after it. -/
def Block.replayNext (b : Block) (r : ReplayJob) : ReplayJob × Block :=
  let b := (b.useRegion 1).useRegion 2
  let w := r.next
  let mark := b.tray.history.replayOf r.ctx w 6
  match b.schedule, r.ctx.bind, b.tray.history.replayOf r.ctx w 1, mark with
  | some img, some i, some _, some digest =>
    let (y, rs, frames) := b.replayWindow img i r.ctx w
    let x := y.ctx 64
    let x : Ctx := { x with settings := x.laterSettings b.txn.log b.ft w }
    let counted : Bool := decide (0 ≤ windowDiff w r.first)
    let diverged : Bool := counted && r.mode == 0 && outputDigest rs != digest
    let out := if counted ∧ r.mode = 1 then r.out ++ bundleBytes r.job 0 w rs (outputDigest rs) ++ (frames.map replayFrame).flatten else r.out
    ({ r with ctx := x, out := out, count := r.count + bit counted, next := (w + 1) % 2 ^ 40,
              ended := if diverged then some (0x12, w) else if w = r.last then some (0, 0) else none }, b.countEngines y)
  | _, _, _, _ => ({ r with ended := some (0x0F, w) }, b)

/-- REPLAY_DONE (R336): replay job `n` has ended. A halted plane writes no result (R316), and the end waits while steward 2 is held (R437). -/
def execReplayDone (n : Fin 16) (s : State) : Host.Outcome State Fault Refusal :=
  onTray (fun b =>
    match (b.tray.plane.replays.find? (fun e => e.1 == n.val)).map Prod.snd with
    | none => b
    | some r =>
      match r.ended, b.isSet Reg.PLN_STS 4 || !b.stewardRuns 2 with
      | none, _ => b
      | some _, true => b
      | some (status, w), false =>
        let b := (b.modPlane (fun u => { u with replays := u.replays.filter (fun e => e.1 != n.val) })).count Reg.PLN_REPLAYS 1
        match b.takenById r.desc with
        | none => b
        | some t =>
          let result := leBytes 5 w ++ zeros 3 ++ leBytes 4 r.count
          if status = 0x12 then (b.flag Reg.PLN_STS 1).complete t status 0 result
          else if status ≠ 0 then b.complete t status 0 result
          else
            let (f, b) := b.freeNat
            let loaves := cutLoaves (f % 5) b.effort (if r.job = 0 then 0xFFFF else r.job) 0 b.rawOnly (fun _ => 4) r.out
            let bytes := (loaves.map (padTo 64)).flatten
            let stream := if r.job = 0 then 0xFFFF else r.job
            if t.outLen < bytes.length then (b.noSpace t.outLen (f % 5) stream 0 r.out loaves).complete t 0x03
            else ((b.countLoaves r.out.length loaves).writeOut t 0 bytes).complete t 0 bytes.length result) s

/-! ### SEARCH_ENTRY (R311, R336, R340) -/

/-- A scan rescores some of its vectors in a slot (R257, R309); `errs` are the positions among them whose fetch failed. -/
def Block.rescoreSome (b : Block) (x : Scan) (k : Nat) (errs : List Nat) : Scan × Block :=
  let plan := (b.tray.plane.planOf (slice x.spec 96 16)).getD []
  ((x.unscored.take k).zip (List.range k)).foldl (fun (a : Scan × Block) h =>
    let (v, b) := a.2.rescore x.spec plan (h.2 ∈ errs) h.1.2
    ({ a.1 with hits := a.1.hits ++ [(h.1.1, v)] }, b)) ({ x with unscored := x.unscored.drop k }, b)

/-- Give one search slot of decompressor `unit` to a scan or replay job. How many loaves a slot reads, or vectors it rescores, is a free value (log
4); a slot runs one window of a replay (log 25). -/
def Block.runSlot (b : Block) (unit n : Nat) (errs : List Nat) : Block :=
  match (b.tray.plane.scans.find? (fun e => e.1 == n)).map Prod.snd, (b.tray.plane.replays.find? (fun e => e.1 == n)).map Prod.snd with
  | some x, _ =>
    let (f, b) := b.freeNat
    let k := f % (x.loaves.length + 1)
    let (y, b) := (x.loaves.take k).foldl (fun (a : Scan × Block) l => a.2.readLoaf unit a.1 l) ({ x with slots := x.slots + 1 }, b)
    let (y, b) := b.rescoreSome { y with loaves := x.loaves.drop k } (f % (x.unscored.length + 1)) errs
    b.modPlane (fun u => { u with scans := u.scans.map (fun e => if e.1 = n then (n, y) else e) })
  | none, some r =>
    if r.ended.isSome then b
    else
      let (q, b) := b.replayNext r
      b.modPlane (fun u => { u with replays := u.replays.map (fun e => if e.1 = n then (n, q) else e) })
  | none, none => b

/-- Scan or replay job `n` has had a share of the search slots at the latest boundary (R311). -/
def Block.shares (b : Block) (n : Nat) : Bool :=
  b.tray.plane.scans.any (fun e => e.1 == n && decide (0 < e.2.share)) || b.tray.plane.replays.any (fun e => e.1 == n && decide (0 < e.2.share))

/-- SEARCH_ENTRY (R311): slot j of a row goes to a context that is behind, else to the scan that the latest boundary gave it; a slot of a scan
that has ended since is idle, as is every slot of a failed decompressor (R459). -/
def execSearchEntry (row : SearchRow) (s : State) : Host.Outcome State Fault Refusal :=
  onTray (fun b => b.onEntry row.row 31 4 (fun b img j =>
    let unit := Config.slotDecompressor img row.row % 32
    if b.isSet Reg.IST_DEC_FAIL unit then b
    else match b.ctxIds.find? (fun c => (b.ctx c).catchup && decide (0 < (b.ctx c).behind)) with
    | some c => b.catchupPass c
    | none =>
      let xs := b.tray.plane.sharers
      match xs[j % xs.length]? with
      | some n => if b.stewardRuns 2 && b.shares n then b.runSlot unit n row.failed else b
      | none => b)) s

end Sys2Proof.Machine
end

