-- ==== Sys2Proof/Machine/HostRings.lean ====
section
/-! DEFINITION. The host rings at work (spec/15): doorbells (R374), taking and checking descriptors (R376 to R379, R421), ring
configuration (R372), ownership (R368 to R370), held events (R388), message moderation (R392), host compress and decompress jobs (R152 to
R154). -/

namespace Sys2Proof.Machine

/-! ### Doorbells (R374) -/

/-- An ignored doorbell is counted. -/
def Block.doorbellError (b : Block) : Block := (b.count Reg.HST_DB_ERR 1).flag Reg.HST_STS 1

/-- A command doorbell. -/
def Block.commandDoorbell (b : Block) (i v : Nat) : Block :=
  let size := ringSize (b.fld (cmdReg Reg.HST_CMD_CFG i) 20 16)
  let r := b.tray.host.cmdRing i
  let pend (t : Nat) : Nat := (t + size - r.head) % size
  if !b.isSet (cmdReg Reg.HST_CMD_CFG i) 31 ∨ size ≤ v ∨ pend v < pend r.tail then b.doorbellError
  else b.modHost (fun h => h.modCmd i (fun r => { r with tail := v }))

/-- COMMAND_DOORBELL (R374): bits 31:16 of the value are ignored. -/
def execCommandDoorbell (i : Fin 16) (v : Word) (s : State) : Host.Outcome State Fault Refusal :=
  onTray (fun b => b.commandDoorbell i (v.toNat % 2 ^ 16)) s

/-- A doorbell of a block-written ring: the head moves up to the write position at most. The space that it frees takes held completions;
for an export ring the data of the consumed entries is free (R391). -/
def Block.consumerDoorbell (b : Block) (d v : Nat) : Block :=
  let size := ringSize (b.fld (ringCfg d) 28 24)
  let r := b.tray.host.outRing d
  let n := (v + size - r.head) % size
  if !b.ringOn d ∨ size ≤ v ∨ (r.tail + size - r.head) % size < n then b.doorbellError
  else
    let b := b.modOut d (fun r => { r with head := v })
    if d < 32 then b.flushCpl (d - 16) r.held.length
    else if 33 ≤ d then b.modExp (d - 33) (fun x => { x with extents := x.extents.drop n })
    else b

/-- CONSUMER_DOORBELL (R374): `ring` 0 to 15 completion, 16 event, 17 to 20 export. -/
def execConsumerDoorbell (ring : Fin 21) (v : Word) (s : State) : Host.Outcome State Fault Refusal :=
  onTray (fun b => b.consumerDoorbell (16 + ring) (v.toNat % 2 ^ 16)) s

/-! ### Checks of a descriptor (R379, R381) -/

/-- The opcodes of R381. -/
def opcodes : List Nat :=
  [0x01, 0x02, 0x10, 0x11, 0x12, 0x13, 0x14, 0x15, 0x16, 0x17, 0x18, 0x19, 0x20, 0x21, 0x22, 0x30, 0x31, 0x32, 0x33, 0x34, 0x35, 0x36, 0x37,
   0x38, 0x40, 0x50, 0x51, 0x52, 0x53, 0x60, 0x61, 0x62, 0x63]

/-- The operand bytes that an opcode uses: first byte and number (R381). -/
def operandBytes (op : Nat) : List (Nat × Nat) :=
  match op with
  | 0x02 => [(32, 5)] | 0x10 => [(32, 4)] | 0x11 => [(32, 5)] | 0x12 => [(32, 13)] | 0x13 => [(32, 5)] | 0x14 => [(32, 1)] | 0x15 => [(32, 5)]
  | 0x17 => [(32, 16)] | 0x18 => [(32, 16)] | 0x19 => [(32, 8)] | 0x20 => [(32, 8)] | 0x30 => [(32, 2)] | 0x31 => [(32, 2)]
  | 0x32 => [(32, 3), (36, 2)] | 0x33 => [(32, 2)] | 0x34 => [(32, 2)] | 0x35 => [(32, 2)] | 0x36 => [(32, 1)] | 0x37 => [(32, 1)]
  | 0x38 => [(32, 1)] | 0x40 => [(32, 2), (36, 8), (48, 8)] | 0x50 => [(32, 4)] | 0x51 => [(32, 4)] | 0x52 => [(32, 8)]
  | 0x60 => [(32, 2), (36, 4)] | 0x61 => [(32, 2)] | 0x62 => [(32, 1)] | 0x63 => [(32, 1), (36, 28)] | _ => []

/-- The bits of an operand byte that mean something: the ring of a CANCEL and the mask of a FW_ACTIVATE take part of theirs. -/
def operandBits (op i : Nat) : Nat :=
  if (op = 0x02 ∧ i = 36) then 16 else if (op = 0x61 ∧ i = 32) then 64
  else if (operandBytes op).any (fun r => decide (r.1 ≤ i) && decide (i < r.1 + r.2)) then 256 else 1

/-- IN_LEN suits the opcode (R381); so does the OUT_LEN of a JOB_START. -/
def Block.inputSuits (b : Block) (t : Taken) : Bool :=
  match t.opcode with
  | 0x10 =>
    let ranks := leNat (b.tray.host.read (t.inAddr + 16) 4)
    t.inLen == 64 + 4 * ranks && decide (32 + 8 * ceilDiv ranks 32 ≤ t.outLen)
  | 0x22 => t.inLen == 128
  | 0x30 => t.inLen == 8192
  | op => op ∈ [0x16, 0x17, 0x18, 0x20, 0x21, 0x32, 0x34, 0x36, 0x38, 0x63] || t.inLen == 0

/-- Check 2 of R379. -/
def Block.formChecks (b : Block) (t : Taken) : Bool :=
  t.opcode ∈ opcodes && decide (byteAt t.bytes 1 < 2) && t.job != 0xFFFF && t.inAddr % 64 == 0 && t.outAddr % 64 == 0 &&
    (List.range 32).all (fun i => decide (byteAt t.bytes (32 + i) < operandBits t.opcode (32 + i))) &&
    (t.opcode != 0x40 || decide (byteAt t.bytes 33 ≤ 4)) && b.inputSuits t

/-- The opcodes that need presence (R421). -/
def presenceGated : List Nat := [0x18, 0x52, 0x53, 0x61, 0x63]

/-- Whether R421 lets a ring carry a descriptor: `priv`, or bound to `job` when it is some. -/
def ringMay (priv : Bool) (job : Option Nat) (t : Taken) : Bool :=
  if priv then true
  else if t.opcode ∈ [0x01, 0x20, 0x21] then true
  else if t.opcode = 0x02 then byteAt t.bytes 36 % 16 == t.ring
  else if t.opcode ∈ [0x10, 0x11, 0x12, 0x13, 0x15, 0x16, 0x17, 0x18, 0x19, 0x22] then job == some t.job
  else false

/-- Check 3 of R379 (R421): the status of the first failure, 0 where none fails. -/
def Block.rightsCheck (b : Block) (t : Taken) : Nat :=
  let cfg := (b.reg (cmdReg Reg.HST_CMD_CFG t.ring)).toNat
  if !ringMay (bitOf cfg 29) (if bitOf cfg 28 then some (cfg % 2 ^ 16) else none) t then 0x09
  else if t.opcode ∈ presenceGated ∧ !b.presenceHeld then 0x0A else 0

/-! ### Taking descriptors (R376 to R378) -/

/-- The free entries of a completion ring that nothing reserves. -/
def Block.cplRoom (b : Block) (i : Nat) : Nat :=
  let r := b.tray.host.cplRing i
  r.room (b.fld (cmdReg Reg.HST_CPL_CFG i) 28 24) - r.reserved - r.held.length

/-- The descriptor at the head of a command ring. -/
def Block.headDescriptor (b : Block) (i : Nat) : Bytes :=
  b.tray.host.read (b.base64 (cmdReg Reg.HST_CMD_BASE_LO i) + 64 * (b.tray.host.cmdRing i).head) 64

/-- A command ring yields a descriptor in this turn (R377). -/
def Block.yields (b : Block) (i : Nat) : Bool :=
  let r := b.tray.host.cmdRing i
  b.ringOn i && r.head != r.tail && decide (0 < b.cplRoom (b.cplOf i)) &&
    !(bitOf (byteAt (b.headDescriptor i) 1) 0 && b.tray.host.taken.any (fun t => t.ring == i))

/-- The first three checks of a taken descriptor (R379); one that passes them waits for its turn. -/
def Block.check (b : Block) (t : Taken) : Block :=
  match (b.tray.host.cmdRing t.ring).dedup.find? (fun e => e.1 == t.request) with
  | some e => b.complete t 0x01 0 (leBytes 1 (e.2.2.getD 0xFF))
  | none =>
    let b := b.modHost (fun h => h.modCmd t.ring (fun r =>
      { r with dedup := (r.dedup ++ [(t.request, t.id, none)]).drop (r.dedup.length + 1 - 1024) }))
    if !b.formChecks t then b.complete t 0x0C
    else match b.rightsCheck t with
      | 0 => b
      | st => b.complete t st 0 (if st = 0x0A then leBytes 1 (bit b.tray.presence.sealBroken) else [])

/-- Take the descriptor at the head of a command ring: the head passes it, and it reserves an entry of its completion ring. -/
def Block.takeFrom (b : Block) (i : Nat) : Block :=
  let h := b.tray.host
  let r := h.cmdRing i
  let t : Taken := { id := h.nextId, ring := i, index := r.head, cpl := b.cplOf i, bytes := b.headDescriptor i }
  let size := ringSize (b.fld (cmdReg Reg.HST_CMD_CFG i) 20 16)
  let b := (b.count Reg.HST_DESC 1).modHost (fun h =>
    let h := h.modCmd i (fun r => { r with head := (r.head + 1) % size })
    { h.modCpl t.cpl (fun r => { r with reserved := r.reserved + 1 }) with nextId := t.id + 1, taken := h.taken ++ [t] })
  b.check t

/-- A turn of the host steward (R377). -/
def Block.takeTurn (b : Block) : Block :=
  b.forEach (List.range 16) (fun b i => if b.yields i then b.takeFrom i else b)

/-- DESCRIPTOR_TAKE (R377, R366). -/
def execDescriptorTake (s : State) : Host.Outcome State Fault Refusal :=
  onTray (fun b => b.when (b.stewardRuns 5 && b.tray.host.busMaster) Block.takeTurn) s

/-! ### NOP, CANCEL, compress and decompress jobs -/

/-- NOP (R381). -/
def execNop (id : Nat) (s : State) : Host.Outcome State Fault Refusal := onTray (fun b => b.onDesc 0x01 5 id (fun b t => b.complete t 0)) s

/-- What a descriptor runs in the search unit ends (R382): its scan or replay. -/
def Block.dropJobs (b : Block) (p : Nat → Bool) : Block :=
  b.modPlane (fun u => { u with scans := u.scans.filter (fun e => !p e.2.desc), replays := u.replays.filter (fun e => !p e.2.desc) })

/-- The opcodes that can be cancelled (R382). -/
def cancellable : List Nat := [0x17, 0x20, 0x21, 0x22]

/-- CANCEL (R382): OK with 0 CANCELLED, 1 NOT_RUNNING or 2 NOT_CANCELLABLE. A compress job that it ends adds nothing to LOF_IN, LOF_OUT and LOF_RAW
(R155 says nothing of such a job; DESIGN CHOICE, log 4). -/
def Block.cancelDesc (b : Block) (t : Taken) : Block :=
  let done (b : Block) (n : Nat) : Block := b.complete t 0 0 (leBytes 1 n)
  match (b.tray.host.cmdRing (byteAt t.bytes 36 % 16)).dedup.find? (fun e => e.1 == fieldAt t.bytes 32 4) with
  | none => done b 1
  | some e =>
    match e.2.2, b.takenById e.2.1 with
    | none, some x =>
      if !(x.opcode ∈ cancellable) then done b 2
      else if !x.begun then done b 1
      else done ((b.dropJobs (fun d => d == x.id)).complete x 0x0D) 0
    | _, _ => done b 1

/-- CANCEL (R382). -/
def execCancel (id : Nat) (s : State) : Host.Outcome State Fault Refusal := onTray (fun b => b.onDesc 0x02 5 id Block.cancelDesc) s

/-- COMPRESS (R381): a reserved BLK, EFFORT or STREAM fails; else the job starts, under LOF_CTL as it stands. -/
def Block.compressDesc (b : Block) (t : Taken) : Block :=
  let effort := byteAt t.bytes 33
  if 4 < byteAt t.bytes 32 ∨ 3 < effort ∨ fieldAt t.bytes 34 2 = 0 then b.complete t 0x0C
  else b.setTaken { t with note := b.fld Reg.LOF_CTL 3 0 }

/-- COMPRESS (R152). -/
def execCompress (id : Nat) (s : State) : Host.Outcome State Fault Refusal := onTray (fun b => b.onDesc 0x20 2 id Block.compressDesc) s

/-- DECOMPRESS (R153): the job starts. -/
def execDecompress (id : Nat) (s : State) : Host.Outcome State Fault Refusal := onTray (fun b => b.onDesc 0x21 2 id (fun b _ => b)) s

/-- A job of the search steward ends: the descriptor runs and is of the opcode. -/
def Block.jobEnd (b : Block) (op id : Nat) (f : Block → Taken → Block) : Block :=
  match b.takenById id with
  | none => b
  | some t => b.when (t.begun && t.opcode == op && b.stewardRuns 2 && b.mayRead t) (fun b => f b t)

/-- The value of LOF_CTL under which a compress job starts its loaf `i` (R155): that of its own start, or of a later write. -/
def Taken.lofCtl (t : Taken) (i : Nat) : Nat := t.later.foldl (fun a e => if e.1 ≤ i then e.2 else a) t.note

/-- The EFFORT and RAW_ONLY of loaf `i` of a compress job (R151, R155): the EFFORT that the job names, else LOF_CTL's. -/
def Taken.how (t : Taken) (i : Nat) : Nat × Bool :=
  (if byteAt t.bytes 33 = 3 then t.lofCtl i % 4 else byteAt t.bytes 33, bitOf (t.lofCtl i) 3)

/-- LOF_CTL is written (R155): a running compress job starts its later loaves under the new value. How many it has started is a free value
(log 4). -/
def Block.writeLofCtl (b : Block) (v : Word) : Block :=
  let b := b.writeFields Reg.LOF_CTL v
  b.forEach (b.tray.host.taken.filter (fun t => t.begun && t.opcode == 0x20)) (fun b t =>
    let (f, b) := b.freeNat
    let first := max f ((t.later.getLast?.map Prod.fst).getD 0)
    b.setTaken { t with later := t.later ++ [(first, b.fld Reg.LOF_CTL 3 0)] })

/-- LOF_ (R155). -/
def Block.storeLof (b : Block) (off : Nat) (v : Word) : Block :=
  if off = Reg.LOF_CTL then b.writeLofCtl v else if off = Reg.LOF_ERR_INFO then b.writeErrInfo v else b.writeFields off v

/-- The end of a compress job (R152): every loaf at a multiple of 64 bytes, or NO_SPACE, which LOF_ERR_OFS then reports at offset 0 (R155;
DESIGN CHOICE, log 4). -/
def Block.compressEnd (b : Block) (t : Taken) : Block :=
  let data := b.descInput t
  let stream := fieldAt t.bytes 34 2
  let loaves := cutBy t.how (byteAt t.bytes 32) stream (fieldAt t.bytes 36 4) (fun _ => 4) data
  let out := (loaves.map (padTo 64)).flatten
  if t.outLen < out.length then
    (b.noSpace t.outLen (byteAt t.bytes 32) stream (fieldAt t.bytes 36 4) data loaves).complete t 0x03
  else ((b.countLoaves data.length loaves).writeOut t 0 out).complete t 0 out.length (leBytes 4 loaves.length)

/-- COMPRESS_DONE (R152). -/
def execCompressDone (id : Nat) (s : State) : Host.Outcome State Fault Refusal := onTray (fun b => b.jobEnd 0x20 id Block.compressEnd) s

/-- Decode the loaves of an input one after the other (R153): how many decoded, the output, and the loaf and fault that ended them. -/
def decodeRun (room : Nat) : Nat → Bytes → Nat → Bytes → Nat × Bytes × Option (Bytes × LoafFault)
  | 0, _, n, out => (n, out, none)
  | f + 1, input, n, out =>
    if input.isEmpty then (n, out, none)
    else match decodeLoaf input (room - out.length) with
      | .error e => (n, out, some (input, e))
      | .ok l => decodeRun room f (input.drop (loafSpan l.storedLen)) (n + 1) (out ++ l.out)

/-- The decompressors that have not failed (R459). -/
def Block.decompressors (b : Block) : List Nat := (List.range 32).filter (fun p => !b.isSet Reg.IST_DEC_FAIL p)

/-- The end of a decompress job (R153). The slots of a failed decompressor are idle (R459); no rule says which other one its slots used (log 4). -/
def Block.decompressEnd (b : Block) (t : Taken) : Block :=
  let (n, out, fault) := decodeRun t.outLen (t.inLen / 64 + 1) (b.descInput t) 0 []
  match fault with
  | none => (b.writeOut t 0 out).complete t 0 out.length (leBytes 4 n)
  | some (raw, e) =>
    let (u, b) := b.freeNat
    (b.captureFault true (b.decompressors.getD (u % b.decompressors.length) 0) (fieldAt raw 10 2) (fieldAt raw 12 4) e).complete t e.status 0
      (leBytes 4 n ++ leBytes 4 n ++ leBytes 3 e.offset)

/-- DECOMPRESS_DONE (R153). No job ends once every decompressor has failed (R459). -/
def execDecompressDone (id : Nat) (s : State) : Host.Outcome State Fault Refusal :=
  onTray (fun b => if b.decompressors.isEmpty then b else b.jobEnd 0x21 id Block.decompressEnd) s

/-! ### Ownership (R368 to R370) -/

/-- The contexts whose undecided start a taken descriptor began. -/
def Block.undecided (b : Block) : List Nat :=
  b.ctxIds.filter (fun c => (b.ctx c).isHearth && (b.ctx c).decision.isNone &&
    (match (b.ctx c).startDesc with | some id => (b.takenById id).isSome | none => false))

/-- A block-written ring that is disabled keeps what waits for it at the host port (R372): completions in order before what it holds, and the
bundles and gaps of an export ring whose last entry has not left, whole; event entries stay in their queues. -/
def Block.keepEntries (b : Block) (d : Nat) : Block :=
  let x := b.port 8
  if d < 16 ∨ d = 32 then b
  else if d < 32 then
    let (mine, others) := (x.queue 66).partition (fun i => i.dest == .ring d)
    (b.setPort 8 (x.setQueue 66 others)).modOut d (fun r => { r with held := mine.map (fun i => (i.desc.getD 0, i.bytes)) ++ r.held, queued := 0 })
  else
    let q := 68 + (d - 33)
    let runs := (x.grant.map Grant.owner) == some q
    (b.setPort 8 (x.setQueue q ((x.queue q).take (bit runs)))).modExp (d - 33) (fun x =>
      let ring := { x.ring with queued := 0 }
      { x with ring := ring, hold := x.flying ++ x.hold, gaps := x.gaps.foldl gapPut x.flyingGaps, flying := [], flyingGaps := [] })

/-- A ring is disabled (R372). -/
def Block.disableRing (b : Block) (d : Nat) : Block := (b.putBit (ringCfg d) 31 false).keepEntries d

/-- Disable every ring. -/
def Block.disableRings (b : Block) : Block := b.forEach (List.range 37) Block.disableRing

/-- The owner epoch advances (R369, R434): the rings are disabled, the leases break, the descriptors end without a completion and the
deduplication windows are cleared. STATE becomes `next`. -/
def Block.loseOwnership (b : Block) (next : Nat) : Block :=
  let b := b.forEach b.undecided (fun b c => b.abortStart c 2 true)
  let b := b.dropJobs (fun _ => true)
  let b := { b with tray := { b.tray with test := { b.tray.test with descs := [] } } }
  let b := b.modHost (fun h => { h with
    owner := next, ownerEpoch := (h.ownerEpoch + 1) % 2 ^ 16, taken := [], cmd := h.cmd.map (fun e => (e.1, { e.2 with dedup := [] })),
    cpl := h.cpl.map (fun e => (e.1, { e.2 with reserved := 0 })) })
  (b.disableRings).breakLeases (fun _ => true)

/-- An event that ends ownership (R369). -/
def Block.endOwnership (b : Block) : Block :=
  match b.tray.host.owner with
  | 1 => b.loseOwnership 0
  | 2 => b.modHost (fun h => { h with owner := 0 })
  | _ => b

/-- HST_OWN_RELEASE (R369). -/
def execHstOwnRelease (s : State) : Host.Outcome State Fault Refusal := onTray Block.endOwnership s

/-- PCIE_FLR (R369). -/
def execPcieFlr (s : State) : Host.Outcome State Fault Refusal := onTray Block.endOwnership s

/-- PCIE_HOT_RESET (R369). -/
def execPcieHotReset (s : State) : Host.Outcome State Fault Refusal := onTray Block.endOwnership s

/-- PCIE_LINK_DOWN (R369). -/
def execPcieLinkDown (s : State) : Host.Outcome State Fault Refusal := onTray Block.endOwnership s

/-- A claim (R368). -/
def Block.claim (b : Block) : Block :=
  let h := b.tray.host
  if h.owner = 0 ∨ (h.owner = 2 ∧ h.claimLatch = h.ownerId)
  then b.modHost (fun h => { h with owner := 1, ownerId := h.claimLatch, eseq := 0 })
  else b.flag Reg.HST_STS 3

/-- HST_OWN_CLAIM (R368). -/
def execHstOwnClaim (s : State) : Host.Outcome State Fault Refusal := onTray Block.claim s

/-- OWNER_TRANSFER (R370): every other taken descriptor completes CANCELLED, the transfer completes OK, and ownership passes into
TRANSFER with the new identity, for OWN_TMO seconds of TIM cycles. -/
def Block.transferDesc (b : Block) (t : Taken) : Block :=
  let b := b.forEach b.undecided (fun b c => b.abortStart c 2 true)
  let b := b.forEach b.tray.host.taken (fun b x => if x.id = t.id then b else b.complete x 0x0D)
  let b := (b.complete t 0).loseOwnership 2
  b.modHost (fun h => { h with ownerId := BitVec.ofNat 64 (fieldAt t.bytes 32 8),
                               transferEnd := BitVec.ofNat 64 (b.time.cycles + max 1 (b.fld Reg.HST_CTL 23 16) * timHz) })

/-- OWNER_TRANSFER (R370). -/
def execOwnerTransfer (id : Nat) (s : State) : Host.Outcome State Fault Refusal := onTray (fun b => b.onDesc 0x52 5 id Block.transferDesc) s

/-- TRANSFER_TIMEOUT (R370). -/
def execTransferTimeout (s : State) : Host.Outcome State Fault Refusal :=
  onTray (fun b => b.when (b.tray.host.owner == 2 && decide (b.tray.host.transferEnd.toNat ≤ b.time.cycles))
    (fun b => b.modHost (fun h => { h with owner := 0 }))) s

/-! ### Ring configuration (R372) -/

/-- The RW fields of a CFG register beside ENABLE, by doorbell number. -/
def cfgMask (d : Nat) : Word := if d < 16 then 0x3F1FFFFF else if d < 33 then 0x1F3FFFFF else 0x5FFF3FFF

/-- The other RW fields of a CFG write as they are stored: a reserved BLK leaves the field (R9). -/
def Block.cfgFields (b : Block) (d : Nat) (v : Word) : Word :=
  let w := v &&& cfgMask d
  if 33 ≤ d ∧ 4 < bitsOf v.toNat 23 21 then wordPut w 23 21 (b.fld (ringCfg d) 23 21) else w

/-- A base register pair is a multiple of 4 KiB. -/
def Block.baseGood (b : Block) (lo : Nat) : Bool := b.fld lo 11 0 == 0

/-- The base registers of a ring: the LO register of each pair. -/
def ringBases (d : Nat) : List Nat :=
  if d < 16 then [cmdReg Reg.HST_CMD_BASE_LO d] else if d < 32 then [cmdReg Reg.HST_CPL_BASE_LO (d - 16)]
  else if d = 32 then [Reg.HST_EVT_BASE_LO] else [expReg Reg.HST_EXP_BASE_LO (d - 33), expReg Reg.HST_EXP_DATA_LO (d - 33)]

/-- An enable is accepted (R368, R372, R420). -/
def Block.mayEnable (b : Block) (d : Nat) (w : Word) : Bool :=
  let v := w.toNat
  let log2 := if d < 16 then bitsOf v 20 16 else bitsOf v 28 24
  b.tray.host.owner == 1 && decide (6 ≤ log2) && decide (log2 ≤ 16) && (ringBases d).all b.baseGood &&
    (if d < 16 then b.ringOn (16 + bitsOf v 27 24) && (bitOf v 29 || !bitOf v 28 || (v % 2 ^ 16 != 0 && v % 2 ^ 16 != 0xFFFF))
     else if d < 33 then true else decide (20 ≤ bitsOf v 20 16))

/-- A refused configuration write. -/
def Block.cfgRefused (b : Block) : Block := b.flag Reg.HST_STS 2

/-- The ring epoch of a command ring advances (R432, R434): its leases break and its running jobs are cancelled. -/
def Block.advanceRing (b : Block) (i : Nat) : Block :=
  let b := b.setFld (Reg.LSE_RING_EPOCH + 4 * i) 15 0 (b.fld (Reg.LSE_RING_EPOCH + 4 * i) 15 0 + 1)
  let b := b.breakLeases (fun k => k.ring == i)
  let jobs := b.tray.host.taken.filter (fun t => t.ring == i && t.begun && t.opcode ∈ cancellable)
  b.forEach jobs (fun b t => (b.dropJobs (fun d => d == t.id)).complete t 0x0D)

/-- What enabling a ring sets: head and tail 0, phase 1. A completion ring then writes what it kept. -/
def Block.ringStarts (b : Block) (d : Nat) : Block :=
  let fresh (r : OutRing) : OutRing := { r with tail := 0, head := 0, phase := true, unsignalled := 0 }
  if d < 16 then (b.modHost (fun h => h.modCmd d (fun r => { r with head := 0, tail := 0 }))).advanceRing d
  else
    let b := b.modOut d fresh
    if d < 32 then b.flushCpl (d - 16) (b.tray.host.cplRing (d - 16)).held.length
    else if 33 ≤ d then b.modExp (d - 33) (fun x => { x with offset := 0, extents := [] })
    else b

/-- A write of the CFG register of a ring (R372). -/
def Block.writeRingCfg (b : Block) (d : Nat) (v : Word) : Block :=
  let w := b.cfgFields d v
  let on := v.getLsbD 31
  if !b.ringOn d then
    if !on then b.setReg (ringCfg d) w
    else if !b.mayEnable d (v &&& (cfgMask d)) then b.cfgRefused
    else (b.setReg (ringCfg d) (setB w 31)).ringStarts d
  else if on then (if v &&& cfgMask d = (b.reg (ringCfg d) &&& cfgMask d) then b else b.cfgRefused)
  else if 16 ≤ d ∧ d < 32 ∧ (List.range 16).any (fun i => b.ringOn i && b.cplOf i == d - 16) then b.cfgRefused
  else b.disableRing d

/-- RING_CFG_WRITE (R372): the ring by its doorbell number. -/
def execRingCfgWrite (ring : Fin 37) (v : Word) (s : State) : Host.Outcome State Fault Refusal := onTray (fun b => b.writeRingCfg ring v) s

/-- A write of a base register of a ring, refused while the ring is enabled (R372). -/
def Block.writeRingBase (b : Block) (d off : Nat) (v : Word) : Block := if b.ringOn d then b.cfgRefused else b.setReg off v

/-! ### The link (R366, R367) -/

/-- BAR_MALFORMED_ACCESS (R367): a read returns zero. -/
def execBarMalformedAccess (isRead : Bool) (s : State) : Host.Outcome State Fault Refusal :=
  onTray (fun b => (if isRead then { b with rdata := 0 } else b).flag Reg.HST_STS 0) s

/-- BUS_MASTER_ENABLE_CHANGE (R366): a level of the host's, which a reset of the block neither stops nor loses. -/
def execBusMasterEnableChange (level : Bool) (s : State) : Host.Outcome State Fault Refusal :=
  .next (s.setBlock .T (s.t.modHost (fun h => h.setBusMaster level)))

/-! ### Held events (R388) -/

/-- The requester of an alarm of a job tag on the host port (R395). -/
def Block.alarmRequester (b : Block) (job : Nat) : Nat := match b.lowestNode job with | some c => b.egressCtx c | none => b.blockCtx

/-- Held alarms are written, oldest first, while the ring and the requester take them. -/
def Block.drainAlarms (b : Block) : Nat → Block
  | 0 => b
  | n + 1 =>
    match b.tray.host.alarmHold with
    | [] => b
    | e :: rest =>
      let r := b.alarmRequester e.key
      if b.eventOpen && ((b.port 8).queue r).isEmpty && (b.port 8).tokensFor r (64 + (b.port 8).overheadOf r)
      then ((b.modHost (fun h => { h with alarmHold := rest })).writeEvent r 1 1 e.key e.record).drainAlarms n
      else b

/-- The crumbs and notices of the FIFO are written, oldest first, while the ring takes them. -/
def Block.drainFifo (b : Block) : Nat → Block
  | 0 => b
  | n + 1 =>
    match b.tray.host.fifo with
    | [] => b
    | e :: rest =>
      if b.eventOpen then ((b.modHost (fun h => { h with fifo := rest })).writeEvent 65 (byteAt e 0) 1 (fieldAt e 1 2) (e.drop 3)).drainFifo n
      else b

/-- One EVENTS_LOST notice when any crumb or notice was discarded. -/
def Block.drainLost (b : Block) : Block :=
  let n := b.tray.host.lostEvents
  if n = 0 ∨ !b.eventOpen then b
  else (b.modHost (fun h => { h with lostEvents := 0 })).writeEvent 65 3 0 0 (leBytes 2 0x1201 ++ zeros 2 ++ leBytes 4 (satTo (2 ^ 32 - 1) n))

/-- EVENT_HOLD_DRAIN (R388). -/
def execEventHoldDrain (s : State) : Host.Outcome State Fault Refusal :=
  onTray (fun b => b.when (b.eventOpen && !b.tray.host.nothingHeld) (fun b =>
    let b := b.drainAlarms b.tray.host.alarmHold.length
    if !b.tray.host.alarmHold.isEmpty then b
    else
      let b := b.drainFifo b.tray.host.fifo.length
      if b.tray.host.fifo.isEmpty then b.drainLost else b)) s

/-! ### Message moderation (R392) -/

/-- MSIX_MOD_EXPIRE (R392): MOD_US µs have passed since the first unsignalled entry of a completion ring (0 to 15) or of the event ring
(16). The message leaves behind the ring's entries. -/
def execMsixModExpire (ring : Fin 17) (s : State) : Host.Outcome State Fault Refusal :=
  onTray (fun b =>
    let d := 16 + ring.val
    let r := b.tray.host.outRing d
    let us := b.fld (ringCfg d) 7 0
    b.when (decide (0 < r.unsignalled) && us != 0 && ftGe b.ft (ftAdd r.firstUnsignalled (us * ticksPerUs))) (fun b =>
      let i : EgItem := { dest := .host 0, bytes := [], whole := b.ft, msix := some (b.fld (ringCfg d) 21 16) }
      (b.setPort 8 ((b.port 8).enqueue (if ring.val = 16 then 65 else 66) i)).modOut d (fun r => { r with unsignalled := 0 }))) s

end Sys2Proof.Machine
end

