-- ==== Sys2Proof/Machine/Ptp.lean ====
section
/-! DEFINITION. Management Ethernet and precision time (spec/03): PTP frames, stamps and their FIFOs, one-step Sync, timed
launch. The layouts of Ethernet, IP, UDP and PTP headers are those of the standards that R64 names (log 10). -/

namespace Sys2Proof.Machine

/-- Change the network time ports. -/
def Block.modPtp (b : Block) (f : PtpUnit → PtpUnit) : Block := { b with tray := { b.tray with ptp := f b.tray.ptp } }

/-- A big-endian field of a standard's header. -/
def netAt (f : Bytes) (off n : Nat) : Nat := beNat (slice f off n)

/-- Replace the bytes from an offset. -/
def patch (f : Bytes) (off : Nat) (new : Bytes) : Bytes := f.take off ++ new ++ f.drop (off + new.length)

/-- Where a PTP message lies in an Ethernet frame (R64): its transport (0 Layer 2, 1 IPv4, 2 IPv6), its offset, the offset of
the UDP header, and the UDP destination port (319 for Layer 2 event messages). -/
structure PtpPlace where
  transport : Nat
  off : Nat
  udp : Nat
  dport : Nat
deriving DecidableEq, Repr

/-- The offset of the EtherType after at most two VLAN tags. -/
def etherOff (f : Bytes) : Nat :=
  let tag (o : Nat) : Bool := netAt f o 2 == 0x8100 || netAt f o 2 == 0x88A8
  if tag 12 then (if tag 16 then 20 else 16) else 12

/-- Find the PTP message of a frame: EtherType 0x88F7, or UDP port 319 or 320 over IPv4 or IPv6, versionPTP 2 (R64). -/
def ptpPlace (f : Bytes) : Option PtpPlace :=
  let o := etherOff f
  let ty := netAt f o 2
  let place : Option PtpPlace :=
    if ty = 0x88F7 then some ⟨0, o + 2, 0, 319⟩
    else if ty = 0x0800 then
      let ihl := byteAt f (o + 2) % 16 * 4
      if byteAt f (o + 11) = 17 then some ⟨1, o + 2 + ihl + 8, o + 2 + ihl, netAt f (o + 2 + ihl + 2) 2⟩ else none
    else if ty = 0x86DD then
      if byteAt f (o + 8) = 17 then some ⟨2, o + 50, o + 42, netAt f (o + 44) 2⟩ else none
    else none
  match place with
  | none => none
  | some p => if (p.dport = 319 ∨ p.dport = 320) ∧ byteAt f (p.off + 1) % 16 = 2 ∧ p.off + 34 ≤ f.length then some p else none

/-- messageType of a PTP message. -/
def ptpType (f : Bytes) (p : PtpPlace) : Nat := byteAt f p.off % 16

/-- A PTP event message: messageType 0 to 3, on the event port (R65). -/
def ptpEvent (f : Bytes) : Option PtpPlace :=
  match ptpPlace f with
  | none => none
  | some p => if ptpType f p ≤ 3 ∧ p.dport = 319 then some p else none

/-- The register of a port's group (R465). -/
def ptpReg (reg port : Nat) : Nat := reg + 0x40 * port

/-- The raw stamp of a pulse (R68): FT, minus two increments, plus the phase's share of an increment, in whole ticks (log 11). -/
def Block.rawStamp (b : Block) (phase : Nat) : BitVec 64 :=
  BitVec.ofInt 64 ((b.ft.toNat * 2 ^ 32 - 2 * b.incr : Int) / 2 ^ 32) + BitVec.ofNat 64 (phase * b.incr / 24 / 2 ^ 32)

/-- A stamp FIFO. -/
def Block.fifo (b : Block) (i : Nat) : List StampRec := sget (fun _ => []) b.tray.ptp.fifo i

/-- A record enters a stamp FIFO (index 2 × port + transmit). One beyond the 64 that the FIFO holds is discarded at the end of the
cycle, when no pop of the cycle has made room for it (R70). -/
def Block.pushStamp (b : Block) (i : Nat) (r : StampRec) : Block :=
  b.modPtp (fun p => { p with fifo := sput (fun _ => []) p.fifo i (b.fifo i ++ [r]) })

/-- The end of a cycle of a stamp FIFO: records beyond 64 are discarded and counted (R70). -/
def Block.fifoEnd (b : Block) (i : Nat) : Block :=
  let q := b.fifo i
  b.when (decide (64 < q.length)) (fun b => b.modPtp (fun p =>
    { p with fifo := sput (fun _ => []) p.fifo i (q.take 64),
             ovfl := smodify (fun _ => 0) p.ovfl i (fun n => satTo 0xFFFF (n + (q.length - 64))) }))

/-- The port is that of the ordinary clock (R66). -/
def Block.ptpActive (b : Block) (port : Nat) : Bool := b.fld Reg.PTP_CTL 0 0 == port

/-- Stamping is enabled on the port (R78). -/
def Block.ptpEnabled (b : Block) (port : Nat) : Bool := b.isSet Reg.PTP_CTL (2 + port)

/-- The asymmetry applies: the active port of a slave, a received Sync or a transmitted Delay_Req (R69). -/
def Block.asymApplies (b : Block) (port type : Nat) (tx : Bool) : Bool :=
  b.ptpActive port && b.isSet Reg.PTP_CTL 1 && (if tx then type == 1 else type == 0)

/-- The ticks in PTP_LAT_TX, PTP_LAT_RX, PTP_TXPATH or PTP_ASYM of a port that this cycle's stamps use: a write applies from the
next TIM cycle (R78). -/
def Block.portTicks (b : Block) (reg port : Nat) : Nat :=
  ((b.tray.ptp.held.find? (fun e => e.1 == ptpReg reg port)).map Prod.snd).getD (b.fld (ptpReg reg port) 15 0)

/-- The way of a frame's first byte from the MAC's transmit interface to the stamp: PTP_TXPATH plus PTP_LAT_TX (R72, R74). -/
def Block.txDelay (b : Block) (port : Nat) : BitVec 64 :=
  BitVec.ofNat 64 (b.portTicks Reg.PTP_TXPATH port + b.portTicks Reg.PTP_LAT_TX port)

/-- The port stamp of an event message, with its record (R68 to R70). -/
def Block.stampRec (b : Block) (port phase : Nat) (f : Bytes) (p : PtpPlace) (tx : Bool) : StampRec :=
  let raw := b.rawStamp phase
  let lat := BitVec.ofNat 64 (b.portTicks (if tx then Reg.PTP_LAT_TX else Reg.PTP_LAT_RX) port)
  let s := if tx then raw + lat else raw - lat
  let asym := b.asymApplies port (ptpType f p) tx
  { stamp := if asym then s - BitVec.ofInt 64 (signed 16 (b.portTicks Reg.PTP_ASYM port)) else s,
    msgType := ptpType f p, domain := byteAt f (p.off + 4), seq := netAt f (p.off + 30) 2, transport := p.transport, asym := asym }

/-- A frame that holds a Sync with twoStepFlag 0 (R72). -/
def oneStepSync (f : Bytes) (p : PtpPlace) : Bool := ptpType f p == 0 && !bitOf (byteAt f (p.off + 6)) 1

/-- An IPv6 message whose UDP payload is not two octets longer than messageLength (R72). -/
def noTrailer (f : Bytes) (p : PtpPlace) : Bool := p.transport == 2 && netAt f (p.udp + 4) 2 != 8 + netAt f (p.off + 2) 2 + 2

/-- The Sync with twoStepFlag 0 whose pulse has come leaves the list of those on their way, with any before it, whose pulses never came. -/
def Block.takePredicted (b : Block) (port : Nat) (r : StampRec) : Option (BitVec 64) × Block :=
  let rest := (sget (fun _ => []) b.tray.ptp.predicted port).dropWhile (fun e => e.domain != r.domain || e.seq != r.seq)
  match rest with
  | [] => (none, b)
  | e :: rest => (e.stamp, b.modPtp (fun p => { p with predicted := sput (fun _ => []) p.predicted port rest }))

/-- A Sync whose time was inserted is checked against its transmit stamp (R73). -/
def Block.oneStepCheck (b : Block) (port : Nat) (r : StampRec) : Option (BitVec 64) → Block
  | none => b
  | some s => b.when (decide (b.fld Reg.PTP_ONESTEP_TOL 15 0 < (ftDiff r.stamp s).natAbs)) (fun b => b.flag Reg.PTP_STS (4 + port))

/-- A transmitted event message at its timestamp point (R65, R66, R68, R73). -/
def Block.txStamp (b : Block) (port phase : Nat) (f : Bytes) : Block :=
  match ptpEvent f with
  | none => b
  | some p =>
    let r := b.stampRec port phase f p true
    let (s, b) := if oneStepSync f p then b.takePredicted port r else (none, b)
    b.when (b.ptpEnabled port) (fun b =>
      let b := if b.ptpActive port then b else b.flag Reg.PTP_STS port
      (b.oneStepCheck port r s).pushStamp (2 * port + 1) r)

/-- PTP_TX_STAMP (R68). -/
def execPtpTxStamp (port : Fin 2) (phase : Fin 24) (frame : Bytes) (s : State) : Host.Outcome State Fault Refusal :=
  onTray (fun b => b.txStamp port phase frame) s

/-- A received event message at its timestamp point (R68, R69). -/
def Block.rxStamp (b : Block) (port phase : Nat) (f : Bytes) : Block :=
  match ptpEvent f with
  | none => b
  | some p => b.when (b.ptpEnabled port) (fun b => b.pushStamp (2 * port) (b.stampRec port phase f p false))

/-- PTP_RX_STAMP (R68). -/
def execPtpRxStamp (port : Fin 2) (phase : Fin 24) (frame : Bytes) (s : State) : Host.Outcome State Fault Refusal :=
  onTray (fun b => b.rxStamp port phase frame) s

/-! ### One-step Sync (R71, R72) -/

/-- The PTP seconds and nanoseconds of a stamp (R71). -/
def Block.ptpTime (b : Block) (s : BitVec 64) : Nat × Nat :=
  let ns := b.fld Reg.PTP_EPOCH_NS 29 0 + s.toNat / 16
  (b.fld Reg.PTP_EPOCH_SEC_LO 31 0 + b.fld Reg.PTP_EPOCH_SEC_HI 15 0 * 2 ^ 32 + ns / 10 ^ 9, ns % 10 ^ 9)

/-- correctionField plus the sub-nanosecond remainder, as a signed 64-bit sum; an overflow takes the standard's largest value
(R72). -/
def correctionPlus (old s : Nat) : Nat :=
  let sum := signed 64 old + (s % 16 * 4096 : Nat)
  if sum < 2 ^ 63 then (BitVec.ofInt 64 sum).toNat else 0x7FFFFFFFFFFFFFFF

/-- The sum of the 16-bit words of a byte string, modulo 2^16 − 1: the UDP checksum's arithmetic. -/
def onesSum : Bytes → Nat
  | [] => 0
  | [x] => x.toNat * 256
  | x :: y :: r => (x.toNat * 256 + y.toNat + onesSum r) % 65535

/-- The edited message of a one-step Sync (R72): originTimestamp and correctionField. -/
def Block.syncEdit (b : Block) (f : Bytes) (p : PtpPlace) (s : BitVec 64) : Bytes :=
  let (sec, ns) := b.ptpTime s
  let f := patch f (p.off + 34) (beBytes 6 sec ++ beBytes 4 ns)
  patch f (p.off + 8) (beBytes 8 (correctionPlus (netAt f (p.off + 8) 8) s.toNat))

/-- The two octets after the message that keep the UDP checksum valid (R72). -/
def trailerFix (old new : Bytes) (udp tail : Nat) : Bytes :=
  let body (f : Bytes) := f.drop (udp + 8)
  let rest := patch (body new) (tail - (udp + 8)) [0, 0]
  let want := (onesSum (body old) + 65535 - onesSum rest % 65535) % 65535
  if (tail - (udp + 8)) % 2 = 0 then beBytes 2 want else leBytes 2 want

/-- A frame as it reaches the MAC, and whether a time was inserted: a Sync with twoStepFlag 0 on a port with one-step insertion is edited, unless
it is an IPv6 Sync without two octets after its message (R72). -/
def Block.edited (b : Block) (port : Nat) (f : Bytes) (p : PtpPlace) (s : BitVec 64) : Bool × Bytes :=
  if !b.isSet Reg.PTP_CTL (4 + port) || noTrailer f p then (false, f)
  else
    let g := b.syncEdit f p s
    let tail := p.off + netAt f (p.off + 2) 2
    (true, if p.transport = 1 then patch g (p.udp + 6) [0, 0]
           else if p.transport = 2 then patch g tail (trailerFix f g p.udp tail) else g)

/-- The first byte of a frame enters the MAC of a port, be the frame timed or not (R72, R74): a Sync with twoStepFlag 0 is edited under
one-step insertion, or counted when it has no octets for its checksum, and is on its way to its stamp from now on. -/
def Block.toMac (b : Block) (port : Nat) (f : Bytes) : Block :=
  let send (b : Block) (g : Bytes) : Block := b.modPtp (fun p => { p with sent := p.sent ++ [(port, g)] })
  match ptpEvent f with
  | none => send b f
  | some p =>
    if !oneStepSync f p then send b f
    else
      let s := b.ft + b.txDelay port
      let (did, g) := b.edited port f p s
      let e : Predicted := ⟨byteAt f (p.off + 4), netAt f (p.off + 30) 2, if did then some s else none⟩
      let b := (send b g).modPtp (fun q => { q with predicted := smodify (fun _ => []) q.predicted port (· ++ [e]) })
      b.when (b.isSet Reg.PTP_CTL (4 + port) && noTrailer f p) (fun b => b.flag Reg.PTP_STS (2 + port))

/-! ### Timed launch (R74, R75) -/

/-- The launch queue of a port. -/
def Block.launches (b : Block) (port : Nat) : List Launch := sget (fun _ => []) b.tray.ptp.tlq port

/-- Store a launch queue. -/
def Block.setLaunches (b : Block) (port : Nat) (q : List Launch) : Block :=
  b.modPtp (fun p => { p with tlq := sput (fun _ => []) p.tlq port q })

/-- The FT from which an entry may be handed over: the first TIM cycle at or after it is its hand-over cycle (R74). -/
def Block.handOver (b : Block) (port : Nat) (l : Launch) : BitVec 64 := l.time - b.txDelay port

/-- The port holds back frames that are not timed: PTP_TLQ_GUARD ticks before the hand-over cycle of the head entry, and until that
entry is gone (R75). -/
def Block.heldBack (b : Block) (port : Nat) : Bool :=
  match b.launches port with
  | [] => false
  | l :: _ => ftGe b.ft (b.handOver port l - BitVec.ofNat 64 (b.fld (ptpReg Reg.PTP_TLQ_GUARD port) 15 0))

/-- The frames that a port holds back. -/
def Block.waitingFrames (b : Block) (port : Nat) : List Bytes := sget (fun _ => []) b.tray.ptp.waiting port

/-- Store the frames that a port holds back. -/
def Block.setWaiting (b : Block) (port : Nat) (q : List Bytes) : Block :=
  b.modPtp (fun p => { p with waiting := sput (fun _ => []) p.waiting port q })

/-- An untimed frame is offered to the MAC of a port (R72): it enters, or waits behind those held back, while the guard of a timed
launch runs (R75) and while the port's EN is 0 (R78); that EN keeps a frame and drops none is a DESIGN CHOICE (log 38). -/
def Block.oneStep (b : Block) (port : Nat) (f : Bytes) : Block :=
  if b.ptpEnabled port && !b.heldBack port && (b.waitingFrames port).isEmpty then b.toMac port f
  else b.setWaiting port (b.waitingFrames port ++ [f])

/-- The first frame held back leaves, one a cycle, once nothing holds it (R75). -/
def Block.releaseFrame (b : Block) (port : Nat) : Block :=
  match b.waitingFrames port with
  | [] => b
  | f :: rest => b.when (b.ptpEnabled port && !b.heldBack port) (fun b => (b.setWaiting port rest).toMac port f)

/-- ONESTEP_SYNC_EDIT (R72). -/
def execOnestepSyncEdit (port : Fin 2) (frame : Bytes) (s : State) : Host.Outcome State Fault Refusal :=
  onTray (fun b => b.oneStep port frame) s

/-! ### Stamp FIFO reads (R70) -/

/-- The FIFO that PTP_TS_SEL selects. -/
def Block.selectedFifo (b : Block) : List StampRec := sget (fun _ => []) b.tray.ptp.fifo (b.fld Reg.PTP_TS_SEL 1 0)

/-- The PTP_TS_META word of the head record. -/
def stampMeta : List StampRec → Word
  | [] => 0
  | r :: _ => BitVec.ofNat 32 (2 ^ 31 + bit r.asym * 2 ^ 30 + r.transport % 4 * 2 ^ 28 + r.msgType % 16 * 2 ^ 24 +
      r.domain % 256 * 2 ^ 16 + r.seq % 2 ^ 16)

/-- A read of PTP_TS_META pops the head record (R70). -/
def Block.readMeta (b : Block) : Block :=
  let q := b.selectedFifo
  let i := b.fld Reg.PTP_TS_SEL 1 0
  { b.modPtp (fun p => { p with fifo := sput (fun _ => []) p.fifo i q.tail }) with rdata := stampMeta q }

/-- PTP_TS_META_READ (R70). -/
def execPtpTsMetaRead (s : State) : Host.Outcome State Fault Refusal := onTray (fun b => b.readMeta) s

/-! ### The launch queues (R74, R75) -/

/-- The hand-over cycle of an entry has come: FT and the count of that cycle are kept. An entry that is queued after it counts the
cycle before as that cycle (R75). -/
def Block.markDue (b : Block) (port : Nat) (l : Launch) : Launch :=
  let h := b.handOver port l
  if l.due.isSome ∨ !ftGe b.ft h then l
  else if ftGe b.tray.ptp.ftBefore h then { l with due := some (h, b.time.cycles - 1) } else { l with due := some (b.ft, b.time.cycles) }

/-- The entry that has just reached the head: late when its hand-over cycle has passed (R75). -/
def Block.newHead (b : Block) : List Launch → List Launch
  | [] => []
  | l :: r => { l with late := match l.due with | some d => decide (d.2 < b.time.cycles) | none => false } :: r

/-- What a launch buffer holds: 2 KiB, of which the bytes that nothing has been placed in are 0 (log 38). -/
def Block.launchBuf (b : Block) (port buf : Nat) : Bytes :=
  let f := sget (fun _ => []) b.tray.ptp.bufs (16 * port + buf)
  f ++ List.replicate (2048 - f.length) 0

/-- The time steward places a frame in a launch buffer. -/
def Block.placeBuf (b : Block) (port buf : Nat) (frame : Bytes) : Block :=
  b.modPtp (fun p => { p with bufs := smodify (fun _ => []) p.bufs (16 * port + buf) (fun f =>
    frame.take 2048 ++ f.drop (min frame.length 2048)) })

/-- A write to PTP_TLQ_PUSH (R74): the buffer's first LEN bytes are queued with the staged launch time, or the push is refused and
counted. DESIGN CHOICE (log 38): L is compared with the last entry that is still queued, not with one launched before. -/
def Block.pushLaunch (b : Block) (port : Nat) (v : Word) : Block :=
  let len := bitsOf v.toNat 11 0
  let n := if len = 0 then 2048 else len
  let l := BitVec.ofNat 64 (b.fld (ptpReg Reg.PTP_TLQ_TIME_LO port) 31 0 + b.fld (ptpReg Reg.PTP_TLQ_TIME_HI port) 31 0 * 2 ^ 32)
  let q := b.launches port
  let early : Bool := match q.getLast? with | some e => decide (ftDiff l e.time < 0) | none => false
  if n < 64 ∨ 2048 < n ∨ 16 ≤ q.length ∨ early then b.countF (ptpReg Reg.PTP_TLQ_STS port) 15 8 1
  else
    let buf := bitsOf v.toNat 31 28
    let e := b.markDue port { buf := buf, time := l, frame := (b.launchBuf port buf).take n }
    b.setLaunches port (if q.isEmpty then b.newHead [e] else q ++ [e])

/-- PTP_TLQ_PUSH (R74), with the frame that the time steward has placed in the buffer before the write. -/
def execPtpTlqPush (port : Fin 2) (v : Word) (frame : Bytes) (s : State) : Host.Outcome State Fault Refusal :=
  onTray (fun b => (b.placeBuf port (bitsOf v.toNat 31 28) frame).pushLaunch port v) s

/-- The MAC takes the head entry in or after its hand-over cycle, or, when it is late, it is discarded or sent under the late policy and
counted (R74, R75); lateness runs from the hand-over cycle. It waits while the port's EN is 0 (R78). -/
def Block.launch (b : Block) (port : Nat) : Block :=
  match b.launches port with
  | [] => b
  | l :: rest => match l.due with
    | none => b
    | some d => b.when (b.ptpEnabled port) (fun b =>
      let late := l.late || decide ((b.fld (ptpReg Reg.PTP_TLQ_TOL port) 15 0 : Int) < ftDiff b.ft d.1)
      let b := b.setLaunches port (b.newHead rest)
      let b := if late then b.countF (ptpReg Reg.PTP_TLQ_STS port) 31 16 1 else b
      if late && !b.isSet (ptpReg Reg.PTP_TLQ_CTL port) 0 then b else b.toMac port l.frame)

/-- TIMED_LAUNCH (R75). -/
def execTimedLaunch (port : Fin 2) (s : State) : Host.Outcome State Fault Refusal := onTray (fun b => b.launch port) s

/-! ### Register writes and the cycle -/

/-- PTP_ (R74, R78): a write of PTP_TLQ_PUSH pushes; a latency or asymmetry keeps its value for the stamps of this cycle. -/
def Block.storePtp (b : Block) (off : Nat) (v : Word) : Block :=
  if off = ptpReg Reg.PTP_TLQ_PUSH 0 then b.pushLaunch 0 v
  else if off = ptpReg Reg.PTP_TLQ_PUSH 1 then b.pushLaunch 1 v
  else if off ∈ [Reg.PTP_LAT_TX, Reg.PTP_LAT_RX, Reg.PTP_TXPATH, Reg.PTP_ASYM].flatMap (fun r => [ptpReg r 0, ptpReg r 1]) ∧
      !b.tray.ptp.held.any (fun e => e.1 == off) then
    (b.modPtp (fun p => { p with held := p.held ++ [(off, b.fld off 15 0)] })).writeFields off v
  else b.writeFields off v

/-- The end of a TIM cycle of the network time ports (R70, R78). -/
def Block.portsEnd (b : Block) : Block :=
  (((List.range 4).foldl Block.fifoEnd b)).modPtp (fun p => { p with held := [], ftBefore := b.ft })

/-- The start of a TIM cycle of the network time ports: entries whose hand-over cycle it is are marked, and a frame held back may leave
(R74, R75). -/
def Block.portsStart (b : Block) : Block :=
  [0, 1].foldl (fun (b : Block) port => (b.setLaunches port ((b.launches port).map (b.markDue port))).releaseFrame port) b

/-- A frame from a MAC (R65, R480): one with an error on its last beat is discarded; PTP messages go to the time steward and
every other frame to the host steward. DESIGN CHOICE (log 38): a frame on the PTP EtherType or UDP ports whose versionPTP is not 2 is no PTP
message here and goes to the host steward. PTP_RX_STAMP stamps it at its timestamp point. -/
def Block.ethReceive (b : Block) (port : Nat) (f : Bytes) (err : Bool) : Block :=
  if err then b
  else match ptpPlace f with
    | some _ => b.modPtp (fun p => { p with toTime := p.toTime ++ [(port, f)] })
    | none => b.modPtp (fun p => { p with toHost := p.toHost ++ [(port, f)] })

/-- ETH_FRAME_RECEIVE (R65). -/
def execEthFrameReceive (port : Fin 2) (frame : Bytes) (err : Bool) (s : State) : Host.Outcome State Fault Refusal :=
  onTray (fun b => b.ethReceive port frame err) s

end Sys2Proof.Machine
end

