-- ==== Sys2Proof/Machine/Sensors.lean ====
section
/-! DEFINITION. The sensor channels (R454, R457): their kinds, the sample of one channel, thermal latches and alarms, the samples that a Borlu-D
takes by itself. -/

namespace Sys2Proof.Machine

/-- The KIND of a sensor channel; OFF while EN is 0. -/
def Block.sensorKind (b : Block) (ch : Nat) : Nat :=
  let r := Reg.PWR_SNS_CFG + 4 * ch
  if b.isSet r 31 then b.fld r 30 28 else 0

/-- The THERMAL_CRIT alarms of a channel (R457): one in each ACTIVE context of a die; a single one without a rank in a Borlu-T. -/
def Block.thermalAlarm (b : Block) (param : Nat) : Block :=
  match b.build with
  | .D =>
    b.forEach (b.ctxIds.filter (fun c => (b.ctx c).phase == .active)) (fun b c =>
      (b.raiseAlarm c 0x1801 24 (some (b.ctx c).rank) (windowOf (b.ctx c).k b.ft) param).count Reg.PWR_THERM_CNT 1)
  | .T =>
    let b := match b.lowestNode 0 with
      | some c => b.raiseAlarm c 0x1801 24 none (windowOf (b.ctx c).k b.ft) param
      | none => b.pushAlarm b.blockCtx 0 (alarmRecord 0x1801 24 (!b.time.valid) none 0 b.ft 1 param)
    b.count Reg.PWR_THERM_CNT 1

/-- The thermal latch of a TEMP channel at a present sample (R457). -/
def Block.thermal (b : Block) (ch code : Nat) : Block :=
  let cfg := Reg.PWR_SNS_CFG + 4 * ch
  let val := Reg.PWR_SNS_VAL + 4 * ch
  let high := b.fld cfg 15 0
  if high ≤ code ∧ !b.isSet val 30 then
    (((b.flag val 30).thermalAlarm (ch + code * 2 ^ 16)).healthCrumb 0x1801 ch code 0).flag Reg.PWR_STS 7
  else if code + b.fld cfg 23 16 < high then b.putBit val 30 false
  else b

/-- One channel's sample: present with a code, or missing. The health steward reads the tray sensors. -/
def Block.sampleChannel (b : Block) (ch : Nat) (x : Option (BitVec 16)) : Block :=
  let val := Reg.PWR_SNS_VAL + 4 * ch
  if b.build = .T ∧ 24 ≤ ch ∧ !b.stewardRuns 4 then b
  else if b.sensorKind ch = 0 then b.putBit val 31 false
  else match x with
    | none =>
      let b := (b.putBit val 31 false).count Reg.PWR_SNS_MISS 1
      match b.build with | .D => b.lightAdd 57 1 | .T => b
    | some code =>
      let b := (b.setFld val 15 0 code.toNat).putBit val 31 true
      if b.sensorKind ch = 1 then b.thermal ch code.toNat else b

/-- A sample of a channel as a use of it reads it: missing where the channel is OFF or its latest sample is missing (R454). -/
def Block.sensorNow (b : Block) (ch : Nat) : Option Nat :=
  let r := Reg.PWR_SNS_VAL + 4 * ch
  if b.sensorKind ch ≠ 0 ∧ b.isSet r 31 then some (b.fld r 15 0) else none

/-- Borlu-D samples every channel that is not OFF: what the sensor port presents (R454). Both captures of R477 fall in this step (log 76). -/
def Block.sampleAll (b : Block) : Block :=
  b.forEach (List.range 32) (fun b ch => b.sampleChannel ch (sget (fun _ => (none : Option (BitVec 16))) b.die.sensors ch))

/-- A cycle in which Borlu-D samples by PWR_SNS_CTL.PER: every 2^m BCLK cycles, m = PER + 8 (R454). -/
def Block.samplePeriod (b : Block) : Bool :=
  decide (0 < b.time.cycles) && b.time.cycles % 2 ^ (b.fld Reg.PWR_SNS_CTL 3 0 + 8) == 0

/-- Whether any TEMP latch is set: the output therm_crit of Borlu-D and pm_therm_crit of Borlu-T (R457, R476, R480). -/
def Block.thermCrit (b : Block) : Bool := (List.range 32).any (fun ch => b.isSet (Reg.PWR_SNS_VAL + 4 * ch) 30)

end Sys2Proof.Machine
end

