-- ==== Sys2Proof/Machine/Trace.lean ====
section
/-! DEFINITION. The trace unit's commands (spec/05, spec/06 R148, R149): feeds, filters, the trigger state machine, exclusion and
grants, power packets, overflow and stall, the trace port of a die. -/

namespace Sys2Proof.Machine

/-! ### Feeds (R106 to R108) -/

def FeedEntry.pc (e : FeedEntry) : Nat := bitsOf e.entry.toNat 127 80
def FeedEntry.kind (e : FeedEntry) : Nat := bitsOf e.entry.toNat 79 77
def FeedEntry.attr (e : FeedEntry) : Nat := bitsOf e.entry.toNat 76 64
def FeedEntry.payload (e : FeedEntry) : Nat := bitsOf e.entry.toNat 63 0

/-- The arrival stamp of a word or entry of region `p` (R56): FT − H − TIM_TAP_COMP[p]. -/
def Block.arrivalStamp (b : Block) (p : Nat) : BitVec 64 :=
  b.ft - BitVec.ofNat 64 (5 * b.incr / 2 / 2 ^ 32) - BitVec.ofNat 64 (b.fld (Reg.TIM_TAP_COMP + 4 * p) 11 0)

/-- An entry written into a full feed is lost (R108, R128): counted, a sync of CAUSE 6 owed, and the OVERFLOW at the end of the cycle
tells of it. Nothing counts in RETAIN and OFF (R451). -/
def Block.feedLoss (b : Block) (p : Nat) : Block :=
  if b.asleep then b else
  let b := ((b.count (Reg.TRC_FEED_LOSS + 4 * p) 1).count Reg.TRC_LOST_ENT 1).flag Reg.TRC_STS 3
  ((b.traceLost 0 1 (some p)).modTraceRegion p (fun r => { r with owed := some 6 })).modTrace (fun t => { t with lossDue := true })

/-- FEED_ENTRY_WRITE (R106, R108): a region writes an entry into its feed of 16. What it writes in RETAIN or OFF is lost (R453). -/
def execFeedEntryWrite (p : Fin 64) (entry : BitVec 128) (s : State) : Host.Outcome State Fault Refusal :=
  onDie (fun b =>
    if !b.settled || b.asleep then b
    else if 16 ≤ (b.traceRegion p).feed.length then b.feedLoss p
    else b.modTraceRegion p (fun r => { r with feed := r.feed ++ [⟨entry, b.arrivalStamp p⟩] })) s

/-- An entry that breaks its row of R107, or that a powered-down region delivers (R125). -/
def Block.feedBad (b : Block) : Block := (b.count Reg.TRC_ERR 1).flag Reg.TRC_STS 1

/-- Dequeue the head entry of feed `p` when it is of one of the given kinds and act on it: nothing for a feed that is not
enabled (R106); discarded when it breaks its row or the region is powered down (R107, R125); discarded without a count while
the region is suppressed (R122). -/
def Block.onFeed (b : Block) (p : Nat) (kinds : List Nat) (good : FeedEntry → Bool) (act : Block → FeedEntry → Block) : Block :=
  match (b.traceRegion p).feed with
  | [] => b
  | e :: rest =>
    if e.kind ∉ kinds ∨ b.asleep then b
    else
      let b := b.modTraceRegion p (fun r => { r with feed := rest })
      if !b.feedEnabled p then b
      else if !good e ∨ (b.traceRegion p).down then b.feedBad
      else if b.die.trace.suppressed.getLsbD p then b
      else act b e

/-- FEED_STEP (R107, R112): a run of N bundles. Entries of the reserved kinds 6 and 7 are dequeued here and discarded. -/
def execFeedStep (p : Fin 64) (s : State) : Host.Outcome State Fault Refusal :=
  onDie (fun b => b.onFeed p [0, 6, 7]
    (fun e => e.kind == 0 && e.attr == 0 && decide (1 ≤ bitsOf e.payload 47 32) && bitsOf e.payload 63 48 == 0)
    (fun b e =>
      let start := bitsOf e.payload 31 0
      let n := bitsOf e.payload 47 32
      b.placeEntryOf p e.pc e.stamp (some start) true (fun dpc _ => pktHead 0x10 p ++ leBytes 2 dpc ++ leBytes 2 n)
        (fun r => { r with a := (start + n) % 2 ^ 32 }))) s

/-- FEED_DIVERT (R107, R112). -/
def execFeedDivert (p : Fin 64) (s : State) : Host.Outcome State Fault Refusal :=
  onDie (fun b => b.onFeed p [1] (fun e => bitsOf e.payload 63 32 == 0)
    (fun b e =>
      let target := bitsOf e.payload 31 0
      b.placeEntryOf p e.pc e.stamp none true (fun dpc _ => pktHead 0x11 p ++ leBytes 2 dpc ++ leBytes 2 e.attr ++ leBytes 4 target)
        (fun r => { r with a := target }))) s

/-- A filtered entry changes no reference state but PC := C (R118). -/
def Block.filtered (b : Block) (p c : Nat) : Block :=
  if b.die.trace.phase = 0 ∨ b.die.trace.suppressed.getLsbD p then b else b.modTraceRegion p (fun r => { r with pc := c })

/-- The address filter (R118). -/
def Block.addressPasses (b : Block) (addr : Nat) : Bool :=
  let on := (List.range 8).filter (fun n => b.isSet Reg.TRC_AF_CTL n)
  let within (n : Nat) : Bool := decide (b.fld (Reg.TRC_AF_BASE + 4 * n) 31 0 * 65536 ≤ addr) &&
    decide (addr ≤ b.fld (Reg.TRC_AF_LIMIT + 4 * n) 31 0 * 65536 + 65535)
  on.isEmpty || (on.any (fun n => !b.isSet Reg.TRC_AF_CTL (8 + n) && within n) &&
    !on.any (fun n => b.isSet Reg.TRC_AF_CTL (8 + n) && within n))

/-- A LOAD or STORE packet in its delta or full form (R110, R112). -/
def accessPacket (delta full p attr addr dpc : Nat) (r : TraceRegion) : Bytes :=
  let diff := signed 48 (addr + 2 ^ 48 - r.d)
  if -(2 ^ 31) ≤ diff ∧ diff < 2 ^ 31 then pktHead delta p ++ leBytes 1 attr ++ leBytes 2 dpc ++ leSigned 4 diff
  else pktHead full p ++ leBytes 1 attr ++ leBytes 2 dpc ++ leBytes 6 addr

/-- A LOAD or STORE entry that stands in its row (R107). -/
def accessGood (e : FeedEntry) : Bool := bitsOf e.payload 63 48 == 0 && bitsOf e.attr 12 8 == 0

/-- A LOAD or STORE entry (R112, R118). -/
def Block.feedAccess (b : Block) (p delta full : Nat) (e : FeedEntry) : Block :=
  let addr := bitsOf e.payload 47 0
  if !b.addressPasses addr then b.filtered p e.pc
  else b.placeEntryOf p e.pc e.stamp none true (fun dpc r => accessPacket delta full p (e.attr % 256) addr dpc r)
    (fun r => { r with d := addr })

/-- FEED_LOAD (R107, R112). -/
def execFeedLoad (p : Fin 64) (s : State) : Host.Outcome State Fault Refusal :=
  onDie (fun b => b.onFeed p [2] accessGood (fun b e => b.feedAccess p 0x20 0x22 e)) s

/-- FEED_STORE (R107, R112). -/
def execFeedStore (p : Fin 64) (s : State) : Host.Outcome State Fault Refusal :=
  onDie (fun b => b.onFeed p [3] accessGood (fun b e => b.feedAccess p 0x21 0x23 e)) s

/-- FEED_DATA (R107, R118). -/
def execFeedData (p : Fin 64) (s : State) : Host.Outcome State Fault Refusal :=
  onDie (fun b => b.onFeed p [4] (fun e => bitsOf e.attr 12 8 == 0)
    (fun b e =>
      let tag := e.attr % 256
      let mask := b.fld Reg.TRC_DF 15 8
      if b.isSet Reg.TRC_DF 31 ∧ tag &&& mask ≠ b.fld Reg.TRC_DF 7 0 &&& mask then b.filtered p e.pc
      else b.placeEntryOf p e.pc e.stamp none true
        (fun dpc _ => pktHead 0x28 p ++ leBytes 1 tag ++ leBytes 2 dpc ++ leBytes 8 e.payload) (fun r => r))) s

/-! ### Trigger sources (R120) -/

/-- Start and stop sources seen in this cycle, as masks of R120, beside those of the same cycle; those of the cycle before are kept. -/
def Block.triggerSeen (b : Block) (start stop : Nat) : Block :=
  if start = 0 ∧ stop = 0 then b
  else
    let now := b.time.cycles
    b.modTrace (fun t =>
      if t.seenAt = now then { t with starts := t.starts ||| start, stops := t.stops ||| stop }
      else { t with starts := start, stops := stop, seenAt := now, pastStarts := t.starts, pastStops := t.stops, pastAt := t.seenAt })

/-- FEED_MARK (R107, R120). -/
def execFeedMark (p : Fin 64) (s : State) : Host.Outcome State Fault Refusal :=
  onDie (fun b => b.onFeed p [5] (fun e => e.attr == 0 && bitsOf e.payload 63 32 == 0)
    (fun b e =>
      let m := bitsOf e.payload 31 0
      (b.triggerSeen (4 * bit (m == b.fld Reg.TRC_TRG_MARK 31 0)) (4 * bit (m == b.fld (Reg.TRC_TRG_MARK + 4) 31 0))).placeEntryOf
        p e.pc e.stamp none true (fun dpc _ => pktHead 0x30 p ++ leBytes 2 dpc ++ leBytes 4 m) (fun r => r))) s

/-! ### Tap words in trace (R119, R120) -/

/-- A tap word as a trigger source (R120): its KIND equals KIND and its code matches under MASK. -/
def Block.eventMatch (b : Block) (i kind code : Nat) : Bool :=
  let r := Reg.TRC_TRG_EV + 4 * i
  let mask := b.fld r 23 12
  kind == b.fld r 27 24 && code &&& mask == b.fld r 11 0 &&& mask

/-- The EVENT of a word of region `p` (R119): `pc` is none for an inserted word. A region whose feed is not enabled gives none: R119 names
no condition on the enable bit (DESIGN CHOICE, log 42). -/
def Block.traceEvent (b : Block) (p : Nat) (word : BitVec 64) (pc : Option Nat) (s : BitVec 64) (discarded : Bool) : Block :=
  let kind := bitsOf word.toNat 63 60
  if !b.feedEnabled p ∨ !(kind < 12 && b.isSet Reg.TRC_EVT kind) then b
  else b.placeEntryOf p (pc.getD (b.traceRegion p).pc) s none pc.isSome
    (fun dpc _ => leBytes 1 0x31 ++ leBytes 1 (p + bit discarded * 64) ++ leBytes 2 dpc ++ leBytes 8 word.toNat) (fun r => r)

/-! ### The trigger state machine (R121) -/

/-- Place TRIGGER (R110). -/
def Block.placeTrigger (b : Block) (old new bits : Nat) : Block :=
  b.place (dieHead 0x44 ++ leBytes 1 old ++ leBytes 1 new ++ leBytes 1 bits ++ zeros 3 ++ leBytes 8 b.ft.toNat)

/-- The sources of TRC_TRG that were seen in the cycle before this one: start and stop masks. ENGINE and WINDOW are no stop
sources (R120). -/
def Block.triggerBits (b : Block) : Nat × Nat :=
  let t := b.die.trace
  let now := b.time.cycles
  let seen := if t.seenAt + 1 = now then (t.starts, t.stops) else if t.seenAt = now ∧ t.pastAt + 1 = now then (t.pastStarts, t.pastStops) else (0, 0)
  (seen.1 &&& b.fld Reg.TRC_TRG 4 0, seen.2 &&& b.fld Reg.TRC_TRG 12 8 &&& 0x0E)

/-- Change the state code: the transition of this cycle. -/
def Block.tracePhase (b : Block) (n : Nat) : Block := b.modTrace (fun t => { t with phase := n, movedAt := some b.time.cycles })

/-- A transition has been made in this cycle: there is at most one (R116). -/
def Block.traceMoved (b : Block) : Bool := b.die.trace.movedAt == some b.time.cycles

/-- POST begins. -/
def Block.enterPost (b : Block) : Block := (b.tracePhase 3).modTrace (fun t => { t with postMark := b.time.cycles })

/-- One transition from the conditions seen in the previous cycle (R121); DONE with REARM returns to ARMED. -/
def Block.triggerTransition (b : Block) : Block :=
  let (start, stop) := b.triggerBits
  if b.traceMoved then b else
  match b.die.trace.phase with
  | 1 =>
    if start ≠ 0 ∧ stop ≠ 0 then (b.enterPost.startLoaf false).placeTrigger 1 3 (start ||| stop)
    else if start ≠ 0 then ((b.tracePhase 2).startLoaf false).placeTrigger 1 2 start
    else b
  | 2 => if stop ≠ 0 ∧ b.isSet Reg.TRC_CTL 28 then b.enterPost.placeTrigger 2 3 stop else b
  | 3 => if start ≠ 0 ∧ b.isSet Reg.TRC_CTL 26 then (b.tracePhase 2).placeTrigger 3 2 start else b
  | 4 => if b.isSet Reg.TRC_CTL 27 then b.tracePhase 1 else b
  | _ => b

/-- TRIGGER_TRANSITION (R121). -/
def execTriggerTransition (s : State) : Host.Outcome State Fault Refusal := onDie Block.triggerTransition s

/-- POST ends (R121): a start with RESTART, the earlier row, takes the unit back to RUN. -/
def Block.postEnds (b : Block) : Block :=
  if b.triggerBits.1 ≠ 0 ∧ b.isSet Reg.TRC_CTL 26 then b.triggerTransition
  else ((b.placeTrigger 3 4 0).stopPlacing.tracePhase 4).flag Reg.TRC_STS 0

/-- POST_COUNT_EXPIRE (R121): POST has lasted its count of 1,024 cycles. -/
def execPostCountExpire (s : State) : Host.Outcome State Fault Refusal :=
  onDie (fun b =>
    let t := b.die.trace
    b.when (t.phase == 3 && !b.traceMoved && decide (t.postMark + b.fld Reg.TRC_TRG 31 16 * 1024 ≤ b.time.cycles)) Block.postEnds) s

/-- The command gate of each enabled region as the unit starts (R117): one that is closed already writes no GATE packet, since it does not close now
(DESIGN CHOICE, log 42). -/
def Block.setGates (b : Block) : Block :=
  b.forEach b.tracedRegions (fun b p => b.modTraceRegion p (fun r => { r with gated := !b.gateOpen p }))

/-- A write of TRC_CTL (R121): in OFF it is stored, and EN starts the unit; in any other state it is refused, but EN = 0 returns the unit to OFF.
While the unit is held by the power state its EN waits for RUN (R451, R452). Of a write with EN = 0 outside OFF the other fields are dropped, and
CFG_REFUSED is not set for them (R121 does not say; DESIGN CHOICE, log 42). -/
def Block.writeTrcCtl (b : Block) (v : Word) : Block :=
  let t := b.die.trace
  if b.power.phase ≠ 0 then
    { (b.writeFields Reg.TRC_CTL (clearB v 31)).updateExclusions with power := { b.power with heldTrc := v.getLsbD 31 } }
  else if t.phase = 0 then
    let b := (b.writeFields Reg.TRC_CTL v).updateExclusions
    if !v.getLsbD 31 then b
    else
      let b := b.setGates.modTrace (fun t => { t with starts := 0, stops := 0, pastStarts := 0, pastStops := 0 })
      if v.getLsbD 28 then b.tracePhase 1 else (b.tracePhase 2).startLoaf false
  else if !v.getLsbD 31 then ((b.setFld Reg.TRC_CTL 31 31 0).stopPlacing).tracePhase 0
  else b.flag Reg.TRC_STS 6

/-- TRC_CTL_EN_WRITE (R121). -/
def execTrcCtlEnWrite (v : Word) (s : State) : Host.Outcome State Fault Refusal := onDie (fun b => b.writeTrcCtl v) s

/-- A write of TRC_CMD (R115, R120): FLUSH, STOP and START act. -/
def Block.writeTrcCmd (b : Block) (v : Word) : Block :=
  let b := b.triggerSeen (8 * bit (v.getLsbD 0)) (8 * bit (v.getLsbD 1))
  if v.getLsbD 2 then b.flushLoaf else b

/-- TRC_CMD_FLUSH (R115). -/
def execTrcCmdFlush (s : State) : Host.Outcome State Fault Refusal := onDie (fun b => b.writeTrcCmd 4) s

/-- TRC_CMD_START (R120). -/
def execTrcCmdStart (s : State) : Host.Outcome State Fault Refusal := onDie (fun b => b.writeTrcCmd 1) s

/-- TRC_CMD_STOP (R120). -/
def execTrcCmdStop (s : State) : Host.Outcome State Fault Refusal := onDie (fun b => b.writeTrcCmd 2) s

/-- LOAF_AGE_EXPIRE (R115): the open loaf is AGE µs old. -/
def execLoafAgeExpire (s : State) : Host.Outcome State Fault Refusal :=
  onDie (fun b =>
    let age := b.fld Reg.TRC_FLUSH 15 0
    match b.die.trace.loaf with
    | none => b
    | some l => b.when (age != 0 && ftGe b.ft (ftAdd l.startFt (age * ticksPerUs))) Block.flushLoaf) s

/-! ### Exclusion and grants (R122 to R124, R430) -/

/-- REGION_SECURE_CHANGE (R122). -/
def execRegionSecureChange (p : Fin 64) (level : Bool) (s : State) : Host.Outcome State Fault Refusal :=
  let keep (b : Block) : Block := b.modTrace (fun t => { t with secure := if level then setB t.secure p else clearB t.secure p })
  onDieLevel keep (fun b => (keep b).updateExclusion p) s

/-- The first free grant slot. -/
def Block.freeGrantSlot (b : Block) : Option Nat :=
  (List.range 4).find? (fun g => (sget (fun _ => (none : Option TraceGrant)) b.die.trace.grants g).isNone)

/-- A GRANT record (R123, R429): bytes 8 to 15 the expiry, 16 to 23 the region mask, 24 the number of rank ranges, 32 on the
ranges of 8 bytes. Stored in a slot or refused; answered with GRANT_RESP, its status and slot. -/
def Block.grantRecord (b : Block) (f : Frame) (r : Bytes) : Block :=
  let expiry := BitVec.ofNat 64 (fieldAt r 8 8)
  let ahead := ftDiff expiry b.ft
  let ranges := chunks 8 (byteAt r 24) (r.drop 32)
  let refuse (b : Block) (c : Option Nat) : Block := (b.flag Reg.TRC_STS 5).sendControl c .tray 0x0803 (leBytes 1 0x09 ++ leBytes 1 0xFF ++ zeros 6)
  match b.ctxOfJob f.job with
  | none => refuse b none
  | some c =>
    let x := b.ctx c
    let inRange := ranges.any (fun e => decide (bitsOf (fieldAt e 0 4) 17 0 ≤ x.rank) && decide (x.rank ≤ bitsOf (fieldAt e 4 4) 17 0))
    let good := x.isActive && inRange && b.time.valid && decide (0 < ahead) && decide (ahead ≤ 57600000000000)
    match good, b.freeGrantSlot with
    | true, some g =>
      let grant : TraceGrant := ⟨c, BitVec.ofNat 64 (fieldAt r 16 8), expiry⟩
      let b := b.modTrace (fun t => { t with grants := sput (fun _ => none) t.grants g (some grant) })
      b.updateExclusions.sendControl (some c) .tray 0x0803 (leBytes 1 0 ++ leBytes 1 g ++ zeros 6)
    | _, _ => refuse b (some c)

/-- GRANT_RECEIVE (R123). -/
def execGrantReceive (link : Fin 64) (frame : Bytes) (s : State) : Host.Outcome State Fault Refusal :=
  onDie (fun b => b.receiveControl link frame 0x0801 Block.grantRecord) s

/-- GRANT_EXPIRE (R124): grants whose expiry FT has reached are removed. -/
def execGrantExpire (s : State) : Host.Outcome State Fault Refusal :=
  onDie (fun b => b.dropGrants (fun g => ftGe b.ft g.expiry)) s

/-- Clear mask bits in every grant of a context; a grant whose mask becomes zero is removed (R124, R430). -/
def Block.revokeGrants (b : Block) (c : Nat) (mask : BitVec 64) : Block :=
  (b.modTrace (fun t => { t with grants := t.grants.map (fun e => match e.2 with
    | some g => if g.ctx = c then (e.1, some { g with mask := g.mask &&& ~~~mask }) else e
    | none => e) })).dropGrants (fun g => g.mask == 0)

/-- A REVOKE record (R430). -/
def Block.revokeRecord (b : Block) (f : Frame) (r : Bytes) : Block :=
  match b.ctxOfJob f.job with | none => b | some c => b.revokeGrants c (BitVec.ofNat 64 (fieldAt r 8 8))

/-- REVOKE_RECEIVE (R430). -/
def execRevokeReceive (link : Fin 64) (frame : Bytes) (s : State) : Host.Outcome State Fault Refusal :=
  onDie (fun b => b.receiveControl link frame 0x0802 Block.revokeRecord) s

/-! ### Power packets (R125) -/

/-- A POWER packet. -/
def powerPacket (p state : Nat) (s : BitVec 64) : Bytes := pktHead 0x41 p ++ leBytes 1 state ++ zeros 1 ++ leBytes 8 s.toNat

/-- Packets of region `p` are encoded: its feed is enabled, and the unit is not OFF. -/
def Block.encodes (b : Block) (p : Nat) : Bool := b.feedEnabled p && b.die.trace.phase != 0

/-- A POWER packet of a region whose packets are encoded. -/
def Block.placePower (b : Block) (p state : Nat) (s : BitVec 64) : Block :=
  if b.encodes p then (b.placeBefore p s).placeFor p (powerPacket p state s) else b

/-- A region with POWERED_DOWN returns to run (R125): POWER and, at once after it, the event sync. -/
def Block.powerReturns (b : Block) (p : Nat) (s : BitVec 64) : Block :=
  let b := if b.encodes p then (((b.placeBefore p s).makeRoom p 44).placeFor p (powerPacket p 0 s)).eventSync p 2 s else b
  b.modTraceRegion p (fun r => { r with down := false })

/-- A POWER word reaches the trace unit (R125): a low state waits for the region's feed to empty; a return to run from
POWERED_DOWN places POWER and the event sync at once, and the low states that still waited are gone; a repeated state places nothing. -/
def Block.tracePower (b : Block) (p state : Nat) (s : BitVec 64) : Block :=
  let r := b.traceRegion p
  if r.power = state then b
  else if state ≠ 0 then b.modTraceRegion p (fun r => { r with power := state, powerWait := r.powerWait ++ [(state, s)] })
  else
    let b := b.modTraceRegion p (fun r => { r with power := 0, powerWait := [] })
    if r.down then b.powerReturns p s else b

/-- POWER_PACKET_PLACE (R125): the feed of a region that reported low states is empty. -/
def execPowerPacketPlace (p : Fin 64) (s : State) : Host.Outcome State Fault Refusal :=
  onDie (fun b =>
    let r := b.traceRegion p
    b.when (!r.powerWait.isEmpty && r.feed.isEmpty) (fun b =>
      (b.forEach r.powerWait (fun b e => b.placePower p e.1 e.2)).modTraceRegion p (fun r => { r with down := true, powerWait := [] }))) s

/-! ### Overflow and stall (R127 to R130) -/

/-- TRC_OVF.RESUME in bytes; values below 4 act as 4. -/
def Block.resumeBytes (b : Block) : Nat := max 4 (b.fld Reg.TRC_OVF 7 0) * 1024

/-- DROP_MODE_END (R127): the staging area is empty and the buffer has room. -/
def execDropModeEnd (s : State) : Host.Outcome State Fault Refusal :=
  onDie (fun b =>
    let b := b.drainStaging
    let t := b.die.trace
    b.when (t.dropping && t.staging == 0 && decide (b.resumeBytes ≤ t.bufferFree)) (fun b =>
      (b.modTrace (fun t => { t with dropping := false })).startLoaf true)) s

/-- TRC_STALL.OFF in bytes; when it is not above ON it acts as ON + 1. -/
def Block.stallOff (b : Block) : Nat := max (b.fld Reg.TRC_STALL 25 16) (b.fld Reg.TRC_STALL 9 0 + 1) * 256

/-- TRACE_STALL_ASSERT (R129, R130): the free space is below ON; without sched_debug the stall is denied. -/
def execTraceStallAssert (s : State) : Host.Outcome State Fault Refusal :=
  onDie (fun b =>
    let b := b.drainStaging
    let t := b.die.trace
    b.when (b.stallPermitted && t.stall == 0 && decide (t.bufferFree < b.fld Reg.TRC_STALL 9 0 * 256)) (fun b =>
      if !t.schedDebug then b.flag Reg.TRC_STS 4
      else
        let mask := b.tracedRegions.foldl (fun (m : BitVec 64) p =>
          if t.suppressed.getLsbD p || (b.traceRegion p).down then m else setB m p) 0
        b.modTrace (fun t => { t with stall := mask, stallMark := b.time.cycles }))) s

/-- TRACE_STALL_RELEASE (R129): the free space has reached OFF. -/
def execTraceStallRelease (s : State) : Host.Outcome State Fault Refusal :=
  onDie (fun b =>
    let b := b.drainStaging
    b.when (b.die.trace.stall != 0 && decide (b.stallOff ≤ b.die.trace.bufferFree)) Block.releaseStall) s

/-- SCHED_DEBUG_FALL (R130), with the level of sched_debug as an operand: a fall during a stall releases it and sets
STALL_DENIED. -/
def execSchedDebugFall (level : Bool) (s : State) : Host.Outcome State Fault Refusal :=
  let keep (b : Block) : Block := b.modTrace (fun t => { t with schedDebug := level })
  onDieLevel keep (fun b => (keep b).when (!level && b.die.trace.stall != 0) (fun b => b.releaseStall.flag Reg.TRC_STS 4)) s

/-! ### Engines and the trace port of a die (R131, R133, R148, R149) -/

/-- LOAF_COMPRESSED (R148): engine `q mod 4` finishes its oldest loaf, which is ready to leave. In RETAIN and OFF the engines stand (R451). -/
def execLoafCompressed (engine : Fin 4) (s : State) : Host.Outcome State Fault Refusal :=
  onDie (fun b =>
    match b.die.trace.ended.find? (fun l => l.stored.isNone && l.seq % 4 == engine.val) with
    | none => b
    | some l => b.when (!b.asleep) (fun b =>
        let bytes := buildLoaf l.flags l.blk 0 l.seq l.rawOnly l.effort l.input
        let b := b.modTrace (fun t => { t with ended := t.ended.map (fun x => if x.seq = l.seq then { x with stored := some bytes } else x) })
        let b := b.countWide Reg.LOF_IN_LO l.input.length
        if loafIsRaw bytes then (b.count Reg.LOF_RAW 1).flag Reg.LOF_STS 1 else b)) s

/-- The port that TRC_PORT.SEL names can send: the lab port always, the serial port while its link is up (R131, R133); nothing is sent in
RETAIN and OFF (R451). -/
def Block.tracePortUp (b : Block) : Bool := !b.asleep && (b.fld Reg.TRC_PORT 1 0 == 1 || b.die.trace.linkUp)

/-- Alignment super-block `n` (R131): 16 bytes on each of the four lanes. -/
def alignmentBlock (n : Nat) : Bytes :=
  ((List.range 4).map (fun l => [0xA5, 0x5A] ++ leBytes 1 l ++ zeros 1 ++ leBytes 4 n ++ zeros 8)).flatten

/-- Super-blocks of loaf data after `n` super-blocks since link up, with the alignment super-blocks that fall among them (R131), and the
count after them. -/
def superStream (n : Nat) : List Bytes → List Bytes × Nat
  | [] => ([], n)
  | x :: xs =>
    if (n + 1) % 4096 = 0 then
      let r := superStream (n + 2) xs
      (alignmentBlock ((n + 1) / 4096) :: x :: r.1, r.2)
    else
      let r := superStream (n + 1) xs
      (x :: r.1, r.2)

/-- An idle super-block (R131). -/
def idleBlock : Bytes := [0xB7, 0xE1] ++ zeros 62

/-- The super-blocks of the serial port up to the end of some loaf data (R131): idle ones, then the data. How many idle ones came before it
is a free value (log 4): the clock of the trace port is not modelled. -/
def Block.sendBlocks (b : Block) (data : List Bytes) : Block :=
  let (idle, b) := b.freeNat
  let r := superStream b.die.trace.superCount (List.replicate idle idleBlock ++ data)
  b.modTrace (fun t => { t with superCount := r.2, wire := r.1 })

/-- The 32-bit words of a loaf on the lab port, each with lab_sol (R133); zero bytes fill the last word. -/
def labWords (bytes : Bytes) : List (Word × Bool) :=
  let ws := (chunks 4 (bytes.length / 4 + 1) (padTo 4 bytes)).map (fun w => BitVec.ofNat 32 (fieldAt w 0 4))
  ws.zip (true :: List.replicate ws.length false)

/-- BCLK cycles in which the lab port carries some words: one on each edge of lab_clk, BCLK divided by LAB_DIV, whose values 0 and 1 act
as 2 (R133). -/
def Block.labCycles (b : Block) (words : Nat) : Nat := words * max 2 (b.fld Reg.TRC_PORT 10 8) / 2

/-- A loaf leaves by the port that TRC_PORT.SEL names (R131, R133): the lab port carries its words, while the serial port sends idle and
alignment super-blocks alone, or the serial port carries it in super-blocks. -/
def Block.sendSuper (b : Block) (bytes : Bytes) : Block :=
  if b.fld Reg.TRC_PORT 1 0 = 1 then
    let b := b.modTrace (fun t => { t with lab := labWords bytes, labFree := b.time.cycles })
    if b.die.trace.linkUp then b.sendBlocks [] else b
  else b.sendBlocks (chunks 64 (bytes.length / 64 + 1) (padTo 64 bytes))

/-- The port has had the time that a loaf takes: the lab port carries one word on each edge of its clock since its latest loaf (R133). -/
def Block.portTime (b : Block) (bytes : Bytes) : Bool :=
  b.fld Reg.TRC_PORT 1 0 != 1 || decide (b.die.trace.labFree + b.labCycles (labWords bytes).length ≤ b.time.cycles)

/-- LOAF_DEPARTED (R149): the next loaf in sequence order has left the port, and its buffer space is free. -/
def execLoafDeparted (s : State) : Host.Outcome State Fault Refusal :=
  onDie (fun b =>
    match b.die.trace.ended with
    | [] => b
    | l :: rest =>
      match l.stored with
      | none => b
      | some bytes => b.when (b.tracePortUp && b.portTime bytes) (fun b =>
          let b := b.drainStaging.sendSuper bytes
          ((b.modTrace (fun t => { t with ended := rest, sent := t.sent ++ [bytes] })).count Reg.TRC_LOAVES 1).countWide
            Reg.LOF_OUT_LO bytes.length)) s

/-- TRC_LINK_UP_CHANGE (R131): the level of trc_link_up; the counts of the port restart. -/
def execTrcLinkUpChange (level : Bool) (s : State) : Host.Outcome State Fault Refusal :=
  let f (b : Block) : Block := b.modTrace (fun t => { t with linkUp := level, superCount := 0, wire := [] })
  onDieLevel f f s

end Sys2Proof.Machine
end

