-- ==== Sys2Proof/Machine/Taps.lean ====
section
/-! DEFINITION. Region taps, counters and transactions of Borlu-D (spec/04, and R56 to R62 of spec/02). -/

namespace Sys2Proof.Machine

/-- Change the tap unit. -/
def Block.modTaps (b : Block) (f : TapUnit → TapUnit) : Block := { b with die := { b.die with taps := f b.die.taps } }

/-- Change the tap port of region `p`. -/
def Block.modPort (b : Block) (p : Nat) (f : TapPort → TapPort) : Block :=
  b.modTaps (fun t => { t with ports := smodify (fun _ => ({} : TapPort)) t.ports p f })

/-- Region `p` of the time unit. -/
def Block.region (b : Block) (p : Nat) : Region := sget (fun _ => ({} : Region)) b.die.regions p

/-- Change region `p`. -/
def Block.modRegion (b : Block) (p : Nat) (f : Region → Region) : Block :=
  { b with die := { b.die with regions := smodify (fun _ => ({} : Region)) b.die.regions p f } }

/-- A counter of a bank. -/
def Block.counter (b : Block) (bank i : Nat) : Counter := sget (fun _ => ({} : Counter)) b.die.taps.counters (4096 * bank + i)

/-- The registers of an array that differ from reset, with their indices. -/
def Block.regsIn (b : Block) (lo n : Nat) : List (Nat × Nat) :=
  (b.regs.filter (fun e => decide (lo ≤ e.1) && decide (e.1 < lo + 4 * n))).map (fun e => ((e.1 - lo) / 4, e.2.toNat))

/-! ### The event word (R83) -/

def wordKind (w : BitVec 64) : Nat := bitsOf w.toNat 63 60
def wordRegion (w : BitVec 64) : Nat := bitsOf w.toNat 59 54
def wordTx (w : BitVec 64) : Bool := w.getLsbD 53
def wordSlot (w : BitVec 64) : Nat := bitsOf w.toNat 52 50
def wordCode (w : BitVec 64) : Nat := bitsOf w.toNat 49 38
def wordInc (w : BitVec 64) : Nat := bitsOf w.toNat 37 22
def wordCmd (w : BitVec 64) : Nat := bitsOf w.toNat 21 0

/-- An event word from its fields. -/
def mkWord (kind region code inc : Nat) : BitVec 64 :=
  BitVec.ofNat 64 (kind * 2 ^ 60 + region * 2 ^ 54 + code * 2 ^ 38 + inc * 2 ^ 22)

/-- A crossing-queue level code of a COUNT word (R84). -/
def isLevel (code : Nat) : Bool := decide (0xF80 ≤ code) && decide (code < 0xFC0)

/-- The conditions of a word's row (R82 to R84): its REGION, and the fields that its kind fixes. -/
def wordForm (p : Nat) (w : BitVec 64) : Bool :=
  let code := wordCode w
  let tx := wordTx w
  wordRegion w == p && match wordKind w with
    | 0 => decide (code < 0xF30) || isLevel code
    | 1 => !tx && wordSlot w == 0 && wordInc w == 0
    | 2 => !tx && wordSlot w == 0 && wordInc w == 0
    | 3 => tx && bitsOf code 11 8 == 0 && bitsOf (wordCmd w) 21 12 == 0
    | 4 => tx && code == 0 && wordInc w == 0 && wordCmd w == 0
    | 5 => tx && code == 0 && wordInc w == 0 && wordCmd w == 0
    | 6 => !tx && wordSlot w == 0 && decide (code < 4)
    | 10 => !tx && wordSlot w == 0 && bitsOf code 11 6 == 0
    | 11 => !tx && wordSlot w == 0 && code == 0 && wordInc w == 0 && bitsOf (wordCmd w) 21 12 == 0
    | _ => false

/-! ### Selection and counting (R87 to R99) -/

/-- The CNT_GRP_CTL word of a group. -/
def Block.grp (b : Block) (g : Nat) : Nat := (b.reg (Reg.CNT_GRP_CTL + 4 * g)).toNat

/-- The transactional groups, ascending (R91). -/
def Block.txnGroups (b : Block) : List Nat := (List.range 64).filter (fun g => bitOf (b.grp g) 28)

/-- The general counters that a word of kind, region and code matches (R87). A CODE of 0xF80 to 0xFBF bars COUNT words alone: R83 leaves the CODE of
COMMAND words free (DESIGN CHOICE, log 40). -/
def Block.matches (b : Block) (kind region code : Nat) : List Nat :=
  if kind = 0 ∧ isLevel code then []
  else ((b.regsIn Reg.CNT_SEL 4096).filter (fun e =>
    let sel := e.2
    let g := b.grp (e.1 / 64)
    let mask := bitsOf g 11 0
    bitOf sel 31 && bitOf g 31 && bitsOf sel 22 19 == kind && (bitOf sel 29 || bitsOf sel 28 23 == region) &&
      code &&& mask == bitsOf sel 11 0 &&& mask)).map (·.1)

/-- What a word adds to counter `n`: INC, or 1 when ONE is set (R87). -/
def Block.addend (b : Block) (n inc : Nat) : Nat := if b.isSet (Reg.CNT_SEL + 4 * n) 30 then 1 else inc

/-- A word counts directly in the general counters (R87, R88). -/
def Block.countGeneral (b : Block) (kind region code inc : Nat) : Block :=
  b.forEach (b.matches kind region code) (fun b n => b.addCounter 0 n (b.addend n inc))

/-- A word counts in the command-scoped counters of its region's open command (R95). -/
def Block.countScoped (b : Block) (p kind code inc cmd : Nat) : Block :=
  let c := (b.tapPort p).cmd
  if !c.opened ∨ c.tag ≠ cmd ∨ (kind = 0 ∧ isLevel code) then b
  else b.forEach ((b.regsIn Reg.CNT_CSEL 256).filter (fun e =>
      bitOf e.2 31 && bitsOf e.2 29 24 == p && bitsOf e.2 23 20 == kind && bitsOf e.2 11 0 == code))
    (fun b e => b.addCounter 2 e.1 (if bitOf e.2 30 then 1 else inc))

/-- Transaction slot `i`. -/
def Block.slot (b : Block) (i : Nat) : TxnSlot := sget (fun _ => ({} : TxnSlot)) b.die.taps.slots i

/-- Store a transaction slot. -/
def Block.setSlot (b : Block) (i : Nat) (x : TxnSlot) : Block :=
  b.modTaps (fun t => { t with slots := sput (fun _ => ({} : TxnSlot)) t.slots i x })

/-- A COUNT word with TX = 1 counts into its open slot (R88, R98). TX_WORDS counts every such word that finds the slot open, a level code and
a word that matches no counter among them: R104 says no more than 'words counted into the slot' (DESIGN CHOICE, log 40). -/
def Block.countSlot (b : Block) (p code inc i : Nat) : Block :=
  let x := b.slot i
  if !x.opened then b.flag Reg.TXN_STS 0
  else
    let groups := b.txnGroups
    let hits := (b.matches 0 p code).filterMap (fun n => (indexOf? (· == n / 64) groups 0).map (fun t => (64 * t + n % 64, b.addend n inc)))
    let add (a : TxnSlot) (e : Nat × Nat) : TxnSlot :=
      let v := sget (fun _ => 0) a.acc e.1 + e.2
      { a with acc := sput (fun _ => 0) a.acc e.1 (satTo (2 ^ 32 - 1) v), sat := a.sat || decide (2 ^ 32 - 1 < v) }
    b.setSlot i { hits.foldl add x with words := satTo (2 ^ 32 - 1) (x.words + 1) }

/-! ### Records (R104) -/

/-- A class 3 record as it leaves: a command record of a window in which a loss was seen carries LOSSY (R80). -/
def markLossy (lossy : Bool) (r : Bytes) : Bytes :=
  if lossy ∧ byteAt r 0 = 2 then r.take 3 ++ leBytes 1 (byteAt r 3 ||| 2) ++ r.drop 4 else r

/-- Send class 3 records of a context with a window index (R104). -/
def Block.sendEvents (b : Block) (c w : Nat) (lossy invalid : Bool) (rs : List Bytes) : Block :=
  if rs.isEmpty then b
  else b.sendOutput { ctx := some c, cls := 3, dest := .tray, window := w, ft := b.ft, invalid := invalid } (packRecords (rs.map (markLossy lossy)))

/-- A record waits for the class 3 frame of the window that is open. -/
def Block.keepEvents (b : Block) (c : Nat) (rs : List Bytes) (invalid : Bool) : Block :=
  b.modTaps (fun t => { t with events := sput (fun _ => []) t.events c rs,
                               eventsInvalid := if invalid then setB t.eventsInvalid c else clearB t.eventsInvalid c })

/-- Place a class 3 record of a context (R104): formed only while the context is ACTIVE or DRAINING; a record that does not fit the
open frame sends it first. In the cycle of the teardown boundary it goes into the last frames of the window that ends. `invalid` tells that
a stamp of it was taken while fleet time was not valid. -/
def Block.addEvent (b : Block) (c : Nat) (r : Bytes) (invalid : Bool) : Block :=
  let r := padTo 8 r
  let t := b.die.taps
  if !(b.ctx c).isActive then b
  else if t.closing.any (fun k => k.ctx == c && k.last) then
    b.modTaps (fun t => { t with closing := t.closing.map (fun k =>
      if k.ctx = c ∧ k.last then { k with events := k.events ++ [r], invalid := k.invalid || invalid } else k) })
  else
    let old := sget (fun _ => []) t.events c
    let was := t.eventsInvalid.getLsbD c
    if old.foldl (fun a x => a + x.length) 0 + r.length ≤ 4032 then b.keepEvents c (old ++ [r]) (was || invalid)
    else (b.sendEvents c (b.ctx c).openWin (t.lossy.getLsbD c) was old).keepEvents c [r] invalid

/-- A 48-bit value of a record. -/
def counterBytes (c : Counter) : Bytes := leBytes 6 c.v

/-- A command record of region `p` (R104): its LOSSY is set as it leaves. `invalid` tells that a stamp of it was taken while fleet time was
not valid (R37). -/
def Block.cmdRecord (b : Block) (p status : Nat) (boundary invalid : Bool) (endFt : BitVec 64) (endPc : Nat) : Bytes :=
  let c := (b.tapPort p).cmd
  let ms := ((b.regsIn Reg.CNT_CSEL 256).filter (fun e => bitOf e.2 31 && bitsOf e.2 29 24 == p)).map (·.1)
  let vs := ms.map (fun m => b.counter 2 m)
  leBytes 1 2 ++ leBytes 1 p ++ leBytes 1 status ++
    leBytes 1 (bit boundary + bit (vs.any (·.sat)) * 4 + bit invalid * 8) ++ leBytes 4 c.tag ++
    leBytes 2 c.layer ++ leBytes 2 c.operator ++ leBytes 4 (c.model + c.request * 2 ^ 20) ++ leBytes 8 c.startFt.toNat ++
    leBytes 8 endFt.toNat ++ leBytes 6 c.startPc ++ leBytes 6 endPc ++ leBytes 2 c.commits ++ leBytes 2 c.aborts ++
    leBytes 2 vs.length ++ zeros 6 ++ (vs.map counterBytes).flatten

/-- Change the command of region `p`. -/
def Block.modCmd (b : Block) (p : Nat) (f : Cmd → Cmd) : Block := b.modPort p (fun x => { x with cmd := f x.cmd })

/-- A closing command record of region `p` (R96, R97): with BOUNDARY, and in place of the interim record, when the boundary that is
being carried out has marked the region. `invalid` belongs to the closing stamp. -/
def Block.closeRecord (b : Block) (p status : Nat) (endFt : BitVec 64) (invalid : Bool) (endPc : Nat) : Block :=
  let due := b.die.taps.due.any (fun e => e.1 == p)
  let bad := (b.tapPort p).cmd.startInvalid || invalid
  let r := b.cmdRecord p status due bad endFt endPc
  (b.modTaps (fun t => { t with due := t.due.filter (fun e => e.1 != p) })).addEvent (b.fld Reg.CNT_CMD_CTL 2 0) r bad

/-- A transaction record (R104), sent when TXN_CTL.REC is set. -/
def Block.txnRecord (b : Block) (i verdict region : Nat) (ft : BitVec 64) (invalid : Bool) : Block :=
  let x := b.slot i
  if !b.isSet Reg.TXN_CTL 3 then b
  else b.addEvent (b.fld Reg.TXN_CTL 2 0) (leBytes 1 3 ++ leBytes 1 i ++ leBytes 1 verdict ++ leBytes 1 x.cls ++
    leBytes 2 x.request ++ leBytes 1 x.region ++ leBytes 1 region ++ leBytes 8 x.openFt.toNat ++ leBytes 8 ft.toNat ++
    leBytes 4 x.words ++ leBytes 4 (bit x.sat)) (x.openInvalid || invalid)

/-! ### Verdicts (R98 to R101) -/

/-- The commands open for a request count a verdict of its slots (R104). -/
def Block.countVerdict (b : Block) (request : Nat) (commit : Bool) : Block :=
  b.forEach ((List.range 64).filter (fun p => (b.tapPort p).cmd.opened && (b.tapPort p).cmd.request == request)) (fun b p =>
    b.modCmd p (fun c => if commit then { c with commits := satTo 65535 (c.commits + 1) }
                         else { c with aborts := satTo 65535 (c.aborts + 1) }))

/-- Commit an open slot (R98): each accumulator adds to its general counter. The slot is empty then, and the fields of TXN_SLOT read zero (R105
says nothing of them once a slot has closed; DESIGN CHOICE, log 40). -/
def Block.commitSlot (b : Block) (i region : Nat) (ft : BitVec 64) (invalid : Bool) : Block :=
  let x := b.slot i
  let groups := b.txnGroups
  let b := b.txnRecord i 0 region ft invalid
  let b := b.forEach x.acc (fun b e => match groups[e.1 / 64]? with
    | some g => b.addCounter 0 (64 * g + e.1 % 64) e.2
    | none => b)
  (((b.setSlot i {}).countVerdict x.request true).count Reg.TXN_COMMITS 1).lightAdd 61 1

/-- Abort an open slot to slag with a verdict: 1 ABORT, 2 CANCELLED, 3 ABORTED (R98, R100, R101). -/
def Block.abortSlot (b : Block) (i verdict region : Nat) (ft : BitVec 64) (invalid : Bool) : Block :=
  let x := b.slot i
  let b := b.txnRecord i verdict region ft invalid
  let b := b.forEach x.acc (fun b e => b.addCounter 3 e.1 e.2)
  let b := ((b.setSlot i {}).countVerdict x.request false).lightAdd 62 1
  if verdict = 2 then b else b.count Reg.TXN_ABORTS 1

/-- Abort every open slot to slag with verdict ABORTED, ascending (R100). -/
def Block.abortSlots (b : Block) : Block :=
  b.forEach ((List.range 8).filter (fun i => (b.slot i).opened)) (fun b i => b.abortSlot i 3 0xFF b.ft (!b.time.valid))

/-- A CANCEL of a request (R101): its slots, then its commands. Light counter 63 counts each command that it closes, also where its record is
discarded because the context of CNT_CMD_CTL.CTX is not active: R93 says 'command records closed' (DESIGN CHOICE, log 40). -/
def Block.cancelRequest (b : Block) (p request : Nat) (ft : BitVec 64) (invalid : Bool) : Block :=
  let b := b.forEach ((List.range 8).filter (fun i => (b.slot i).opened && (b.slot i).request == request))
    (fun b i => b.abortSlot i 2 p ft invalid)
  let b := b.forEach ((List.range 64).filter (fun q => (b.tapPort q).cmd.opened && (b.tapPort q).cmd.request == request))
    (fun b q => ((b.closeRecord q 2 ft invalid (b.tapPort q).latestPc).modPort q (fun x =>
      { x with cmd := { x.cmd with opened := false }, cancelledTag := some x.cmd.tag })).lightAdd 63 1)
  b.count Reg.TXN_CANCELS 1

/-! ### Digests (R86, R298) -/

/-- The light counter that WIT_LOAD names. -/
def Block.loadCounter (b : Block) : Nat := (b.counter 1 (b.fld Reg.WIT_LOAD 13 8)).v

/-- The load meter in a cycle (R298). A change of WIT_LOAD starts anew: LOAD is missing until a period that ran whole under the new CNT and
PER is complete (DESIGN CHOICE, log 23). -/
def Block.loadTick (b : Block) : Block :=
  let cfg := b.fld Reg.WIT_LOAD 13 0
  let period := b.time.cycles / 2 ^ (b.fld Reg.WIT_LOAD 3 0 + 12)
  let m := b.die.load
  let put (m : LoadMeter) : Block := { b with die := { b.die with load := m } }
  if cfg ≠ m.cfg then put { cfg := cfg, period := period, start := none, last := none }
  else if period = m.period then b
  else put { m with period := period, start := some b.loadCounter, last := m.start.map (fun s => satTo (2 ^ 32 - 1) (b.loadCounter - s)) }

/-- A sensor sample of a digest record: its code, and whether it is missing. -/
def Block.digestSample (b : Block) (ch : Nat) : Nat × Bool :=
  match b.sensorNow ch with | some v => (v, false) | none => (0, true)

/-- A digest of region `p` on witness channel `c` (R298): sent as a digest record, or discarded and counted. -/
def Block.presentDigest (b : Block) (c p cmd digest : Nat) (tap : Bool) (stamp : BitVec 64) (invalid : Bool) : Block :=
  if b.hushed then b else
  let b := b.lightAdd 56 1
  let cfg := Reg.WIT_DCH + 4 * c
  let ctx := b.fld cfg 26 24
  if !b.isSet cfg 31 ∨ (b.ctx ctx).phase ≠ .active then (b.count Reg.WIT_DDROP 1).flag Reg.WIT_DSTS 0
  else
    let b := b.loadTick
    let t := b.digestSample (b.fld cfg 4 0)
    let v := b.digestSample (b.fld cfg 12 8)
    let m := b.digestSample (b.fld cfg 20 16)
    let body := leBytes 4 (b.ctx ctx).rank ++ leBytes 1 (c + bit tap * 8) ++ leBytes 1 p ++ zeros 2 ++ leBytes 4 cmd ++
      leBytes 8 stamp.toNat ++ leBytes 16 digest ++ leBytes 2 t.1 ++ leBytes 2 v.1 ++ leBytes 2 m.1 ++
      leBytes 1 (bit t.2 + bit v.2 * 2 + bit m.2 * 4 + bit b.die.load.last.isNone * 8) ++ zeros 1 ++
      leBytes 4 (b.die.load.last.getD 0)
    (b.sendControl (some ctx) .tray 0x0301 body none invalid).count Reg.WIT_DSENT 1

/-- WITNESS_DIGEST (R298): a digest on the witness port. -/
def execWitnessDigest (c : Fin 8) (region : Fin 64) (cmd : BitVec 22) (digest : BitVec 128) (s : State) :
    Host.Outcome State Fault Refusal :=
  onDie (fun b => b.presentDigest c region cmd.toNat digest.toNat false (b.arrivalStamp region) (!b.time.valid)) s

/-- The assembly of a region and a channel. -/
def Block.assembly (b : Block) (p c : Nat) : Assembly := sget (fun _ => ({} : Assembly)) b.die.taps.assemblies (8 * p + c)

/-- Store an assembly. -/
def Block.setAssembly (b : Block) (p c : Nat) (x : Assembly) : Block :=
  b.modTaps (fun t => { t with assemblies := sput (fun _ => ({} : Assembly)) t.assemblies (8 * p + c) x })

/-- A part that is out of its order, or of another command (R86). -/
def Block.partBad (b : Block) (p : Nat) (w : BitVec 64) : Bool :=
  let i := bitsOf (wordCode w) 2 0
  let a := b.assembly p (bitsOf (wordCode w) 5 3)
  i != 0 && !(a.parts == i && a.cmd == wordCmd w)

/-- A DIGEST_PART (R86); part 7 is stamped in the cycle in which it is processed (R298), and its digest leaves at the end of that cycle, behind
one that the witness port brings on its channel (R477). -/
def Block.digestPart (b : Block) (p : Nat) (w : BitVec 64) : Block :=
  let i := bitsOf (wordCode w) 2 0
  let c := bitsOf (wordCode w) 5 3
  let a := b.assembly p c
  if i = 0 then b.setAssembly p c { parts := 1, cmd := wordCmd w, value := wordInc w }
  else
    let v := a.value + wordInc w * 2 ^ (16 * i)
    if i = 7 then
      let due := (c, p, a.cmd, v, b.arrivalStamp p, !b.time.valid)
      (b.setAssembly p c {}).modTaps (fun t => { t with digests := t.digests ++ [due] })
    else b.setAssembly p c { a with parts := i + 1, value := v }

/-! ### Words dequeued (R79 to R84, R96) -/

/-- Slip of an event of region `p` (R58), saturated to 32 bits; the first event after a start or a RESUME is the anchor. -/
def Block.slipEvent (b : Block) (p : Nat) (w : TapWord) : Block :=
  let r := b.region p
  let reg := Reg.TIM_SLIP + 4 * p
  if !r.anchored then
    (b.modRegion p (fun r => { r with anchored := true, anchorStamp := w.stamp, anchorPc := w.pc, freshEvent := true })).setReg reg 0
  else
    let run : Int := (((w.pc.toNat : Int) - r.anchorPc.toNat) * b.oppPeriod r.opp) / 2 ^ 20
    let slip := (w.stamp - (r.anchorStamp + BitVec.ofInt 64 run)).toInt
    (b.modRegion p (fun r => { r with freshEvent := true })).setReg reg (BitVec.ofInt 32 (sat32 slip))

/-- A word is discarded (R83). -/
def Block.tapError (b : Block) : Block := ((b.count Reg.TAP_ERR 1).flag Reg.TAP_STS 1).lightAdd 49 1

/-- A word that the state of its region or slot makes the unit discard (R86, R96, R98), beside the conditions of its row. -/
def Block.wordRefused (b : Block) (p : Nat) (w : BitVec 64) : Bool :=
  match wordKind w with
  | 2 => let x := b.tapPort p
         !(x.cmd.opened && x.cmd.tag == wordCmd w) && x.cancelledTag != some (wordCmd w)
  | 3 => (b.slot (wordSlot w)).opened
  | 4 => !(b.slot (wordSlot w)).opened
  | 5 => !(b.slot (wordSlot w)).opened
  | 10 => b.partBad p w
  | _ => false

/-- What a refused word leaves (R86, R98). -/
def Block.refuseWord (b : Block) (p : Nat) (w : BitVec 64) : Block :=
  match wordKind w with
  | 3 => b.flag Reg.TXN_STS 1
  | 4 => b.flag Reg.TXN_STS 1
  | 5 => b.flag Reg.TXN_STS 1
  | 10 => b.setAssembly p (bitsOf (wordCode w) 5 3) {}
  | _ => b

/-- Change the trigger engine. -/
def Block.modTrig (b : Block) (f : TriggerUnit → TriggerUnit) : Block := { b with die := { b.die with trig := f b.die.trig } }

/-- A crossing-queue level (R85, R262); accepted and ignored while XQ_EN is 0. -/
def Block.queueLevel (b : Block) (n level : Nat) : Block :=
  if !b.isSet Reg.TAP_CTL 3 then b
  else
    let b := b.modTrig (fun t => { t with levels := sput (fun _ => 0) t.levels n (level + 1) })
    let r := Reg.TAP_XQ + 4 * n
    (b.setFld r 31 16 (max (b.fld r 31 16) level)).setFld r 15 0 (min (b.fld r 15 0) level)

/-- The effect of a COUNT word (R84, R88, R93, R95). A level word that R85 has ignored while XQ_EN is 0 changes no queue; the counts that every
COUNT word of its kind takes part in go on (DESIGN CHOICE, log 40). -/
def Block.countWord (b : Block) (p : Nat) (w : BitVec 64) : Block :=
  let code := wordCode w
  let b := if 0xF00 ≤ code ∧ code < 0xF30 then b.lightAdd (code - 0xF00) (wordInc w) else b
  let b := if isLevel code then b.queueLevel (code - 0xF80) (wordInc w) else b
  if wordTx w then b.countSlot p code (wordInc w) (wordSlot w)
  else
    let c := (b.tapPort p).cmd
    let b := b.countGeneral 0 p code (wordInc w)
    if c.opened ∧ c.tag ≠ wordCmd w then (b.count Reg.TAP_CMD_MISMATCH 1).flag Reg.TAP_STS 2
    else b.countScoped p 0 code (wordInc w) (wordCmd w)

/-- The effect of a word that is not discarded, by its kind (R83). -/
def Block.wordEffect (b : Block) (p : Nat) (w : TapWord) : Block :=
  let v := w.word
  let b := match wordKind v with
    | 0 => b
    | k => let b := b.countGeneral k p (wordCode v) (wordInc v)
           if wordTx v then b else b.countScoped p k (wordCode v) (wordInc v) (wordCmd v)
  match wordKind v with
  | 0 => b.countWord p v
  | 2 =>
    if (b.tapPort p).cmd.opened && (b.tapPort p).cmd.tag == wordCmd v then
      (b.closeRecord p 0 w.stamp w.invalid w.pc.toNat).modCmd p (fun c => { c with opened := false })
    else b
  | 3 => b.setSlot (wordSlot v) { opened := true, cls := wordCode v % 256, request := wordCmd v, region := p, openFt := w.stamp,
                                  openInvalid := w.invalid }
  | 4 => b.commitSlot (wordSlot v) p w.stamp w.invalid
  | 5 => b.abortSlot (wordSlot v) 1 p w.stamp w.invalid
  | 6 => b.tracePower p (wordCode v) w.stamp
  | 10 => b.digestPart p v
  | 11 => b.cancelRequest p (wordCmd v) w.stamp w.invalid
  | _ => b

/-- Port `p` is enabled (R82). -/
def Block.portEnabled (b : Block) (p : Nat) : Bool := b.maskBit Reg.TAP_EN_LO p

/-- One word of port `p` that is no second word (R82, R83, R119, R120): a disabled port counts discards and light codes only; a
word in its row acts; the trace unit sees the word either way. On a disabled port the discards that hang on the state of a slot, command or
assembly are not looked for: nothing of that state is touched there (DESIGN CHOICE, log 40). -/
def Block.processWord (b : Block) (p : Nat) (w : TapWord) : Block :=
  let v := w.word
  let good := wordForm p v
  let code := wordCode v
  if !b.portEnabled p then
    if !good then b.tapError
    else if wordKind v = 0 ∧ 0xF00 ≤ code ∧ code < 0xF30 then b.lightAdd (code - 0xF00) (wordInc v) else b
  else
    let refused := good && b.wordRefused p v
    let b := b.triggerSeen (2 * bit (b.eventMatch 0 (wordKind v) code)) (2 * bit (b.eventMatch 1 (wordKind v) code))
    let b :=
      if !good then b.tapError
      else if refused then (b.refuseWord p v).tapError
      else ((b.modPort p (fun x => { x with latestPc := w.pc.toNat })).slipEvent p w).wordEffect p w
    b.traceEvent p v (some w.pc.toNat) w.stamp (!good || refused)

/-- The second word of a COMMAND_START (R81, R96, R97): it closes an open command as UNENDED, sets the region's command-scoped
counters to zero, which keeps their SAT (R89), and opens the new command. After a discarded first word, or where the port was disabled for
either word, it has no effect. It has no KIND: it counts in no counter and is no EVENT (DEDUCED, log 40). -/
def Block.secondWord (b : Block) (p : Nat) (first : TapWord) (acts : Bool) (w : BitVec 64) : Block :=
  let b := b.modPort p (fun x => { x with first := none })
  if !acts ∨ !b.portEnabled p then b
  else
    let b := if (b.tapPort p).cmd.opened then b.closeRecord p 1 first.stamp first.invalid first.pc.toNat else b
    let sel (k : Nat) : Bool := decide (8192 ≤ k) && decide (k < 8448) && b.fld (Reg.CNT_CSEL + 4 * (k - 8192)) 29 24 == p
    let b := b.modTaps (fun t => { t with counters := t.counters.filterMap (fun e =>
      if !sel e.1 then some e else if e.2.sat then some (e.1, { e.2 with v := 0 }) else none) })
    let v := w.toNat
    let c : Cmd := { opened := true, tag := wordCmd first.word, layer := bitsOf v 63 48, operator := bitsOf v 47 32,
                     model := bitsOf v 31 12, request := bitsOf v 11 0, startFt := first.stamp, startInvalid := first.invalid,
                     startPc := first.pc.toNat }
    b.modCmd p (fun _ => c)

/-- A word that Borlu-D inserts for region `p`: counted by selection and seen by the trace unit, unless the port of the region is
disabled (R82); it has no plan cycle. -/
def Block.insertWord (b : Block) (p : Nat) (word : BitVec 64) (stamp : BitVec 64) : Block :=
  if !b.portEnabled p then b else
  let k := wordKind word
  let b := b.countGeneral k p (wordCode word) (wordInc word)
  (b.countScoped p k (wordCode word) (wordInc word) (wordCmd word)).traceEvent p word none stamp false

/-- The number that a 4-bit Gray code stands for. -/
def grayValue (g : BitVec 4) : Nat := (g ^^^ (g >>> 1) ^^^ (g >>> 2) ^^^ (g >>> 3)).toNat

/-- A run of stretches of region `p` ends: STRETCH is inserted when TIM_CTL.STRETCH_EV is set (R59). -/
def Block.endStretchRun (b : Block) (p : Nat) : Block :=
  let n := (b.region p).run
  if n = 0 then b
  else
    let b := b.modRegion p (fun r => { r with run := 0 })
    if b.isSet Reg.TIM_CTL 10 then b.insertWord p (mkWord 7 p 0 (satTo 0xFFFF n)) (b.arrivalStamp p) else b

/-- The runs of stretches of the regions `sel` to which this cycle has added none are over (R59). A sample that shows new stretches comes before
the words of its cycle (DESIGN CHOICE, log 40). -/
def Block.endRuns (b : Block) (sel : Nat → Bool) : Block :=
  b.forEach ((b.die.regions.filter (fun e => e.2.run != 0 && decide (e.2.runCycle < b.time.cycles) && sel e.1)).map Prod.fst)
    Block.endStretchRun

/-- Dequeue and process the head entry of port `p` (R79, R81). -/
def Block.dequeueWord (b : Block) (p : Nat) : Block :=
  match (b.tapPort p).queue with
  | [] => b
  | w :: rest =>
    let b := b.modPort p (fun x => { x with queue := rest })
    match (b.tapPort p).first with
    | some (f, acts) => b.secondWord p f acts w.word
    | none =>
      let acts : Bool := b.portEnabled p && wordForm p w.word
      let b := b.processWord p w
      if wordKind w.word = 1 then b.modPort p (fun x => { x with first := some (w, acts) }) else b

/-- The head of port `p` is a word of one of the kinds that is no second word. -/
def Block.headKind (b : Block) (p : Nat) (kinds : List Nat) : Bool :=
  match (b.tapPort p).queue with
  | [] => false
  | w :: _ => (b.tapPort p).first.isNone && wordKind w.word ∈ kinds

/-- The word of port `p` of a cycle, in ascending port order: a STRETCH that is due for a region below `p` comes before it, that of region `p`
directly after it (R102). -/
def Block.portWord (b : Block) (p : Nat) : Block := ((b.endRuns (fun q => decide (q < p))).dequeueWord p).endRuns (fun q => q == p)

/-- Dequeue the head word of port `p` when its kind is one of the given. -/
def Block.onTap (b : Block) (p : Nat) (kinds : List Nat) : Block := b.when (b.headKind p kinds && !b.asleep) (fun b => b.portWord p)

/-- TAP_COUNT (R87). Words of kinds that no tap may send are dequeued here and discarded (R83). -/
def execTapCount (p : Fin 64) (s : State) : Host.Outcome State Fault Refusal :=
  onDie (fun b => b.onTap p [0, 7, 8, 9, 12, 13, 14, 15]) s

/-- TAP_COMMAND_START (R96): the first word, when it is still in the queue, and the second word. -/
def execTapCommandStart (p : Fin 64) (s : State) : Host.Outcome State Fault Refusal :=
  onDie (fun b =>
    let b := b.onTap p [1]
    b.when ((b.tapPort p).first.isSome && !b.asleep) (fun b => b.portWord p)) s

/-- TAP_COMMAND_END (R96). -/
def execTapCommandEnd (p : Fin 64) (s : State) : Host.Outcome State Fault Refusal := onDie (fun b => b.onTap p [2]) s

/-- TAP_TXN_OPEN (R98). -/
def execTapTxnOpen (p : Fin 64) (s : State) : Host.Outcome State Fault Refusal := onDie (fun b => b.onTap p [3]) s

/-- TAP_TXN_COMMIT (R98). -/
def execTapTxnCommit (p : Fin 64) (s : State) : Host.Outcome State Fault Refusal := onDie (fun b => b.onTap p [4]) s

/-- TAP_TXN_ABORT (R98). -/
def execTapTxnAbort (p : Fin 64) (s : State) : Host.Outcome State Fault Refusal := onDie (fun b => b.onTap p [5]) s

/-- TAP_POWER (R83). -/
def execTapPower (p : Fin 64) (s : State) : Host.Outcome State Fault Refusal := onDie (fun b => b.onTap p [6]) s

/-- TAP_DIGEST_PART (R86). -/
def execTapDigestPart (p : Fin 64) (s : State) : Host.Outcome State Fault Refusal := onDie (fun b => b.onTap p [10]) s

/-- TAP_CANCEL (R101). -/
def execTapCancel (p : Fin 64) (s : State) : Host.Outcome State Fault Refusal := onDie (fun b => b.onTap p [11]) s

/-! ### The queue (R79 to R81) -/

/-- `n` entries written into a full queue are lost (R80); nothing counts in RETAIN and OFF (R451). -/
def Block.tapLost (b : Block) (p n : Nat) : Block :=
  if b.asleep then b else
  let b := b.modTrig (fun t => { t with losses := smodify (fun _ => 0) t.losses p (· + n) })
  (((b.count (Reg.TAP_LOSS + 4 * p) n).flag Reg.TAP_STS 0).lightAdd 48 n).modTaps (fun t => { t with lossy := BitVec.allOnes 9 })

/-- An entry enters the queue of port `p`. -/
def Block.tapPut (b : Block) (p : Nat) (w : TapWord) (second : Nat) : Block :=
  let b := b.modPort p (fun x => { x with queue := x.queue ++ [w], writeSecond := second })
  b.raiseF (Reg.TAP_QHWM + 4 * p) 4 0 (b.tapPort p).queue.length

/-- A region writes one entry into its tap queue (R79 to R81). What it writes in RETAIN or OFF is lost (R453). -/
def Block.tapWrite (b : Block) (p : Nat) (word : BitVec 64) (pc : BitVec 48) : Block :=
  if !b.settled || b.asleep then b else
  let x := b.tapPort p
  let w : TapWord := ⟨word, pc, b.arrivalStamp p, !b.time.valid⟩
  match x.writeSecond with
  | 1 => b.tapPut p w 0
  | 2 => b.modPort p (fun x => { x with writeSecond := 0 })
  | _ =>
    if wordKind word = 1 then
      if x.queue.length + 2 ≤ 16 then b.tapPut p w 1
      else (b.tapLost p 2).modPort p (fun x => { x with writeSecond := 2 })
    else if x.queue.length < 16 then b.tapPut p w 0
    else b.tapLost p 1

/-- TAP_ENTRY_WRITE (R79). -/
def execTapEntryWrite (p : Fin 64) (word : BitVec 64) (pc : BitVec 48) (s : State) : Host.Outcome State Fault Refusal :=
  onDie (fun b => b.tapWrite p word pc) s

/-! ### Inserted words (R59, R60) -/

/-- One BCLK sample of a region's Gray-coded stretch count (R59). Up to seven new stretches are counted exactly; of more, fewer
than occurred are counted: how many is a free value (log 4). A sample without a change ends the run. In RETAIN and OFF nothing counts,
and the count is followed only (R451). -/
def Block.stretchSample (b : Block) (p : Nat) (gray : BitVec 4) : Block :=
  let d := (grayValue gray + 16 - grayValue (b.region p).gray) % 16
  let b := b.modRegion p (fun r => { r with gray := gray })
  if b.hushed then b
  else if d = 0 then b.endStretchRun p
  else
    let (n, b) := if d ≤ 7 then (d, b) else (let (v, b) := b.freeNat; (v % d, b))
    ((b.count (Reg.TIM_STR_CNT + 4 * p) n).lightAdd 52 n).modRegion p (fun r => { r with run := r.run + n, runCycle := b.time.cycles })

/-- REGION_STRETCH (R59). -/
def execRegionStretch (p : Fin 64) (gray : BitVec 4) (s : State) : Host.Outcome State Fault Refusal :=
  onDieLevel (fun b => b.modRegion p (fun r => { r with gray := gray })) (fun b => b.stretchSample p gray) s

/-- REGION_STOP_RISE (R60, R126): STOPPED is set, and the STOP word follows. -/
def execRegionStopRise (p : Fin 64) (s : State) : Host.Outcome State Fault Refusal :=
  onDie (fun b =>
    let stamp := b.arrivalStamp p
    ((b.modRegion p (fun r => { r with stopAt := some stamp })).modTraceRegion p (fun r => { r with stopped := true })).insertWord p
      (mkWord 8 p 0 0) stamp) s

/-- The trace unit at a RESUME (R126): an event sync of CAUSE 1 with the operating point that was reported, and STOPPED is cleared after it:
the sync still shows it (DESIGN CHOICE, log 42). A suppressed region is frozen. -/
def Block.traceResume (b : Block) (p n : Nat) (stamp : BitVec 64) : Block :=
  if b.die.trace.suppressed.getLsbD p then b.modTraceRegion p (fun r => { r with stopped := false })
  else
    let b := b.modTraceRegion p (fun r => { r with n := n })
    let b := if b.encodes p then (b.placeBefore p stamp).eventSync p 1 stamp else b
    b.modTraceRegion p (fun r => { r with stopped := false })

/-- REGION_STOP_FALL (R60, R126): the RESUME, a word with the operating point and a second word with the stopped span, which counts in
light counter 53 in units of 1,024 ticks. A second word has no KIND: it counts in no counter and is no EVENT (DEDUCED, log 40). -/
def execRegionStopFall (p : Fin 64) (opp : BitVec 4) (s : State) : Host.Outcome State Fault Refusal :=
  onDie (fun b =>
    match (b.region p).stopAt with
    | none => b
    | some rise =>
      let stamp := b.arrivalStamp p
      let span := (stamp - rise).toNat
      let first := mkWord 9 p opp.toNat 0
      let b := b.modRegion p (fun r => { r with stopAt := none, anchored := false, opp := opp.toNat, resume := some (first, stamp - rise) })
      ((b.lightAdd 53 (span / 1024)).traceResume p opp.toNat stamp).insertWord p first stamp) s

/-! ### Pair samples (R62) -/

/-- The slip of a region's latest event, as a signed number. -/
def Block.slipOf (b : Block) (p : Nat) : Int := (b.reg (Reg.TIM_SLIP + 4 * p)).toInt

/-- A value enters a pair's sieve of one side. -/
def Block.pairEnter (b : Block) (n : Nat) (late : Bool) (v : Nat) : Block :=
  let shift := b.fld Reg.TIM_PAIR_CTL 8 4
  let f (s : Sieve) : Sieve := Sieve.enter { s with shift := shift, n := 1 } v
  if late then { b with die := { b.die with pairLate := smodify (fun _ => ({} : Sieve)) b.die.pairLate n f } }
  else { b with die := { b.die with pairLead := smodify (fun _ => ({} : Sieve)) b.die.pairLead n f } }

/-- Sample every enabled pair (R62). -/
def Block.samplePairs (b : Block) : Block :=
  let b := b.forEach (b.regsIn Reg.TIM_PAIR 64) (fun b e =>
    let src := bitsOf e.2 5 0
    let dst := bitsOf e.2 13 8
    if !bitOf e.2 31 then b
    else if !(b.region src).freshEvent ∨ !(b.region dst).freshEvent then b.count Reg.TIM_PAIR_SKIP 1
    else
      let l := b.slipOf dst - b.slipOf src
      let b := if 0 ≤ l then b.pairEnter e.1 true l.toNat else b
      if l ≤ 0 then b.pairEnter e.1 false (-l).toNat else b)
  { b with die := { b.die with regions := b.die.regions.map (fun e => (e.1, { e.2 with freshEvent := false })) } }

/-- PAIR_SAMPLE (R62): 2^m cycles have passed since the latest sample. -/
def execPairSample (s : State) : Host.Outcome State Fault Refusal :=
  onDie (fun b =>
    let i := b.time.cycles / 2 ^ (b.fld Reg.TIM_PAIR_CTL 3 0 + 8)
    b.when (i != b.die.pairCycle) (fun b => { b.samplePairs with die := { b.samplePairs.die with pairCycle := i } })) s

/-! ### Clearing counters (R105) -/

/-- A group is bound to context `c` (R90); 8 stands for the fleet context. -/
def Block.boundTo (b : Block) (g c : Nat) : Bool := if bitOf (b.grp g) 27 then c == 8 else c == bitsOf (b.grp g) 26 24

/-- The context of a group. -/
def Block.grpCtx (b : Block) (g : Nat) : Nat := if bitOf (b.grp g) 27 then 8 else bitsOf (b.grp g) 26 24

/-- Set counters of a bank to zero: `n` from `i` on; their increases for the trigger engine count from the clear (R262). -/
def Block.clearCounters (b : Block) (bank i n : Nat) : Block :=
  let lo := 4096 * bank + i
  let out (k : Nat) : Bool := !(decide (lo ≤ k) && decide (k < lo + n))
  (b.modTaps (fun t => { t with counters := t.counters.filter (fun e => out e.1) })).modTrig
    (fun t => { t with counts := t.counts.filter (fun e => out e.1) })

/-- A CNT_CLR is accepted (R105). -/
def Block.clearAllowed (b : Block) (bank group : Nat) : Bool :=
  match bank with
  | 0 => !(b.ctx (b.grpCtx group)).isActive
  | 2 => !(b.ctx (b.fld Reg.CNT_CMD_CTL 2 0)).isActive
  | 3 => decide (group < 8) && (match b.txnGroups[group]? with | some g => !(b.ctx (b.grpCtx g)).isActive | none => true)
  | _ => false

/-- A write of CNT_CLR (R105). -/
def Block.writeCntClr (b : Block) (v : Word) : Block :=
  let bank := bitsOf v.toNat 30 28
  let group := bitsOf v.toNat 5 0
  if !v.getLsbD 31 then b
  else if !b.clearAllowed bank group then b.flag Reg.CNT_STS 4
  else match bank with
    | 2 => b.clearCounters 2 0 256
    | _ => b.clearCounters bank (64 * group) 64

/-! ### Window boundaries (R102) -/

/-- A counter record (R104): 64 counters of a bank from `i` on. -/
def Block.counterRecord (b : Block) (bank group flags i : Nat) : Bytes :=
  let cs := (List.range 64).map (fun j => b.counter bank (i + j))
  leBytes 1 1 ++ leBytes 1 ((match bank with | 1 => 1 | 3 => 2 | _ => 0) * 64 + group) ++ leBytes 2 flags ++ zeros 4 ++
    leBytes 8 ((List.range 64).foldl (fun a j => a + bit (b.counter bank (i + j)).sat * 2 ^ j) 0) ++ (cs.map counterBytes).flatten

/-- Snapshot one group, with its slag counters when it is transactional, and clear them when CLEAR is set (R90, R91). -/
def Block.snapGroup (b : Block) (flags g : Nat) : List Bytes × List Bytes × Block :=
  let clear := bitOf (b.grp g) 29
  let flags := flags + bit clear * 4
  let slag := indexOf? (· == g) b.txnGroups 0
  let rs := [b.counterRecord 0 g flags (64 * g)]
  let ss := match slag with | some t => [b.counterRecord 3 t flags (64 * t)] | none => []
  let b' := if clear then
      let b := b.clearCounters 0 (64 * g) 64
      match slag with | some t => b.clearCounters 3 (64 * t) 64 | none => b
    else b
  (rs, ss, b')

/-- Snapshot the groups of a context with SNAP set (R90). -/
def Block.snapGroups (b : Block) (flags c : Nat) : List Bytes × Block :=
  let gs := (List.range 64).filter (fun g => bitOf (b.grp g) 30 && b.boundTo g c)
  let (rs, ss, b) := gs.foldl (fun (a : List Bytes × List Bytes × Block) g =>
    let (r, s, b) := a.2.2.snapGroup flags g
    (a.1 ++ r, a.2.1 ++ s, b)) ([], [], b)
  (rs ++ ss, b)

/-- The crossing-queue record (R104), and the marks reset (R85). -/
def Block.snapQueues (b : Block) (flags : Nat) : Bytes × Block :=
  let words := (List.range 64).map (fun n => leBytes 4 (b.reg (Reg.TAP_XQ + 4 * n)).toNat)
  (leBytes 1 4 ++ zeros 1 ++ leBytes 2 (flags % 4) ++ zeros 4 ++ words.flatten,
    b.forEach (List.range 64) (fun b n => b.setReg (Reg.TAP_XQ + 4 * n) 0x0000FFFF))

/-- A pair sieve record (R104). -/
def pairRecord (n side flags : Nat) (s : Sieve) : Bytes :=
  let (_, body, _) := s.store
  padTo 8 (leBytes 1 5 ++ leBytes 1 (n + side * 64) ++ leBytes 2 flags ++ leBytes 4 body.length ++ zeros 8 ++ body)

/-- The pair sieve records of every enabled pair, and the sieves cleared (R62). -/
def Block.snapPairs (b : Block) (flags : Nat) : List Bytes × Block :=
  let shift := b.fld Reg.TIM_PAIR_CTL 8 4
  let get (t : Sparse Sieve) (n : Nat) : Sieve := { sget (fun _ => ({} : Sieve)) t n with shift := shift, n := 1 }
  let on := (b.regsIn Reg.TIM_PAIR 64).filter (fun e => bitOf e.2 31)
  ((on.map (fun e => [pairRecord e.1 0 flags (get b.die.pairLate e.1), pairRecord e.1 1 flags (get b.die.pairLead e.1)])).flatten,
    { b with die := { b.die with pairLate := [], pairLead := [] } })

/-- The SENSOR record of a boundary (R455), from the samples taken in its cycle. -/
def Block.sensorBody (b : Block) (w : Nat) : Bytes :=
  let chs := List.range 32
  leBytes 5 w ++ zeros 3 ++ leBytes 4 (chs.foldl (fun a ch => a + bit (b.sensorNow ch).isSome * 2 ^ ch) 0) ++
    (chs.map (fun ch => leBytes 2 (b.fld (Reg.PWR_SNS_VAL + 4 * ch) 15 0))).flatten ++
    leBytes 16 (chs.foldl (fun a ch => a + b.sensorKind ch * 16 ^ ch) 0) ++ zeros 4

/-- The interim records that a boundary of the command context makes due: a record of status OPEN for every region with an open
command (R96, R102). Its END_FT is the boundary FT `at_` (R42, R104; DEDUCED, log 40). -/
def Block.markInterim (b : Block) (at_ : BitVec 64) : Block :=
  let ps := (List.range 64).filter (fun p => (b.tapPort p).cmd.opened)
  b.modTaps (fun t => { t with due := ps.map (fun p =>
    (p, padTo 8 (b.cmdRecord p 3 false (b.tapPort p).cmd.startInvalid at_ (b.tapPort p).latestPc))) })

/-- A window boundary of a context of Borlu-D (R102): the aborts of a teardown, snapshots, interim marks, queue marks, the flush of the
trace loaf (R115, R116). The words of the cycle follow, those of `ports` here in ascending port order; the interim records that are then
left and the frames of the window that ends leave at the end of the cycle. Of the class 2 records of one boundary, the general groups come first,
then slag, light, crossing queues and pairs (R104 states no order; DESIGN CHOICE, log 40). -/
def Block.windowBoundary (b : Block) (c : Nat) (ports : List Nat) : Block :=
  let x := b.ctx c
  let w := x.openWin
  let now := windowOf x.k b.ft
  let skipped := decide (1 < windowDiff now w)
  let last : Bool := match x.lastWin with | some l => decide (0 < windowDiff now l) | none => false
  let b := if last ∧ c = b.fld Reg.TXN_CTL 2 0 then b.abortSlots else b
  let lossy := b.die.taps.lossy.getLsbD c
  let flags := bit lossy + bit (!b.time.valid) * 2 + bit skipped * 8
  let (rs, b) := b.snapGroups flags c
  let rs := if c = 8 then rs ++ [b.counterRecord 1 0 flags 0] else rs
  let interim : Bool := c == b.fld Reg.CNT_CMD_CTL 2 0
  let b := if interim then b.markInterim (windowEnd x.k b.ft w) else b
  let (qs, b) := if c = b.fld Reg.TAP_CTL 2 0 then
      let (q, b) := b.snapQueues flags
      let (ps, b) := b.snapPairs flags
      (q :: ps, b)
    else ([], b)
  let b := (b.modTaps (fun t => { t with
      closing := t.closing ++ [{ ctx := c, window := w, recs := rs ++ qs, events := sget (fun _ => []) t.events c, lossy := lossy,
                                 invalid := t.eventsInvalid.getLsbD c, interim := interim, sensor := x.phase == .active, last := last }],
      events := sput (fun _ => []) t.events c [], eventsInvalid := clearB t.eventsInvalid c, lossy := clearB t.lossy c })).modCtx c
    (fun x => { x with openWin := now })
  let b := if c = b.fld Reg.TRC_CTL 25 23 then
      let win := b.fld Reg.TRC_TRG_WIN_LO 31 0 + b.fld Reg.TRC_TRG_WIN_HI 7 0 * 2 ^ 32
      let b := b.triggerSeen (16 * bit (decide (win ≤ now))) 0
      if b.isSet Reg.TRC_CTL 29 then b.flushLoaf else b
    else b
  b.forEach ports Block.portWord

/-- The end of a boundary (R102, R104): the interim records that are left, the frames of the window that ended, the SENSOR record (R455). At
the teardown boundary the context then waits for its release (R204), and its grants are removed (R124). -/
def Block.endClosing (b : Block) (k : Closing) : Block :=
  let opens := if k.interim then b.die.taps.due.map Prod.snd else []
  let stale := k.interim && b.die.taps.due.any (fun e => (b.tapPort e.1).cmd.startInvalid)
  let b := if k.interim then b.modTaps (fun t => { t with due := [] }) else b
  let b := if k.recs.isEmpty then b
    else b.sendOutput { ctx := some k.ctx, cls := 2, dest := .tray, window := k.window, ft := b.ft } (packRecords k.recs)
  let b := b.sendEvents k.ctx k.window k.lossy (k.invalid || stale) (k.events ++ opens)
  let b := if k.sensor then b.sendControl (some k.ctx) .tray 0x0901 (b.sensorBody k.window) else b
  if k.last then (b.dropGrants (fun g => g.ctx == k.ctx)).queueRelease k.ctx else b

/-- The tap digests of a cycle leave (R298, R477). -/
def Block.endDigests (b : Block) : Block :=
  (b.modTaps (fun t => { t with digests := [] })).forEach b.die.taps.digests (fun b d =>
    b.presentDigest d.1 d.2.1 d.2.2.1 d.2.2.2.1 true d.2.2.2.2.1 d.2.2.2.2.2)

/-- The words of a cycle have been processed (R102): the words that are still due are inserted, tap digests leave, and the boundaries of the
cycle end, those of an ACTIVE context with samples of this cycle (R454, R455). -/
def Block.endWords (b : Block) : Block :=
  let b := (b.endRuns (fun _ => true)).endDigests
  let b := if b.die.taps.closing.any (fun k => k.sensor) then b.sampleAll else b
  (b.modTaps (fun t => { t with closing := [] })).forEach b.die.taps.closing Block.endClosing

/-- CNT_CLR_WRITE (R105), after the words of its cycle (R102). -/
def execCntClrWrite (v : Word) (s : State) : Host.Outcome State Fault Refusal := onDie (fun b => b.endWords.writeCntClr v) s

/-- TXN_ABORT_ALL (R100): after every word of the cycle (R102). -/
def execTxnAbortAll (s : State) : Host.Outcome State Fault Refusal := onDie (fun b => b.endWords.abortSlots) s

/-- DIE_WINDOW_BOUNDARY (R42, R102): FT has crossed the end of a context's open window. `ports` are the ports whose head word is
dequeued in that cycle. -/
def execDieWindowBoundary (c : Fin 9) (ports : List (Fin 64)) (s : State) : Host.Outcome State Fault Refusal :=
  onDie (fun b =>
    let x := b.ctx c
    b.when (x.isActive && decide (0 < windowDiff (windowOf x.k b.ft) x.openWin))
      (fun b => b.windowBoundary c ((ports.map Fin.val).mergeSort (· ≤ ·)))) s

end Sys2Proof.Machine
end

