-- ==== Sys2Proof/Machine/Cycle.lean ====
section
/-! DEFINITION. One clock cycle of a block, and what the end of a cycle does (R27, R42, R59, R62, R93, R102, R116, R117, R298, R402, R413): the
time accumulator moves by what the cycle's own command or the increment says. -/

namespace Sys2Proof.Machine

/-- A sixteenth of an hour, 225 s, in units of 2^-32 tick (R34, R413). -/
def sixteenthHour : Nat := 225 * 16000000000 * 2 ^ 32

/-- HOURS after one more cycle, while the block is not in OFF (R413): operating time is measured by the increment in force. -/
def Block.hoursCycle (b : Block) : Block :=
  if b.power.phase = 3 then b
  else
    let r := b.recorder
    let n := r.hourCycles + b.incr
    { b with recorder := { r with hourCycles := n % sixteenthHour, hours := (r.hours + n / sixteenthHour) % 2 ^ 32 } }

/-- The light counters of a BCLK cycle: 58 while fleet time is valid (R93), 51 with TRC_STALL_CYC while a trace_stall is
asserted (R129). -/
def Block.lightCycle (b : Block) : Block :=
  let b := if b.time.valid then b.lightAdd 58 1 else b
  if b.die.trace.stall = 0 then b else (b.count Reg.TRC_STALL_CYC 1).lightAdd 51 1

/-- The sieves of every pair are cleared at the boundaries that a context of TAP_CTL.XQ_CTX crosses while it is not active (R62). -/
def Block.inactivePairs (b : Block) (old : BitVec 64) : Block :=
  let x := b.ctx (b.fld Reg.TAP_CTL 2 0)
  if x.phase = .free ∨ x.isActive ∨ !b.time.valid ∨ windowDiff (windowOf x.k b.ft) (windowOf x.k old) ≤ 0 then b
  else { b with die := { b.die with pairLate := [], pairLead := [] } }

/-- The end of a BCLK cycle of a Borlu-D: its words have been processed (R102), its feed losses are reported (R116), and its sensors are
sampled where their period ends and no boundary has sampled them (R454). -/
def Block.dieEnd (b : Block) : Block :=
  let sample := b.samplePeriod && !b.asleep && !b.die.taps.closing.any (fun k => k.sensor)
  let b := b.endWords.traceEnd
  if sample then b.sampleAll else b

/-- One BCLK cycle of a Borlu-D in which the accumulator moves by `f`. In RETAIN and OFF only HOURS advances beside it (R413, R451). -/
def Block.dieCycle (b : Block) (f : Block → Block) : Block :=
  let b := b.dieEnd
  if b.asleep then f b.hoursCycle
  else (((f b.hoursCycle.lightCycle).inactivePairs b.ft).loadTick.drainStaging.cycleGates).refillPorts

/-- One cycle of the TIM clock of a Borlu-T in which the accumulator moves by `f`. -/
def Block.trayCycle (b : Block) (f : Block → Block) : Block := (f b.portsEnd.hoursCycle).portsStart.refillPorts.nextRow

/-- One cycle of a block's own clock in which the accumulator moves by `f`. -/
def Block.clock (b : Block) (f : Block → Block) : Block :=
  let b := { b with access := {} }
  match b.build with | .D => b.dieCycle f | .T => b.trayCycle f

end Sys2Proof.Machine
end

