-- ==== Sys2Proof/Machine/Time.lean ====
section
/-! DEFINITION. Fleet time (spec/02): the accumulator, increment, steps and holds, modes, beacons, tempering, the time pulse. -/

namespace Sys2Proof.Machine

/-- Change the time unit. -/
def Block.modTime (b : Block) (f : TimeUnit → TimeUnit) : Block := { b with time := f b.time }

/-! ### The increment (R39) -/

/-- A write to TIM_INCR_FRAC is held in the staging latch (R39). -/
def Block.writeIncrFrac (b : Block) (v : Word) : Block := b.modTime (fun t => { t with fracStage := v })

/-- A write to TIM_INCR_INT commits the integer part and the staged fraction, unless the pair would be zero; the new increment is in force from
the next cycle (R39). -/
def Block.writeIncrInt (b : Block) (v : Word) : Block :=
  if v.toNat % 256 = 0 ∧ b.time.fracStage = 0 then b.flag Reg.TIM_STS 5
  else ((b.modTime (fun t => { t with incrHeld := some b.incr })).setFld Reg.TIM_INCR_INT 7 0 (v.toNat % 256)).setReg Reg.TIM_INCR_FRAC
    b.time.fracStage

/-- TIM_INCR_FRAC_WRITE (R39). -/
def execTimIncrFracWrite (b : Build) (v : Word) (s : State) : Host.Outcome State Fault Refusal :=
  onBlock b (fun x => x.writeIncrFrac v) s

/-- TIM_INCR_INT_WRITE (R39). -/
def execTimIncrIntWrite (b : Build) (v : Word) (s : State) : Host.Outcome State Fault Refusal :=
  onBlock b (fun x => x.writeIncrInt v) s

/-! ### Cycles, steps and holds (R38, R43, R44) -/

/-- The accumulator in one cycle (R38), with a signed amount of 2^-32 ticks beside the increment. -/
def Block.advance (b : Block) (extra : Int) : Block :=
  let inc := b.incr
  b.modTime (fun t => { t with acc := t.acc + BitVec.ofNat 96 inc + BitVec.ofInt 96 extra, cycles := t.cycles + 1, incrHeld := none })

/-- The accumulator in a cycle without a step: the increment, or the absorption of a hold (R43). -/
def Block.flow (b : Block) : Block :=
  let h := b.time.hold
  let inc := b.incr
  if h = 0 then b.advance 0
  else if inc ≤ h then (b.advance (-(inc : Int))).modTime (fun t => { t with hold := h - inc })
  else (b.advance (-(h : Int))).modTime (fun t => { t with hold := 0 })

/-- One cycle of the block in which no step moves its time. -/
def Block.timeCycle (b : Block) : Block := b.clock Block.flow

/-- The windows of a context that a step from `old` to `new` passed over whole, as the first and their number (R44): those after the window
that was open, or, where the step also passed the start of an ARMED context, those from its first window on; none after the last window
that a TEARDOWN has named. -/
def Ctx.passedOver (x : Ctx) (old new : BitVec 64) : Option (Nat × Nat) :=
  let from? : Option Nat :=
    if x.isActive then some ((windowOf x.k old + 1) % 2 ^ 40)
    else if x.phase = .armed ∧ ftGe new x.start ∧ !ftGe old x.start then some (windowOf x.k x.start) else none
  from?.bind (fun first =>
    let now := windowOf x.k new
    let stop := match x.lastWin with | some l => if 0 < windowDiff now l then (l + 1) % 2 ^ 40 else now | none => now
    let n := windowDiff stop first
    if 0 < n then some (first, n.toNat) else none)

/-- The windows that a step passed over whole, for each context: WINDOWS_SKIPPED (R44). They are kept, since no node closes them or sends for
them. -/
def Block.skippedWindows (b : Block) (old : BitVec 64) : Block :=
  b.forEach b.ctxIds (fun b c =>
    let x := b.ctx c
    match x.passedOver old b.ft with
    | some e => (b.modCtx c (fun x => { x with skipped := x.skipped ++ [e] })).healthCrumb 0x0104 (satTo (2 ^ 32 - 1) e.2)
        (x.job + c * 2 ^ 16) 0
    | none => b)

/-- FT has gone back, or the beacon period has changed: the next multiple of the beacon period is the one above it (R45). -/
def Block.remarkBeacon (b : Block) : Block :=
  b.modTime (fun t => { t with beaconNext := nextMultiple (b.fld Reg.TIM_BCN 7 0 * 2048) b.ft })

/-- Move the time in the cycle of this command by the signed sum `eff` of a step and the remaining balance, in units of 2^-32 tick (R43, R44):
direct, a hold, a backstep, or refused. A step applied at once moves the time by `whole` beside the increment, and a refusal reports `d`. The
answer says whether it was applied. -/
def Block.moveTime (b : Block) (eff whole d : Int) : Bool × Block :=
  let old := b.ft
  let holdMax : Int := b.fld Reg.TIM_HOLD_MAX 15 0 * 2 ^ 32
  if 0 ≤ eff then
    (true, ((b.clock (fun b => b.advance whole)).modTime (fun t => { t with hold := 0 })).skippedWindows old)
  else if -holdMax ≤ eff then (true, (b.clock (fun b => b.advance 0)).modTime (fun t => { t with hold := (-eff).toNat }))
  else if !b.anyActive then
    let b := ((b.clock (fun b => b.advance whole)).modTime (fun t => { t with hold := 0, backsteps := t.backsteps + 1 })).flag Reg.TIM_STS 7
    let b := b.remarkPeriods.remarkBeacon
    let b := b.healthCrumb 0x0101 (old.toNat % 2 ^ 32) (old.toNat / 2 ^ 32) (b.time.backsteps % 2 ^ 32)
    (true, b.healthCrumb 0x0102 (b.ft.toNat % 2 ^ 32) (b.ft.toNat / 2 ^ 32) (b.time.backsteps % 2 ^ 32))
  else
    let dw := (BitVec.ofInt 64 d).toNat
    (false, ((b.timeCycle).flag Reg.TIM_STS 4).healthCrumb 0x0103 (dw % 2 ^ 32) (dw / 2 ^ 32) 0)

/-- A step of `d` ticks (R43): a remaining hold is added to it as a signed sum (R44). A step changes no fraction: one that is applied at once
drops that of the balance (log 31). -/
def Block.applyStep (b : Block) (d : Int) : Bool × Block :=
  let eff := d * 2 ^ 32 - b.time.hold
  b.moveTime eff (eff / 2 ^ 32 * 2 ^ 32) d

/-- A write to TIM_STEP_HI applies the step whose low half is latched (R43); the first step written after OFF to COUNTED, which only
a Borlu-T takes, makes FT valid (R48). -/
def Block.writeStepHi (b : Block) (hi : Word) : Block :=
  let d := signed 64 (hi.toNat * 2 ^ 32 + b.time.stepLo.toNat)
  let (_, b) := b.applyStep d
  if b.build = .T ∧ b.time.modeNow = 2 ∧ !b.time.valid then b.setValid true else b

/-- FT_STEP (R43, R44). A die in RETAIN or OFF steps nothing: its fleet time stands still and comes back through beacon mode only
(R451, R452). -/
def execFtStep (b : Build) (hi : Word) (s : State) : Host.Outcome State Fault Refusal :=
  onBlock b (fun x => x.when (!x.hushed) (fun x => x.writeStepHi hi)) s

/-- Some cycles of the block in which no step moves its time. -/
def Block.cyclesOf : Nat → Block → Block
  | 0, b => b
  | n + 1, b => cyclesOf n b.timeCycle

/-- The cycles that absorb the whole hold balance: full cycles stand still, and the last one advances by FT_INCR minus what
remains (R43). A new increment acts from the second of them (R39). -/
def Block.absorbHold (b : Block) : Block :=
  if b.time.hold = 0 then b else cyclesOf (ceilDiv b.timeCycle.time.hold b.timeCycle.incr) b.timeCycle

/-- HOLD_ABSORBED (R43). -/
def execHoldAbsorbed (b : Build) (s : State) : Host.Outcome State Fault Refusal := onBlock b (fun x => x.absorbHold) s

/-! ### Modes (R48, R49) -/

/-- The entry of TIM_LINK_DELAY at a link. -/
def linkDelayReg (link : Nat) : Nat := Reg.TIM_LINK_DELAY + 4 * link

/-- A link is tempered (R52). -/
def Block.linkTempered (b : Block) (link : Nat) : Bool := b.isSet (linkDelayReg link) 31

/-- The source link of a block's beacons (R48, R49). -/
def Block.sourceLink (b : Block) : Nat := match b.build with | .D => 0 | .T => 32 + b.fld Reg.TIM_CTL 15 12

/-- The block takes its time from beacons: always in Borlu-D, with SRC = 1 in Borlu-T (R49). -/
def Block.takesBeacons (b : Block) : Bool := match b.build with | .D => true | .T => b.isSet Reg.TIM_CTL 8

/-- A write of the MODE field (R48): the switch waits for the next beacon, takes effect at once, or is refused. -/
def Block.writeMode (b : Block) (m : Nat) : Block :=
  let stored := b.setFld Reg.TIM_CTL 1 0 m
  let toBeacon := b.linkTempered b.sourceLink && b.takesBeacons
  if 3 ≤ m then b
  else if m = b.time.modeNow then stored.modTime (fun t => { t with modeNext := none })
  else match b.time.modeNow, m with
    | _, 1 => if toBeacon then stored.modTime (fun t => { t with modeNext := some 1 }) else b.flag Reg.TIM_STS 5
    | 0, _ => if b.build = .T ∧ !b.isSet Reg.TIM_CTL 8
        then stored.modTime (fun t => { t with modeNow := 2, modeNext := none }) else b.flag Reg.TIM_STS 5
    | _, 2 => stored.modTime (fun t => { t with modeNext := some 2 })
    | _, _ => if b.anyActive then b.flag Reg.TIM_STS 5
        else (stored.modTime (fun t => { t with modeNow := 0, modeNext := none })).invalidate

/-- TIM_MODE_WRITE (R48). -/
def execTimModeWrite (b : Build) (mode : BitVec 2) (s : State) : Host.Outcome State Fault Refusal :=
  onBlock b (fun x => x.writeMode mode.toNat) s

/-! ### Beacons (R45 to R47) -/

/-- The beacon period in ticks (R45). -/
def Block.beaconTicks (b : Block) : Nat := b.fld Reg.TIM_BCN 7 0 * 2048

/-- Some level role of the block is active. -/
def Block.hasHearthRole (b : Block) : Bool := b.tray.roles.any (fun e => e.2.role == 1)

/-- A beacon to every die present on the tray and, from a Borlu-T with a hearth role, on every tree port (R45): each takes its FT and fraction
as it departs. -/
def Block.sendBeacons (b : Block) : Block :=
  let body := b.beaconBody
  let b := b.forEach ((List.range 32).filter (fun n => b.tray.present.getLsbD n)) (fun b n => b.sendControl none (.die n) 0x0A01 body)
  if b.hasHearthRole then b.forEach (List.range 8) (fun b i => b.sendControl none (.treePort i) 0x0A01 body) else b

/-- BEACON_DUE (R45): BCN_TX is set, and FT has crossed a multiple of the beacon period since it was, or since the latest beacon. -/
def execBeaconDue (s : State) : Host.Outcome State Fault Refusal :=
  onTray (fun b => b.when (b.isSet Reg.TIM_CTL 9 && ftGe b.ft b.time.beaconNext) (fun b => b.remarkBeacon.sendBeacons)) s

/-- The signed asymmetry of a link, with the direction of a received frame: added when NEAR is 0, subtracted when it is 1
(R53). -/
def Block.linkAsym (b : Block) (link : Nat) : Int :=
  let a := signed 16 (b.fld (Reg.TIM_LINK_ASYM + 4 * link) 15 0)
  if b.isSet (linkDelayReg link) 30 then -a else a

/-- The beacon-derived value V of a beacon's FT and fraction byte, in ticks (R46). -/
def Block.beaconValue (b : Block) (ft frac link : Nat) : BitVec 64 :=
  let delay : Int := b.fld (linkDelayReg link) 15 0 + b.linkAsym link
  let v : BitVec 96 := BitVec.ofNat 96 (ft * 2 ^ 32 + frac * 2 ^ 24 + b.incr * Config.beaconLoadCycles b.build) +
    BitVec.ofInt 96 (delay * 2 ^ 32)
  (v >>> 32).setWidth 64

/-- The measurement of a beacon (R46): the registers and the flag, and whether the error lies over the limit. -/
def Block.measureBeacon (b : Block) (v : BitVec 64) : Block :=
  let e := sat32 (ftDiff v b.ft)
  let b := (b.setReg Reg.TIM_BCN_ERR (BitVec.ofInt 32 e)).raiseF Reg.TIM_BCN_ERR_MAX 31 0 e.natAbs
  if b.fld Reg.TIM_BCN_LIM 15 0 < e.natAbs
  then b.flag Reg.TIM_STS 6 else b

/-- The crumb of a beacon whose error lay over the limit (R46), after those of its load, whose codes are lower (R414). -/
def Block.beaconCrumb (b : Block) (e : Int) (link : Nat) : Block :=
  if b.fld Reg.TIM_BCN_LIM 15 0 < e.natAbs then b.healthOnce [] 0x0105 (BitVec.ofInt 32 e).toNat link 0 else b

/-- The load of a beacon in beacon mode or at a pending switch (R47 to R49): its step D is taken against the FT that the cycle would leave
without it. The sum of D and a balance (R44) chooses the case of R43; a load applied at once leaves FT equal to V (R47; DEDUCED, log 31). -/
def Block.loadBeacon (b : Block) (v : BitVec 64) : Block :=
  let d := ftDiff v b.flow.ft
  let (done, b) := b.moveTime (d * 2 ^ 32 - b.time.hold) (ftDiff v (b.advance 0).ft * 2 ^ 32) d
  if done then
    (b.modTime (fun t => { t with modeNow := t.modeNext.getD t.modeNow, modeNext := none })).setValid true
  else b

/-- A BEACON record on a link (R46 to R49): a Borlu-T takes only those of tree port BCN_PORT. It is measured, and loaded when
beacon mode or a pending switch asks for it, the link is tempered, and the block takes beacons. -/
def Block.beaconRecord (port link : Nat) (b : Block) (_f : Frame) (r : Bytes) : Block :=
  let entry := b.linkEntry port link
  if b.build = .T ∧ (link < 32 ∨ port ≠ b.fld Reg.TIM_CTL 15 12) then b
  else
    let v := b.beaconValue (fieldAt r 8 8) (byteAt r 16) entry
    let b := (b.modTime (fun t => { t with beaconMark := some t.cycles })).measureBeacon v
    let e := sat32 (ftDiff v b.ft)
    (if (b.time.modeNow = 1 ∨ b.time.modeNext.isSome) ∧ b.linkTempered entry ∧ b.takesBeacons then b.loadBeacon v else b).beaconCrumb e entry

/-- BEACON_RECEIVE (R46 to R49). -/
def execBeaconReceive (b : Build) (port : Fin 8) (link : Fin 64) (frame : Bytes) (s : State) :
    Host.Outcome State Fault Refusal :=
  onBlock b (fun x => if x.asleep then x else x.receiveControl link frame 0x0A01 (Block.beaconRecord port link)) s

/-- LOSS consecutive beacon periods have passed without a beacon on the source link (R47), in beacon or counted mode: reported
once until a beacon comes. The periods are counted by the increment, so that no step passes for missed beacons (log 31). -/
def Block.beaconLost (b : Block) : Block :=
  match b.time.beaconMark with
  | none => b
  | some mark =>
    b.when (b.takesBeacons && b.time.modeNow != 0 &&
        decide (b.fld Reg.TIM_BCN 15 8 * b.beaconTicks * 2 ^ 32 ≤ (b.time.cycles - mark) * b.incr))
      (fun b => ((b.modTime (fun t => { t with beaconMark := none })).flag Reg.TIM_STS 3).healthCrumb 0x0106 b.sourceLink 0 0)

/-- BEACON_LOST (R47). -/
def execBeaconLost (b : Build) (s : State) : Host.Outcome State Fault Refusal := onBlock b (fun x => x.beaconLost) s

/-! ### Tempering (R50 to R54) -/

/-- The destination of a tempering link (R50): links 0 to 31 the dies, 32 to 39 tree ports 0 to 7. -/
def temperDest (link : Nat) : Dest := if link < 32 then .die link else .treePort (link - 32)

/-- Send the TEMPER_REQ of exchange `i`: t1 is the FT of the cycle in which the header is formed (R54). -/
def Block.sendTemperReq (b : Block) (link i : Nat) : Block :=
  b.sendControl none (temperDest link) 0x0A02 (leBytes 8 b.ft.toNat ++ leBytes 2 i ++ zeros 6)

/-- A write of TIM_TEMPER (R50): COUNT is stored, and LINK unless it is reserved (R11); START begins a run of COUNT exchanges, at least 16.
A START while a run is in progress drops that run and begins the new one: R50 does not say (DESIGN CHOICE, log 36).
No run begins while the time steward does not run (R437). -/
def Block.writeTemper (b : Block) (v : Word) : Block :=
  let count := bitsOf v.toNat 15 8
  let link := bitsOf v.toNat 5 0
  let b := b.setFld Reg.TIM_TEMPER 15 8 count
  let b := if link < 40 then b.setFld Reg.TIM_TEMPER 5 0 link else b
  if !v.getLsbD 31 ∨ !b.stewardRuns 3 then b
  else if 40 ≤ link then b.flag Reg.TIM_STS 5
  else
    let run : TemperRun := { link := link, count := max 16 count, t1 := b.ft }
    ((b.setFld Reg.TIM_TEMPER_RES 29 28 0).modTime (fun t => { t with temper := some run })).sendTemperReq link 0

/-- TEMPER_START (R50). -/
def execTemperStart (v : Word) (s : State) : Host.Outcome State Fault Refusal := onTray (fun b => b.writeTemper v) s

/-- A far end stamps t2 and t3 and answers (R50, R54), in any mode. -/
def Block.temperReq (port link : Nat) (b : Block) (_f : Frame) (r : Bytes) : Block :=
  b.sendControl none (b.backTo port link) 0x0A03
    (slice r 8 8 ++ slice r 16 2 ++ zeros 6 ++ leBytes 8 b.ft.toNat ++ leBytes 8 b.ft.toNat)

/-- TEMPER_REQ_RECEIVE (R54). -/
def execTemperReqReceive (b : Build) (port : Fin 8) (link : Fin 64) (frame : Bytes) (s : State) :
    Host.Outcome State Fault Refusal :=
  onBlock b (fun x => x.receiveControl link frame 0x0A02 (Block.temperReq port link)) s

/-- The round trip of an exchange (R51). -/
def roundTrip (t1 t2 t3 t4 : BitVec 64) : Int := ftDiff t4 t1 - ftDiff t3 t2

/-- Half of a signed number, rounded toward minus infinity (R51). -/
def halfDown (v : Int) : Int := v / 2

/-- The offset of an exchange: the far end's FT minus the near end's (R51). -/
def clockOffset (t1 t2 t3 t4 : BitVec 64) : Int := halfDown (ftDiff t2 t1 - ftDiff t4 t3)

/-- An exchange enters the run: its offset is kept, and the smallest round trip, the earliest on a tie, gives the delay (R51). -/
def TemperRun.exchange (t : TemperRun) (rt offset : Int) : TemperRun :=
  let t := { t with offsets := t.offsets ++ [offset] }
  match t.minRt with
  | none => { t with done := t.done + 1, minRt := some rt, maxRt := rt, delay := halfDown rt }
  | some m => if rt < m then { t with done := t.done + 1, minRt := some rt, delay := halfDown rt }
              else { t with done := t.done + 1, maxRt := max t.maxRt rt }

/-- The run has made its exchanges (R52): success stores the delay, sets TEMPERED and NEAR, and sends TEMPER_SET; a spread
above the limit fails and changes no constant. A delay that does not fit 16 bits, or is negative, is taken modulo 2^16: R52 does not say
(DESIGN CHOICE, log 36). -/
def Block.temperDone (b : Block) (t : TemperRun) : Block :=
  let spread := (t.maxRt - t.minRt.getD 0).toNat
  let delay := (BitVec.ofInt 16 t.delay).toNat
  let b := b.modTime (fun u => { u with temper := none })
  let b := ((b.setFld Reg.TIM_TEMPER_RES 27 16 (satTo 4095 spread)).setFld Reg.TIM_TEMPER_RES 15 0 delay).flag Reg.TIM_TEMPER_RES 31
  if spread ≤ b.fld Reg.TIM_TEMPER_LIM 15 0 then
    ((b.setFld Reg.TIM_TEMPER_RES 29 28 1).setReg (linkDelayReg t.link) (BitVec.ofNat 32 (2 ^ 31 + 2 ^ 30 + delay))).sendControl
      none (temperDest t.link) 0x0A04 (leBytes 2 delay ++ zeros 6)
  else b.setFld Reg.TIM_TEMPER_RES 29 28 2

/-- A TEMPER_RESP of the open exchange at the near end: t4 is its arrival (R50, R51); the next exchange starts, or the run
ends. -/
def Block.temperResp (port link : Nat) (b : Block) (_f : Frame) (r : Bytes) : Block :=
  match b.time.temper with
  | none => b
  | some t =>
    if b.linkEntry port link ≠ t.link ∨ fieldAt r 8 8 ≠ t.t1.toNat ∨ fieldAt r 16 2 ≠ t.done then b
    else
      let t2 := BitVec.ofNat 64 (fieldAt r 24 8)
      let t3 := BitVec.ofNat 64 (fieldAt r 32 8)
      let t' := t.exchange (roundTrip t.t1 t2 t3 b.ft) (clockOffset t.t1 t2 t3 b.ft)
      if t'.done = t'.count then b.temperDone t'
      else (b.modTime (fun u => { u with temper := some { t' with t1 := b.ft } })).sendTemperReq t.link t'.done

/-- TEMPER_RESP_RECEIVE (R51, R52). -/
def execTemperRespReceive (port : Fin 8) (link : Fin 64) (frame : Bytes) (s : State) : Host.Outcome State Fault Refusal :=
  onTray (fun b => b.receiveControl link frame 0x0A03 (Block.temperResp port link)) s

/-- A reply has not arrived within 64 µs of its request: the run ends with FAIL_NO_REPLY (R52). The 64 µs are taken in FT since t1, which steps and
holds move: R52 does not say in what they are measured (DESIGN CHOICE, log 36). SPREAD and DELAY keep what the run before left: R52 gives them for
OK alone (DESIGN CHOICE, log 36). -/
def Block.temperTimeout (b : Block) : Block :=
  match b.time.temper with
  | none => b
  | some t => b.when (ftGe b.ft (ftAdd t.t1 (64 * ticksPerUs))) (fun b =>
      ((b.modTime (fun u => { u with temper := none })).setFld Reg.TIM_TEMPER_RES 29 28 3).flag Reg.TIM_TEMPER_RES 31)

/-- TEMPER_REPLY_TIMEOUT (R52). -/
def execTemperReplyTimeout (s : State) : Host.Outcome State Fault Refusal := onTray (fun b => b.temperTimeout) s

/-- The far end stores the delay of the record's link, sets TEMPERED, clears NEAR, and answers TEMPER_ACK (R52). -/
def Block.temperSet (port link : Nat) (b : Block) (_f : Frame) (r : Bytes) : Block :=
  (b.setReg (linkDelayReg (b.linkEntry port link)) (BitVec.ofNat 32 (2 ^ 31 + fieldAt r 8 2))).sendControl none
    (b.backTo port link) 0x0A05 (zeros 8)

/-- TEMPER_SET_RECEIVE (R52). -/
def execTemperSetReceive (b : Build) (port : Fin 8) (link : Fin 64) (frame : Bytes) (s : State) :
    Host.Outcome State Fault Refusal :=
  onBlock b (fun x => x.receiveControl link frame 0x0A04 (Block.temperSet port link)) s

/-- The near end receives the TEMPER_ACK: nothing changes; a reserved status is discarded and counted (R11, R54). -/
def Block.temperAck (b : Block) (_f : Frame) (r : Bytes) : Block :=
  if byteAt r 8 = 0 then b else b.recordBad

/-- TEMPER_ACK_RECEIVE (R54). -/
def execTemperAckReceive (port : Fin 8) (link : Fin 64) (frame : Bytes) (s : State) : Host.Outcome State Fault Refusal :=
  let _ := port
  onTray (fun b => b.receiveControl link frame 0x0A05 Block.temperAck) s

/-! ### The time pulse (R63) -/

/-- TIME_PULSE (R63): FT is latched while PULSE_EN is set. -/
def execTimePulse (b : Build) (s : State) : Host.Outcome State Fault Refusal :=
  onBlock b (fun x => x.when (x.isSet Reg.TIM_CTL 11) (fun x => x.modTime (fun t => { t with pulse := x.ft }))) s

end Sys2Proof.Machine
end

