-- ==== Sys2Proof/Machine/SelfTest.lean ====
section
/-! DEFINITION. The in-service test of Borlu-T (R458 to R460) and the retirement of failed units (R187, R261, R277, R292, R341). -/

namespace Sys2Proof.Machine

/-- Change the in-service test. -/
def Block.modTest (b : Block) (f : TestUnit → TestUnit) : Block := { b with tray := { b.tray with test := f b.tray.test } }

/-! ### Units -/

/-- The key of a physical unit. -/
def unitKey (kind quad unit : Nat) : Nat := kind * 512 + quad * 64 + unit

/-- The kind, quad and unit of a key. -/
def unitParts (k : Nat) : Nat × Nat × Nat := (k / 512, k / 64 % 8, k % 64)

/-- A physical unit of R458 exists. -/
def unitExists (kind quad unit : Nat) : Bool :=
  match kind with
  | 0 => decide (quad < 4) && decide (unit < 34)
  | 1 => decide (quad < 4) && unit == 0
  | 2 => quad == 0 && decide (unit < 4)
  | 3 => quad == 0 && decide (unit < 16)
  | 4 => quad == 0 && decide (unit < 32)
  | 5 => quad == 0 && decide (unit < 34)
  | _ => false

/-- The physical units that test `g` covers. -/
def testUnits (g : Nat) : List Nat :=
  if g < 4 then (List.range 34).map (unitKey 0 g) else if g < 8 then [unitKey 1 (g - 4) 0] else if g < 12 then [unitKey 2 0 (g - 8)]
  else if g < 28 then [unitKey 3 0 (g - 12)] else if g < 60 then [unitKey 4 0 (g - 28)] else [unitKey 5 0 (g - 60)]

/-- The steps of the sequence of test `g` (R458). -/
def testSteps (g : Nat) : Nat := if g < 4 then 256 else if g < 8 then 64 else if g < 12 then 128 else if g < 28 then 32 else 16

/-- The number of tests. -/
def testCount : Nat := 94

/-! ### Retirement -/

/-- The logical unit that a map of 32 fields, four to a word, gives a physical one. -/
def Block.mappedTo (b : Block) (map p : Nat) : Option Nat :=
  (List.range 32).find? (fun j => b.fld (map + 4 * (j / 4)) (8 * (j % 4) + 5) (8 * (j % 4)) == p)

/-- The physical units of 34 that a map does not name and that have not failed. -/
def Block.sparesOf (b : Block) (map fail sts : Nat) : List Nat :=
  (List.range 34).filter (fun p => (b.mappedTo map p).isNone && !(if p < 32 then b.isSet fail p else b.isSet sts (p - 32)))

/-- Retire a physical unit of 34 (R261, R292): marked as failed; its logical unit moves to the lowest spare, or is lost with `degraded`. -/
def Block.retireMapped (b : Block) (map fail sts p : Nat) (degraded : Block → Block) : Block :=
  let b := if p < 32 then b.flag fail p else b.flag sts (p - 32)
  let b := match b.mappedTo map p, b.sparesOf map fail sts with
    | none, _ => b
    | some j, s :: _ => b.setFld (map + 4 * (j / 4)) (8 * (j % 4) + 5) (8 * (j % 4)) s
    | some _, [] => degraded (b.flag sts 28)
  b.setFld sts 31 30 (b.sparesOf map fail sts).length

/-- The physical kneader of logical kneader `i`; 15 gives the unused one. -/
def Block.kneaderOf (b : Block) (i : Nat) : Nat := b.fld (Reg.KND_MAP_LO + 4 * (i / 8)) (4 * (i % 8) + 3) (4 * (i % 8))

/-- Map a logical kneader. -/
def Block.mapKneader (b : Block) (i p : Nat) : Block := b.setFld (Reg.KND_MAP_LO + 4 * (i / 8)) (4 * (i % 8) + 3) (4 * (i % 8)) p

/-- Retire a physical kneader (R187): the unused one takes its place; when that has failed, the kneaders are degraded. -/
def Block.retireKneader (b : Block) (p : Nat) : Block :=
  let spare := b.kneaderOf 15
  match (List.range 15).find? (fun i => b.kneaderOf i == p) with
  | none => b
  | some i =>
    if unitKey 3 0 spare ∈ b.tray.test.retired then b.putBit Reg.KND_STS 4 true
    else (b.mapKneader i spare).mapKneader 15 p

/-- A bank fails (R277): every group in it becomes BAD. -/
def Block.failBank (b : Block) (k : Nat) : Block :=
  let b := (b.putBit Reg.RUL_STS (4 + k) true).putBit Reg.RUL_STS 3 true
  b.forEach (b.tray.plane.groups.filter (fun g => g.2.bank == k && g.2.phase != 0 && g.2.phase != 3)) (fun b g => b.groupBad g.1)

/-- Retire a physical unit (R459). -/
def Block.retire (b : Block) (k : Nat) : Block :=
  let (kind, quad, unit) := unitParts k
  let b := match kind with
    | 0 => b.retireMapped (Reg.ENS_LANE_MAP + 32 * quad) (Reg.ENS_LANE_FAIL + 4 * quad) (Reg.ENS_LANE_STS + 4 * quad) unit
        (fun b => b.putBit Reg.ENS_STS 7 true)
    | 1 => (b.putBit (Reg.ENS_LANE_STS + 4 * quad) 29 true).putBit Reg.ENS_STS 6 true
    | 2 => b.failBank unit
    | 3 => b.retireKneader unit
    | 4 => (b.flag Reg.IST_DEC_FAIL unit).putBit Reg.IST_STS 3 true
    | _ => b.retireMapped Reg.ANV_MAP Reg.ANV_FAIL Reg.ANV_LSTS unit (fun b => b.putBit Reg.ANV_STS 5 true)
  b.modTest (fun t => { t with retired := if k ∈ t.retired then t.retired else t.retired ++ [k] })

/-- The harvest list of the record is applied before the first row (R341). -/
def Block.applyHarvest (b : Block) : Block :=
  match b.record with
  | none => b
  | some r => b.forEach (recHarvest r) (fun b e => b.retire (unitKey (byteAt e 0) (byteAt e 1) (byteAt e 2)))

/-! ### A step (R458, R459) -/

/-- A unit is tested no more: it has failed, or is retired. -/
def TestUnit.done (t : TestUnit) (k : Nat) : Bool := k ∈ t.retired || t.failing.any (fun e => e.1 == k)

/-- Every unit of a test is done. -/
def TestUnit.over (t : TestUnit) (g : Nat) : Bool := (testUnits g).all t.done

/-- The test that an entry of a column runs, and the rotations after it: none for a column without one. -/
def TestUnit.pick (t : TestUnit) (col : Nat) : Option Nat × TestUnit :=
  let turn (key first n : Nat) : Option Nat × TestUnit :=
    let at0 := sget (fun _ => (0 : Nat)) t.rotation key
    match ((List.range n).map (fun i => (at0 + i) % n)).find? (fun i => !t.over (first + i)) with
    | none => (none, t)
    | some i => (some (first + i), { t with rotation := sput (fun _ => (0 : Nat)) t.rotation key ((i + 1) % n) })
  if col < 12 then (if t.over col then none else some col, t)
  else if col < 27 then turn 12 12 16
  else if col = 30 then turn 30 28 66
  else (none, t)

/-- The FT of the next retirement: the next multiple of 2^max(10, k_max) µs (R459). -/
def Block.retireTime (b : Block) : BitVec 64 :=
  let n := windowTicks (max 10 b.kMax)
  BitVec.ofNat 64 ((b.ft.toNat / n + 1) * n)

/-- A second consecutive mismatch fails a unit (R459). -/
def Block.failUnit (b : Block) (k : Nat) : Block :=
  let (kind, quad, unit) := unitParts k
  let b := (b.setReg Reg.IST_LAST (BitVec.ofNat 32 (kind * 2 ^ 28 + quad * 2 ^ 26 + unit))).flag Reg.IST_STS 1
  (b.count Reg.IST_FAILS 1).modTest (fun t =>
    { t with missed := t.missed.filter (· != k), failing := t.failing ++ [(k, b.retireTime)],
             injected := sput (fun _ => (0 : Nat)) t.injected k 0 })

/-- The outcome of a step at one unit: a first mismatch is remembered; a second fails it; a pass on the repeat is transient. -/
def Block.testUnit (b : Block) (k : Nat) (bad : Bool) : Block :=
  let before := k ∈ b.tray.test.missed
  let b := b.modTest (fun t => { t with injected := smodify (fun _ => (0 : Nat)) t.injected k (· - 1) })
  if bad ∧ before then b.failUnit k
  else if bad then b.modTest (fun t => { t with missed := t.missed ++ [k] })
  else if before then (b.modTest (fun t => { t with missed := t.missed.filter (· != k) })).count Reg.IST_TRANSIENT 1
  else b

/-- A sweep ends when every test has passed its sequence or is over (R458). -/
def Block.endSweep (b : Block) : Block :=
  let t := b.tray.test
  if !(List.range testCount).all (fun g => g ∈ t.passed || t.over g) then b
  else
    let time := (ftDiff b.ft t.sweepStart).toNat
    let ms := time / (1000 * ticksPerUs)
    let b := ((b.setFld Reg.IST_SWEEP_MS 15 0 (satTo 65535 ms)).count Reg.IST_SWEEPS 1).flag Reg.IST_STS 0
    let b := if b.fld Reg.IST_LIM 15 0 * (1000 * ticksPerUs) < time then b.flag Reg.IST_STS 2 else b
    b.modTest (fun t => { t with passed := [], sweepStart := b.ft })

/-- The ingest port whose decompressor or anvil a test occupies (R288, R458). -/
def Block.portUnderTest (b : Block) (g : Nat) : Option Nat :=
  if g < 28 then none else if g < 60 then some (g - 28) else b.mappedTo Reg.ANV_MAP (g - 60)

/-- Run the next step of test `g`; `faulty` are the physical units whose outputs differ from the ROM's values. -/
def Block.testStep (b : Block) (g : Nat) (faulty : List Nat) : Block :=
  let t := b.tray.test
  let units := (testUnits g).filter (fun k => !t.done k)
  let bad (k : Nat) : Bool := k % 64 ∈ faulty || decide (0 < sget (fun _ => (0 : Nat)) t.injected k)
  let again := units.any (fun k => bad k && !(k ∈ t.missed))
  let b := if g < 28 then b else b.modTest (fun t => { t with under := b.portUnderTest g })
  let b := b.forEach units (fun b k => b.testUnit k (bad k))
  if again then b
  else
    let n := sget (fun _ => (0 : Nat)) t.steps g + 1
    let whole : Bool := decide (testSteps g ≤ n)
    (b.modTest (fun t => { t with steps := sput (fun _ => (0 : Nat)) t.steps g (if whole then 0 else n),
                                  passed := if whole && !(g ∈ t.passed) then t.passed ++ [g] else t.passed })).endSweep

/-- TEST_ENTRY (R458): the TEST entry of a row and column. `faulty` names the physical units (34 lanes of a quad together, else unit
0 to 33 of the kind) whose outputs mismatch, as the hardware itself is not modelled. -/
def execTestEntry (row : Fin 6400) (col : Fin 32) (faulty : List (Fin 64)) (s : State) : Host.Outcome State Fault Refusal :=
  onTray (fun b => b.onEntry row col 1 (fun b _ _ =>
    if !b.isSet Reg.IST_CTL 0 ∨ !b.stewardRuns 4 then b
    else
      let (g, t) := b.tray.test.pick col
      let b := b.modTest (fun _ => t)
      match g with
      | none => b
      | some g => b.testStep g (faulty.map Fin.val))) s

/-- UNIT_RETIRE (R459): the failed units whose boundary has come are retired; their TEST descriptors complete OK (R460). -/
def execUnitRetire (s : State) : Host.Outcome State Fault Refusal :=
  onTray (fun b =>
    let due := (b.tray.test.failing.filter (fun e => ftGe b.ft e.2)).map Prod.fst
    b.forEach due (fun b k =>
      let descs := (b.tray.test.descs.filter (fun e => e.1 == k)).map Prod.snd
      let b := (b.retire k).modTest (fun t =>
        { t with failing := t.failing.filter (fun e => e.1 != k), descs := t.descs.filter (fun e => e.1 != k) })
      b.forEach (descs.filterMap b.takenById) (fun b t => b.complete t 0))) s

/-! ### INJECT (R460) -/

/-- A TEST descriptor: mode 1 INJECT, whose unit's next two steps report mismatches; every other mode is reserved. -/
def Block.testDesc (b : Block) (t : Taken) : Block :=
  let (kind, quad, unit) := (byteAt t.bytes 36, byteAt t.bytes 37, byteAt t.bytes 38)
  if byteAt t.bytes 32 ≠ 1 ∨ !zeroAt t.bytes 39 25 ∨ !unitExists kind quad unit then b.complete t 0x0C
  else
    let k := unitKey kind quad unit
    b.modTest (fun x => { x with injected := sput (fun _ => (0 : Nat)) x.injected k 2, descs := sinsert k t.id x.descs })

/-- TEST_INJECT (R460). -/
def execTestInject (id : Nat) (s : State) : Host.Outcome State Fault Refusal := onTray (fun b => b.onDesc 0x63 4 id Block.testDesc) s

end Sys2Proof.Machine
end

