-- ==== Sys2Proof/Machine/Stewards.lean ====
section
/-! DEFINITION. The stewards (spec/19): booting, planned and fault restarts, firmware activation, faults and dumps, the flash window. -/

namespace Sys2Proof.Machine

/-! ### Steward state -/

/-- Steward `s`. -/
def Block.steward (b : Block) (s : Nat) : Steward := sget (fun _ => ({} : Steward)) b.tray.stewards s

/-- Change a steward. -/
def Block.modSteward (b : Block) (s : Nat) (f : Steward → Steward) : Block :=
  { b with tray := { b.tray with stewards := smodify (fun _ => ({} : Steward)) b.tray.stewards s f } }

/-- The order in which the boot verifier takes the stewards (R442): health, time, host, ingest, plan, search. -/
def bootOrder : List Nat := [4, 3, 5, 0, 1, 2]

/-- The steward after another one in the boot order. -/
def bootNext (s : Nat) : Option Nat := match s with | 4 => some 3 | 3 => some 5 | 5 => some 0 | 0 => some 1 | 1 => some 2 | _ => none

/-- The verifier takes up a steward. -/
def Block.startVerify (b : Block) (s : Nat) : Block := b.modSteward s (fun x => { x with phase := 1 })

/-- The steward that carries out an opcode (R437); the boot verifier carries out FW_ACTIVATE and STW_RESTART. -/
def descSteward (op : Nat) : Option Nat :=
  if op ∈ [0x10, 0x11, 0x12, 0x13, 0x14, 0x15, 0x16, 0x30, 0x31, 0x32, 0x33, 0x34, 0x35, 0x36, 0x37, 0x38] then some 1
  else if op ∈ [0x17, 0x20, 0x21, 0x22] then some 2
  else if op ∈ [0x53, 0x60, 0x63] then some 4
  else if op ∈ [0x61, 0x62] then none
  else some 5

/-- A descriptor that a steward holds: one that it carries out, or, for the host steward, one that waits for its turn. -/
def heldBy (s : Nat) (t : Taken) : Bool := if t.begun then descSteward t.opcode == some s else s == 5

/-- A held descriptor ends at a restart without a handoff (R444). -/
def Block.endHeldDesc (b : Block) (t : Taken) : Block :=
  if t.opcode = 0x10 then
    match b.ctxIds.find? (fun c => (b.ctx c).startDesc == some t.id) with
    | some c => b.abortStart c 2
    | none => b.complete t 0x0E
  else (b.dropJobs (fun d => d == t.id)).complete t 0x0D

/-- Every descriptor that a steward holds ends (R444). -/
def Block.endHeld (b : Block) (s : Nat) : Block := b.forEach (b.tray.host.taken.filter (heldBy s)) Block.endHeldDesc

/-! ### Running -/

/-- What the health steward does when it runs: after a reset the log, the seal scan and the harvest list; then the places of the dies that have
none yet, and a seal crumb that waits (R341, R413, R415, R426, R470). -/
def Block.healthRuns (b : Block) : Block :=
  let b := if b.tray.presence.scanned then b
    else ((b.bootRecorder).scanSeal).applyHarvest
  let b := b.forEach ((List.range 32).filter (fun n => b.tray.present.getLsbD n && !b.tray.placed.getLsbD n)) Block.writePlace
  if b.tray.presence.crumbDue then b.sealCrumb else b

/-- A steward is released at ENTRY of the image of a slot. -/
def Block.release (b : Block) (s slot : Nat) : Block :=
  let h := b.imageHead slot s
  let b := b.modSteward s (fun x => { x with phase := 2, slot := slot, version := fieldAt h 4 4, imageHandoff := byteAt h 21,
                                             wdogStart := b.time.cycles })
  if s = 4 then b.healthRuns else b

/-- The boot verifier finishes a steward (R442): the image of the active slot, else that of the other one, else FAILED_BOOT. -/
def Block.verifyDone (b : Block) (s : Nat) : Block :=
  let a := b.activeSlot s
  let c0 := b.imageCause a s
  let c1 := b.imageCause (1 - a) s
  let b := if c0 = 0 then b.release s a
    else if c1 = 0 then
      (((b.modSteward s (fun x => { x with cause := c0 })).release s (1 - a)).flag Reg.STW_STS 7).healthCrumb 0x1702 s (1 - a)
        (fieldAt (b.imageHead (1 - a) s) 4 4)
    else b.modSteward s (fun x => { x with phase := 5, cause := c1 })
  match bootNext s with
  | some n => if (b.steward n).phase = 0 then b.startVerify n else b
  | none => b

/-! ### Restarts (R443, R444) -/

/-- A restart starts: planned with the handoff of a running steward, or without one, when what the steward holds ends. -/
def Block.startRestart (b : Block) (s : Nat) (planned : Bool) : Block :=
  let x := b.steward s
  let h := if planned && x.phase == 2 then some x.imageHandoff else none
  let b := (b.modSteward s (fun x => { x with phase := 3, handoffVer := h })).count Reg.STW_RESTARTS 1
  if h.isNone then b.endHeld s else b

/-- A planned restart may start: the steward runs, or stays held after faults (R443, R448). -/
def Block.mayRestart (b : Block) (s : Nat) : Bool := (b.steward s).phase == 2 || (b.steward s).phase == 4

/-- The FW_ACTIVATE that runs. -/
def Block.activation (b : Block) : Option Taken := b.tray.host.taken.find? (fun t => t.begun && t.opcode == 0x61)

/-- FW_ACTIVATE restarts the next of its stewards, one that restarts already is waited for, and completes when none is left (R447). -/
def Block.activateNext (b : Block) (t : Taken) : Block :=
  match t.waitDies with
  | [] => b.complete t 0
  | s :: _ =>
    let b := b.setTaken t
    if (b.steward s).phase ∈ [0, 1, 3] then b else b.startRestart s true

/-- A steward has come through a restart or boot: the descriptors that wait for it go on (R381, R447). -/
def Block.cameBack (b : Block) (s : Nat) : Block :=
  let b := if (b.steward s).phase ≠ 2 then b else
    match (b.steward s).desc.bind b.takenById with
    | some t => (b.modSteward s (fun x => { x with desc := none })).complete t 0
    | none => b
  match b.activation with
  | some t => if t.waitDies.head? = some s then b.activateNext { t with waitDies := t.waitDies.tail } else b
  | none => b

/-- STEWARD_VERIFY_DONE (R442). -/
def execStewardVerifyDone (i : Fin 6) (s : State) : Host.Outcome State Fault Refusal :=
  onTray (fun b => b.when ((b.steward i).phase == 1) (fun b => (b.verifyDone i).cameBack i)) s

/-- The reload of a restarting steward from its active slot (R441, R443). -/
def Block.restartDone (b : Block) (s : Nat) : Block :=
  let slot := b.activeSlot s
  let cause := b.imageCause slot s
  let left := (b.steward s).handoffVer
  let takes : Bool := cause == 0 && left == some (byteAt (b.imageHead slot s) 21)
  let b := if left.isSome && !takes then b.endHeld s else b
  let b := b.modSteward s (fun x => { x with handoffVer := none, handoffTaken := takes })
  if cause = 0 then b.release s slot else b.modSteward s (fun x => { x with phase := 5, cause := cause })

/-- STEWARD_RESTART_DONE (R443). -/
def execStewardRestartDone (i : Fin 6) (s : State) : Host.Outcome State Fault Refusal :=
  onTray (fun b => b.when ((b.steward i).phase == 3) (fun b => (b.restartDone i).cameBack i)) s

/-- A write of STW_CMD: each named steward that may restart does. -/
def Block.writeStwCmd (b : Block) (v : Word) : Block :=
  b.forEach ((List.range 6).filter (fun i => v.getLsbD i)) (fun b i => if b.mayRestart i then b.startRestart i true else b)

/-- STW_CMD_RESTART (R443). -/
def execStwCmdRestart (v : Word) (s : State) : Host.Outcome State Fault Refusal := onTray (fun b => b.writeStwCmd v) s

/-- STW_RESTART (R443): it completes when the steward runs again. -/
def Block.stwRestartDesc (b : Block) (t : Taken) : Block :=
  let i := byteAt t.bytes 32
  if 5 < i then b.complete t 0x0C
  else if !b.mayRestart i then b.complete t 0x09
  else (b.modSteward i (fun x => { x with desc := some t.id })).startRestart i true

/-- STW_RESTART (R443). -/
def execStwRestart (id : Nat) (s : State) : Host.Outcome State Fault Refusal := onTray (fun b => b.onDesc 0x62 5 id Block.stwRestartDesc) s

/-- FW_ACTIVATE (R447): the image of every named steward is checked, and each refused one shows its cause (R441); the directory is written,
the stewards restart one at a time. -/
def Block.fwActivateDesc (b : Block) (t : Taken) : Block :=
  let mask := byteAt t.bytes 32
  let slot := byteAt t.bytes 33
  let named := (List.range 6).filter (fun i => bitOf mask i)
  if 1 < slot then b.complete t 0x0C
  else match named.filter (fun i => b.imageCause slot i != 0) with
    | i :: refused =>
      (b.forEach (i :: refused) (fun b' j => b'.modSteward j (fun x => { x with cause := b.imageCause slot j }))).complete t 0x10 0 (leBytes 1 i)
    | [] =>
      let old := b.activeSlots
      let bits := (List.range 6).foldl (fun a i => a + bit (if i ∈ named then slot == 1 else bitOf old i) * 2 ^ i) 0
      (b.writeDirectory bits).activateNext { t with waitDies := named }

/-- FW_ACTIVATE (R447). -/
def execFwActivate (id : Nat) (s : State) : Host.Outcome State Fault Refusal := onTray (fun b => b.onDesc 0x61 5 id Block.fwActivateDesc) s

/-! ### Faults and dumps (R448, R449) -/

/-- The dump of a fault. `core` is what the steward's core held: PC, FADDR, the registers and the stack bytes, as they lie in the dump. -/
def Block.dumpBytes (b : Block) (s cause : Nat) (core : Bytes) : Bytes :=
  let x := b.steward s
  let c := core ++ zeros (16328 - core.length)
  [0xA9, 0x44] ++ leBytes 1 s ++ leBytes 1 cause ++ slice c 0 8 ++ leBytes 4 x.version ++ leBytes 1 x.slot ++ zeros 3 ++
    leBytes 8 b.ft.toNat ++ leBytes 4 b.recorder.hours ++ leBytes 3 b.recorder.pcyc ++ zeros 29 ++ slice c 8 16320

/-- The fault times of the running fault window (R448). -/
def Block.faultsNow (b : Block) (s : Nat) : List Nat :=
  (b.steward s).faultTimes.filter (fun t => decide (b.time.cycles < t + max 1 (b.fld Reg.STW_CTL 31 24) * timHz))

/-- A steward faults (R448): it stops, its dump is captured, and it restarts, or stays held at the fault limit or without AUTO_RESTART. -/
def Block.stewardFault (b : Block) (s cause : Nat) (core : Bytes) : Block :=
  let dump := b.dumpBytes s cause core
  let times := b.faultsNow s ++ [b.time.cycles]
  let full := (b.steward s).dump.isSome
  let b := (b.count Reg.STW_FAULTS 1).flag Reg.STW_STS 6
  let b := if full then b.count Reg.STW_DUMP_LOST 1 else b
  let b := b.modSteward s (fun x => { x with phase := 4, faultTimes := times, dump := if full then x.dump else some dump })
  let b := b.healthCrumb 0x1701 s (b.ft.toNat % 2 ^ 32) (b.ft.toNat / 2 ^ 32)
  let b := b.pushNotice 0x1701 0 (leBytes 4 s ++ leBytes 8 b.ft.toNat)
  if b.isSet Reg.STW_CTL 16 && decide (times.length < max 1 (b.fld Reg.STW_CTL 23 20)) then b.startRestart s false else b

/-- STEWARD_FAULT (R448): `cause` 0 ILLEGAL, 1 ACCESS, 2 SRAM_UE, 3 CALL. -/
def execStewardFault (i : Fin 6) (cause : Fin 4) (core : Bytes) (s : State) : Host.Outcome State Fault Refusal :=
  onTray (fun b => b.when (b.stewardRuns i) (fun b => b.stewardFault i (2 + cause) core)) s

/-- WATCHDOG_EXPIRE (R448): WDOG_MS ms have passed since the latest kick. -/
def execWatchdogExpire (i : Fin 6) (core : Bytes) (s : State) : Host.Outcome State Fault Refusal :=
  onTray (fun b => b.when (b.stewardRuns i &&
    decide ((b.steward i).wdogStart + max 1 (b.fld Reg.STW_CTL 15 0) * (timHz / 1000) ≤ b.time.cycles)) (fun b => b.stewardFault i 1 core)) s

/-- STW_WDOG_WRITE (R448): a kick by the steward itself. -/
def execStwWdogWrite (i : Fin 6) (s : State) : Host.Outcome State Fault Refusal :=
  onTray (fun b => b.when (b.stewardRuns i) (fun b => b.modSteward i (fun x => { x with wdogStart := b.time.cycles }))) s

/-- A write of STW_DUMP_ACK (R449). -/
def Block.writeDumpAck (b : Block) (v : Word) : Block :=
  b.forEach ((List.range 6).filter (fun i => v.getLsbD i)) (fun b i => b.modSteward i (fun x => { x with dump := none }))

/-- STW_DUMP_ACK_WRITE (R449). -/
def execStwDumpAckWrite (v : Word) (s : State) : Host.Outcome State Fault Refusal := onTray (fun b => b.writeDumpAck v) s

/-- A read of STW_DUMP_DATA: the selected word, and WORD advances (R450). An empty buffer reads zero. -/
def Block.readDump (b : Block) : Block :=
  let w := b.fld Reg.STW_DUMP_SEL 11 0
  let d := ((b.steward (b.fld Reg.STW_DUMP_SEL 18 16)).dump).getD []
  { b.setFld Reg.STW_DUMP_SEL 11 0 (w + 1) with rdata := BitVec.ofNat 32 (fieldAt d (4 * w) 4) }

/-- STW_DUMP_DATA_READ (R450). -/
def execStwDumpDataRead (s : State) : Host.Outcome State Fault Refusal := onTray Block.readDump s

/-! ### The flash window (R446, R450) -/

/-- Change the flash window. -/
def Block.modWindow (b : Block) (f : FlashWindow → FlashWindow) : Block := { b with tray := { b.tray with window := f b.tray.window } }

/-- A byte of the window buffer that nothing has written. -/
def bufByte (_ : Nat) : Byte := 0

/-- A write of STW_FL_BUF. -/
def Block.writeFlashBuf (b : Block) (v : Word) : Block :=
  b.modWindow (fun w => { w with buf := sputList bufByte w.buf w.pos (leBytes 4 v.toNat), pos := (w.pos + 4) % 256 })

/-- A read of STW_FL_BUF. -/
def Block.readFlashBuf (b : Block) : Block :=
  let w := b.tray.window
  { b.modWindow (fun w => { w with pos := (w.pos + 4) % 256 }) with rdata := BitVec.ofNat 32 (leNat (sgetList bufByte w.buf w.pos 4)) }

/-- STW_FL_BUF_ACCESS (R450). -/
def execStwFlBufAccess (isRead : Bool) (v : Word) (s : State) : Host.Outcome State Fault Refusal :=
  onTray (fun b => if isRead then b.readFlashBuf else b.writeFlashBuf v) s

/-- A flash address that a window command may not name (R446). -/
def Block.flashClosed (b : Block) (a : Nat) : Bool :=
  if a < 0x20000 then true
  else if a < 0x40000 then b.tray.recordCopy == some ((a - 0x20000) / sectorSize) || !b.presenceHeld
  else if a < 0x100000 then true
  else if a < 0x700000 then b.activeSlot ((a - 0x100000) / 0x100000) == 0
  else if a < 0xD00000 then b.activeSlot ((a - 0x700000) / 0x100000) == 1
  else true

/-- A write of STW_FL_CMD: the position returns to 0; the command is refused, or it runs, a program with the buffer as it stands (R446,
R450). -/
def Block.writeFlashCmd (b : Block) (op : Nat) : Block :=
  let a := b.fld Reg.STW_FL_ADDR 31 8 * 256
  let busy := b.tray.window.op != 0
  let b := b.modWindow (fun w => { w with pos := 0 })
  if op = 0 then b
  else if busy || b.flashClosed a || b.activation.isSome || !b.stewardRuns 4 then b.flag Reg.STW_FL_STS 2
  else
    b.modWindow (fun w => { w with op := op, addr := a, data := if op = 2 then sgetList bufByte w.buf 0 256 else [] })

/-- FLASH_ERASE (R446). -/
def execFlashErase (s : State) : Host.Outcome State Fault Refusal := onTray (fun b => b.writeFlashCmd 1) s

/-- FLASH_PROGRAM (R446). -/
def execFlashProgram (s : State) : Host.Outcome State Fault Refusal := onTray (fun b => b.writeFlashCmd 2) s

/-- FLASH_READ (R446, R450). -/
def execFlashRead (s : State) : Host.Outcome State Fault Refusal := onTray (fun b => b.writeFlashCmd 3) s

/-- The running command finishes (R446): a sector is erased; 256 bytes are written and read back, and a mismatch shows; a read fills the buffer
from its start. -/
def Block.flashCmdDone (b : Block) : Block :=
  let w := b.tray.window
  let b := match w.op with
    | 1 => b.flashErase w.addr
    | 2 =>
      let b := b.flashProgram w.addr w.data
      if b.flashRead w.addr 256 = w.data then b else b.flag Reg.STW_FL_STS 3
    | _ => b.modWindow (fun x => { x with buf := sputList bufByte x.buf 0 (b.flashRead w.addr 256), pos := 0 })
  (b.flag Reg.STW_FL_STS 1).modWindow (fun x => { x with op := 0, data := [] })

/-- FLASH_CMD_DONE (R446). -/
def execFlashCmdDone (s : State) : Host.Outcome State Fault Refusal :=
  onTray (fun b => b.when (b.tray.window.op != 0 && b.stewardRuns 4) Block.flashCmdDone) s

end Sys2Proof.Machine
end

