-- ==== Sys2Proof/Machine/Trigger.lean ====
section
/-! DEFINITION. The trigger engine of Borlu-D (R262 to R265): its tree store, its features, its evaluations. -/

namespace Sys2Proof.Machine

/-! ### The tree store (R264) -/

/-- The 2,048 bytes of tree `t` of the trigger store. -/
def TriggerUnit.tree (u : TriggerUnit) (t : Nat) : Bytes :=
  ((List.range 512).map (fun i => leBytes 4 (sget (fun _ => (0 : Word)) u.store (512 * t + i)).toNat)).flatten

/-- Tree `t` is marked valid or not. -/
def Block.putTrigValid (b : Block) (t : Nat) (v : Bool) : Block := b.putBit (Reg.ENS_TSTORE_VALID_LO + 4 * (t / 32)) (t % 32) v

/-- Tree `t` is valid. -/
def Block.trigValid (b : Block) (t : Nat) : Bool := b.maskBit Reg.ENS_TSTORE_VALID_LO t

/-- A write that R265 refuses. -/
def Block.trigRefused (b : Block) : Block := b.flag Reg.ENS_TRG_STS 3

/-- The trigger engine is enabled. -/
def Block.trigOn (b : Block) : Bool := b.isSet Reg.ENS_TRG_CTL 31

/-- A write of ENS_TSTORE_DATA (R264, R265). -/
def Block.writeTstoreData (b : Block) (v : Word) : Block :=
  if b.trigOn then b.trigRefused
  else
    let a := b.fld Reg.ENS_TSTORE_ADDR 16 2
    let t := a / 512
    let b := (b.modTrig (fun u => { u with store := sput (fun _ => (0 : Word)) u.store a v })).putTrigValid t false
    let b := b.setFld Reg.ENS_TSTORE_ADDR 16 2 (a + 1)
    if a % 512 ≠ 511 then b
    else if treeGood false (b.die.trig.tree t) then b.putTrigValid t true
    else b.flag Reg.ENS_TRG_STS 2

/-- ENS_TSTORE_DATA_WRITE (R264). -/
def execEnsTstoreDataWrite (v : Word) (s : State) : Host.Outcome State Fault Refusal := onDie (fun b => b.writeTstoreData v) s

/-! ### Enabling (R265) -/

/-- The words of the trigger ensembles. -/
def Block.trigEns (b : Block) (e : Nat) : Nat := (b.reg (Reg.ENS_TRG_ENS + 4 * e)).toNat

/-- The trees of a trigger ensemble: FIRST to FIRST + COUNT. -/
def trigTrees (w : Nat) : List Nat := (List.range (bitsOf w 13 8 + 1)).map (· + bitsOf w 5 0)

/-- The enabled trigger ensembles. -/
def Block.trigEnabled (b : Block) : List Nat := (List.range 8).filter (fun e => bitOf (b.trigEns e) 31)

/-- Every enabled ensemble names valid trees of the store. -/
def Block.trigReady (b : Block) : Bool :=
  b.trigEnabled.all (fun e => (trigTrees (b.trigEns e)).all (fun t => decide (t ≤ 63) && b.trigValid t))

/-- A write of ENS_TRG_CTL (R265): EN = 1 is taken where every enabled ensemble is ready, and the evaluations count from its cycle; the
engine begins anew only where EN was 0. A reserved PER keeps the old value (R10). -/
def Block.writeTrgCtl (b : Block) (v : Word) : Block :=
  let per := bitsOf v.toNat 3 0
  let per := if 9 ≤ per then b.fld Reg.ENS_TRG_CTL 3 0 else per
  let w := bitsOf v.toNat 10 8 * 2 ^ 8 + per
  if !v.getLsbD 31 then b.setReg Reg.ENS_TRG_CTL (BitVec.ofNat 32 w)
  else if !b.trigReady then b.trigRefused
  else
    let fresh := !b.trigOn
    (b.setReg Reg.ENS_TRG_CTL (BitVec.ofNat 32 (w + 2 ^ 31))).modTrig (fun u =>
      let u := { u with start := b.time.cycles, period := 0 }
      if fresh then { u with evaluated := [], first := true, losses := [] } else u)

/-- ENS_TRG_CTL_WRITE (R265). -/
def execEnsTrgCtlWrite (v : Word) (s : State) : Host.Outcome State Fault Refusal := onDie (fun b => b.writeTrgCtl v) s

/-! ### Evaluation (R262, R263, R265) -/

/-- The counter of a source space: its bank and count, none where the space holds no counter. -/
def trigBank (space : Nat) : Option (Nat × Nat) := match space with | 1 => some (0, 4096) | 2 => some (1, 64) | 3 => some (3, 512) | _ => none

/-- The value of trigger feature `n`; none when missing (R262). -/
def Block.trigValue (b : Block) (n : Nat) : Option Int :=
  let w := (b.reg (Reg.ENS_TRG_FEAT + 4 * n)).toNat
  let i := bitsOf w 11 0
  let space := bitsOf w 14 12
  let u := b.die.trig
  if !bitOf w 31 then none
  else match trigBank space with
    | some (bank, size) =>
      if u.first ∨ size ≤ i then none
      else some (sat32 ((b.counter bank i).v - sget (fun _ => 0) u.counts (4096 * bank + i) : Int))
    | none => match space with
      | 4 => if 64 ≤ i then none else match sget (fun _ => 0) u.levels i with | 0 => none | l + 1 => some l
      | 5 => if 64 ≤ i then none else some (b.slipOf i)
      | 6 => if 32 ≤ i then none else (b.sensorNow i).map Int.ofNat
      | 7 => if 64 ≤ i then none else some (sat32 (((sget (fun _ => (0 : Nat)) u.losses i : Nat)) : Int))
      | _ => none

/-- The code of trigger feature `n` (R263). -/
def Block.trigCode (b : Block) (n : Nat) : Nat :=
  match b.trigValue n with
  | none => 15
  | some v => ((List.range 14).filter (fun i => decide ((b.reg (Reg.ENS_TRG_EDGE + 64 * n + 4 * i)).toInt ≤ v))).length

/-- The code bytes of the trigger vector: 256 slots of 4 bits (R262). -/
def Block.trigCodes (b : Block) : Bytes :=
  (List.range 128).map (fun j => if j < 32 then BitVec.ofNat 8 (b.trigCode (2 * j) + 16 * b.trigCode (2 * j + 1)) else 0xFF)

/-- An ensemble fires (R265): the ENGINE start source is seen, and TRG_ALARM leaves. -/
def Block.trigFire (b : Block) (e : Nat) (score : Int) : Block :=
  let w := b.trigEns e
  let c := b.fld Reg.ENS_TRG_CTL 10 8
  let b := if bitOf w 30 then (b.triggerSeen 1 0).flag Reg.ENS_TRG_STS 0 else b
  if !bitOf w 29 then b
  else
    let param := e + (BitVec.ofInt 24 score).toNat * 2 ^ 8
    let b := b.flag Reg.ENS_TRG_STS 1
    if (b.ctx c).isActive then b.raiseAlarm c 0x0C02 12 (some (b.ctx c).rank) (windowOf (b.ctx c).k b.ft) param
    else
      let (f, b) := b.freeNat
      let win := if (b.ctx 8).phase = .free then f % 2 ^ 40 else windowOf (b.ctx 8).k b.ft
      let c : Option Nat := if (b.ctx 8).phase = .free then none else some 8
      b.sendAlarm c c .tray win
        [alarmRecord 0x0C02 12 (!b.time.valid) none win b.ft 1 param]

/-- The score of one ensemble, its register, and whether it fires (R265). -/
def Block.trigScore (b : Block) (codes : Bytes) (e : Nat) : Block :=
  let w := b.trigEns e
  let out := bitsOf w 28 27
  let score := (trigTrees w).foldl (fun a t =>
    let img := b.die.trig.tree t
    a + treeLeaf img (leafIndex [] img codes) out) (0 : Int)
  let above := decide ((signed 24 (b.fld (Reg.ENS_TRG_THR + 4 * e) 23 0)) ≤ score)
  let r := Reg.ENS_TRG_SCORE + 4 * e
  let was := decide (e ∈ b.die.trig.evaluated) && b.isSet r 31
  let b := (b.setFld r 23 0 (BitVec.ofInt 24 score).toNat).putBit r 31 above
  let b := b.modTrig (fun u => { u with evaluated := addOnce e u.evaluated })
  if above && !was then b.trigFire e score else b

/-- The counters that an evaluation has seen. -/
def Block.trigMark (b : Block) : Block :=
  b.modTrig (fun u => { u with
    counts := (b.die.taps.counters.filter (fun e => e.1 / 4096 != 2)).map (fun e => (e.1, e.2.v)), losses := [], first := false })

/-- An evaluation (R265). -/
def Block.trigEval (b : Block) : Block :=
  let codes := b.trigCodes
  (b.forEach b.trigEnabled (fun b e => b.trigScore codes e)).trigMark

/-- TRIGGER_EVAL (R265): EN is 1, the engine is not held (R451), and 2^m cycles have passed. The first evaluation comes 2^m cycles after
EN was written (log 19). -/
def execTriggerEval (s : State) : Host.Outcome State Fault Refusal :=
  onDie (fun b =>
    let i := (b.time.cycles - b.die.trig.start) / 2 ^ (b.fld Reg.ENS_TRG_CTL 3 0 + 8)
    b.when (b.trigOn && b.power.phase == 0 && i != b.die.trig.period) (fun b =>
      b.trigEval.modTrig (fun u => { u with period := i }))) s

end Sys2Proof.Machine
end

