-- ==== Sys2Proof/Machine/Power.lean ====
section
/-! DEFINITION. Power states (R451 to R453, R456), and samples of the sensors that a command brings (R454). -/

namespace Sys2Proof.Machine

/-- Change the power unit. -/
def Block.modPower (b : Block) (f : PowerUnit → PowerUnit) : Block := { b with power := f b.power }

/-! ### Transitions (R452) -/

/-- No context holds a job. -/
def Block.allFree (b : Block) : Bool := b.ctxs.all (fun e => e.2.phase == .free)

/-- A level role is held: active or standby. -/
def Block.holdsRole (b : Block) : Bool := b.tray.roles.any (fun e => e.2.role != 0)

/-- A transition is listed in R452 and its condition holds. -/
def Block.mayGo (b : Block) (to_ : Nat) : Bool :=
  match b.build, b.power.phase, to_ with
  | _, 3, _ => false
  | _, _, 3 => b.allFree
  | .T, 0, 1 => true
  | .T, 1, 0 => true
  | .T, 1, 2 => b.allFree && !b.holdsRole
  | .T, 2, 1 => true
  | .D, 0, 1 => true
  | .D, 1, 0 => true
  | .D, 0, 2 => b.allFree
  | .D, 1, 2 => b.allFree
  | .D, 2, 0 => true
  | .D, 2, 1 => true
  | _, _, _ => false

/-- The transition time: the lowest multiple of 2^max(10, k_max) µs at least 64 µs after FT (R452). -/
def Block.powerTime (b : Block) : BitVec 64 :=
  let n := windowTicks (max 10 b.kMax)
  BitVec.ofNat 64 ((b.ft.toNat + 64 * ticksPerUs + n - 1) / n * n)

/-- A refused transition. -/
def Block.powerRefused (b : Block) : Block := b.flag Reg.PWR_STS 6

/-- P1 quenches a context at its cut, and its image goes to the checkpoint region (R452). A QUENCH descriptor that waits for a later cut waits
until the context has run on from P0 (DESIGN CHOICE, log 75). -/
def Block.quenchForP1 (b : Block) (c : Nat) : Block :=
  let x := b.ctx c
  if x.quenched then b
  else
    let l := ((if x.catchup then x.nextBehind else x.nextPass) + 2 ^ 40 - 1) % 2 ^ 40
    let (img, b) := b.takeImage c l
    (b.histWrite 3 0 (classOfLevel x.level) { job := x.job, epoch := x.epoch, w := l, kind := 0, level := x.level, ft := b.ft.toNat, bytes := img }).modCtx c
      (fun x => { x.freeze l with parked := img })

/-- P0 restores a context that P1 quenched (R452). -/
def Block.restoreFromP1 (b : Block) (c : Nat) : Block :=
  let x := b.ctx c
  let img := x.parked
  if img.isEmpty then b
  else
    (b.startCatchup c (b.imageSnapshot img)).modCtx c (fun y => { y with parked := [], quenchAt := x.quenchAt, quenchDesc := x.quenchDesc })

/-- The contexts that are not FREE. -/
def Block.busyCtxs (b : Block) : List Nat := b.ctxIds.filter (fun c => (b.ctx c).phase != .free)

/-- What a Borlu-T does at T. -/
def Block.trayPower (b : Block) (old new : Nat) : Block :=
  match old, new with
  | 0, 1 => b.forEach b.busyCtxs Block.quenchForP1
  | 1, 0 => b.forEach b.busyCtxs Block.restoreFromP1
  | 1, 2 => b.forEach [0, 1, 2, 3] (fun b s => b.modSteward s (fun x => { x with phase := 0 }))
  | 2, 1 => b.forEach [0, 1, 2, 3] (fun b s => b.startRestart s false)
  | _, 3 => (b.flushQueue.logGap.flushQueue).modPower (fun p => { p with offReady := true })
  | _, _ => b

/-- The trace unit of a die leaves RUN: as for a write of TRC_CTL.EN = 0. -/
def Block.holdTrace (b : Block) : Block :=
  let on := b.isSet Reg.TRC_CTL 31
  (b.writeTrcCtl (b.reg Reg.TRC_CTL &&& 0x7FFFFFFF)).modPower (fun p => { p with heldTrc := on })

/-- The trace unit and the trigger engine of a die come back to RUN: as for a write of their EN bits with the values they held. -/
def Block.unholdTrace (b : Block) : Block :=
  let b := if b.power.heldTrc then b.writeTrcCtl (setB (b.reg Reg.TRC_CTL) 31) else b
  let ctl := b.reg Reg.ENS_TRG_CTL
  if b.trigOn then (b.setFld Reg.ENS_TRG_CTL 31 31 0).writeTrgCtl ctl else b

/-- What a Borlu-D does at T before it enters its new state. -/
def Block.dieLeaves (b : Block) (old new : Nat) : Block :=
  let b := if old = 0 then b.holdTrace else b
  if 2 ≤ new ∧ old < 2 then (b.endWords.abortSlots).invalidate else b

/-- The transition at T. -/
def Block.applyPower (b : Block) (new : Nat) : Block :=
  let old := b.power.phase
  let b := match b.build with | .D => b.dieLeaves old new | .T => b.trayPower old new
  let b := b.modPower (fun p => { p with phase := new, target := none })
  let b := if b.build = .D ∧ new = 0 then b.unholdTrace else b
  let b := if b.build = .D ∧ new = 3 then b.modPower (fun p => { p with offReady := true }) else b
  match b.power.desc.bind b.takenById with
  | some t => (b.modPower (fun p => { p with desc := none })).complete t 0
  | none => b

/-- POWER_TRANSITION (R452, R453): T has come; a die whose FT is not valid does not wait for it. A Borlu-T changes its state only while its
health steward runs (R437). -/
def execPowerTransition (b : Build) (s : State) : Host.Outcome State Fault Refusal :=
  onBlock b (fun x =>
    match x.power.target with
    | none => x
    | some n => x.when ((x.build == .D && !x.time.valid) || (ftGe x.ft x.power.time && (x.build == .D || x.stewardRuns 4))) (fun x => x.applyPower n)) s

/-! ### POWER descriptors and records (R452, R456) -/

/-- The die slots of a mask. -/
def maskSlots (m : Nat) : List Nat := (List.range 32).filter (fun s => bitOf m s)

/-- A POWER descriptor of scope 1 that still waits for one of some slots ends CANCELLED (R453). -/
def Block.replacePower (b : Block) (id : Nat) (slots : List Nat) : Block :=
  let old := b.tray.host.taken.filter (fun t => t.begun && t.opcode == 0x60 && t.id != id && byteAt t.bytes 33 == 1 &&
    t.waitDies.any (fun s => s ∈ slots))
  b.forEach old (fun b t => b.complete t 0x0D)

/-- The end of a POWER descriptor of scope 1: NOT_PERMITTED when a die refused. -/
def Block.powerEnd (b : Block) (t : Taken) : Block := b.complete t (if 0 < t.refused then 0x09 else 0)

/-- POWER (R452, R453). -/
def Block.powerDesc (b : Block) (t : Taken) : Block :=
  let to_ := byteAt t.bytes 32
  let scope := byteAt t.bytes 33
  let time := b.powerTime
  if 3 < to_ ∨ 1 < scope then b.complete t 0x0C
  else if scope = 1 then
    let slots := maskSlots (fieldAt t.bytes 36 4)
    let b := b.replacePower t.id slots
    let b := b.forEach slots (fun b s => b.sendControl none (.die s) 0x0902 (leBytes 1 to_ ++ zeros 7 ++ leBytes 8 time.toNat))
    if slots.isEmpty then b.powerEnd t else b.setTaken { t with waitDies := slots, deadline := ftAdd b.ft b.dieTmo }
  else if !b.mayGo to_ then b.powerRefused.complete t 0x09
  else
    let b := match b.power.desc.bind b.takenById with | some x => b.complete x 0x0D | none => b
    b.modPower (fun p => { p with target := some to_, time := time, desc := some t.id })

/-- POWER (R452). -/
def execPower (id : Nat) (s : State) : Host.Outcome State Fault Refusal := onTray (fun b => b.onDesc 0x60 4 id Block.powerDesc) s

/-- A POWER record at a die: it is answered, and the transition waits for T, or acts at once while FT is not valid. -/
def Block.powerRecord (b : Block) (_f : Frame) (r : Bytes) : Block :=
  let to_ := byteAt r 8
  let answer (b : Block) (st : Nat) : Block := b.sendControl none .tray 0x0903 (leBytes 1 st ++ zeros 7)
  if 3 < to_ then b.recordBad
  else if !b.mayGo to_ then answer b.powerRefused 0x09
  else
    let b := (answer b 0).modPower (fun p => { p with target := some to_, time := BitVec.ofNat 64 (fieldAt r 16 8) })
    if b.time.valid then b else b.applyPower to_

/-- POWER_RECORD_RECEIVE (R452). -/
def execPowerRecordReceive (link : Fin 64) (frame : Bytes) (s : State) : Host.Outcome State Fault Refusal :=
  onDie (fun b => b.receiveControl link frame 0x0902 Block.powerRecord) s

/-- A POWER_RESP record (R456); one with a reserved status is discarded (R11). -/
def Block.powerResp (b : Block) (f : Frame) (r : Bytes) : Block :=
  match b.waiting 0x60 (slotOf f.srcDa) (fun _ => true) with
  | none => b
  | some t =>
    if !(byteAt r 8 ∈ [0, 9]) then b.recordBad else
    let t := t.answered (slotOf f.srcDa) (byteAt r 8 == 0)
    if t.waitDies.isEmpty then b.powerEnd t else b.setTaken t

/-- POWER_RESP_RECEIVE (R452). -/
def execPowerRespReceive (port : Fin 8) (link : Fin 64) (frame : Bytes) (s : State) : Host.Outcome State Fault Refusal :=
  let _ := port
  onTray (fun b => b.receiveControl link frame 0x0903 Block.powerResp) s

/-! ### Sensors (R454) -/

/-- Corrected and uncorrected errors of the memories of a Borlu-D since its latest sample: light counters 59 and 60 (R93). No row of the
table is such an error, and they come with a sample: DESIGN CHOICE (log 40). -/
def Block.memoryErrors (b : Block) (errors : Nat × Nat) : Block :=
  b.when (b.build == .D) (fun b => (b.lightAdd 59 errors.1).lightAdd 60 errors.2)

/-- What the sensor port of a Borlu-D presents from now on: the later captures of a sample. -/
def Block.presentSamples (b : Block) (samples : Samples) : Block :=
  match b.build with
  | .D =>
    let next := (List.range 32).foldl (fun t ch => sput (fun _ => (none : Option (BitVec 16))) t ch (samples.again.getD ch none)) b.die.sensors
    { b with die := { b.die with sensors := next } }
  | .T => b

/-- The sample of a channel (R454, R477, R482): in a Borlu-D the common code of its two captures, missing where they differ; in a Borlu-T
channel 24 + n is that of the n-th device of the I3C bus, missing where no such device answers. -/
def sampleTaken (x : Samples) (b : Block) (ch : Nat) : Option (BitVec 16) :=
  let code := x.codes.getD ch none
  match b.build with
  | .D => if code = x.again.getD ch none then code else none
  | .T => if ch < 24 + b.tray.i3c.length then code else none

/-- SENSOR_SAMPLE (R454). -/
def execSensorSample (b : Build) (samples : Samples) (s : State) : Host.Outcome State Fault Refusal :=
  onBlock b (fun x =>
    let x := x.presentSamples samples
    x.when (x.power.phase != 3 && (x.build == .T || !x.asleep))
      (fun x => (x.memoryErrors samples.errors).forEach (List.range 32) (fun x ch => x.sampleChannel ch (sampleTaken samples x ch)))) s

end Sys2Proof.Machine
end

