-- ==== Sys2Proof/Machine/View.lean ====
section
/-! DEFINITION. What a read of a register returns (R6, R464, R466). A register that mirrors other state is a view of that state; every
other one is the stored word. -/

namespace Sys2Proof.Machine

/-- The index of an offset in an array of `n` registers. -/
def inArray (base n off : Nat) : Option Nat := if base ≤ off ∧ off < base + 4 * n then some ((off - base) / 4) else none

/-- A word from a number. -/
def word (n : Nat) : Word := BitVec.ofNat 32 n

/-! ### Views, by unit -/

/-- ID_ (R468): the straps show in ID_DA and ID_STRAP. -/
def Block.viewId (b : Block) (off : Nat) (w : Word) : Word :=
  match b.build with
  | .D => if off = Reg.ID_DA then wordPut w 12 8 b.strapSlot.toNat
          else if off = Reg.ID_STRAP then word (bit b.strapLocal * 32 + b.strapSlot.toNat) else w
  | .T => if off = Reg.ID_STRAP then word (bit b.strapPkg) else w

/-- TIM_ (R63). -/
def Block.viewTim (b : Block) (off : Nat) (w : Word) : Word :=
  if off = Reg.TIM_STS then
    wordPut (wordPut (wordPut (wordPut w 9 8 b.time.modeNow) 2 2 (bit (b.time.hold != 0))) 1 1 (bit b.tempered)) 0 0 (bit b.time.valid)
  else if off = Reg.TIM_FT_LO then word b.ft.toNat
  else if off = Reg.TIM_PULSE_FT_LO then word b.time.pulse.toNat
  else if off = Reg.TIM_HOLD_LEFT then word (satTo (2 ^ 32 - 1) (b.time.hold / 2 ^ 32))
  else w

/-- PTP_ (R78). -/
def Block.viewPtp (b : Block) (off : Nat) (w : Word) : Word :=
  let stamp := ((b.selectedFifo.head?.map StampRec.stamp).getD 0).toNat
  if off = Reg.PTP_TS_LO then word stamp
  else if off = Reg.PTP_TS_HI then word (stamp / 2 ^ 32)
  else if off = Reg.PTP_TS_META then stampMeta b.selectedFifo
  else if off = Reg.PTP_TS_OVFL then word (sget (fun _ => 0) b.tray.ptp.ovfl (b.fld Reg.PTP_TS_SEL 1 0))
  else if off = ptpReg Reg.PTP_TLQ_STS 0 then wordPut w 4 0 (b.launches 0).length
  else if off = ptpReg Reg.PTP_TLQ_STS 1 then wordPut w 4 0 (b.launches 1).length
  else w

/-- The counters of a bank. -/
def bankSize (bank : Nat) : Nat := match bank with | 0 => 4096 | 1 => 64 | 2 => 256 | 3 => 512 | _ => 0

/-- The counter that CNT_RD_SEL selects; an index beyond its bank reads zero. -/
def Block.selectedCounter (b : Block) : Counter :=
  let bank := b.fld Reg.CNT_RD_SEL 31 28
  let i := b.fld Reg.CNT_RD_SEL 11 0
  if i < bankSize bank then b.counter bank i else {}

/-- CNT_ (R105). -/
def Block.viewCnt (b : Block) (off : Nat) (w : Word) : Word :=
  if off = Reg.CNT_RD_LO then word b.selectedCounter.v
  else match inArray Reg.CNT_CMD_CUR 64 off with
    | some p => let c := (b.tapPort p).cmd
                word (bit c.opened * 2 ^ 31 + c.tag % 2 ^ 22)
    | none => w

/-- TXN_ (R105). -/
def Block.viewTxn (b : Block) (off : Nat) (w : Word) : Word :=
  match inArray Reg.TXN_SLOT 8 off with
  | some i => let x := b.slot i
              word (bit x.opened * 2 ^ 31 + bit x.sat * 2 ^ 30 + x.region % 64 * 2 ^ 20 + x.cls % 256 * 2 ^ 12 + x.request % 4096)
  | none => w

/-- The grant in a slot. -/
def Block.grantAt (b : Block) (g : Nat) : Option TraceGrant := sget (fun _ => (none : Option TraceGrant)) b.die.trace.grants g

/-- TRC_ (R134). -/
def Block.viewTrc (b : Block) (off : Nat) (w : Word) : Word :=
  let t := b.die.trace
  let grant (g : Nat) (f : TraceGrant → Nat) : Word := match b.grantAt g with | some x => word (f x) | none => 0
  if off = Reg.TRC_STS then
    wordPut (wordPut (wordPut (wordPut w 12 10 t.phase) 9 9 (bit (t.stall != 0))) 8 8 (bit t.dropping)) 7 7 (bit t.linkUp)
  else if off = Reg.TRC_XCL_LO then word t.suppressed.toNat
  else if off = Reg.TRC_XCL_HI then word (t.suppressed.toNat / 2 ^ 32)
  else match inArray Reg.TRC_GRANT_CTL 20 off with
    | none => w
    | some i =>
      match i / 4 with
      | 0 => grant (i % 4) (fun x => 2 ^ 31 + x.ctx % 8)
      | 1 => grant (i % 4) (fun x => x.mask.toNat)
      | 2 => grant (i % 4) (fun x => x.mask.toNat / 2 ^ 32)
      | 3 => grant (i % 4) (fun x => x.expiry.toNat)
      | _ => grant (i % 4) (fun x => x.expiry.toNat / 2 ^ 32)

/-- A 64-bit counter by its LO offset. -/
def Block.wideAt (b : Block) (lo : Nat) : Nat := sget (fun _ => (0 : Nat)) b.wide lo

/-- The windows of a context that are open for collection at a node (R166, R188). -/
def Block.openWindows (b : Block) (x : Ctx) : Nat :=
  if x.isActive then satTo 8 (windowDiff (windowOf x.k b.ft) x.openWin + 1).toNat else 0

/-- FRM_ (R188). -/
def Block.viewFrm (b : Block) (off : Nat) (w : Word) : Word :=
  match inArray Reg.FRM_CTX 64 off, inArray Reg.FRM_ALLOW 64 off, inArray Reg.FRM_SEQ 64 off, inArray Reg.FRM_EPOCH 64 off with
  | some c, _, _, _ =>
    let x := b.ctx c
    let tray := match b.build with | .D => 0 | .T => b.openWindows x * 2 ^ 23 + x.close % 4096
    word (bit x.isActive * 2 ^ 31 + x.k % 16 * 2 ^ 27 + tray)
  | _, some c, _, _ => let a := (b.ctx c).allow
                       word (a.getD 0 0 % 256 + a.getD 1 0 % 256 * 2 ^ 8 + a.getD 2 0 % 256 * 2 ^ 16 + a.getD 3 0 % 256 * 2 ^ 24)
  | _, _, some c, _ => word (b.ctx c).seq
  | _, _, _, some c => word (b.ctx c).epoch
  | _, _, _, _ => w

/-- The code of a context state (R190). -/
def CtxPhase.code : CtxPhase → Nat
  | .free => 0 | .prepared => 1 | .armed => 2 | .active => 3 | .draining => 4 | .releaseQueued => 5

/-- The tray ranks of a context in a member state. -/
def Ctx.memberCount (x : Ctx) (p : MemberPhase) : Nat := satTo 63 (x.members.filter (fun m => m.2.phase == p)).length

/-- MBR_RANK_STS of the rank that MBR_RANK_SEL selects, as it is in force (R216). -/
def Block.rankStatus (b : Block) : Word :=
  let x := b.ctx (bitsOf b.periods.sel.toNat 29 24)
  match if x.phase = .active then x.members.find? (fun m => m.1 == bitsOf b.periods.sel.toNat 17 0) else none with
  | none => word (5 * 2 ^ 29)
  | some (_, m) => word (m.phase.code * 2 ^ 29 + m.evidence % 16 * 2 ^ 25 + satTo 255 m.missed * 2 ^ 17)

/-- MBR_ (R216). -/
def Block.viewMbr (b : Block) (off : Nat) (w : Word) : Word :=
  if off = Reg.MBR_STS then
    wordPut w 5 5 (bit ((b.jobNodes 0).any (fun c => (b.ctx c).phase == .active)))
  else if off = Reg.MBR_RANK_STS then b.rankStatus
  else if off = Reg.MBR_SWITCH then wordPut w 15 8 (b.ctxs.filter (fun e => e.2.phase == .releaseQueued)).length
  else
    match inArray Reg.MBR_CTX 64 off, inArray Reg.MBR_CTX_RANKS 64 off, inArray Reg.MBR_STATE_CNT 64 off with
    | some c, _, _ =>
      let x := b.ctx c
      let level := match b.build with | .D => if x.phase = .free then 0 else 3 | .T => x.level
      word (x.phase.code * 2 ^ 29 + level % 16 * 2 ^ 25 + bit x.partialStart * 2 ^ 24 + x.job % 2 ^ 16)
    | _, some c, _ => word ((b.ctx c).ranks % 2 ^ 19)
    | _, _, some c =>
      let n := (b.ctx c).memberCount
      word (n .retired * 2 ^ 24 + n .silent * 2 ^ 18 + n .contested * 2 ^ 12 + n .suspect * 2 ^ 6 + n .live)
    | _, _, _ =>
      match inArray Reg.MBR_ROLE 4 off, inArray Reg.MBR_GEN 4 off with
      | some l, _ => let r := b.roleAt (6 + l)
                     word (r.role % 4 * 2 ^ 30 + r.index % 4 * 2 ^ 28)
      | _, some l => word (b.roleAt (6 + l)).gen
      | _, _ => w

/-- The detector that FTZ_DET_SEL and FTZ_DET_IDX select (R238). -/
def Block.selectedDetector (b : Block) : Option Detector :=
  let r := (b.ctx (b.fld Reg.FTZ_DET_SEL 29 24)).an.rank (b.fld Reg.FTZ_DET_SEL 17 0)
  if r.seen then some (sget (fun _ => ({} : Detector)) r.dets (b.fld Reg.FTZ_DET_IDX 9 0)) else none

/-- FTZ_ (R238). -/
def Block.viewFtz (b : Block) (off : Nat) (w : Word) : Word :=
  let d := b.selectedDetector
  let sum (f : Detector → Nat) : Word := match d with | some x => word (bit x.sat * 2 ^ 31 + f x % 2 ^ 31) | none => 0
  if off = Reg.FTZ_DET_IDX then wordPut w 17 16 ((d.map (fun x => x.out)).getD 3)
  else if off = Reg.FTZ_DET_SPOS then sum (fun x => x.up)
  else if off = Reg.FTZ_DET_SNEG then sum (fun x => x.down)
  else w

/-- ENS_ (R266). -/
def Block.viewEns (b : Block) (off : Nat) (w : Word) : Word :=
  let u := b.tray.plane
  if off = Reg.ENS_STORE_STS then
    let i := b.fld Reg.ENS_STORE_SEL 13 0
    let s := slotIn u.trees i
    word (s.phase % 4 * 2 ^ 30 + satTo 255 (u.binds 0 i) * 2 ^ 16 + fieldAt s.bytes 2 2)
  else if off = Reg.ENS_STORE_FREE then word (16384 - (u.trees.filter (fun e => e.2.phase != 0)).length)
  else if off = Reg.ENS_RUN_STS then
    let x := b.ctx (b.fld Reg.ENS_RUN_SEL 23 18)
    let rank := b.fld Reg.ENS_RUN_SEL 17 0
    let r := (x.an.rank rank).run (b.fld Reg.ENS_RUN_SEL 31 28)
    if x.map.any (fun e => e.1 == rank) then word (bit r.2 * 2 ^ 31 + r.1 % 256) else 0
  else if off = Reg.ENS_EVALS_LO then word (b.wideAt Reg.ENS_EVALS_LO)
  else match inArray Reg.ENS_DIGEST 4 off with
    | some i => word (fieldAt (((b.ensembleOf (b.fld Reg.ENS_DIGEST_SEL 29 24) (b.fld Reg.ENS_DIGEST_SEL 3 0)).map
        (fun e => e.2.digest)).getD []) (4 * i) 4)
    | none => w

/-- RUL_ (R278). -/
def Block.viewRul (b : Block) (off : Nat) (w : Word) : Word :=
  let u := b.tray.plane
  let i := b.fld Reg.RUL_GRP_SEL 11 0
  let g := slotIn u.groups i
  if off = Reg.RUL_GRP_STS then
    word (if g.phase = 0 then 0 else g.phase % 4 * 2 ^ 30 + g.bank % 4 * 2 ^ 28 + g.base % 2 ^ 14 * 2 ^ 14 + (groupCount g.bytes - 1) % 2 ^ 14)
  else if off = Reg.RUL_GRP_ID then word (satTo 255 (u.binds 1 i) * 2 ^ 16 + fieldAt g.bytes 2 2)
  else if off = Reg.RUL_SEARCH_LO then word (b.wideAt Reg.RUL_SEARCH_LO)
  else match inArray Reg.RUL_BANK_FREE 4 off with
    | some k => word (16384 - ((u.groups.filter (fun e => e.2.phase != 0 && e.2.bank == k)).foldl (fun a e => a + groupCount e.2.bytes) 0))
    | none => w

/-- ANV_ (R313). -/
def Block.viewAnv (b : Block) (off : Nat) (w : Word) : Word :=
  let c := b.fld Reg.ANV_STRAG_SEL 29 24
  let r := (b.ctx c).an.rank (b.fld Reg.ANV_STRAG_SEL 17 0)
  if off = Reg.ANV_STRAG_STS then
    let persistent := match planStragglers (b.ctxPlan c) with | some t => decide (t.persist ≤ maskBits r.mask) | none => false
    word (bit persistent * 2 ^ 31 + r.mask % 2 ^ 16)
  else if off = Reg.ANV_STRAG_SCORE then word (r.score.getD (2 ^ 32 - 1))
  else match inArray Reg.ANV_PORT 32 off, inArray Reg.ANV_SCAN 16 off with
    | some p, _ => let (mode, lag, rate) := b.portMode p
                   word (rate % 32 * 2 ^ 8 + lag % 16 * 2 ^ 4 + mode % 4)
    | _, some i => match b.tray.plane.scans.find? (fun e => e.1 == i) with
      | some (_, x) => word (2 ^ 31 + scanSource x.spec % 8 * 2 ^ 24 + scanOutput x.spec % 4 * 2 ^ 16 + x.share % 32)
      | none => 0
    | _, _ => w

/-- WIT_ (R313). -/
def Block.viewWit (b : Block) (off : Nat) (w : Word) : Word :=
  if off = Reg.WIT_OPEN then
    let keys := b.ctxs.foldl (fun a e => a + e.2.an.keys.length) 0
    word (keys % 2 ^ 15 * 2 ^ 16 + b.openGroups.length % 2 ^ 7)
  else w

/-- PLN_ (R342). -/
def Block.viewPln (b : Block) (off : Nat) (w : Word) : Word :=
  let u := b.tray.plane
  if off = Reg.PLN_TXN_STS then
    wordPut (wordPut (wordPut w 30 30 (bit (!b.txn.pending.isEmpty))) 29 29 (bit b.txn.poisoned)) 10 0 b.txn.staged.length
  else if b.build = .D then w
  else if off = Reg.PLN_ROW then word (b.tray.plane.period % 2 ^ 16 * 2 ^ 16 + b.tray.plane.row)
  else if off = Reg.PLN_SCHED then
    let full (s : Nat) : Nat := bit (!(sget (fun _ => ([] : Bytes)) u.scheds s).isEmpty)
    wordPut w 5 4 (full 0 + 2 * full 1)
  else if off = Reg.PLN_PLAN_STS then
    let i := b.fld Reg.PLN_PLAN_SEL 5 0
    let s := slotIn u.plans i
    let bound := (b.ctxs.filter (fun e => e.2.phase != .free && !e.2.plan.isEmpty && e.2.plan == imageDigest s.bytes)).length
    word (s.phase % 4 * 2 ^ 30 + (if s.phase = 0 then 0 else bound % 256))
  else match inArray Reg.PLN_SCHED_DIGEST 4 off, inArray Reg.PLN_CTX 64 off with
    | some i, _ => word (match b.schedule with | some img => fieldAt (imageDigest img) (4 * i) 4 | none => 0)
    | _, some c => let x := b.ctx c
                   word (bit x.quenched * 2 ^ 31 + bit x.catchup * 2 ^ 30 + x.bind.getD 0 % 64 * 2 ^ 24 + satTo (2 ^ 16 - 1) x.behind)
    | _, _ => w

/-- The sizes of the memory regions in 64 MiB units (R343). -/
def regionSize (r : Nat) : Nat := 16 * ([1500, 256, 64, 16, 48, 240, 84, 16, 80].getD r 0)

/-- The member that HIS_GRP_SEL selects. -/
def Block.selectedPeer (b : Block) : Peer := b.peerOf (b.fld Reg.HIS_GRP_SEL 5 4) (b.fld Reg.HIS_GRP_SEL 3 0)

/-- The time of the first ANCHOR of the oldest flight segment (R363). -/
def Block.oldestFt (b : Block) : Nat :=
  (((b.tray.history.segs.find? (fun s => s.region == 0 && !s.recs.isEmpty)).bind (fun s => s.recs.head?)).map (fun r => r.ft)).getD 0

/-- HIS_ (R363). -/
def Block.viewHis (b : Block) (off : Nat) (w : Word) : Word :=
  if off = Reg.HIS_STS then wordPut w 4 4 (bit (!b.tray.history.rebuilt.isEmpty))
  else if off = Reg.HIS_GRP_DA then word b.selectedPeer.da
  else if off = Reg.HIS_GRP_CTL then wordPut w 30 29 b.selectedPeer.phase
  else if off = Reg.HIS_REGION_INFO then word (regionSize (b.fld Reg.HIS_REGION_SEL 3 0))
  else if off = Reg.HIS_OLDEST_FT_LO then word b.oldestFt
  else if off = Reg.HIS_OLDEST_WIN then
    word ((((b.tray.history.own 1).head?).map (fun r => r.w)).getD 0)
  else w

/-- HST_ (R393). -/
def Block.viewHst (b : Block) (off : Nat) (w : Word) : Word :=
  let h := b.tray.host
  let id := (if h.owner = 0 then h.claimLatch else h.ownerId).toNat
  let ptr (r : OutRing) : Word := word (r.tail % 2 ^ 16 * 2 ^ 16 + r.head % 2 ^ 16)
  if off = Reg.HST_STS then wordPut (wordPut w 7 7 (bit (!h.busMaster))) 6 6 (bit (!h.nothingHeld))
  else if off = Reg.HST_OWN then word (h.owner % 4 * 2 ^ 16 + h.ownerEpoch % 2 ^ 16)
  else if off = Reg.HST_OWN_ID_LO then word id
  else if off = Reg.HST_OWN_ID_HI then word (id / 2 ^ 32)
  else if off = Reg.HST_EVT_PTR then ptr h.evt
  else if off < Reg.HST_CMD_BASE_LO ∨ Reg.HST_EXP_ROUTE ≤ off then w
  else if off < Reg.HST_CPL_BASE_LO then
    let i := (off - Reg.HST_CMD_BASE_LO) / 0x20
    if off % 0x20 = 8 then wordPut w 30 30 (bit (!h.taken.any (fun t => t.ring == i)))
    else if off % 0x20 = 12 then word ((h.cmdRing i).head % 2 ^ 16 * 2 ^ 16 + (h.cmdRing i).tail % 2 ^ 16) else w
  else if off < Reg.HST_EXP_BASE_LO then
    if off % 0x20 = 12 then ptr (h.cplRing ((off - Reg.HST_CPL_BASE_LO) / 0x20)) else w
  else if off % 0x20 = 20 then ptr (h.expRing ((off - Reg.HST_EXP_BASE_LO) / 0x20)).ring else w

/-- EGR_STS.UNBOUND (R407): a requester outside tier 0 with a LIMIT above 4,096, or a frozen port. -/
def Block.unbound (b : Block) : Bool :=
  (List.range (portCount b.build)).any (fun p => b.portFrozen p || (b.port p).cfg.any (fun e =>
    decide (e.1 < requesterCount b.build p) && requesterTier b.build p e.1 != 0 && decide (4096 < bitsOf e.2.toNat 14 0)))

/-- EGR_ (R408). A selection that names no requester reads zero. -/
def Block.viewEgr (b : Block) (off : Nat) (w : Word) : Word :=
  let sel (f : EgPort → Nat → Word) : Word := match b.egrSel with | some (p, r) => f (b.port p) r | none => 0
  if off = Reg.EGR_BKT_RATE then sel (fun x r => word (x.rateOf r))
  else if off = Reg.EGR_BKT_BURST then sel (fun x r => word (x.burstOf r))
  else if off = Reg.EGR_BKT_CFG then sel (fun x r => x.cfgOf r)
  else if off = Reg.EGR_BKT_TOK then sel (fun x r => word (BitVec.ofInt 48 (x.tokOf r)).toNat)
  else if off = Reg.EGR_BKT_QHWM then sel (fun x r => sget (fun _ => (0 : Word)) x.qhwm r)
  else if off = Reg.EGR_BKT_SHWM then sel (fun x r => sget (fun _ => (0 : Word)) x.shwm r)
  else if off = Reg.EGR_STS then wordPut w 2 2 (bit b.unbound)
  else if Reg.EGR_PORT_STS ≤ off ∧ (off - Reg.EGR_PORT_STS) % 0x10 = 0 then
    let p := (off - Reg.EGR_PORT_STS) / 0x10
    let x := b.port p
    word (bit (b.portFrozen p && x.grant.isNone) * 2 ^ 31 + bit x.grant.isSome * 2 ^ 30 +
      (match x.grant with | some g => g.owner | none => x.latestOwner) % 512)
  else w

/-- EVR_ (R419). -/
def Block.viewEvr (b : Block) (off : Nat) (w : Word) : Word :=
  if off = Reg.EVR_HOURS then word b.recorder.hours
  else if off = Reg.EVR_PCYC then (match b.build with | .D => 0xFFFFFF | .T => word (b.recorder.pcyc % 2 ^ 24))
  else if off = Reg.EVR_HEAD then word (b.selectedHead % 2 ^ 18)
  else w

/-- The milliseconds left in the presence window, rounded down. -/
def Block.windowLeft (b : Block) : Nat :=
  match b.tray.presence.windowEnd with | some e => (e - b.time.cycles) / (timHz / 1000) | none => 0

/-- SEC_ (R436). -/
def Block.viewSec (b : Block) (off : Nat) (w : Word) : Word :=
  let p := b.tray.presence
  if off = Reg.SEC_STS then
    wordPut (wordPut w 6 2 (bit p.sealBroken * 16 + bit p.loopOpen * 8 + bit p.jumper * 4 + bit p.button * 2 + bit b.windowOpen))
      0 0 (bit b.presenceHeld)
  else if off = Reg.SEC_WINDOW_LEFT then word (b.windowLeft % 2 ^ 17)
  else w

/-- The lease that LSE_SEL selects; a reserved selection shows FREE. -/
def Block.selectedLease (b : Block) : Lease :=
  let r := (b.reg Reg.LSE_SEL).toNat
  if leaseGood r then b.tray.host.lease r else {}

/-- LSE_ (R436). -/
def Block.viewLse (b : Block) (off : Nat) (w : Word) : Word :=
  let l := b.selectedLease
  let held (n : Nat) : Word := word (if l.phase = 0 then 0 else n)
  if off = Reg.LSE_STS then held (l.phase % 4 * 2 ^ 30 + l.key.ring % 16 * 2 ^ 24 + l.key.ringEpoch % 2 ^ 16)
  else if off = Reg.LSE_EPOCH then held (l.key.epoch % 2 ^ 16)
  else if off = Reg.LSE_ID_LO then held l.key.owner
  else if off = Reg.LSE_ID_HI then held (l.key.owner / 2 ^ 32)
  else w

/-- STW_ (R450). -/
def Block.viewStw (b : Block) (off : Nat) (w : Word) : Word :=
  let mask (f : Steward → Bool) : Nat := (List.range 6).foldl (fun a s => a + bit (f (b.steward s)) * 2 ^ s) 0
  if off = Reg.STW_STS then wordPut (wordPut w 15 10 (mask (fun x => x.dump.isSome))) 5 0 (mask (fun x => x.phase != 2))
  else if off = Reg.STW_FL_STS then wordPut w 0 0 (bit (b.tray.window.op != 0))
  else match inArray Reg.STW_STATE 6 off, inArray Reg.STW_VER 6 off with
    | some s, _ => let x := b.steward s
                   word (x.phase % 8 * 2 ^ 29 + x.slot % 2 * 2 ^ 28 + bit x.handoffTaken * 2 ^ 27 + x.cause % 8 * 2 ^ 24 +
                     satTo 255 (b.faultsNow s).length)
    | _, some s => word (b.steward s).version
    | _, _ => w

/-- PWR_ (R461). -/
def Block.viewPwr (b : Block) (off : Nat) (w : Word) : Word :=
  let p := b.power
  if off = Reg.PWR_STS then
    wordPut (wordPut (wordPut w 8 8 (bit p.offReady)) 4 2 (bit p.target.isSome * 4 + p.target.getD 0 % 4)) 1 0 p.phase
  else if off = Reg.PWR_T_LO then word p.time.toNat
  else if off = Reg.PWR_T_HI then word (p.time.toNat / 2 ^ 32)
  else match inArray Reg.PWR_SNS_VAL 32 off with
    | some ch => if b.sensorKind ch = 0 then wordPut w 31 31 0 else w
    | none => w

/-- IST_ (R461). -/
def Block.viewIst (b : Block) (off : Nat) (w : Word) : Word :=
  if off = Reg.IST_STS then
    let degraded := b.isSet Reg.ENS_STS 7 || b.isSet Reg.ANV_STS 5 || b.isSet Reg.KND_STS 4 || b.isSet Reg.RUL_STS 3 ||
      b.reg Reg.IST_DEC_FAIL != 0
    wordPut (wordPut w 5 5 (bit (!b.tray.test.descs.isEmpty))) 4 4 (bit degraded)
  else w

/-- What a register reads as; an offset that maps none reads zero (R464). -/
def Block.view (b : Block) (off : Nat) : Word :=
  match regRowAt b.build off with
  | none => 0
  | some _ =>
    let w := b.reg off
    match unitOf off with
    | 0 => b.viewId off w
    | 1 => b.viewTim off w
    | 2 => b.viewPtp off w
    | 4 => b.viewCnt off w
    | 5 => b.viewTxn off w
    | 6 => b.viewTrc off w
    | 7 => if off = Reg.LOF_IN_LO ∨ off = Reg.LOF_OUT_LO then word (b.wideAt off) else w
    | 8 => b.viewFrm off w
    | 9 => if off = Reg.KND_OPS_LO then word (b.wideAt off) else w
    | 10 => b.viewMbr off w
    | 11 => b.viewFtz off w
    | 12 => b.viewEns off w
    | 13 => b.viewRul off w
    | 14 => b.viewAnv off w
    | 15 => b.viewWit off w
    | 16 => b.viewPln off w
    | 17 => b.viewHis off w
    | 18 => b.viewHst off w
    | 19 => b.viewEgr off w
    | 20 => b.viewEvr off w
    | 21 => b.viewSec off w
    | 22 => b.viewLse off w
    | 23 => b.viewStw off w
    | 24 => b.viewPwr off w
    | 25 => b.viewIst off w
    | _ => w

/-! ### Reads -/

/-- The HI register that a read of a LO register latches, with what it latches. -/
def Block.hiOf (b : Block) (lo : Nat) : Option (Nat × Word) :=
  let wide (hi : Nat) : Option (Nat × Word) := some (hi, word (b.wideAt lo / 2 ^ 32))
  if lo = Reg.TIM_FT_LO then some (Reg.TIM_FT_HI, word (b.ft.toNat / 2 ^ 32))
  else if lo = Reg.TIM_PULSE_FT_LO then some (Reg.TIM_PULSE_FT_HI, word (b.time.pulse.toNat / 2 ^ 32))
  else if lo = Reg.CNT_RD_LO then
    some (Reg.CNT_RD_HI, word (bit b.selectedCounter.sat * 2 ^ 31 + b.selectedCounter.v / 2 ^ 32 % 2 ^ 16))
  else if lo = Reg.LOF_IN_LO then wide Reg.LOF_IN_HI
  else if lo = Reg.LOF_OUT_LO then wide Reg.LOF_OUT_HI
  else if lo = Reg.KND_OPS_LO then wide Reg.KND_OPS_HI
  else if lo = Reg.ENS_EVALS_LO then wide Reg.ENS_EVALS_HI
  else if lo = Reg.RUL_SEARCH_LO then wide Reg.RUL_SEARCH_HI
  else if lo = Reg.HIS_OLDEST_FT_LO then some (Reg.HIS_OLDEST_FT_HI, word (b.oldestFt / 2 ^ 32))
  else if lo = Reg.EGR_BKT_TOK then
    some (Reg.EGR_BKT_TOK_HI, match b.egrSel with
      | some (p, r) => word ((BitVec.ofInt 48 ((b.port p).tokOf r)).toNat / 2 ^ 32) | none => 0)
  else none

/-- An RC field after its read: its reset value, with what hardware adds in that cycle (R6, R8). -/
def RegField.clear (f : RegField) (build : Build) (i : Nat) (hw w : Word) : Word :=
  if f.acc = .rc then
    wordPut w f.hi f.lo (satTo (2 ^ (f.hi - f.lo + 1) - 1) (f.reset.value build i + bitsOf hw.toNat f.hi f.lo))
  else w

/-- A read clears the RC fields of a register (R6, R8). -/
def Block.clearFields (b : Block) (off : Nat) (hw : Word) : Block :=
  match regRowAt b.build off with
  | none => b
  | some r => b.setReg off (r.fields.foldl (fun w f => f.clear b.build (r.index off) hw w) (b.reg off))

/-- A high-water mark holds the level of the cycle in which it is read (R8). -/
def Block.levelSeen (b : Block) (off : Nat) : Block :=
  match inArray Reg.TAP_QHWM 64 off with
  | some p => b.raiseF off 4 0 (b.tapPort p).queue.length
  | none => if off = Reg.TRC_BUF_HWM then b.drainStaging else b

/-- A read clears the marks of the selected bucket; that of the bytes queued keeps the level of the cycle (R8). -/
def Block.clearMark (b : Block) (off : Nat) (hw : Word) : Block :=
  match b.egrSel with
  | none => b
  | some (p, r) =>
    let x := b.port p
    let level := satTo (2 ^ 24 - 1) (max (hw.toNat % 2 ^ 24) (queuedUnits (x.queue r)))
    b.setPort p (if off = Reg.EGR_BKT_QHWM then { x with qhwm := sput (fun _ => (0 : Word)) x.qhwm r (word level) }
                 else { x with shwm := sput (fun _ => (0 : Word)) x.shwm r hw })

/-- The side effects of a read: RC fields clear, with what hardware adds in that cycle; a LO half latches its HI half (R8, R63). -/
def Block.readEffect (b : Block) (off : Nat) (hw : Word) : Block :=
  if off = Reg.PTP_TS_OVFL then
    b.modPtp (fun p => { p with ovfl := sput (fun _ => 0) p.ovfl (b.fld Reg.PTP_TS_SEL 1 0) (hw.toNat % 2 ^ 16) })
  else if off = Reg.EGR_BKT_QHWM ∨ off = Reg.EGR_BKT_SHWM then b.clearMark off hw
  else
    let b' := (b.clearFields off hw).levelSeen off
    match b.hiOf off with | some (hi, v) => b'.setReg hi v | none => b'

/-- A read of a register: the value is in `rdata`. The registers whose reads move something have reads of their own. -/
def Block.readReg (b : Block) (off : Nat) (hw : Word) : Block :=
  match regRowAt b.build off with
  | none => { b with rdata := 0 }
  | some _ =>
    if off = Reg.PTP_TS_META then b.readMeta
    else if off = Reg.STW_DUMP_DATA then b.readDump
    else if off = Reg.STW_FL_BUF then b.readFlashBuf
    else if off = Reg.EVR_RD_DATA then b.latchCrumb
    else { b.readEffect off hw with rdata := b.view off }

/-- A path makes an access: its second one since the cycle began is of a later cycle (R467, log 33). -/
def Block.beginAccess (b : Block) (path : Path) : Block :=
  { b with access := if path ∈ b.access.seen then { seen := [path] } else { b.access with seen := path :: b.access.seen } }

/-- A path reads a register: in the cycle of another path's write it reads what stood before (R467). -/
def Block.readNow (b : Block) (path : Path) (off : Nat) (hw : Word) : Block :=
  let b := b.beginAccess path
  let x := b.readReg off hw
  match regRowAt b.build off, b.access.writes.find? (fun w => w.2.1 == off) with
  | some _, some w => { x with rdata := w.2.2.1 }
  | _, _ => x

/-- A read by a path (R467, R469). A path that the build does not have returns zero. BAR4 holds the MSI-X table and its pending bits. -/
def Block.readBy (b : Block) (path : Path) (off : Nat) (hw : Word) : Block :=
  match path, b.build with
  | .localPort, .D => if b.strapLocal then b.readNow path off hw else { b with rdata := 0 }
  | .tray, .D => b.readNow path off hw
  | .host, .T => b.readNow path off hw
  | .steward, .T => b.readNow path off hw
  | .msix, .T =>
    let h := b.tray.host
    { b with rdata := if off < 1024 ∧ off % 4 = 0 then h.msixWord (off / 4)
                      else if off = 0x8000 then word h.msixPending.toNat
                      else if off = 0x8004 then word (h.msixPending.toNat / 2 ^ 32) else 0 }
  | _, _ => { b with rdata := 0 }

/-- RC_FIELD_READ (R6, R8): a read of a register by a path. `hw` is what hardware adds to its RC fields in the same cycle. -/
def execRcFieldRead (b : Build) (path : Path) (off : Nat) (hw : Word) (s : State) : Host.Outcome State Fault Refusal :=
  onBlock b (fun x => x.readBy path off hw) s

/-- LO_READ_LATCH (R63): a read of a LO half; the HI half is latched from the same cycle. -/
def execLoReadLatch (b : Build) (path : Path) (off : Nat) (s : State) : Host.Outcome State Fault Refusal :=
  onBlock b (fun x => x.when (x.hiOf off).isSome (fun x => x.readBy path off 0)) s

end Sys2Proof.Machine
end

