-- ==== Sys2Proof/Machine/RegWrite.lean ====
section
/-! DEFINITION. What a register write in force does (R6 to R11): the fields of a register, and the writes that act (R39, R48, R91, R100,
R105, R115, R120, R121, R264, R265, R368, R372, R403, R425, R443, R446, R449, R470). -/

namespace Sys2Proof.Machine

/-- ID_ (R470): the first write of PLACE that takes effect sets PLACED; a lock undoes what the cycle has written to PLACE. -/
def Block.storeId (b : Block) (off : Nat) (v : Word) : Block :=
  if off = Reg.ID_DA ∧ b.build = .D then
    if b.isSet Reg.ID_CTL 0 then b
    else
      let before := b.access.place.getD (b.reg Reg.ID_DA, b.isSet Reg.ID_CTL 2)
      ({ b with access := { b.access with place := some before } }.writeFields off v).flag Reg.ID_CTL 2
  else if off = Reg.ID_CTL ∧ b.build = .D ∧ v.getLsbD 0 then b.undoPlace.writeFields off v
  else b.writeFields off v

/-- TIM_ (R39, R43, R45, R48, R50): the other fields of TIM_CTL are stored before its MODE is judged; the multiples that FT crossed before
BCN_TX was set, or under another period, call for no beacon. -/
def Block.storeTim (b : Block) (off : Nat) (v : Word) : Block :=
  if off = Reg.TIM_CTL then
    let sends := b.isSet Reg.TIM_CTL 9
    let b := b.writeFields off (wordPut v 1 0 (b.fld Reg.TIM_CTL 1 0))
    (if !sends ∧ b.isSet Reg.TIM_CTL 9 then b.remarkBeacon else b).writeMode (v.toNat % 4)
  else if off = Reg.TIM_BCN then (b.writeFields off v).remarkBeacon
  else if off = Reg.TIM_INCR_INT then b.writeIncrInt v
  else if off = Reg.TIM_INCR_FRAC then b.writeIncrFrac v
  else if off = Reg.TIM_STEP_LO then b.modTime (fun t => { t with stepLo := v })
  else if off = Reg.TIM_STEP_HI then b.writeStepHi v
  else if off = Reg.TIM_TEMPER then b.writeTemper v
  else b.writeFields off v

/-- A write of CNT_GRP_CTL that would make a ninth transactional group (R91). `txn` tells which groups are transactional. -/
def ninthGroup (txn : Nat → Bool) (g : Nat) (v : Word) : Bool :=
  v.getLsbD 28 && decide (8 ≤ ((List.range 64).filter (fun i => i != g && txn i)).length)

/-- CNT_ (R91, R105). -/
def Block.storeCnt (b : Block) (off : Nat) (v : Word) : Block :=
  if off = Reg.CNT_CLR then b.endWords.writeCntClr v
  else match inArray Reg.CNT_GRP_CTL 64 off with
    | some g => if ninthGroup (fun i => b.isSet (Reg.CNT_GRP_CTL + 4 * i) 28) g v then b.flag Reg.CNT_STS 4 else b.writeFields off v
    | none => b.writeFields off v

/-- TXN_ (R100): the aborts come under the settings before the write. -/
def Block.storeTxn (b : Block) (off : Nat) (v : Word) : Block :=
  (if off = Reg.TXN_CTL ∧ v.getLsbD 31 then b.endWords.abortSlots else b).writeFields off v

/-- TRC_ (R121, R123): outside OFF only TRC_CMD, the flags of TRC_STS and EN = 0 are taken. -/
def Block.storeTrc (b : Block) (off : Nat) (v : Word) : Block :=
  if off = Reg.TRC_CTL then b.writeTrcCtl v
  else if off = Reg.TRC_CMD then b.writeTrcCmd v
  else if off = Reg.TRC_STS then b.writeFields off v
  else if (inArray Reg.TRC_GRANT_CTL 20 off).isSome then b
  else if b.die.trace.phase ≠ 0 then b.flag Reg.TRC_STS 6
  else b.writeFields off v

/-- ENS_ (R264, R265): while the trigger engine is enabled its registers refuse writes. -/
def Block.storeEns (b : Block) (off : Nat) (v : Word) : Block :=
  match b.build with
  | .T => b.writeFields off v
  | .D =>
    if off = Reg.ENS_TRG_CTL then b.writeTrgCtl v
    else if off = Reg.ENS_TSTORE_DATA then b.writeTstoreData v
    else if Reg.ENS_TRG_ENS ≤ off ∧ b.trigOn then b.trigRefused
    else b.writeFields off v

/-- HST_ (R368, R369, R372): a write of both CLAIM and RELEASE claims and then gives up. -/
def Block.storeHst (b : Block) (off : Nat) (v : Word) : Block :=
  let k := off % 0x20
  if off = Reg.HST_OWN then
    let b := if v.getLsbD 31 then b.claim else b
    if v.getLsbD 30 then b.endOwnership else b
  else if off = Reg.HST_OWN_ID_LO then
    b.modHost (fun h => { h with claimLatch := BitVec.ofNat 64 (h.claimLatch.toNat / 2 ^ 32 * 2 ^ 32 + v.toNat) })
  else if off = Reg.HST_OWN_ID_HI then
    b.modHost (fun h => { h with claimLatch := BitVec.ofNat 64 (v.toNat * 2 ^ 32 + h.claimLatch.toNat % 2 ^ 32) })
  else if off = Reg.HST_EVT_BASE_LO ∨ off = Reg.HST_EVT_BASE_HI then b.writeRingBase 32 off v
  else if off = Reg.HST_EVT_CFG then b.writeRingCfg 32 v
  else if Reg.HST_EXP_ROUTE ≤ off ∨ off = Reg.HST_EXP_DEF then (b.writeFields off v).rerouteFleet
  else if off < Reg.HST_CMD_BASE_LO then b.writeFields off v
  else if off < Reg.HST_EXP_BASE_LO then
    let d := (off - Reg.HST_CMD_BASE_LO) / 0x20
    if k < 8 then b.writeRingBase d off v else if k = 8 then b.writeRingCfg d v else b
  else
    let d := 33 + (off - Reg.HST_EXP_BASE_LO) / 0x20
    if k < 16 then b.writeRingBase d off v else if k = 16 then b.writeRingCfg d v else b

/-- EGR_ (R401, R403). -/
def Block.storeEgr (b : Block) (off : Nat) (v : Word) : Block :=
  if off = Reg.EGR_BKT_RATE ∨ off = Reg.EGR_BKT_BURST ∨ off = Reg.EGR_BKT_CFG then b.writeBucket off v
  else if Reg.EGR_PORT_CTL ≤ off ∧ (off - Reg.EGR_PORT_CTL) % 0x10 = 0 then b.writeFreeze ((off - Reg.EGR_PORT_CTL) / 0x10) v
  else b.writeFields off v

/-- STW_ (R443, R446, R449, R450). A kick of STW_WDOG by the host has no effect; a steward's has its own command. -/
def Block.storeStw (b : Block) (off : Nat) (v : Word) : Block :=
  if off = Reg.STW_CMD then b.writeStwCmd v
  else if off = Reg.STW_DUMP_ACK then b.writeDumpAck v
  else if off = Reg.STW_FL_ADDR then (b.writeFields off v).modWindow (fun w => { w with pos := 0 })
  else if off = Reg.STW_FL_BUF then b.writeFlashBuf v
  else if off = Reg.STW_FL_CMD then b.writeFlashCmd (v.toNat % 4)
  else b.writeFields off v

/-- A register write that is in force at once. -/
def Block.storeReg (b : Block) (off : Nat) (v : Word) : Block :=
  match unitOf off with
  | 0 => b.storeId off v
  | 1 => b.storeTim off v
  | 2 => b.storePtp off v
  | 4 => b.storeCnt off v
  | 5 => b.storeTxn off v
  | 6 => b.storeTrc off v
  | 7 => b.storeLof off v
  | 12 => b.storeEns off v
  | 17 => if off = Reg.HIS_GRP_CTL then b.writeRejoin v else b.writeFields off v
  | 18 => b.storeHst off v
  | 19 => b.storeEgr off v
  | 21 => if off = Reg.SEC_CTL then (if v.getLsbD 0 then b.closeWindow else b) else b.writeFields off v
  | 23 => b.storeStw off v
  | _ => b.writeFields off v

end Sys2Proof.Machine
end

