-- ==== Sys2Proof/Machine/ConfigTxn.lean ====
section
/-! DEFINITION. Configuration transactions (R328 to R330): the staging set, commits and their refusals (R23, R327, R350), the change at
CFT, and the records by which a tray stages and commits on a die. -/

namespace Sys2Proof.Machine

/-! ### The staging set (R328) -/

/-- The writes that a staging set holds. -/
def Block.stageCap (b : Block) : Nat := match b.build with | .D => 256 | .T => 1024

/-- The key of a staged write: its offset, and for HIS_GRP_DA, which stands for one register per member, the member that HIS_GRP_SEL
selects, times 2^24. -/
def Block.stagedKey (b : Block) (off : Nat) : Nat := if off = Reg.HIS_GRP_DA then off + 2 ^ 24 * b.fld Reg.HIS_GRP_SEL 5 0 else off

/-- The value that a staged write gives a key. -/
def stagedAt (ws : List (Nat × Word)) (key : Nat) : Option Word := (ws.find? (fun e => e.1 == key)).map Prod.snd

/-- A group is transactional once the staging set is applied. -/
def Block.stagedTxn (b : Block) (g : Nat) : Bool :=
  ((stagedAt b.txn.staged (Reg.CNT_GRP_CTL + 4 * g)).getD (b.reg (Reg.CNT_GRP_CTL + 4 * g))).getLsbD 28

/-- A write that R91 refuses. -/
def Block.stageRefused (b : Block) (off : Nat) (v : Word) : Bool :=
  match b.build, inArray Reg.CNT_GRP_CTL 64 off with | .D, some g => ninthGroup b.stagedTxn g v | _, _ => false

/-- A write enters the staging set; one that finds it full poisons it. -/
def Block.stageWrite (b : Block) (off : Nat) (v : Word) : Block :=
  let key := b.stagedKey off
  let ws := b.txn.staged
  if b.stageRefused off v then b.flag Reg.CNT_STS 4
  else if (stagedAt ws key).isSome then { b with txn := { b.txn with staged := ws.map (fun e => if e.1 = key then (key, v) else e) } }
  else if b.stageCap ≤ ws.length then { b with txn := { b.txn with poisoned := true } }
  else { b with txn := { b.txn with staged := ws ++ [(key, v)] } }

/-! ### Commits (R329) -/

/-- The schedule that NEXT names holds the binding of every context that is not FREE, at the same index and with the fields of the context (R326,
R327). -/
def Block.switchGood (b : Block) (ws : List (Nat × Word)) : Bool :=
  match stagedAt ws Reg.PLN_SCHED with
  | none => true
  | some v =>
    let img := sget (fun _ => ([] : Bytes)) b.tray.plane.scheds (bitsOf v.toNat 1 1)
    b.ctxs.all (fun e =>
      e.2.phase == .free || match e.2.bind with
        | some i => decide (i < schedBinds img) && e.2.bindsTo (schedBind img i)
        | none => true)

/-- The tray address of member `m` of a class once the set is applied. -/
def Block.stagedDa (b : Block) (ws : List (Nat × Word)) (cls m : Nat) : Nat :=
  ((stagedAt ws (Reg.HIS_GRP_DA + 2 ^ 24 * (16 * cls + m))).map BitVec.toNat).getD (b.peerOf cls m).da

/-- No more than `n` of some addresses lie in one rack or hall. -/
def spread (shift n : Nat) (das : List Nat) : Bool :=
  das.all (fun d => decide ((das.filter (fun e => e / 2 ^ shift == d / 2 ^ shift)).length ≤ n))

/-- A group once the set is applied keeps R350: the block has an index, no member twice, no rack or hall with too many. -/
def Block.groupAllowed (b : Block) (ws : List (Nat × Word)) (cls : Nat) : Bool :=
  let w := ((stagedAt ws (Reg.HIS_GRP + 4 * cls)).getD (b.reg (Reg.HIS_GRP + 4 * cls))).toNat
  let das := (List.range (groupSize cls)).map (b.stagedDa ws cls)
  let touched := ws.any (fun e => e.1 == Reg.HIS_GRP + 4 * cls || (e.1 % 2 ^ 24 == Reg.HIS_GRP_DA && e.1 / 2 ^ 24 / 16 == cls))
  !touched || !bitOf w 31 || (decide (bitsOf w 19 16 < groupSize cls) && das.eraseDups.length == das.length &&
    (match cls with | 0 => spread 17 2 das | 1 => spread 28 3 das | _ => spread 28 4 das))

/-- The standbys of a level (R22). -/
def standbys (level : Nat) : Nat := match level with | 6 => 1 | 7 => 2 | 8 => 3 | 9 => 3 | _ => 0

/-- A role assignment that a block can see to break R21 or R22: a role code that is not one, or a standby index beyond the level's. -/
def roleAllowed (e : Nat × Word) : Bool :=
  match inArray Reg.MBR_ROLE 4 e.1 with
  | none => true
  | some l => let role := bitsOf e.2.toNat 31 30
              decide (role < 3) && (role != 2 || decide (bitsOf e.2.toNat 29 28 < standbys (6 + l)))

/-- What stands applied once the staging set has taken effect at CFT, and after each later commit that is pending: the writes of all the commits up to
there, the latest first (R350, log 61). -/
def Block.appliedSets (b : Block) (cft : BitVec 64) : List (List (Nat × Word)) :=
  let before := b.txn.pending.filter (fun p => ftGe cft p.1)
  let after := (b.txn.pending.filter (fun p => !ftGe cft p.1)).mergeSort (fun x y => decide (ftDiff x.1 y.1 ≤ 0))
  let base := b.txn.staged ++ ((before.mergeSort (fun x y => decide (ftDiff x.1 y.1 ≤ 0))).reverse.map Prod.snd).flatten
  (after.foldl (fun (a : List (List (Nat × Word)) × List (Nat × Word)) p => (a.1 ++ [p.2 ++ a.2], p.2 ++ a.2)) ([base], base)).1

/-- The status of a commit of the staging set at CFT: 0 where it is accepted. -/
def Block.commitStatus (b : Block) (cft : BitVec 64) : Nat :=
  let ws := b.txn.staged
  if b.txn.poisoned then 0x09
  else if cft.toNat % windowTicks (max 10 b.kMax) ≠ 0 then 0x0C
  else if ftDiff cft b.ft < 2 * ticksPerUs then 0x0F
  else if b.build = .D then 0
  else if !b.switchGood ws then 0x09
  else if !(b.appliedSets cft).all (fun ws => (List.range 3).all (b.groupAllowed ws)) || !ws.all roleAllowed then 0x0C
  else 0

/-- A die tells its tray the outcome of a commit (R328). -/
def Block.commitResult (b : Block) (status : Nat) : Block :=
  match b.build with
  | .D => b.sendControl none .tray 0x0204 (leBytes 1 status ++ zeros 3 ++ leBytes 4 (b.reg Reg.PLN_TXN_SEQ).toNat)
  | .T => b

/-- A commit (R329): the staging set is discarded with its status, or it waits for CFT. -/
def Block.commitTxn (b : Block) (cft : BitVec 64) : Block :=
  let st := b.commitStatus cft
  let ws := b.txn.staged
  let b := { b with txn := { b.txn with staged := [], poisoned := false } }
  if st = 0 then { b with txn := { b.txn with pending := b.txn.pending ++ [(cft, ws)] } }
  else ((b.flag Reg.PLN_TXN_STS 27).setFld Reg.PLN_TXN_STS 23 16 st).commitResult st

/-- The CFT that PLN_TXN_CFT_LO and PLN_TXN_CFT_HI hold. -/
def Block.cft (b : Block) : BitVec 64 := BitVec.ofNat 64 (b.fld Reg.PLN_TXN_CFT_LO 31 0 + b.fld Reg.PLN_TXN_CFT_HI 31 0 * 2 ^ 32)

/-- PLN_TXN_COMMIT (R329). -/
def execPlnTxnCommit (b : Build) (s : State) : Host.Outcome State Fault Refusal := onBlock b (fun x => x.commitTxn x.cft) s

/-- PLN_TXN_ABORT (R329). -/
def execPlnTxnAbort (b : Build) (s : State) : Host.Outcome State Fault Refusal := onBlock b Block.discardStaged s

/-! ### The change at CFT (R330) -/

/-- A set changes the TXN bit of a group or the selector of a counter in a transactional group (R92). -/
def Block.changesTxn (b : Block) (ws : List (Nat × Word)) : Bool :=
  ws.any (fun e =>
    match inArray Reg.CNT_GRP_CTL 64 e.1, inArray Reg.CNT_SEL 4096 e.1 with
    | some g, _ => e.2.getLsbD 28 != b.isSet (Reg.CNT_GRP_CTL + 4 * g) 28
    | _, some n => b.isSet (Reg.CNT_GRP_CTL + 4 * (n / 64)) 28 && b.fieldsAfter e.1 e.2 != b.reg e.1
    | _, _ => false)

/-- The schedule switch at a switch boundary (R327, R329): rows of the old schedule that it leaves behind are abandoned here, where the boundary has
not done it yet. -/
def Block.switchSched (b : Block) (v : Word) : Block :=
  let n := bitsOf v.toNat 1 1
  let b := b.setFld Reg.PLN_SCHED 1 1 n
  if n = b.fld Reg.PLN_SCHED 0 0 then b
  else (((if b.switchMark < periodOf b.ft then b.abandonRows else b).modPlane (fun u => { u with since := periodOf b.ft })).setFld Reg.PLN_SCHED 0 0 n).flag Reg.PLN_STS 0

/-- A role assignment (R23, R25): a takeover that falls on the same boundary is carried out first; windows that ended by it keep the code
before it. -/
def Block.assignRole (b : Block) (cft : BitVec 64) (level : Nat) (v : Word) : Block :=
  let b := if (b.roleAt level).pending then (b.takeUpDue level).endTakeover level else b
  let r := b.roleAt level
  b.setRole level { r with role := bitsOf v.toNat 31 30, index := bitsOf v.toNat 29 28, missed := 0, past := r.past ++ [(cft, r.role)] }

/-- A write of CNT_GRP_CTL of a set takes effect with the others of the set (R329): it is refused only where nine groups would be transactional
once all of them have (R91). `txn` tells which groups are transactional then. -/
def Block.applyGroup (b : Block) (txn : Nat → Bool) (g off : Nat) (v : Word) : Block :=
  if ninthGroup txn g v then b.flag Reg.CNT_STS 4 else b.writeFields off v

/-- One staged write takes effect; Borlu-T keeps what was written for the replay log and for the passes of earlier windows (R330, R335). `txn`
tells which groups are transactional after the set. -/
def Block.applyWrite (b : Block) (cft : BitVec 64) (txn : Nat → Bool) (e : Nat × Word) : Block :=
  let off := e.1 % 2 ^ 24
  let old := b.reg off
  let b :=
    if off = Reg.HIS_GRP_DA then
      let m := e.1 / 2 ^ 24
      if (b.peerOf (m / 16) (m % 16)).da = e.2.toNat then b else b.modPeer (m / 16) (m % 16) (fun _ => { da := e.2.toNat })
    else if off = Reg.PLN_SCHED then b.switchSched e.2
    else match b.build, inArray Reg.MBR_ROLE 4 off with
      | .T, some l => b.assignRole cft (6 + l) e.2
      | .D, _ => (match inArray Reg.CNT_GRP_CTL 64 off with | some g => b.applyGroup txn g off e.2 | none => b.storeReg off e.2)
      | .T, none => b.storeReg off e.2
  match b.build with
  | .D => b
  | .T => { b with txn := { b.txn with log := b.txn.log ++ [(cft, off, old, if off ∈ passSettings then b.reg off else e.2)] } }

/-- The register at an offset has a field that a write stores. -/
def storesField (b : Build) (off : Nat) : Bool := match regRowAt b off with | none => false | some r => r.fields.any (fun f => f.acc == .rw)

/-- A commit takes effect (R330): the aborts of R92 first, then every write; what the local port wrote in the same cycle stays (R467); SEQ, DONE
and LAST tell of it, and a die answers. -/
def Block.applyCommit (b : Block) (c : BitVec 64 × List (Nat × Word)) : Block :=
  let b := { b with txn := { b.txn with pending := b.txn.pending.erase c } }
  let b := if b.build = .D ∧ b.changesTxn c.2 then b.abortSlots else b
  let txn (g : Nat) : Bool := ((stagedAt c.2 (Reg.CNT_GRP_CTL + 4 * g)).getD (b.reg (Reg.CNT_GRP_CTL + 4 * g))).getLsbD 28
  let b := b.forEach c.2 (fun b e => b.applyWrite c.1 txn e)
  let own := b.access.writes.filter (fun w => w.1 == .localPort && c.2.any (fun e => e.1 == w.2.1) && storesField b.build w.2.1)
  let b := b.forEach own (fun b w => b.storeReg w.2.1 w.2.2.2)
  let b := b.setReg Reg.PLN_TXN_SEQ (b.reg Reg.PLN_TXN_SEQ + 1)
  ((b.flag Reg.PLN_TXN_STS 28).setFld Reg.PLN_TXN_STS 23 16 0).commitResult 0

/-- CFG_APPLY (R330): FT has crossed the CFT of a pending commit. -/
def execCfgApply (b : Build) (s : State) : Host.Outcome State Fault Refusal :=
  onBlock b (fun x => match x.txn.pending.find? (fun c => ftGe x.ft c.1) with | some c => x.applyCommit c | none => x) s

/-! ### The records of a tray (R328) -/

/-- A register of Borlu-D whose chapter says that its writes are never staged (R408, R461). -/
def neverStaged (off : Nat) : Bool := off / 2 ^ 16 == 0x13 || off / 2 ^ 16 == 0x18

/-- CFG_WRITE_RECEIVE: a record stages a write; one to an offset that maps no register has no effect (R464), and one to a register that is
never staged acts at once (DEDUCED, log 61). -/
def execCfgWriteReceive (link : Fin 64) (frame : Bytes) (s : State) : Host.Outcome State Fault Refusal :=
  onDie (fun b => b.receiveControl link frame 0x0201 (fun b _ r =>
    let off := fieldAt r 8 4
    let v := word (fieldAt r 12 4)
    if (regRowAt b.build off).isNone then b else if neverStaged off then b.storeReg off v else b.stageWrite off v)) s

/-- CFG_COMMIT_RECEIVE (R329). -/
def execCfgCommitReceive (link : Fin 64) (frame : Bytes) (s : State) : Host.Outcome State Fault Refusal :=
  onDie (fun b => b.receiveControl link frame 0x0202 (fun b _ r => b.commitTxn (BitVec.ofNat 64 (fieldAt r 8 8)))) s

/-- CFG_ABORT_RECEIVE (R329). -/
def execCfgAbortReceive (link : Fin 64) (frame : Bytes) (s : State) : Host.Outcome State Fault Refusal :=
  onDie (fun b => b.receiveControl link frame 0x0203 (fun b _ _ => b.discardStaged)) s

end Sys2Proof.Machine
end

