-- ==== Sys2Proof/Machine/Registers.lean ====
section
/-! DEFINITION. Register writes by their paths (R6, R7, R467, R469, R470), DIE_REG and its records (R383). -/

namespace Sys2Proof.Machine

/-! ### Writes -/

/-- A write of a register enters the staging set (R328): its chapter stages it always, or while a job context is active. Role
assignments (R23) are staged writes of MBR_ROLE. -/
def Block.isStaged (b : Block) (r : RegRow) (off : Nat) : Bool :=
  r.staging == .always || (r.staging == .whileActive && b.anyActive) || (b.build == .T && (inArray Reg.MBR_ROLE 4 off).isSome)

/-- A register write: an offset that maps no register has no effect (R464). A write of both COMMIT and ABORT commits, then aborts. -/
def Block.writeReg (b : Block) (off : Nat) (v : Word) : Block :=
  match regRowAt b.build off with
  | none => b
  | some r =>
    if off = Reg.PLN_TXN_CTL then
      let b := if v.getLsbD 31 then b.commitTxn b.cft else b
      if v.getLsbD 30 then b.discardStaged else b
    else if b.isStaged r off then b.stageWrite off v
    else b.storeReg off v

/-- A path writes registers of the block (R467, R469): the local port only while its strap is high and LOCAL_RO is 0. -/
def Block.pathOpen (b : Block) (path : Path) : Bool :=
  match path, b.build with
  | .localPort, .D => b.strapLocal && !b.isSet Reg.ID_CTL 1
  | .tray, .D => true
  | .host, .T => true
  | .steward, .T => true
  | _, _ => false

/-- The path that acts second where two access one register in one cycle (R467): a steward after the host, the local port after the tray. -/
def actsSecond (p : Path) : Bool := p == .steward || p == .localPort

/-- A path writes a register (R467); an offset that maps none takes nothing (R464). Where the path that acts second has written it in this cycle
already, its value stays in force. -/
def Block.writeNow (b : Block) (path : Path) (off : Nat) (v : Word) : Block :=
  let b := b.beginAccess path
  if (regRowAt b.build off).isNone then b else
  let old := match b.access.writes.find? (fun w => w.2.1 == off) with | some w => w.2.2.1 | none => b.view off
  let x := b.writeReg off v
  let x := match b.access.writes.find? (fun w => w.2.1 == off && actsSecond w.1) with
    | some w => x.when (!actsSecond path && storesField b.build off) (fun x => x.writeReg off w.2.2.2)
    | none => x
  { x with access := { x.access with writes := x.access.writes ++ [(path, off, old, v)] } }

/-- A write by a path (R467, R469): of a register, or of the MSI-X table. -/
def Block.writeBy (b : Block) (path : Path) (off : Nat) (v : Word) : Block :=
  if b.pathOpen path then b.writeNow path off v
  else match path, b.build with
  | .msix, .T => if off < 1024 ∧ off % 4 = 0 then b.modHost (fun h => h.writeMsix (off / 4) v) else b
  | _, _ => b

/-- The bit that shows set-during-clear in a register with flags (R7). -/
def sdcBit (off : Nat) : Nat := if off = Reg.TIM_TEMPER_RES then 30 else 31

/-- The W1C flags of a register beside SDC. -/
def flagMask (b : Build) (off : Nat) : Word :=
  match regRowAt b off with
  | none => 0
  | some r => clearB (r.fields.foldl (fun m f => if f.acc = .w1c then m ||| f.mask else m) 0) (sdcBit off)

/-- Hardware sets flags of a register in the cycle in which software writes `v` (R7): the set wins, and a flag that the write clears
raises SDC. LOF_ERR_INFO takes the faults of the cycle themselves (R155). -/
def Block.hwFlags (b : Block) (off : Nat) (v hw : Word) : Block :=
  let m := flagMask b.build off &&& hw
  if m = 0 ∨ off = Reg.LOF_ERR_INFO then b
  else
    let b := b.setReg off (b.reg off ||| m)
    if m &&& v = 0 then b else b.flag off (sdcBit off)

/-- REGISTER_WRITE (R6): `hw` are the W1C flags that hardware sets in the same cycle. A path that is closed clears nothing. -/
def execRegisterWrite (b : Build) (path : Path) (off : Nat) (v hw : Word) (s : State) : Host.Outcome State Fault Refusal :=
  onBlock b (fun x => (x.writeBy path off v).hwFlags off (if x.pathOpen path then v else 0) hw) s

/-- ID_DA_PLACE_WRITE (R470). -/
def execIdDaPlaceWrite (path : Path) (v : Word) (s : State) : Host.Outcome State Fault Refusal := onDie (fun b => b.writeBy path Reg.ID_DA v) s

/-- ID_CTL_LOCK_WRITE (R470). -/
def execIdCtlLockWrite (path : Path) (s : State) : Host.Outcome State Fault Refusal := onDie (fun b => b.writeBy path Reg.ID_CTL 1) s

/-- ID_CTL_LOCAL_RO_WRITE (R469). -/
def execIdCtlLocalRoWrite (path : Path) (s : State) : Host.Outcome State Fault Refusal := onDie (fun b => b.writeBy path Reg.ID_CTL 2) s

/-! ### DIE_REG (R383) -/

/-- The die slot, the offset, the value and CFT of a DIE_REG descriptor (R381). -/
def dieSlot (t : Taken) : Nat := byteAt t.bytes 32
def dieOp (t : Taken) : Nat := byteAt t.bytes 33
def dieOffset (t : Taken) : Nat := fieldAt t.bytes 36 4
def dieValue (t : Taken) : Nat := fieldAt t.bytes 40 4
def dieCft (t : Taken) : BitVec 64 := BitVec.ofNat 64 (fieldAt t.bytes 48 8)

/-- Carry out a DIE_REG descriptor of some OPs, with its checks: the slot, and for every OP but READ the lease of the die (R433). -/
def Block.onDieReg (b : Block) (id : Nat) (ops : Nat → Bool) (f : Block → Taken → Block) : Block :=
  match b.takenById id with
  | none => b
  | some t =>
    if !ops (dieOp t) then b
    else b.onDesc 0x40 5 id (fun b t =>
      if 31 < dieSlot t ∨ 4 < dieOp t then b.complete t 0x0C
      else if dieOp t ≠ 0 ∧ b.leaseBlocks t (0x02000000 + dieSlot t) then b.complete t 0x0B
      else f b t)

/-- Send a record to the die of a descriptor. -/
def Block.sendDie (b : Block) (t : Taken) (ctype : Nat) (body : Bytes) : Block := b.sendControl none (.die (dieSlot t)) ctype body

/-- The descriptor waits for its die until a time. -/
def Block.awaitDie (b : Block) (t : Taken) (base : BitVec 64) : Block :=
  b.setTaken { t with waitDies := [dieSlot t], deadline := ftAdd base b.dieTmo }

/-- DIE_REG_READ. A reserved OP ends here with BAD_DESCRIPTOR. -/
def execDieRegRead (id : Nat) (s : State) : Host.Outcome State Fault Refusal :=
  onTray (fun b => b.onDieReg id (fun op => op == 0 || decide (4 < op)) (fun b t =>
    (b.sendDie t 0x0601 (leBytes 4 (dieOffset t))).awaitDie t b.ft)) s

/-- DIE_REG_WRITE. -/
def execDieRegWrite (id : Nat) (s : State) : Host.Outcome State Fault Refusal :=
  onTray (fun b => b.onDieReg id (· == 1) (fun b t =>
    (b.sendDie t 0x0602 (leBytes 4 (dieOffset t) ++ leBytes 4 (dieValue t))).awaitDie t b.ft)) s

/-- DIE_REG_STAGE: it completes when its record is sent. -/
def execDieRegStage (id : Nat) (s : State) : Host.Outcome State Fault Refusal :=
  onTray (fun b => b.onDieReg id (· == 2) (fun b t =>
    (b.sendDie t 0x0201 (leBytes 4 (dieOffset t) ++ leBytes 4 (dieValue t))).complete t 0)) s

/-- DIE_REG_COMMIT: its answer comes within DIE_TMO of CFT. -/
def execDieRegCommit (id : Nat) (s : State) : Host.Outcome State Fault Refusal :=
  onTray (fun b => b.onDieReg id (· == 3) (fun b t =>
    (b.sendDie t 0x0202 (leBytes 8 (dieCft t).toNat)).awaitDie t (dieCft t))) s

/-- DIE_REG_ABORT: it completes when its record is sent. -/
def execDieRegAbort (id : Nat) (s : State) : Host.Outcome State Fault Refusal :=
  onTray (fun b => b.onDieReg id (· == 4) (fun b t => (b.sendDie t 0x0203 []).complete t 0)) s

/-- A die answers REG_RESP. -/
def Block.regResp (b : Block) (off : Nat) (v : Word) : Block := b.sendControl none .tray 0x0603 (leBytes 4 off ++ leBytes 4 v.toNat)

/-- REG_READ_RECEIVE (R383). -/
def execRegReadReceive (link : Fin 64) (frame : Bytes) (s : State) : Host.Outcome State Fault Refusal :=
  onDie (fun b => b.receiveControl link frame 0x0601 (fun b _ r =>
    let b := b.readNow .tray (fieldAt r 8 4) 0
    b.regResp (fieldAt r 8 4) b.rdata)) s

/-- REG_WRITE_RECEIVE (R383). -/
def execRegWriteReceive (link : Fin 64) (frame : Bytes) (s : State) : Host.Outcome State Fault Refusal :=
  onDie (fun b => b.receiveControl link frame 0x0602 (fun b _ r =>
    (b.writeNow .tray (fieldAt r 8 4) (word (fieldAt r 12 4))).regResp (fieldAt r 8 4) 0)) s

/-- REG_RESP_RECEIVE (R383): it completes the READ or WRITE of its die and offset. -/
def execRegRespReceive (port : Fin 8) (link : Fin 64) (frame : Bytes) (s : State) : Host.Outcome State Fault Refusal :=
  let _ := port
  onTray (fun b => b.receiveControl link frame 0x0603 (fun b f r =>
    match b.waiting 0x40 (slotOf f.srcDa) (fun t => decide (dieOp t ≤ 1) && dieOffset t == fieldAt r 8 4) with
    | some t => b.complete t 0 0 (slice r 12 4)
    | none => b)) s

/-- CFG_RESULT_RECEIVE (R383): it completes the COMMIT of its die. -/
def execCfgResultReceive (port : Fin 8) (link : Fin 64) (frame : Bytes) (s : State) : Host.Outcome State Fault Refusal :=
  let _ := port
  onTray (fun b => b.receiveControl link frame 0x0204 (fun b f r =>
    match b.waiting 0x40 (slotOf f.srcDa) (fun t => dieOp t == 3) with
    | some t => b.complete t 0 0 (zeros 4 ++ slice r 8 1 ++ zeros 3 ++ slice r 12 4)
    | none => b)) s

/-- A descriptor whose dies have not answered in time: a GRANT counts them as refused, any other ends with DEADLINE. -/
def Block.dieTimeout (b : Block) (t : Taken) : Block :=
  if t.opcode = 0x18 then b.grantEnd { t with refused := t.refused + t.waitDies.length } else b.complete t 0x0F

/-- DIE_ANSWER_TIMEOUT (R383, R429, R452). -/
def execDieAnswerTimeout (id : Nat) (s : State) : Host.Outcome State Fault Refusal :=
  onTray (fun b => match b.takenById id with
    | some t => b.when (!t.waitDies.isEmpty && ftGe b.ft t.deadline && b.stewardRuns 5) (fun b => b.dieTimeout t)
    | none => b) s

end Sys2Proof.Machine
end

