-- ==== Sys2Proof/Machine/TestPort.lean ====
section
/-! DEFINITION. The test access port of Borlu-T (R483). No row of the opcode table brings an edge of TCK: it comes as a change at an input
(log 85). -/

namespace Sys2Proof.Machine

/-- IDCODE: version 0x1, part 0x4254, the straps jtag_mfr, 1. -/
def idcode (mfr : BitVec 11) : BitVec 32 := (0x14254 : BitVec 20) ++ mfr ++ (1 : BitVec 1)

/-- The instruction that acts: EXTEST acts as BYPASS while rst_n is not asserted. -/
def TestPort.acting (t : TestPort) (rst : Bool) : TapInstr := if t.instr = .extest ∧ !rst then .bypass else t.instr

/-- The state after an edge of TCK (IEEE 1149.1). -/
def TapState.next (s : TapState) (tms : Bool) : TapState :=
  match s, tms with
  | .reset, true => .reset
  | .reset, false | .idle, false | .updateDr, false | .updateIr, false => .idle
  | .idle, true | .updateDr, true | .updateIr, true => .selectDr
  | .selectDr, true => .selectIr
  | .selectDr, false => .captureDr
  | .captureDr, false | .shiftDr, false | .exit2Dr, false => .shiftDr
  | .captureDr, true | .shiftDr, true => .exit1Dr
  | .exit1Dr, false | .pauseDr, false => .pauseDr
  | .pauseDr, true => .exit2Dr
  | .exit1Dr, true | .exit2Dr, true => .updateDr
  | .selectIr, true => .reset
  | .selectIr, false => .captureIr
  | .captureIr, false | .shiftIr, false | .exit2Ir, false => .shiftIr
  | .captureIr, true | .shiftIr, true => .exit1Ir
  | .exit1Ir, false | .pauseIr, false => .pauseIr
  | .pauseIr, true => .exit2Ir
  | .exit1Ir, true | .exit2Ir, true => .updateIr

/-- What the data register of the acting instruction captures: `pins` are the boundary cells. -/
def TestPort.capture (t : TestPort) (rst : Bool) (pins : List Bool) : List Bool :=
  match t.acting rst with
  | .bypass => [false]
  | .idcode => (List.range 32).map (fun i => (idcode t.mfr).getLsbD i)
  | .sample | .extest => pins

/-- Shift a path by one bit: TDI enters, the bit next to TDO leaves. -/
def shiftPath (path : List Bool) (tdi : Bool) : List Bool := path.drop 1 ++ [tdi]

/-- One edge of TCK: `rst` tells that rst_n is asserted, `pins` are the boundary cells. With trst_n low the port stays in
Test-Logic-Reset. -/
def TestPort.clock (t : TestPort) (trst tms tdi rst : Bool) (pins : List Bool) : TestPort :=
  if !trst then { mfr := t.mfr }
  else
    let t' := match t.state with
      | .reset => { t with instr := .idcode }
      | .captureDr => { t with drPath := t.capture rst pins }
      | .shiftDr => { t with drPath := shiftPath t.drPath tdi }
      | .updateDr => if t.acting rst = TapInstr.sample ∨ t.acting rst = TapInstr.extest then { t with boundary := t.drPath } else t
      | .captureIr => { t with irPath := Config.tapCapture }
      | .shiftIr => { t with irPath := shiftPath t.irPath tdi }
      | .updateIr => { t with instr := match Config.tapCode t.irPath with | 1 => .sample | 2 => .extest | 3 => .idcode | _ => .bypass }
      | _ => t
    { t' with state := t.state.next tms }

/-- The boundary values that the port drives: those of EXTEST while rst_n is asserted (R483). -/
def TestPort.drives (t : TestPort) (rst : Bool) : Option (List Bool) := if t.acting rst = .extest then some t.boundary else none

end Sys2Proof.Machine
end

