-- ==== Sys2Proof/Machine/Reset.lean ====
section
/-! DEFINITION. Resets (R413, R484 to R487), the alignment pulse (R315) and the stacks (R485, R490). -/

namespace Sys2Proof.Machine

/-- Borlu-D while rst_n is asserted (R484): every unit at its reset values. The levels of its input pins are the environment's. -/
def Block.dieReset (b : Block) : Block :=
  let t := b.die.trace
  let regions := b.die.regions.map (fun e => (e.1, ({ gray := e.2.gray } : Region)))
  { Block.reset .D with
    strapSlot := b.strapSlot, strapLocal := b.strapLocal, fresh := b.fresh,
    die := { regions := regions.filter (fun e => e.2 != ({} : Region)),
             trace := { linkUp := t.linkUp, schedDebug := t.schedDebug, secure := t.secure }, sensors := b.die.sensors } }

/-- BORLU_D_RESET_ASSERT (R484). -/
def execBorluDResetAssert (s : State) : Host.Outcome State Fault Refusal := .next { s with dReset := true, d := s.d.dieReset }

/-- BORLU_D_RESET_RELEASE (R484, R487): the straps as they stood in the last cycle of assertion. A block that is not in reset does not
change. -/
def execBorluDResetRelease (slot : BitVec 5) (localEn : Bool) (s : State) : Host.Outcome State Fault Refusal :=
  .next (if s.dReset
    then { s with dReset := false, d := ({ s.d with strapSlot := slot, strapLocal := localEn } : Block).updateExclusions } else s)

/-- Presence after a reset: the inputs keep their levels, and no level has been taken (R424, R426). -/
def Presence.atReset (p : Presence) : Presence :=
  { buttonIn := { level := p.buttonIn.level }, jumperIn := { level := p.jumperIn.level }, loopIn := { level := p.loopIn.level } }

/-- The ingest ports after a reset: their links keep their levels. -/
def portsAtReset (ps : Sparse IngestPort) : Sparse IngestPort :=
  (ps.map (fun e => (e.1, ({ up := e.2.up } : IngestPort)))).filter (fun e => e.2 != ({} : IngestPort))

/-- Borlu-T while por_n or rst_n is asserted (R485, R486): `por` tells whether the reset is a power-on reset. The flash, host memory, the
devices on the I3C bus and the levels at the inputs are outside the block, and the test access port has a reset of its own, trst_n; HOURS and PCYC
are kept over a reset that is not a power-on reset (R413). -/
def Block.trayReset (b : Block) (por : Bool) : Block :=
  let r := b.recorder
  { Block.reset .T with
    strapPkg := b.strapPkg, fresh := b.fresh,
    recorder := if por then {} else { hours := r.hours, hourCycles := r.hourCycles, hoursWritten := r.hoursWritten, pcyc := r.pcyc },
    tray := { jtag := b.tray.jtag, i3c := b.tray.i3c, flashTable := b.tray.flashTable, presence := b.tray.presence.atReset,
              history := { ports := portsAtReset b.tray.history.ports }, flash := b.tray.flash, powerOn := por, recordCopy := if por then none else b.tray.recordCopy,
              host := { memory := b.tray.host.memory, busMaster := b.tray.host.busMaster, pcie := b.tray.host.pcie } } }

/-- BORLU_T_RESET_ASSERT (R485): `por` tells whether por_n is asserted. A reset that begins in a power-on reset is part of it. -/
def execBorluTResetAssert (por : Bool) (s : State) : Host.Outcome State Fault Refusal :=
  .next { s with tReset := true, tAligned := false, t := s.t.trayReset (por || (s.tReset && s.t.tray.powerOn)) }

/-- BORLU_T_RESET_RELEASE (R485, R487): the straps are sampled, and the block waits for the alignment pulse. -/
def execBorluTResetRelease (straps : TrayStraps) (s : State) : Host.Outcome State Fault Refusal :=
  .next (if s.tReset then
      let jtag := { s.t.tray.jtag with mfr := straps.mfr }
      { s with tReset := false, t := { s.t with strapPkg := straps.pkg, tray := { s.t.tray with jtag := jtag } } }
    else s)

/-- The dividers are released, the record is applied, and the verifier begins with the health steward (R315, R442, R485). -/
def Block.align (b : Block) : Block := ((b.flag Reg.PLN_PHASE 31).applyRecord).startVerify 4

/-- ALIGN_PULSE (R315): the first edge after the release acts; later ones do not. -/
def execAlignPulse (s : State) : Host.Outcome State Fault Refusal :=
  .next (if !s.tReset && !s.tAligned then { s with tAligned := true, t := s.t.align } else s)

/-- STACK_READY (R485, R490): a controller has trained its PHY and zeroed its stack, or its training failed. -/
def execStackReady (stack : Fin 24) (good : Bool) (s : State) : Host.Outcome State Fault Refusal :=
  onTray (fun b =>
    if good then { b with tray := { b.tray with stacksReady := setB b.tray.stacksReady stack } }
    else { b with tray := { b.tray with stacksFailed := setB b.tray.stacksFailed stack } }.flag Reg.HIS_STS 1) s

end Sys2Proof.Machine
end

