-- ==== Sys2Proof/Machine/Dispatch.lean ====
section
/-! DEFINITION. One arm per command: each calls the command's meaning. -/
namespace Sys2Proof.Machine
open Host

/-- The effect of a command on everything but the queue. -/
def exec (i : Instr) (s : State) : Host.Outcome State Fault Refusal :=
  match i with
  | .timIncrFracWrite b v => Sys2Proof.Machine.execTimIncrFracWrite b v s
  | .timIncrIntWrite b v => Sys2Proof.Machine.execTimIncrIntWrite b v s
  | .ftStep b hi => Sys2Proof.Machine.execFtStep b hi s
  | .timModeWrite b mode => Sys2Proof.Machine.execTimModeWrite b mode s
  | .beaconDue => Sys2Proof.Machine.execBeaconDue s
  | .beaconReceive b port link frame => Sys2Proof.Machine.execBeaconReceive b port link frame s
  | .beaconLost b => Sys2Proof.Machine.execBeaconLost b s
  | .temperStart v => Sys2Proof.Machine.execTemperStart v s
  | .temperReqReceive b port link frame => Sys2Proof.Machine.execTemperReqReceive b port link frame s
  | .temperRespReceive port link frame => Sys2Proof.Machine.execTemperRespReceive port link frame s
  | .temperReplyTimeout => Sys2Proof.Machine.execTemperReplyTimeout s
  | .temperSetReceive b port link frame => Sys2Proof.Machine.execTemperSetReceive b port link frame s
  | .temperAckReceive port link frame => Sys2Proof.Machine.execTemperAckReceive port link frame s
  | .timePulse b => Sys2Proof.Machine.execTimePulse b s
  | .regionStretch p gray => Sys2Proof.Machine.execRegionStretch p gray s
  | .regionStopRise p => Sys2Proof.Machine.execRegionStopRise p s
  | .regionStopFall p opp => Sys2Proof.Machine.execRegionStopFall p opp s
  | .pairSample => Sys2Proof.Machine.execPairSample s
  | .ptpTxStamp port phase frame => Sys2Proof.Machine.execPtpTxStamp port phase frame s
  | .ptpRxStamp port phase frame => Sys2Proof.Machine.execPtpRxStamp port phase frame s
  | .onestepSyncEdit port frame => Sys2Proof.Machine.execOnestepSyncEdit port frame s
  | .ptpTsMetaRead => Sys2Proof.Machine.execPtpTsMetaRead s
  | .ptpTlqPush port v frame => Sys2Proof.Machine.execPtpTlqPush port v frame s
  | .timedLaunch port => Sys2Proof.Machine.execTimedLaunch port s
  | .ethFrameReceive port frame err => Sys2Proof.Machine.execEthFrameReceive port frame err s
  | .tapEntryWrite p word pc => Sys2Proof.Machine.execTapEntryWrite p word pc s
  | .tapCount p => Sys2Proof.Machine.execTapCount p s
  | .tapCommandStart p => Sys2Proof.Machine.execTapCommandStart p s
  | .tapCommandEnd p => Sys2Proof.Machine.execTapCommandEnd p s
  | .tapTxnOpen p => Sys2Proof.Machine.execTapTxnOpen p s
  | .tapTxnCommit p => Sys2Proof.Machine.execTapTxnCommit p s
  | .tapTxnAbort p => Sys2Proof.Machine.execTapTxnAbort p s
  | .tapPower p => Sys2Proof.Machine.execTapPower p s
  | .tapDigestPart p => Sys2Proof.Machine.execTapDigestPart p s
  | .tapCancel p => Sys2Proof.Machine.execTapCancel p s
  | .cntClrWrite v => Sys2Proof.Machine.execCntClrWrite v s
  | .txnAbortAll => Sys2Proof.Machine.execTxnAbortAll s
  | .dieWindowBoundary c ports => Sys2Proof.Machine.execDieWindowBoundary c ports s
  | .feedEntryWrite p entry => Sys2Proof.Machine.execFeedEntryWrite p entry s
  | .feedStep p => Sys2Proof.Machine.execFeedStep p s
  | .feedDivert p => Sys2Proof.Machine.execFeedDivert p s
  | .feedLoad p => Sys2Proof.Machine.execFeedLoad p s
  | .feedStore p => Sys2Proof.Machine.execFeedStore p s
  | .feedData p => Sys2Proof.Machine.execFeedData p s
  | .feedMark p => Sys2Proof.Machine.execFeedMark p s
  | .trcCtlEnWrite v => Sys2Proof.Machine.execTrcCtlEnWrite v s
  | .trcCmdFlush => Sys2Proof.Machine.execTrcCmdFlush s
  | .trcCmdStart => Sys2Proof.Machine.execTrcCmdStart s
  | .trcCmdStop => Sys2Proof.Machine.execTrcCmdStop s
  | .triggerTransition => Sys2Proof.Machine.execTriggerTransition s
  | .postCountExpire => Sys2Proof.Machine.execPostCountExpire s
  | .loafAgeExpire => Sys2Proof.Machine.execLoafAgeExpire s
  | .regionSecureChange p level => Sys2Proof.Machine.execRegionSecureChange p level s
  | .grantReceive link frame => Sys2Proof.Machine.execGrantReceive link frame s
  | .grantExpire => Sys2Proof.Machine.execGrantExpire s
  | .revokeReceive link frame => Sys2Proof.Machine.execRevokeReceive link frame s
  | .powerPacketPlace p => Sys2Proof.Machine.execPowerPacketPlace p s
  | .dropModeEnd => Sys2Proof.Machine.execDropModeEnd s
  | .traceStallAssert => Sys2Proof.Machine.execTraceStallAssert s
  | .traceStallRelease => Sys2Proof.Machine.execTraceStallRelease s
  | .schedDebugFall level => Sys2Proof.Machine.execSchedDebugFall level s
  | .loafCompressed engine => Sys2Proof.Machine.execLoafCompressed engine s
  | .loafDeparted => Sys2Proof.Machine.execLoafDeparted s
  | .trcLinkUpChange level => Sys2Proof.Machine.execTrcLinkUpChange level s
  | .laneLock p lane => Sys2Proof.Machine.execLaneLock p lane s
  | .ingestLoafReceive p words => Sys2Proof.Machine.execIngestLoafReceive p words s
  | .decompressLoaf p => Sys2Proof.Machine.execDecompressLoaf p s
  | .windowedFrameReceive port link frame => Sys2Proof.Machine.execWindowedFrameReceive port link frame s
  | .alarmFrameReceive port link frame => Sys2Proof.Machine.execAlarmFrameReceive port link frame s
  | .windowClose c => Sys2Proof.Machine.execWindowClose c s
  | .jobStatsReceive port link frame => Sys2Proof.Machine.execJobStatsReceive port link frame s
  | .prepareReceive b port link frame => Sys2Proof.Machine.execPrepareReceive b port link frame s
  | .ackReceive port link frame => Sys2Proof.Machine.execAckReceive port link frame s
  | .ackDeadline c => Sys2Proof.Machine.execAckDeadline c s
  | .hearthDecisionDeadline c => Sys2Proof.Machine.execHearthDecisionDeadline c s
  | .commitReceive b port link frame => Sys2Proof.Machine.execCommitReceive b port link frame s
  | .abortReceive b port link frame => Sys2Proof.Machine.execAbortReceive b port link frame s
  | .lateCommitDeadline b c => Sys2Proof.Machine.execLateCommitDeadline b c s
  | .lateCommitReceive port link frame => Sys2Proof.Machine.execLateCommitReceive port link frame s
  | .contextStart b c => Sys2Proof.Machine.execContextStart b c s
  | .teardownReceive b port link frame => Sys2Proof.Machine.execTeardownReceive b port link frame s
  | .releasedReceive port link frame => Sys2Proof.Machine.execReleasedReceive port link frame s
  | .switchBoundary b => Sys2Proof.Machine.execSwitchBoundary b s
  | .emberDue b => Sys2Proof.Machine.execEmberDue b s
  | .emberReceive port link frame => Sys2Proof.Machine.execEmberReceive port link frame s
  | .checkPoint => Sys2Proof.Machine.execCheckPoint s
  | .memberReceive port link frame => Sys2Proof.Machine.execMemberReceive port link frame s
  | .remapReceive b port link frame => Sys2Proof.Machine.execRemapReceive b port link frame s
  | .remapApply b c => Sys2Proof.Machine.execRemapApply b c s
  | .hearthLossTimeout l => Sys2Proof.Machine.execHearthLossTimeout l s
  | .takeoverReceive port link frame => Sys2Proof.Machine.execTakeoverReceive port link frame s
  | .mergeStep row col => Sys2Proof.Machine.execMergeStep row col s
  | .featuriseStep row col => Sys2Proof.Machine.execFeaturiseStep row col s
  | .scoreStep row col errs => Sys2Proof.Machine.execScoreStep row col errs s
  | .auditStep row col => Sys2Proof.Machine.execAuditStep row col s
  | .ruleStep row col => Sys2Proof.Machine.execRuleStep row col s
  | .anvilStep row col => Sys2Proof.Machine.execAnvilStep row col s
  | .witnessStep row col => Sys2Proof.Machine.execWitnessStep row col s
  | .digestStep row col => Sys2Proof.Machine.execDigestStep row col s
  | .sendStep row col => Sys2Proof.Machine.execSendStep row col s
  | .resultStep row col => Sys2Proof.Machine.execResultStep row col s
  | .ckptStep row col => Sys2Proof.Machine.execCkptStep row col s
  | .testEntry row col faulty => Sys2Proof.Machine.execTestEntry row col faulty s
  | .ringEntry row => Sys2Proof.Machine.execRingEntry row s
  | .searchEntry row => Sys2Proof.Machine.execSearchEntry row s
  | .unitRetire => Sys2Proof.Machine.execUnitRetire s
  | .anvilCompareLoaf p => Sys2Proof.Machine.execAnvilCompareLoaf p s
  | .witnessDigest c region cmd digest => Sys2Proof.Machine.execWitnessDigest c region cmd digest s
  | .digestRecordReceive port link frame => Sys2Proof.Machine.execDigestRecordReceive port link frame s
  | .voteDecide c group cmd => Sys2Proof.Machine.execVoteDecide c group cmd s
  | .voteReceive port link frame => Sys2Proof.Machine.execVoteReceive port link frame s
  | .digestHoldExpire c => Sys2Proof.Machine.execDigestHoldExpire c s
  | .triggerEval => Sys2Proof.Machine.execTriggerEval s
  | .ensTstoreDataWrite v => Sys2Proof.Machine.execEnsTstoreDataWrite v s
  | .ensTrgCtlWrite v => Sys2Proof.Machine.execEnsTrgCtlWrite v s
  | .storeUe slot => Sys2Proof.Machine.execStoreUe slot s
  | .ruleScrub slot entry bad fixed => Sys2Proof.Machine.execRuleScrub slot entry bad fixed s
  | .phaseError d => Sys2Proof.Machine.execPhaseError d s
  | .cfgWriteReceive link frame => Sys2Proof.Machine.execCfgWriteReceive link frame s
  | .plnTxnCommit b => Sys2Proof.Machine.execPlnTxnCommit b s
  | .plnTxnAbort b => Sys2Proof.Machine.execPlnTxnAbort b s
  | .cfgCommitReceive link frame => Sys2Proof.Machine.execCfgCommitReceive link frame s
  | .cfgAbortReceive link frame => Sys2Proof.Machine.execCfgAbortReceive link frame s
  | .cfgApply b => Sys2Proof.Machine.execCfgApply b s
  | .cfgResultReceive port link frame => Sys2Proof.Machine.execCfgResultReceive port link frame s
  | .shareDataReceive port link frame => Sys2Proof.Machine.execShareDataReceive port link frame s
  | .stripeHoldExpire cls => Sys2Proof.Machine.execStripeHoldExpire cls s
  | .shareParityReceive port link frame => Sys2Proof.Machine.execShareParityReceive port link frame s
  | .shareAckReceive port link frame => Sys2Proof.Machine.execShareAckReceive port link frame s
  | .stripeReceive port link frame => Sys2Proof.Machine.execStripeReceive port link frame s
  | .releaseReceive port link frame => Sys2Proof.Machine.execReleaseReceive port link frame s
  | .notCodedReceive port link frame => Sys2Proof.Machine.execNotCodedReceive port link frame s
  | .readReqReceive port link frame => Sys2Proof.Machine.execReadReqReceive port link frame s
  | .readRespReceive port link frame => Sys2Proof.Machine.execReadRespReceive port link frame s
  | .memoryUe place id => Sys2Proof.Machine.execMemoryUe place id s
  | .memberLossDeclare cls m => Sys2Proof.Machine.execMemberLossDeclare cls m s
  | .lossReceive port link frame => Sys2Proof.Machine.execLossReceive port link frame s
  | .rebuildDone cls m => Sys2Proof.Machine.execRebuildDone cls m s
  | .hisRejoinWrite v => Sys2Proof.Machine.execHisRejoinWrite v s
  | .replacementRebuildDone cls m => Sys2Proof.Machine.execReplacementRebuildDone cls m s
  | .commandDoorbell n v => Sys2Proof.Machine.execCommandDoorbell n v s
  | .consumerDoorbell ring v => Sys2Proof.Machine.execConsumerDoorbell ring v s
  | .descriptorTake => Sys2Proof.Machine.execDescriptorTake s
  | .nop id => Sys2Proof.Machine.execNop id s
  | .cancel id => Sys2Proof.Machine.execCancel id s
  | .jobStart id => Sys2Proof.Machine.execJobStart id s
  | .jobTeardown id => Sys2Proof.Machine.execJobTeardown id s
  | .remap id => Sys2Proof.Machine.execRemap id s
  | .member id => Sys2Proof.Machine.execMember id s
  | .takeover id => Sys2Proof.Machine.execTakeover id s
  | .quench id => Sys2Proof.Machine.execQuench id s
  | .restore id => Sys2Proof.Machine.execRestore id s
  | .replay id => Sys2Proof.Machine.execReplay id s
  | .grant id => Sys2Proof.Machine.execGrant id s
  | .revoke id => Sys2Proof.Machine.execRevoke id s
  | .compress id => Sys2Proof.Machine.execCompress id s
  | .decompress id => Sys2Proof.Machine.execDecompress id s
  | .search id => Sys2Proof.Machine.execSearch id s
  | .treeLoad id => Sys2Proof.Machine.execTreeLoad id s
  | .treeFree id => Sys2Proof.Machine.execTreeFree id s
  | .groupLoad id => Sys2Proof.Machine.execGroupLoad id s
  | .groupFree id => Sys2Proof.Machine.execGroupFree id s
  | .imageLoad id => Sys2Proof.Machine.execImageLoad id s
  | .imageFree id => Sys2Proof.Machine.execImageFree id s
  | .planLoad id => Sys2Proof.Machine.execPlanLoad id s
  | .planFree id => Sys2Proof.Machine.execPlanFree id s
  | .schedLoad id => Sys2Proof.Machine.execSchedLoad id s
  | .dieRegRead id => Sys2Proof.Machine.execDieRegRead id s
  | .dieRegWrite id => Sys2Proof.Machine.execDieRegWrite id s
  | .dieRegStage id => Sys2Proof.Machine.execDieRegStage id s
  | .dieRegCommit id => Sys2Proof.Machine.execDieRegCommit id s
  | .dieRegAbort id => Sys2Proof.Machine.execDieRegAbort id s
  | .leaseAcquire id => Sys2Proof.Machine.execLeaseAcquire id s
  | .leaseRelease id => Sys2Proof.Machine.execLeaseRelease id s
  | .ownerTransfer id => Sys2Proof.Machine.execOwnerTransfer id s
  | .logClear id => Sys2Proof.Machine.execLogClear id s
  | .power id => Sys2Proof.Machine.execPower id s
  | .fwActivate id => Sys2Proof.Machine.execFwActivate id s
  | .stwRestart id => Sys2Proof.Machine.execStwRestart id s
  | .testInject id => Sys2Proof.Machine.execTestInject id s
  | .compressDone id => Sys2Proof.Machine.execCompressDone id s
  | .decompressDone id => Sys2Proof.Machine.execDecompressDone id s
  | .searchDone n => Sys2Proof.Machine.execSearchDone n s
  | .replayDone n => Sys2Proof.Machine.execReplayDone n s
  | .regReadReceive link frame => Sys2Proof.Machine.execRegReadReceive link frame s
  | .regWriteReceive link frame => Sys2Proof.Machine.execRegWriteReceive link frame s
  | .regRespReceive port link frame => Sys2Proof.Machine.execRegRespReceive port link frame s
  | .dieAnswerTimeout id => Sys2Proof.Machine.execDieAnswerTimeout id s
  | .grantRespReceive port link frame => Sys2Proof.Machine.execGrantRespReceive port link frame s
  | .powerRecordReceive link frame => Sys2Proof.Machine.execPowerRecordReceive link frame s
  | .powerRespReceive port link frame => Sys2Proof.Machine.execPowerRespReceive port link frame s
  | .powerTransition b => Sys2Proof.Machine.execPowerTransition b s
  | .crumbReceive port link frame => Sys2Proof.Machine.execCrumbReceive port link frame s
  | .sensorRecordReceive link frame => Sys2Proof.Machine.execSensorRecordReceive link frame s
  | .hstOwnClaim => Sys2Proof.Machine.execHstOwnClaim s
  | .hstOwnRelease => Sys2Proof.Machine.execHstOwnRelease s
  | .pcieFlr => Sys2Proof.Machine.execPcieFlr s
  | .pcieHotReset => Sys2Proof.Machine.execPcieHotReset s
  | .pcieLinkDown => Sys2Proof.Machine.execPcieLinkDown s
  | .transferTimeout => Sys2Proof.Machine.execTransferTimeout s
  | .busMasterEnableChange level => Sys2Proof.Machine.execBusMasterEnableChange level s
  | .ringCfgWrite ring v => Sys2Proof.Machine.execRingCfgWrite ring v s
  | .barMalformedAccess isRead => Sys2Proof.Machine.execBarMalformedAccess isRead s
  | .eventHoldDrain => Sys2Proof.Machine.execEventHoldDrain s
  | .exportHoldDrain e => Sys2Proof.Machine.execExportHoldDrain e s
  | .msixModExpire ring => Sys2Proof.Machine.execMsixModExpire ring s
  | .egressDecision b p => Sys2Proof.Machine.execEgressDecision b p s
  | .frameLastBeat b p => Sys2Proof.Machine.execFrameLastBeat b p s
  | .egrFreezeWrite b p v => Sys2Proof.Machine.execEgrFreezeWrite b p v s
  | .egrBktReconfig b which v => Sys2Proof.Machine.execEgrBktReconfig b which v s
  | .flashCrumbProgram => Sys2Proof.Machine.execFlashCrumbProgram s
  | .hoursCrumbDue => Sys2Proof.Machine.execHoursCrumbDue s
  | .buttonPress pressed => Sys2Proof.Machine.execButtonPress pressed s
  | .jumperChange fitted => Sys2Proof.Machine.execJumperChange fitted s
  | .sealLoopOpen isOpen => Sys2Proof.Machine.execSealLoopOpen isOpen s
  | .presenceWindowExpire => Sys2Proof.Machine.execPresenceWindowExpire s
  | .secCloseWrite v => Sys2Proof.Machine.execSecCloseWrite v s
  | .stewardVerifyDone n => Sys2Proof.Machine.execStewardVerifyDone n s
  | .stwCmdRestart v => Sys2Proof.Machine.execStwCmdRestart v s
  | .stewardRestartDone n => Sys2Proof.Machine.execStewardRestartDone n s
  | .watchdogExpire n core => Sys2Proof.Machine.execWatchdogExpire n core s
  | .stewardFault n cause core => Sys2Proof.Machine.execStewardFault n cause core s
  | .stwWdogWrite n => Sys2Proof.Machine.execStwWdogWrite n s
  | .stwDumpAckWrite v => Sys2Proof.Machine.execStwDumpAckWrite v s
  | .stwDumpDataRead => Sys2Proof.Machine.execStwDumpDataRead s
  | .stwFlBufAccess isRead v => Sys2Proof.Machine.execStwFlBufAccess isRead v s
  | .flashErase => Sys2Proof.Machine.execFlashErase s
  | .flashProgram => Sys2Proof.Machine.execFlashProgram s
  | .flashRead => Sys2Proof.Machine.execFlashRead s
  | .flashCmdDone => Sys2Proof.Machine.execFlashCmdDone s
  | .sensorSample b samples => Sys2Proof.Machine.execSensorSample b samples s
  | .idDaPlaceWrite path v => Sys2Proof.Machine.execIdDaPlaceWrite path v s
  | .idCtlLockWrite path => Sys2Proof.Machine.execIdCtlLockWrite path s
  | .idCtlLocalRoWrite path => Sys2Proof.Machine.execIdCtlLocalRoWrite path s
  | .rcFieldRead b path off hw => Sys2Proof.Machine.execRcFieldRead b path off hw s
  | .loReadLatch b path off => Sys2Proof.Machine.execLoReadLatch b path off s
  | .evrRdDataRead b => Sys2Proof.Machine.execEvrRdDataRead b s
  | .registerWrite b path off v hw => Sys2Proof.Machine.execRegisterWrite b path off v hw s
  | .borluDResetAssert => Sys2Proof.Machine.execBorluDResetAssert s
  | .borluDResetRelease slot localEn => Sys2Proof.Machine.execBorluDResetRelease slot localEn s
  | .borluTResetAssert por => Sys2Proof.Machine.execBorluTResetAssert por s
  | .borluTResetRelease straps => Sys2Proof.Machine.execBorluTResetRelease straps s
  | .alignPulse => Sys2Proof.Machine.execAlignPulse s
  | .stackReady stack good => Sys2Proof.Machine.execStackReady stack good s
  | .holdAbsorbed b => Sys2Proof.Machine.execHoldAbsorbed b s
  | .alarmSlotArrival => Sys2Proof.Machine.execAlarmSlotArrival s
  | .hearthActivation l => Sys2Proof.Machine.execHearthActivation l s
  | .catchupEnd c => Sys2Proof.Machine.execCatchupEnd c s
  | .testFrameReceive b port link frame => Sys2Proof.Machine.execTestFrameReceive b port link frame s

end Sys2Proof.Machine
end

