-- ==== Sys2Proof/Machine/Outputs.lean ====
section
/-! DEFINITION. What Borlu-T drives at its memory controllers, its flash port and its power outputs (R345 to R347, R451, R452, R457, R480 to R482,
R485): read from the state, with nothing of its own. -/

namespace Sys2Proof.Machine

/-! ### The memory controllers (R345 to R347, R481) -/

/-- Whose slice a slice of a row is (R345). -/
inductive SliceUse
  | refresh | ingest | share | plane | scan | host | idle
deriving DecidableEq, Repr

/-- The clients in the order in which a row gives them slices, each with the low bit of its count (R345). -/
def sliceOrder : List (SliceUse × Nat) := [(.refresh, 20), (.ingest, 0), (.share, 4), (.plane, 8), (.scan, 12), (.host, 16)]

/-- The entry of the memory section of a schedule image for a row and stack (R345). -/
def memoryEntry (img : Bytes) (row stack : Nat) : Nat := fieldAt img (fieldAt img 40 4 + 4 * (24 * row + stack)) 4

/-- The use of slice `n` under an entry: the clients take their counts in order, and what is left is idle (R345). -/
def sliceOf (entry : Nat) : List (SliceUse × Nat) → Nat → SliceUse
  | [], _ => .idle
  | (c, lo) :: rest, n =>
    let k := bitsOf entry (lo + 3) lo
    if n < k then c else sliceOf entry rest (n - k)

/-- The use of slice `n` of a row in a stack; beyond the 256th MEM cycle of a long row REFRESH and INGEST slices alternate (R347). -/
def sliceUse (img : Bytes) (row stack n : Nat) : SliceUse :=
  if n < 16 then sliceOf (memoryEntry img row stack) sliceOrder n else if n % 2 = 0 then .refresh else .ingest

/-- A PHY update request is granted in MEM cycle `c` of a row: only at the start of a REFRESH slice; the grant ends with the slice (R481). -/
def updateGrant (img : Bytes) (row stack c : Nat) : Option (Nat × Nat) :=
  if c % 16 = 0 ∧ sliceUse img row stack (c / 16) = .refresh then some (c, c + 16) else none

/-- What a read of 8 bytes with their check bits finds (R481). -/
inductive WordRead
  | good | corrected | uncorrected
deriving DecidableEq, Repr

/-- The code in the stack's ECC bits corrects one wrong bit in every 8 bytes and detects two (R481); what it makes of more is in no rule. -/
def wordRead : Nat → Option WordRead
  | 0 => some .good
  | 1 => some .corrected
  | 2 => some .uncorrected
  | _ => none

/-- What a read of several 8-byte words finds: uncorrected where one of them is (R344, R481). -/
def burstRead (wrong : List Nat) : Option WordRead :=
  wrong.foldl (fun a n => match a, wordRead n with
    | none, _ | _, none => none
    | some .uncorrected, _ | _, some .uncorrected => some .uncorrected
    | some .corrected, _ | _, some .corrected => some .corrected
    | some .good, some .good => some .good) (some .good)

/-- The stacks are in self-refresh: in P2 (R481). -/
def Block.selfRefresh (b : Block) : Bool := b.power.phase == 2

/-! ### The flash port (R482) -/

/-- The address bytes of a flash command. -/
def FlashTable.addressBytes (t : FlashTable) : Nat := if t.fourByte then 4 else 3

/-- The lines on which the port reads. -/
def FlashTable.readLines (t : FlashTable) : Nat := if t.quad then 4 else 1

/-- Bytes a second that the port reads: four lines at 100 MHz, or one. -/
def FlashTable.readRate (t : FlashTable) : Nat := t.readLines * 12500000

/-- The bound of R442 on the boot of the stewards, in ms after the release of the dividers. -/
def FlashTable.bootBound (t : FlashTable) : Nat := if t.quad then 150 else 600

/-! ### The power outputs (R480, R485) -/

/-- pm_state: P0 while the block is in reset. -/
def State.pmState (s : State) : Nat := if s.tReset then 0 else s.t.power.phase

/-- pm_off_ready: low in reset. -/
def State.pmOffReady (s : State) : Bool := !s.tReset && s.t.power.offReady

/-- pm_therm_crit: any TEMP latch is set. -/
def State.pmThermCrit (s : State) : Bool := s.t.thermCrit

end Sys2Proof.Machine
end

