-- ==== Sys2Proof/Machine/Pins.lean ====
section
/-! DEFINITION. What a change at an input does for which the opcode table has no row (R364, R365, R367, R424, R454, R480, R482, R483, R488). -/

namespace Sys2Proof.Machine

/-- Change what the tray knows of the link. -/
def Block.modLink (b : Block) (f : PcieLink → PcieLink) : Block := b.modHost (fun h => { h with pcie := f h.pcie })

/-- Change the test access port. -/
def Block.modJtag (b : Block) (f : TestPort → TestPort) : Block := { b with tray := { b.tray with jtag := f b.tray.jtag } }

/-- A presence input shows another level from this cycle on. -/
def Debounce.see (d : Debounce) (level : Bool) (now : Nat) : Debounce := if d.level = level then d else { level := level, since := now }

/-- A presence input of R424: 0 the button, 1 the jumper, 2 the seal loop. -/
def Presence.see (p : Presence) (input : Fin 3) (level : Bool) (now : Nat) : Presence :=
  match input with
  | 0 => { p with buttonIn := p.buttonIn.see level now }
  | 1 => { p with jumperIn := p.jumperIn.see level now }
  | 2 => { p with loopIn := p.loopIn.see level now }

/-- What a change does to the blocks; the link going down ends ownership as PCIE_LINK_DOWN does (R369). -/
def Pin.act (p : Pin) (s : State) : State :=
  match p with
  | .tck tms tdi cells => s.setBlock .T (s.t.modJtag (fun j => j.clock (!s.trstLow) tms tdi s.tReset cells))
  | .trst low => { s.setBlock .T (s.t.modJtag (fun j => if low then j.clock false false false s.tReset [] else j)) with trstLow := low }
  | .pcieState up speed width =>
    let x := s.t.modLink (fun l => { l with up := up, speed := speed, width := width })
    s.setBlock .T (x.when (s.running .T && s.t.tray.host.pcie.up && !up) Block.endOwnership)
  | .pcieRelaxed on => s.setBlock .T (s.t.modLink (fun l => { l with relaxed := on }))
  | .pcieSizes mps mrrs => s.setBlock .T (s.t.modLink (fun l => { l with mps := mps, mrrs := mrrs }))
  | .ingestUp port up => s.setBlock .T (s.t.modIngest port (fun x => x.setUp up))
  | .sensor ch code =>
    let next := sput (fun _ => (none : Option (BitVec 16))) s.d.die.sensors ch code
    s.setBlock .D { s.d with die := { s.d.die with sensors := next } }
  | .i3cDevices ids =>
    let order := (ids.mergeSort (fun a c => decide (a.toNat ≤ c.toNat))).take 8
    s.setBlock .T { s.t with tray := { s.t.tray with i3c := order } }
  | .flashFitted table => s.setBlock .T { s.t with tray := { s.t.tray with flashTable := table } }
  | .presence input asserted => s.setBlock .T (s.t.modPres (fun p => p.see input asserted s.t.time.cycles))
  | .barNothing isRead => s.setBlock .T (s.t.when isRead (fun b => { b with rdata := 0 }))

/-- The oldest waiting change at an input acts. -/
def State.takePin (s : State) : State :=
  match s.pins with
  | [] => s
  | p :: rest => p.act { s with pins := rest }

end Sys2Proof.Machine
end

