-- ==== Sys2Proof/Machine/Tick.lean ====
section
/-! DEFINITION. One clock cycle of each block, with no command (log 1): what step does on an empty queue. -/

namespace Sys2Proof.Machine

/-- A cycle of a block in which no command moves its time; fleet time of a Borlu-D stands in RETAIN and OFF (R451), and a Borlu-T samples its
presence inputs (R424). -/
def Block.tick (b : Block) : Block :=
  match b.build with
  | .D => if b.asleep then b.clock id else b.timeCycle
  | .T => b.timeCycle.debounce

/-- One cycle of each block's own clock, for a block that is out of reset. -/
def cycle (s : State) : State :=
  { s with d := if s.running .D then s.d.tick else s.d, t := if s.running .T then s.t.tick else s.t }

/-- What happens where no command waits: the oldest change at an input without a command acts (log 85), and a cycle passes. -/
def tick (s : State) : State := cycle s.takePin

end Sys2Proof.Machine
end

