-- ==== Sys2Proof/Safety.lean ====
section
/-! DEFINITION. What the statements speak of: the block a command is given to, states that can step, runs of the queue, what a reset that is
held leaves, and the conditions under which a received record, a descriptor, a tap word or a feed entry is acted on. -/

namespace Sys2Proof

/-- The block that a command is given to. -/
def Instr.target : Instr → Build
  | .timIncrFracWrite b _ => b
  | .timIncrIntWrite b _ => b
  | .ftStep b _ => b
  | .timModeWrite b _ => b
  | .beaconDue => .T
  | .beaconReceive b _ _ _ => b
  | .beaconLost b => b
  | .temperStart _ => .T
  | .temperReqReceive b _ _ _ => b
  | .temperRespReceive _ _ _ => .T
  | .temperReplyTimeout => .T
  | .temperSetReceive b _ _ _ => b
  | .temperAckReceive _ _ _ => .T
  | .timePulse b => b
  | .regionStretch _ _ => .D
  | .regionStopRise _ => .D
  | .regionStopFall _ _ => .D
  | .pairSample => .D
  | .ptpTxStamp _ _ _ => .T
  | .ptpRxStamp _ _ _ => .T
  | .onestepSyncEdit _ _ => .T
  | .ptpTsMetaRead => .T
  | .ptpTlqPush _ _ _ => .T
  | .timedLaunch _ => .T
  | .ethFrameReceive _ _ _ => .T
  | .tapEntryWrite _ _ _ => .D
  | .tapCount _ => .D
  | .tapCommandStart _ => .D
  | .tapCommandEnd _ => .D
  | .tapTxnOpen _ => .D
  | .tapTxnCommit _ => .D
  | .tapTxnAbort _ => .D
  | .tapPower _ => .D
  | .tapDigestPart _ => .D
  | .tapCancel _ => .D
  | .cntClrWrite _ => .D
  | .txnAbortAll => .D
  | .dieWindowBoundary _ _ => .D
  | .feedEntryWrite _ _ => .D
  | .feedStep _ => .D
  | .feedDivert _ => .D
  | .feedLoad _ => .D
  | .feedStore _ => .D
  | .feedData _ => .D
  | .feedMark _ => .D
  | .trcCtlEnWrite _ => .D
  | .trcCmdFlush => .D
  | .trcCmdStart => .D
  | .trcCmdStop => .D
  | .triggerTransition => .D
  | .postCountExpire => .D
  | .loafAgeExpire => .D
  | .regionSecureChange _ _ => .D
  | .grantReceive _ _ => .D
  | .grantExpire => .D
  | .revokeReceive _ _ => .D
  | .powerPacketPlace _ => .D
  | .dropModeEnd => .D
  | .traceStallAssert => .D
  | .traceStallRelease => .D
  | .schedDebugFall _ => .D
  | .loafCompressed _ => .D
  | .loafDeparted => .D
  | .trcLinkUpChange _ => .D
  | .laneLock _ _ => .T
  | .ingestLoafReceive _ _ => .T
  | .decompressLoaf _ => .T
  | .windowedFrameReceive _ _ _ => .T
  | .alarmFrameReceive _ _ _ => .T
  | .windowClose _ => .T
  | .jobStatsReceive _ _ _ => .T
  | .prepareReceive b _ _ _ => b
  | .ackReceive _ _ _ => .T
  | .ackDeadline _ => .T
  | .hearthDecisionDeadline _ => .T
  | .commitReceive b _ _ _ => b
  | .abortReceive b _ _ _ => b
  | .lateCommitDeadline b _ => b
  | .lateCommitReceive _ _ _ => .T
  | .contextStart b _ => b
  | .teardownReceive b _ _ _ => b
  | .releasedReceive _ _ _ => .T
  | .switchBoundary b => b
  | .emberDue b => b
  | .emberReceive _ _ _ => .T
  | .checkPoint => .T
  | .memberReceive _ _ _ => .T
  | .remapReceive b _ _ _ => b
  | .remapApply b _ => b
  | .hearthLossTimeout _ => .T
  | .takeoverReceive _ _ _ => .T
  | .mergeStep _ _ => .T
  | .featuriseStep _ _ => .T
  | .scoreStep _ _ _ => .T
  | .auditStep _ _ => .T
  | .ruleStep _ _ => .T
  | .anvilStep _ _ => .T
  | .witnessStep _ _ => .T
  | .digestStep _ _ => .T
  | .sendStep _ _ => .T
  | .resultStep _ _ => .T
  | .ckptStep _ _ => .T
  | .testEntry _ _ _ => .T
  | .ringEntry _ => .T
  | .searchEntry _ => .T
  | .unitRetire => .T
  | .anvilCompareLoaf _ => .T
  | .witnessDigest _ _ _ _ => .D
  | .digestRecordReceive _ _ _ => .T
  | .voteDecide _ _ _ => .T
  | .voteReceive _ _ _ => .T
  | .digestHoldExpire _ => .T
  | .triggerEval => .D
  | .ensTstoreDataWrite _ => .D
  | .ensTrgCtlWrite _ => .D
  | .storeUe _ => .T
  | .ruleScrub _ _ _ _ => .T
  | .phaseError _ => .T
  | .cfgWriteReceive _ _ => .D
  | .plnTxnCommit b => b
  | .plnTxnAbort b => b
  | .cfgCommitReceive _ _ => .D
  | .cfgAbortReceive _ _ => .D
  | .cfgApply b => b
  | .cfgResultReceive _ _ _ => .T
  | .shareDataReceive _ _ _ => .T
  | .stripeHoldExpire _ => .T
  | .shareParityReceive _ _ _ => .T
  | .shareAckReceive _ _ _ => .T
  | .stripeReceive _ _ _ => .T
  | .releaseReceive _ _ _ => .T
  | .notCodedReceive _ _ _ => .T
  | .readReqReceive _ _ _ => .T
  | .readRespReceive _ _ _ => .T
  | .memoryUe _ _ => .T
  | .memberLossDeclare _ _ => .T
  | .lossReceive _ _ _ => .T
  | .rebuildDone _ _ => .T
  | .hisRejoinWrite _ => .T
  | .replacementRebuildDone _ _ => .T
  | .commandDoorbell _ _ => .T
  | .consumerDoorbell _ _ => .T
  | .descriptorTake => .T
  | .nop _ => .T
  | .cancel _ => .T
  | .jobStart _ => .T
  | .jobTeardown _ => .T
  | .remap _ => .T
  | .member _ => .T
  | .takeover _ => .T
  | .quench _ => .T
  | .restore _ => .T
  | .replay _ => .T
  | .grant _ => .T
  | .revoke _ => .T
  | .compress _ => .T
  | .decompress _ => .T
  | .search _ => .T
  | .treeLoad _ => .T
  | .treeFree _ => .T
  | .groupLoad _ => .T
  | .groupFree _ => .T
  | .imageLoad _ => .T
  | .imageFree _ => .T
  | .planLoad _ => .T
  | .planFree _ => .T
  | .schedLoad _ => .T
  | .dieRegRead _ => .T
  | .dieRegWrite _ => .T
  | .dieRegStage _ => .T
  | .dieRegCommit _ => .T
  | .dieRegAbort _ => .T
  | .leaseAcquire _ => .T
  | .leaseRelease _ => .T
  | .ownerTransfer _ => .T
  | .logClear _ => .T
  | .power _ => .T
  | .fwActivate _ => .T
  | .stwRestart _ => .T
  | .testInject _ => .T
  | .compressDone _ => .T
  | .decompressDone _ => .T
  | .searchDone _ => .T
  | .replayDone _ => .T
  | .regReadReceive _ _ => .D
  | .regWriteReceive _ _ => .D
  | .regRespReceive _ _ _ => .T
  | .dieAnswerTimeout _ => .T
  | .grantRespReceive _ _ _ => .T
  | .powerRecordReceive _ _ => .D
  | .powerRespReceive _ _ _ => .T
  | .powerTransition b => b
  | .crumbReceive _ _ _ => .T
  | .sensorRecordReceive _ _ => .T
  | .hstOwnClaim => .T
  | .hstOwnRelease => .T
  | .pcieFlr => .T
  | .pcieHotReset => .T
  | .pcieLinkDown => .T
  | .transferTimeout => .T
  | .busMasterEnableChange _ => .T
  | .ringCfgWrite _ _ => .T
  | .barMalformedAccess _ => .T
  | .eventHoldDrain => .T
  | .exportHoldDrain _ => .T
  | .msixModExpire _ => .T
  | .egressDecision b _ => b
  | .frameLastBeat b _ => b
  | .egrFreezeWrite b _ _ => b
  | .egrBktReconfig b _ _ => b
  | .flashCrumbProgram => .T
  | .hoursCrumbDue => .T
  | .buttonPress _ => .T
  | .jumperChange _ => .T
  | .sealLoopOpen _ => .T
  | .presenceWindowExpire => .T
  | .secCloseWrite _ => .T
  | .stewardVerifyDone _ => .T
  | .stwCmdRestart _ => .T
  | .stewardRestartDone _ => .T
  | .watchdogExpire _ _ => .T
  | .stewardFault _ _ _ => .T
  | .stwWdogWrite _ => .T
  | .stwDumpAckWrite _ => .T
  | .stwDumpDataRead => .T
  | .stwFlBufAccess _ _ => .T
  | .flashErase => .T
  | .flashProgram => .T
  | .flashRead => .T
  | .flashCmdDone => .T
  | .sensorSample b _ => b
  | .idDaPlaceWrite _ _ => .D
  | .idCtlLockWrite _ => .D
  | .idCtlLocalRoWrite _ => .D
  | .rcFieldRead b _ _ _ => b
  | .loReadLatch b _ _ => b
  | .evrRdDataRead b => b
  | .registerWrite b _ _ _ _ => b
  | .borluDResetAssert => .D
  | .borluDResetRelease _ _ => .D
  | .borluTResetAssert _ => .T
  | .borluTResetRelease _ => .T
  | .alignPulse => .T
  | .stackReady _ _ => .T
  | .holdAbsorbed b => b
  | .alarmSlotArrival => .D
  | .hearthActivation _ => .T
  | .catchupEnd _ => .T
  | .testFrameReceive b _ _ _ => b

/-- The other build. -/
def Build.other : Build → Build
  | .D => .T
  | .T => .D

/-- The commands that assert or release a reset, and the alignment pulse: they act on a block that does not run. -/
def Instr.isReset (c : Instr) : Bool :=
  match c with
  | .borluDResetAssert | .borluDResetRelease _ _ | .borluTResetAssert _ | .borluTResetRelease _ | .alignPulse => true
  | _ => false

/-- The commands that bring the level of an input, which is taken in a reset as well (R366, R476). -/
def Instr.isLevel (c : Instr) : Bool :=
  match c with
  | .regionStretch _ _ | .trcLinkUpChange _ | .regionSecureChange _ _ | .schedDebugFall _ | .busMasterEnableChange _ => true
  | _ => false

end Sys2Proof

namespace Sys2Proof.Machine

/-- A state that can take its next step. -/
def State.canStep (s : State) : Bool := match step s with | .next _ => true | _ => false

/-- Steps until the queue is empty: one for each waiting command; none where a step stops. -/
def State.drain : Nat → State → Option State
  | 0, s => some s
  | n + 1, s => match step s with | .next t => t.drain n | _ => none

/-- The part of the machine that commands of the other block leave alone: a block, its reset and, in Borlu-T, its alignment. -/
abbrev State.sameBlock (s t : State) : Build → Prop
  | .D => t.d = s.d ∧ t.dReset = s.dReset
  | .T => t.t = s.t ∧ t.tReset = s.tReset ∧ t.tAligned = s.tAligned

/-- What a reset that is held leaves (R484, R485): the reset values of the block, and no alignment before the release. -/
abbrev State.resetHeld (s : State) : Prop :=
  (s.dReset = true → s.d = s.d.dieReset) ∧ (s.tAligned = false → s.t = s.t.trayReset s.t.tray.powerOn) ∧
    (s.tReset = true → s.tAligned = false)

/-! ### When a command acts -/

/-- A frame passes the receive checks of a block as a class 1 frame with one control record, `r`, of a CTYPE that the block heeds (R437): `f` is the
frame and `b'` the block after the checks (R158, R191). -/
abbrev Block.hears (b : Block) (link : Fin 64) (raw : Bytes) (ctype : Nat) (f : Frame) (r : Bytes) (b' : Block) : Prop :=
  b.rx link raw ctype = (some f, b') ∧ f.cls = 1 ∧ f.parts = 1 ∧ controlRecords 512 f.payload = [r] ∧ ctypeOf r = ctype ∧
    b'.heeds ctype = true

/-- A taken descriptor that its steward has begun. -/
def Taken.start (t : Taken) : Taken := { t with begun := true }

/-- The tray runs, `t` is the next descriptor in turn, of an opcode, the steward that carries it out runs and its input can be read (R366,
R377, R437). -/
abbrev State.descNext (s : State) (op steward id : Nat) (t : Taken) : Prop :=
  s.running .T = true ∧ s.t.tray.host.taken.find? (fun x => !x.begun) = some t ∧ t.id = id ∧ t.opcode = op ∧
    s.t.stewardRuns steward = true ∧ s.t.mayRead t = true

/-- The tray with that descriptor begun. -/
def State.begin (s : State) (t : Taken) : Block := s.t.setTaken t.start

/-- The descriptor commands: the opcode, the steward that carries it out, and the descriptor's identity (R381, R437). -/
def descriptorOf (c : Instr) : Option (Nat × Nat × Nat) :=
  match c with
  | .nop id => some (0x01, 5, id)
  | .cancel id => some (0x02, 5, id)
  | .jobStart id => some (0x10, 1, id)
  | .jobTeardown id => some (0x11, 1, id)
  | .remap id => some (0x12, 1, id)
  | .member id => some (0x13, 1, id)
  | .takeover id => some (0x14, 1, id)
  | .quench id => some (0x15, 1, id)
  | .restore id => some (0x16, 1, id)
  | .replay id => some (0x17, 2, id)
  | .grant id => some (0x18, 5, id)
  | .revoke id => some (0x19, 5, id)
  | .compress id => some (0x20, 2, id)
  | .decompress id => some (0x21, 2, id)
  | .search id => some (0x22, 2, id)
  | .treeLoad id => some (0x30, 1, id)
  | .treeFree id => some (0x31, 1, id)
  | .groupLoad id => some (0x32, 1, id)
  | .groupFree id => some (0x33, 1, id)
  | .imageLoad id => some (0x34, 1, id)
  | .imageFree id => some (0x35, 1, id)
  | .planLoad id => some (0x36, 1, id)
  | .planFree id => some (0x37, 1, id)
  | .schedLoad id => some (0x38, 1, id)
  | .dieRegRead id => some (0x40, 5, id)
  | .dieRegWrite id => some (0x40, 5, id)
  | .dieRegStage id => some (0x40, 5, id)
  | .dieRegCommit id => some (0x40, 5, id)
  | .dieRegAbort id => some (0x40, 5, id)
  | .leaseAcquire id => some (0x50, 5, id)
  | .leaseRelease id => some (0x51, 5, id)
  | .ownerTransfer id => some (0x52, 5, id)
  | .logClear id => some (0x53, 4, id)
  | .power id => some (0x60, 4, id)
  | .fwActivate id => some (0x61, 5, id)
  | .stwRestart id => some (0x62, 5, id)
  | .testInject id => some (0x63, 4, id)
  | _ => none

/-- The opcodes whose descriptors use stacked memory (R485). -/
def usesMemory (op : Nat) : Bool := op ∈ [0x16, 0x17, 0x22, 0x30, 0x31, 0x32, 0x33, 0x34, 0x35, 0x36, 0x37, 0x38]

/-- The commands that receive a control record: the block, the link, the frame, the CTYPE (R191). -/
def controlOf (c : Instr) : Option (Build × Fin 64 × Bytes × Nat) :=
  match c with
  | .prepareReceive b _ l f => some (b, l, f, 0x0101)
  | .ackReceive _ l f => some (.T, l, f, 0x0102)
  | .commitReceive b _ l f => some (b, l, f, 0x0103)
  | .abortReceive b _ l f => some (b, l, f, 0x0104)
  | .lateCommitReceive _ l f => some (.T, l, f, 0x0105)
  | .teardownReceive b _ l f => some (b, l, f, 0x0106)
  | .releasedReceive _ l f => some (.T, l, f, 0x0107)
  | .emberReceive _ l f => some (.T, l, f, 0x0108)
  | .takeoverReceive _ l f => some (.T, l, f, 0x0109)
  | .remapReceive b _ l f => some (b, l, f, 0x010A)
  | .memberReceive _ l f => some (.T, l, f, 0x010B)
  | .cfgWriteReceive l f => some (.D, l, f, 0x0201)
  | .cfgCommitReceive l f => some (.D, l, f, 0x0202)
  | .cfgAbortReceive l f => some (.D, l, f, 0x0203)
  | .cfgResultReceive _ l f => some (.T, l, f, 0x0204)
  | .digestRecordReceive _ l f => some (.T, l, f, 0x0301)
  | .voteReceive _ l f => some (.T, l, f, 0x0302)
  | .regReadReceive l f => some (.D, l, f, 0x0601)
  | .regWriteReceive l f => some (.D, l, f, 0x0602)
  | .regRespReceive _ l f => some (.T, l, f, 0x0603)
  | .crumbReceive _ l f => some (.T, l, f, 0x0701)
  | .grantReceive l f => some (.D, l, f, 0x0801)
  | .revokeReceive l f => some (.D, l, f, 0x0802)
  | .grantRespReceive _ l f => some (.T, l, f, 0x0803)
  | .sensorRecordReceive l f => some (.T, l, f, 0x0901)
  | .powerRecordReceive l f => some (.D, l, f, 0x0902)
  | .powerRespReceive _ l f => some (.T, l, f, 0x0903)
  | .temperReqReceive b _ l f => some (b, l, f, 0x0A02)
  | .temperRespReceive _ l f => some (.T, l, f, 0x0A03)
  | .temperSetReceive b _ l f => some (b, l, f, 0x0A04)
  | .temperAckReceive _ l f => some (.T, l, f, 0x0A05)
  | .lossReceive _ l f => some (.T, l, f, 0x0B01)
  | _ => none

/-- A block that runs hears a control record. -/
abbrev State.hears (s : State) (b : Build) (link : Fin 64) (raw : Bytes) (ctype : Nat) (f : Frame) (r : Bytes) (b' : Block) :
    Prop :=
  s.running b = true ∧ (s.block b).hears link raw ctype f r b'

/-- A frame passes the checks of the Borlu-T as a class 5 frame with one record, `r`, of an HTYPE; in `b'` its sender has been heard (R354,
R356). -/
abbrev State.hearsShare (s : State) (link : Fin 64) (raw : Bytes) (htype : Nat) (f : Frame) (r : Bytes) (b' : Block) : Prop :=
  s.running .T = true ∧ (s.t.rx link raw).1 = some f ∧ f.cls = 5 ∧ controlRecords 512 f.payload = [r] ∧ ctypeOf r = htype ∧
    b' = (s.t.rx link raw).2.hearPeer f.srcDa

/-- The commands that run a step of a row: the kind of the step, its row and column, and the fetch errors that it meets (R322). -/
def stepRow (c : Instr) : Option (Nat × Fin 6400 × Fin 32 × List (Nat × Nat)) :=
  match c with
  | .mergeStep row col => some (1, row, col, [])
  | .featuriseStep row col => some (2, row, col, [])
  | .scoreStep row col errs => some (3, row, col, errs.failed)
  | .auditStep row col => some (4, row, col.col, col.failed)
  | .ruleStep row col => some (5, row, col.col, col.failed)
  | .anvilStep row col => some (6, row, col, [])
  | .witnessStep row col => some (7, row, col, [])
  | .digestStep row col => some (8, row, col, [])
  | .sendStep row col => some (9, row, col, [])
  | .resultStep row col => some (10, row, col, [])
  | .ckptStep row col => some (11, row, col, [])
  | _ => none

/-- The errors that a store corrected for a step of a row are counted (R260, R277). -/
def stepFixed (c : Instr) (b : Block) : Block :=
  match c with
  | .scoreStep _ _ errs => b.count Reg.ENS_STORE_CE errs.corrected
  | .ruleStep _ col => b.count Reg.RUL_CE col.corrected
  | _ => b

/-- The commands that take a word of a tap port other than the two words of COMMAND_START: the port and the kinds of the word (R83). -/
def tapRow (c : Instr) : Option (Fin 64 × List Nat) :=
  match c with
  | .tapCount p => some (p, [0, 7, 8, 9, 12, 13, 14, 15])
  | .tapCommandEnd p => some (p, [2])
  | .tapTxnOpen p => some (p, [3])
  | .tapTxnCommit p => some (p, [4])
  | .tapTxnAbort p => some (p, [5])
  | .tapPower p => some (p, [6])
  | .tapDigestPart p => some (p, [10])
  | .tapCancel p => some (p, [11])
  | _ => none

end Sys2Proof.Machine
end

