-- ==== Sys2Proof/Certificates/Slice0/Obligations.lean ====
section
/-! DEFINITION. The statements for the provers. -/

section
open Sys2Proof Sys2Proof.Machine

/-! ### The machine -/

/-- A step takes the command at the front of the queue and runs it on the state with the queue's rest. -/
def Obligations.StepRunsFront : Prop :=
  ∀ (c : Instr) (rest : List Instr) (s : State), step { s with pending := c :: rest } = exec c { s with pending := rest }

/-- Every command answers a next state, keeps the queue, and leaves the other block, its reset and its alignment as they are: the two
builds are separate blocks (R2). So the queue drains: from any state, one step for each waiting command leaves an empty queue. -/
def Obligations.CommandsTouchOneBlock : Prop :=
  (∀ (c : Instr) (s : State), ∃ t, exec c s = .next t ∧ t.pending = s.pending ∧ s.sameBlock t c.target.other) ∧
  ∀ s : State, ∃ t, s.drain s.pending.length = some t ∧ t.pending = []

/-- A block that does not run (it is in reset, or waits for its first alignment pulse) is changed by no command but those that assert or
release a reset, the alignment pulse, and those that bring the level of an input, of which the level alone is taken. This is the model's
choice: R484 and R485 stop the units of such a block, and that every other command, a read through BAR0 among them, leaves the state as it
is rests on logs 29 and 32; that levels are taken rests on log 85. -/
def Obligations.StoppedBlockUnchanged : Prop :=
  (∀ (c : Instr) (s : State), c.isReset = false → c.isLevel = false → s.running c.target = false → exec c s = .next s) ∧
  ∀ (s : State) (p : Fin 64) (gray : BitVec 4) (level : Bool), s.running .D = false →
    exec (.regionStretch p gray) s = .next (s.setBlock .D (s.d.modRegion p (fun r => { r with gray := gray }))) ∧
    exec (.trcLinkUpChange level) s =
      .next (s.setBlock .D (s.d.modTrace (fun t => { t with linkUp := level, superCount := 0, wire := [] }))) ∧
    exec (.regionSecureChange p level) s = .next (s.setBlock .D
      (s.d.modTrace (fun t => { t with secure := if level then setB t.secure p else clearB t.secure p }))) ∧
    exec (.schedDebugFall level) s = .next (s.setBlock .D (s.d.modTrace (fun t => { t with schedDebug := level })))

/-- While a reset is held, a block holds the reset values of its units, whatever commands come, whatever changes at an input and however many
cycles pass; a Borlu-T also from its release until the alignment pulse (R484, R485). -/
def Obligations.ResetHeldKept : Prop :=
  ∀ s t : State, s.resetHeld → step s = .next t → t.resetHeld

/-- That invariant holds right after reset. -/
def Obligations.ResetHeldAtReset : Prop := State.reset.resetHeld

/-- After reset the accumulator of each block is zero, MODE reads OFF, VALID is 0, and the increment
that the accumulator counts on is its reset value (R36). -/
def Obligations.TimeAfterReset : Prop :=
  ∀ s t u : State, exec .borluDResetAssert s = .next t → exec (.borluTResetAssert true) s = .next u →
    t.d.time.acc = 0 ∧ t.d.fld Reg.TIM_CTL 1 0 = 0 ∧ t.d.time.valid = false ∧ t.d.incr = 16 * 2 ^ 32 ∧
      u.t.time.acc = 0 ∧ u.t.fld Reg.TIM_CTL 1 0 = 0 ∧ u.t.time.valid = false ∧ u.t.incr = 40 * 2 ^ 32

/-- The reset commands complete: an assertion leaves the reset values, a release lets Borlu-D run under the straps as they stood, a
Borlu-T waits for the alignment pulse, and the pulse's first edge starts the verifier and sets PLN_PHASE.LOCKED; later edges change
nothing; a stack becomes ready, or failed with HIS_STS.UE (R315, R484, R485, R487, R490). -/
def Obligations.ResetsComplete : Prop :=
  ∀ (s : State) (slot : BitVec 5) (stack : Fin 24) (localEn por : Bool) (straps : TrayStraps),
    exec .borluDResetAssert s = .next { s with dReset := true, d := s.d.dieReset } ∧
    exec (.borluTResetAssert por) s =
      .next { s with tReset := true, tAligned := false, t := s.t.trayReset (por || (s.tReset && s.t.tray.powerOn)) } ∧
    (s.dReset = true → ∃ t, exec (.borluDResetRelease slot localEn) s = .next t ∧ t.running .D = true ∧ t.d.strapSlot = slot ∧
      t.d.strapLocal = localEn ∧ s.sameBlock t .T) ∧
    (s.tReset = true → ∃ t, exec (.borluTResetRelease straps) s = .next t ∧ t.tReset = false ∧ t.t.strapPkg = straps.pkg ∧
      t.t.tray.jtag.mfr = straps.mfr ∧ t.tAligned = s.tAligned ∧
      s.sameBlock t .D) ∧
    (s.tReset = false → s.tAligned = false → exec .alignPulse s = .next { s with tAligned := true, t := s.t.align }) ∧
    (s.tAligned = true → exec .alignPulse s = .next s) ∧
    (s.running .T = true → exec (.stackReady stack true) s =
      .next (s.setBlock .T { s.t with tray := { s.t.tray with stacksReady := setB s.t.tray.stacksReady stack } })) ∧
    (s.running .T = true → exec (.stackReady stack false) s = .next (s.setBlock .T
      ({ s.t with tray := { s.t.tray with stacksFailed := setB s.t.tray.stacksFailed stack } }.flag Reg.HIS_STS 1)))

/-! ### Fleet time -/

/-- On an empty queue a step is one cycle, after the oldest change at an input that waits (the model's choice, logs 1 and 85). One cycle of a
block's own clock (R38, R43): the accumulator adds the increment; while a hold balance is left it
stands still and the balance falls by the increment, and the last cycle adds what the balance leaves. -/
def Obligations.CycleAdvancesTime : Prop :=
  (∀ s : State, s.pending = [] → step s = .next (cycle s.takePin)) ∧
  ∀ (s : State) (b : Build), s.running b = true → (s.block b).power.phase ≤ 1 →
    let t := cycle s
    ((s.block b).time.hold = 0 → (t.block b).time.acc = (s.block b).time.acc + BitVec.ofNat 96 (s.block b).incr ∧ (t.block b).time.hold = 0) ∧
    (0 < (s.block b).time.hold → (s.block b).incr ≤ (s.block b).time.hold →
      (t.block b).time.acc = (s.block b).time.acc ∧ (t.block b).time.hold = (s.block b).time.hold - (s.block b).incr) ∧
    ((s.block b).time.hold < (s.block b).incr →
      (t.block b).time.acc = (s.block b).time.acc + BitVec.ofNat 96 ((s.block b).incr - (s.block b).time.hold) ∧ (t.block b).time.hold = 0)

/-- A write to TIM_INCR_FRAC is held in the staging latch and changes nothing else; a write to TIM_INCR_INT commits the integer part and the staged
fraction together, in force from the next cycle on, or, where the pair would be zero, keeps the increment and sets TIM_STS.CFG_REFUSED (R39). A
write of the mode in force replaces a pending switch, which ends; MODE value 3 leaves the field; the switch to COUNTED of a block in OFF takes
effect at the write only in a Borlu-T with SRC = 0 and is refused otherwise; the switch to OFF is refused while a job context is active (R48). -/
def Obligations.TimeControlWrites : Prop :=
  ∀ (s : State) (b : Build) (v : Word), s.running b = true →
    let x := s.block b
    exec (.timIncrFracWrite b v) s =
      .next (s.setBlock b { s.block b with time := { (s.block b).time with fracStage := v } }) ∧
    (¬ (v.toNat % 256 = 0 ∧ (s.block b).time.fracStage = 0) → ∃ t, exec (.timIncrIntWrite b v) s = .next t ∧
      (t.block b).incr = x.incr ∧ (t.block b).time = { x.time with incrHeld := some x.incr } ∧
      (t.block b).timeCycle.incr = v.toNat % 256 * 2 ^ 32 + x.time.fracStage.toNat ∧
      (∀ off, off ≠ Reg.TIM_INCR_INT → off ≠ Reg.TIM_INCR_FRAC → (t.block b).reg off = (s.block b).reg off) ∧ s.sameBlock t b.other) ∧
    (v.toNat % 256 = 0 → (s.block b).time.fracStage = 0 →
      exec (.timIncrIntWrite b v) s = .next (s.setBlock b ((s.block b).flag Reg.TIM_STS 5)) ∧
        ((s.block b).flag Reg.TIM_STS 5).incr = (s.block b).incr ∧ ((s.block b).flag Reg.TIM_STS 5).isSet Reg.TIM_STS 5 = true) ∧
    exec (.timModeWrite b 3) s = .next s ∧
    (∀ m : BitVec 2, m ≠ 3 → x.time.modeNow = m.toNat → exec (.timModeWrite b m) s =
      .next (s.setBlock b { x.setFld Reg.TIM_CTL 1 0 m.toNat with time := { x.time with modeNext := none } })) ∧
    (x.time.modeNow = 0 → b = .T → x.build = .T → x.isSet Reg.TIM_CTL 8 = false →
      exec (.timModeWrite b 2) s =
        .next (s.setBlock b { x.setFld Reg.TIM_CTL 1 0 2 with time := { x.time with modeNow := 2, modeNext := none } })) ∧
    (x.time.modeNow = 0 → x.build = .D ∨ x.isSet Reg.TIM_CTL 8 = true →
      exec (.timModeWrite b 2) s = .next (s.setBlock b (x.flag Reg.TIM_STS 5))) ∧
    (x.time.modeNow = 1 ∨ x.time.modeNow = 2 → x.anyActive = true →
      exec (.timModeWrite b 0) s = .next (s.setBlock b (x.flag Reg.TIM_STS 5))) ∧
    (x.time.modeNow = 1 → exec (.timModeWrite b 2) s =
      .next (s.setBlock b { x.setFld Reg.TIM_CTL 1 0 2 with time := { x.time with modeNext := some 2 } }))

/-- A forward step advances the integer part of the accumulator by D plus the increment of the cycle; a step back of at most TIM_HOLD_MAX becomes a
hold of |D|, and its own cycle advances by the increment alone; while a job context is active a step back beyond TIM_HOLD_MAX is refused, with
STEP_REFUSED (R43): without a balance from before. HOLD_ABSORBED: as many cycles pass as the balance takes; a balance of whole increments leaves the
accumulator, otherwise the last cycle advances by the increment minus the rest. The fleet time of a die in RETAIN or OFF stands still: a step then
changes nothing (R451). -/
def Obligations.StepsOfTime : Prop :=
  ∀ (s : State) (b : Build) (hi : Word), s.running b = true →
    let x := s.block b
    let d := signed 64 (hi.toNat * 2 ^ 32 + x.time.stepLo.toNat)
    (x.hushed = true → exec (.ftStep b hi) s = .next s) ∧
    (x.hushed = false → x.time.hold = 0 → 0 ≤ d → ∃ t, exec (.ftStep b hi) s = .next t ∧
      (t.block b).time.acc = x.time.acc + BitVec.ofNat 96 x.incr + BitVec.ofInt 96 (d * 2 ^ 32) ∧ (t.block b).time.hold = 0 ∧
      s.sameBlock t b.other) ∧
    (x.hushed = false → x.time.hold = 0 → d < 0 → -(x.fld Reg.TIM_HOLD_MAX 15 0 : Int) ≤ d → ∃ t, exec (.ftStep b hi) s = .next t ∧
      (t.block b).time.acc = x.time.acc + BitVec.ofNat 96 x.incr ∧ (t.block b).time.hold = d.natAbs * 2 ^ 32 ∧
      (t.block b).time.backsteps = x.time.backsteps ∧ s.sameBlock t b.other) ∧
    (x.hushed = false → x.time.hold = 0 → x.anyActive = true → d < -(x.fld Reg.TIM_HOLD_MAX 15 0 : Int) → ∃ t, exec (.ftStep b hi) s = .next t ∧
      (t.block b).time.acc = x.time.acc + BitVec.ofNat 96 x.incr ∧
      (t.block b).time.backsteps = x.time.backsteps ∧ (t.block b).isSet Reg.TIM_STS 4 = true ∧ s.sameBlock t b.other) ∧
    (0 < x.time.hold → 0 < x.incr → x.time.incrHeld = none → ∃ t, exec (.holdAbsorbed b) s = .next t ∧ (t.block b).time.hold = 0 ∧
      (t.block b).time.cycles = x.time.cycles + (x.time.hold + x.incr - 1) / x.incr ∧
      (t.block b).time.acc =
        (if x.time.hold % x.incr = 0 then x.time.acc else x.time.acc + BitVec.ofNat 96 (x.incr - x.time.hold % x.incr)) ∧
      s.sameBlock t b.other)

/-! ### Descriptors -/

/-- Descriptors are carried out in the order in which they are taken, each by its steward (R377, R437): a descriptor command whose
descriptor is not the next in turn, whose steward is held, or whose input Bus Master Enable keeps from being read (R366), changes nothing; so
does one that uses stacked memory while a stack has not finished (R485). -/
def Obligations.DescriptorsInTurn : Prop :=
  ∀ (c : Instr) (op steward id : Nat) (s : State), descriptorOf c = some (op, steward, id) → s.running .T = true →
    (∀ t, ¬ s.descNext op steward id t) ∨ (usesMemory op = true ∧ s.t.memoryReady = false) → exec c s = .next s

/-- NOP completes OK. COMPRESS starts under LOF_CTL as it stands, DECOMPRESS starts; neither completes before its
job ends, and until then the tray changes in nothing but that descriptor (R381). CANCEL (R382): a descriptor of a kind that can be
cancelled, in work and in the deduplication window of the ring that the CANCEL names, completes CANCELLED, and the CANCEL completes OK
with result 0; with result 2 where the kind can not be cancelled; with result 1 where the window does not hold the request or shows it
completed. -/
def Obligations.SmallDescriptors : Prop :=
  ∀ (s : State) (id : Nat) (t x : Taken) (n : Nat),
    (s.descNext 0x01 5 id t → exec (.nop id) s = .next (s.setBlock .T ((s.begin t).complete t.start 0))) ∧
    (s.descNext 0x20 2 id t → byteAt t.bytes 32 ≤ 4 → byteAt t.bytes 33 ≤ 3 → fieldAt t.bytes 34 2 ≠ 0 →
      exec (.compress id) s = .next (s.setBlock .T ((s.begin t).setTaken { t.start with note := s.t.fld Reg.LOF_CTL 3 0 }))) ∧
    (s.descNext 0x20 2 id t → 4 < byteAt t.bytes 32 ∨ 3 < byteAt t.bytes 33 ∨ fieldAt t.bytes 34 2 = 0 →
      exec (.compress id) s = .next (s.setBlock .T ((s.begin t).complete t.start 0x0C))) ∧
    (s.descNext 0x21 2 id t → exec (.decompress id) s = .next (s.setBlock .T (s.begin t))) ∧
    (s.descNext 0x02 5 id t →
      let b := s.begin t
      let seen := (b.tray.host.cmdRing (byteAt t.bytes 36 % 16)).dedup.find? (fun e => e.1 == fieldAt t.bytes 32 4)
      (seen = some (fieldAt t.bytes 32 4, n, none) → b.takenById n = some x → x.opcode ∈ cancellable → x.begun = true →
        exec (.cancel id) s =
          .next (s.setBlock .T (((b.dropJobs (fun d => d == x.id)).complete x 0x0D).complete t.start 0 0 (leBytes 1 0)))) ∧
      (seen = some (fieldAt t.bytes 32 4, n, none) → b.takenById n = some x → x.opcode ∉ cancellable →
        exec (.cancel id) s = .next (s.setBlock .T (b.complete t.start 0 0 (leBytes 1 2)))) ∧
      (seen = none ∨ (∃ m st, seen = some (fieldAt t.bytes 32 4, m, some st)) →
        exec (.cancel id) s = .next (s.setBlock .T (b.complete t.start 0 0 (leBytes 1 1)))))

/-- The host's compress and decompress jobs end (R152, R153): the loaves that the input was cut into, each by the EFFORT that the job names or
LOF_CTL had when it was started and each padded to a multiple of 64 bytes, are written to the output and the descriptor completes OK with their
length and number; an input of loaves that all decode gives their bytes. A decompress job ends while some decompressor has not failed (R459). -/
def Obligations.JobsEnd : Prop :=
  ∀ (s : State) (id : Nat) (t : Taken), s.running .T = true → s.t.takenById id = some t → t.begun = true → s.t.stewardRuns 2 = true →
    s.t.mayRead t = true →
    let b := s.t
    let loaves := cutBy t.how (byteAt t.bytes 32) (fieldAt t.bytes 34 2) (fieldAt t.bytes 36 4) (fun _ => 4) (b.descInput t)
    let out := (loaves.map (padTo 64)).flatten
    (t.opcode = 0x20 → out.length ≤ t.outLen → exec (.compressDone id) s =
      .next (s.setBlock .T (((b.countLoaves (b.descInput t).length loaves).writeOut t 0 out).complete t 0 out.length
        (leBytes 4 loaves.length)))) ∧
    (∀ n bytes, t.opcode = 0x21 → b.decompressors ≠ [] → decodeRun t.outLen (t.inLen / 64 + 1) (b.descInput t) 0 [] = (n, bytes, none) →
      exec (.decompressDone id) s = .next (s.setBlock .T ((b.writeOut t 0 bytes).complete t 0 bytes.length (leBytes 4 n))))

/-- The descriptors of a job at its hearth, where their checks pass: JOB_START takes the lowest free context into PREPARED and sends
PREPARE (R195, R196), JOB_TEARDOWN of an ACTIVE job drains it from the later of the window it names and the lowest one that R204 allows
and sends TEARDOWN, of an ARMED one its first window is its last, of an undecided start it ends in ABORT (R205); REMAP and MEMBER are
passed on (R211, R212), TAKEOVER starts a takeover of a standby (R213). -/
def Obligations.HearthDescriptors : Prop :=
  ∀ (s : State) (id c : Nat) (t : Taken),
    let b := s.begin t
    let x := b.ctx c
    (s.descNext 0x10 1 id t → b.startStatus t.start (b.startCtx t.start) = 0 → b.freeCtxIndex = some c →
      exec (.jobStart id) s = .next (s.setBlock .T (
        (b.takeCtx c { b.startCtx t.start with bind := b.findBinding (b.startCtx t.start) }).forwardPrepare c))) ∧
    (s.descNext 0x11 1 id t → b.hearthOf t.job = some c → x.phase = .active →
      let l := b.lastFor x (fieldAt t.bytes 32 5)
      exec (.jobTeardown id) s = .next (s.setBlock .T (
        (b.setCtx c { x with phase := .draining, lastWin := some l, endDesc := some id }).sendDecision c 0x0106 (teardownBody l)))) ∧
    (s.descNext 0x11 1 id t → b.hearthOf t.job = some c → x.phase = .armed →
      let l := windowOf x.k x.start
      exec (.jobTeardown id) s = .next (s.setBlock .T (
        (b.setCtx c { x with lastWin := some l, endDesc := some id }).sendDecision c 0x0106 (teardownBody l)))) ∧
    (s.descNext 0x11 1 id t → b.hearthOf t.job = some c → x.phase = .prepared →
      exec (.jobTeardown id) s = .next (s.setBlock .T ((b.abortStart c 2).complete t.start 0 0 (zeros 5)))) ∧
    (s.descNext 0x12 1 id t → b.hearthOf t.job = some c → fieldAt t.bytes 36 4 % 256 = 0 →
      x.map.any (fun e => e.1 == fieldAt t.bytes 32 4) = true →
      (2 * x.traversal : Int) ≤ ftDiff (windowStart x.k b.ft (fieldAt t.bytes 40 5)) b.ft →
      exec (.remap id) s = .next (s.setBlock .T (
        b.remapAct c (fieldAt t.bytes 32 4) (fieldAt t.bytes 36 4) (fieldAt t.bytes 40 5) (some id)))) ∧
    (s.descNext 0x13 1 id t → b.hearthOf t.job = some c → byteAt t.bytes 36 ≤ 2 →
      x.map.any (fun e => e.1 == fieldAt t.bytes 32 4) = true →
      exec (.member id) s = .next (s.setBlock .T ((b.memberAct c (fieldAt t.bytes 32 4) (byteAt t.bytes 36)).complete t.start 0))) ∧
    (s.descNext 0x14 1 id t → 6 ≤ byteAt t.bytes 32 → byteAt t.bytes 32 ≤ 9 → (b.roleAt (byteAt t.bytes 32)).role = 2 →
      exec (.takeover id) s = .next (s.setBlock .T (b.takeOver (byteAt t.bytes 32) (some id))))

/-- QUENCH of an ACTIVE job that is not quenched sets its cut at L', the window it names or, where that has been computed, the next one
(R338); RESTORE of a quenched one whose image keeps every check of R340 completes OK and catches up from the image. -/
def Obligations.QuenchAndRestore : Prop :=
  ∀ (s : State) (id c : Nat) (t : Taken),
    let b := s.begin t
    let x := b.ctx c
    let img := b.descInput t.start
    (s.descNext 0x15 1 id t → b.activeOf t.job = some c → x.quenched = false → x.quenchAt = none →
      let l := fieldAt t.bytes 32 5
      exec (.quench id) s = .next (s.setBlock .T (b.setCtx c { x with
        quenchAt := some (if windowDiff l x.nextPass < 0 then x.nextPass else l), quenchDesc := some id }))) ∧
    (s.descNext 0x15 1 id t → b.activeOf t.job = none → exec (.quench id) s = .next (s.setBlock .T (b.complete t.start 0x09))) ∧
    (s.descNext 0x16 1 id t → s.t.memoryReady = true → imageFormGood img = true → imageDigestGood img = true → b.activeOf t.job = some c →
      x.quenched = true → x.bind ≠ none → imgJob img = x.job → imgEpoch img = x.epoch → imgPlan img = x.plan →
      let r := b.useRegion 2
      r.replayHeld x (imgWindow img) = true →
      exec (.restore id) s = .next (s.setBlock .T ((r.startCatchup c (r.imageSnapshot img)).complete t.start 0))) ∧
    (s.descNext 0x16 1 id t → s.t.memoryReady = true → imageFormGood img = true → imageDigestGood img = false →
      exec (.restore id) s = .next (s.setBlock .T (b.complete t.start 0x13)))

/-- Loads whose images keep their checks, into a slot that nothing binds, once stacked memory is ready: the slot becomes LOADED with the
image and the descriptor completes OK (R259, R274, R281, R317, R320). A BOUND slot, which a plan or a schedule names, refuses them with
NOT_PERMITTED, as a schedule slot in force or staged does (R381). A free of a
slot that nothing binds empties it and completes OK; of a BOUND slot it completes NOT_PERMITTED and changes no slot (R259, R274, R281,
R317). -/
def Obligations.StoreSlots : Prop :=
  (∀ (s : State) (id : Nat) (t : Taken), s.t.memoryReady = true →
    let b := s.begin t
    let d := t.start
    let u := b.tray.plane
    let img := b.descInput d
    let i := fieldAt t.bytes 32 2
    (s.descNext 0x30 1 id t → i < 16384 → (slotIn u.trees i).phase < 2 → treeGood true (img.take 2048) = true →
      refGood (img.take 2048) (img.drop 2048) = true →
      exec (.treeLoad id) s = .next (s.setBlock .T ((b.modPlane (fun _ => { u with
        trees := putSlot u.trees i { phase := 1, bytes := img.take 2048, refs := img.drop 2048 } })).complete d 0))) ∧
    (s.descNext 0x30 1 id t → i < 16384 → (slotIn u.trees i).phase = 2 →
      exec (.treeLoad id) s = .next (s.setBlock .T (b.complete d 0x09))) ∧
    (s.descNext 0x32 1 id t → i < 4096 → byteAt t.bytes 34 < 4 → (slotIn u.groups i).phase < 2 → groupGood img = true →
      fieldAt t.bytes 36 2 + groupCount img ≤ 16384 → b.isSet Reg.RUL_STS (4 + byteAt t.bytes 34) = false →
      u.groupOverlap i (byteAt t.bytes 34) (fieldAt t.bytes 36 2) (groupCount img) = false →
      u.hasRoom (slotIn u.groups i).bytes.length img.length = true →
      let slot : StoreSlot := { phase := 1, bytes := img, bank := byteAt t.bytes 34, base := fieldAt t.bytes 36 2 }
      exec (.groupLoad id) s =
        .next (s.setBlock .T ((b.modPlane (fun _ => { u with groups := putSlot u.groups i slot })).complete d 0))) ∧
    (s.descNext 0x32 1 id t → i < 4096 → byteAt t.bytes 34 < 4 → (slotIn u.groups i).phase = 2 →
      exec (.groupLoad id) s = .next (s.setBlock .T (b.complete d 0x09))) ∧
    (s.descNext 0x34 1 id t → i < 1024 → (slotIn u.images i).phase < 2 → planImageGood img = true →
      u.hasRoom (slotIn u.images i).bytes.length img.length = true →
      exec (.imageLoad id) s = .next (s.setBlock .T ((b.modPlane (fun _ => { u with
        images := putSlot u.images i { phase := 1, bytes := img } })).complete d 0))) ∧
    (s.descNext 0x34 1 id t → i < 1024 → (slotIn u.images i).phase = 2 →
      exec (.imageLoad id) s = .next (s.setBlock .T (b.complete d 0x09))) ∧
    (s.descNext 0x36 1 id t → byteAt t.bytes 32 < 64 → (slotIn u.plans (byteAt t.bytes 32)).phase < 2 → u.planGood img = true →
      u.hasRoom (slotIn u.plans (byteAt t.bytes 32)).bytes.length img.length = true →
      exec (.planLoad id) s = .next (s.setBlock .T ((b.modPlane (fun u =>
        (u.setPlan (byteAt t.bytes 32) { phase := 1, bytes := img }).rebindSched)).complete d 0))) ∧
    (s.descNext 0x36 1 id t → byteAt t.bytes 32 < 64 → (slotIn u.plans (byteAt t.bytes 32)).phase = 2 →
      exec (.planLoad id) s = .next (s.setBlock .T (b.complete d 0x09))) ∧
    (s.descNext 0x38 1 id t → byteAt t.bytes 32 < 2 → b.leaseBlocks d (0x03000000 + byteAt t.bytes 32) = false →
      b.schedBusy (byteAt t.bytes 32) = false → u.schedGood img (b.isSet Reg.HIS_CTL 0) (b.fld Reg.HIS_REF 15 0) = true →
      u.hasRoom (sget (fun _ => ([] : Bytes)) u.scheds (byteAt t.bytes 32)).length img.length = true →
      exec (.schedLoad id) s = .next (s.setBlock .T (((b.modPlane (fun u => u.setSched (byteAt t.bytes 32) img)).modPlane (fun u =>
        { u with since := if byteAt t.bytes 32 = b.fld Reg.PLN_SCHED 0 0 then b.ft.toNat / switchTicks + 1 else u.since })).complete d 0))) ∧
    (s.descNext 0x38 1 id t → byteAt t.bytes 32 < 2 → b.leaseBlocks d (0x03000000 + byteAt t.bytes 32) = false →
      b.schedBusy (byteAt t.bytes 32) = true → exec (.schedLoad id) s = .next (s.setBlock .T (b.complete d 0x09))) ∧
    (s.descNext 0x38 1 id t → byteAt t.bytes 32 < 2 → b.leaseBlocks d (0x03000000 + byteAt t.bytes 32) = true →
      exec (.schedLoad id) s = .next (s.setBlock .T (b.complete d 0x0B)))) ∧
  (∀ (s : State) (id : Nat) (t : Taken), s.t.memoryReady = true →
    let b := s.begin t
    let d := t.start
    let u := b.tray.plane
    let i := fieldAt t.bytes 32 2
    (s.descNext 0x31 1 id t → i < 16384 → (slotIn u.trees i).phase < 2 → exec (.treeFree id) s =
      .next (s.setBlock .T ((b.modPlane (fun u => { u with trees := putSlot u.trees i {} })).complete d 0))) ∧
    (s.descNext 0x31 1 id t → i < 16384 → (slotIn u.trees i).phase = 2 → exec (.treeFree id) s = .next (s.setBlock .T (b.complete d 0x09))) ∧
    (s.descNext 0x33 1 id t → i < 4096 → (slotIn u.groups i).phase < 2 → exec (.groupFree id) s =
      .next (s.setBlock .T ((b.modPlane (fun u => { u with groups := putSlot u.groups i {} })).complete d 0))) ∧
    (s.descNext 0x33 1 id t → i < 4096 → (slotIn u.groups i).phase = 2 → exec (.groupFree id) s = .next (s.setBlock .T (b.complete d 0x09))) ∧
    (s.descNext 0x35 1 id t → i < 1024 → (slotIn u.images i).phase < 2 → exec (.imageFree id) s =
      .next (s.setBlock .T ((b.modPlane (fun u => { u with images := putSlot u.images i {} })).complete d 0))) ∧
    (s.descNext 0x35 1 id t → i < 1024 → (slotIn u.images i).phase = 2 → exec (.imageFree id) s = .next (s.setBlock .T (b.complete d 0x09))) ∧
    (s.descNext 0x37 1 id t → byteAt t.bytes 32 < 64 → (slotIn u.plans (byteAt t.bytes 32)).phase < 2 → exec (.planFree id) s =
      .next (s.setBlock .T ((b.modPlane (fun u => u.setPlan (byteAt t.bytes 32) {})).complete d 0))) ∧
    (s.descNext 0x37 1 id t → byteAt t.bytes 32 < 64 → (slotIn u.plans (byteAt t.bytes 32)).phase = 2 →
      exec (.planFree id) s = .next (s.setBlock .T (b.complete d 0x09))))

/-- The table of LEASE_ACQUIRE and LEASE_RELEASE (R433), for every resource that R431 lists: a FREE or BROKEN lease, or one held under
this key, becomes HELD under this key, with BROKEN_STATE where it was broken; one HELD under another key answers LEASE_HELD; only the
holder releases. -/
def Obligations.LeaseTable : Prop :=
  ∀ (s : State) (id : Nat) (t : Taken),
    let b := s.begin t
    let d := t.start
    let r := fieldAt t.bytes 32 4
    let l := b.tray.host.lease r
    let key := b.ringKey t.ring
    (s.descNext 0x50 5 id t → leaseGood r = true → l.phase ≠ 1 ∨ l.key = key →
      exec (.leaseAcquire id) s = .next (s.setBlock .T (
        ((b.modHost (fun h => h.setLease r { phase := 1, key := key })).count Reg.LSE_ACQ 1).complete d (if l.phase = 2 then 0x02 else 0)))) ∧
    (s.descNext 0x50 5 id t → leaseGood r = true → l.phase = 1 → l.key ≠ key →
      exec (.leaseAcquire id) s = .next (s.setBlock .T (b.complete d 0x0B))) ∧
    (s.descNext 0x51 5 id t → leaseGood r = true → l.phase = 1 → l.key = key →
      exec (.leaseRelease id) s = .next (s.setBlock .T ((b.modHost (fun h => h.setLease r {})).complete d 0))) ∧
    (s.descNext 0x51 5 id t → leaseGood r = true → l.phase ≠ 1 ∨ l.key ≠ key →
      exec (.leaseRelease id) s = .next (s.setBlock .T (b.complete d 0x09))) ∧
    (s.descNext 0x50 5 id t → leaseGood r = false → exec (.leaseAcquire id) s = .next (s.setBlock .T (b.complete d 0x0C)))

/-- GRANT sends a GRANT record to every die of the tray that the map names for one of its ranks and waits for their answers (R429); REVOKE
sends REVOKE to every die of the tray's map and completes (R430); OWNER_TRANSFER ends every other descriptor with CANCELLED, completes OK, and
then ends ownership and passes into TRANSFER with the new identity, for OWN_TMO seconds (R370); LOG_CLEAR clears a log that can be used
(R417). That LOG_CLEAR of a log that cannot be used completes NOT_PERMITTED is the model's choice (log 69). -/
def Obligations.AccessDescriptors : Prop :=
  ∀ (s : State) (id c : Nat) (t : Taken),
    let b := s.begin t
    let d := t.start
    let n := t.inLen / 8
    let ranges := (List.range n).map (fun i => (fieldAt (b.descInput d) (8 * i) 4, fieldAt (b.descInput d) (8 * i + 4) 4))
    let mask := fieldAt t.bytes 32 8
    let expiry := BitVec.ofNat 64 (fieldAt t.bytes 40 8)
    let dies := (b.diesOf c).filter (fun k => (b.ctx c).map.any (fun m => slotOf m.2 == k && m.2 / 2 ^ 13 == b.da / 2 ^ 13 &&
      ranges.any (fun r => decide (r.1 ≤ m.1) && decide (m.1 ≤ r.2))))
    let body := leBytes 8 expiry.toNat ++ leBytes 8 mask ++ leBytes 1 n ++ zeros 7 ++ (b.descInput d).take (8 * n)
    (s.descNext 0x18 5 id t → t.inLen % 8 = 0 → 1 ≤ n → n ≤ 64 →
      ranges.all (fun r => decide (r.1 ≤ r.2) && decide (r.2 < (b.ctx c).ranks)) = true → mask ≠ 0 → 0 < ftDiff expiry b.ft →
      ftDiff expiry b.ft ≤ 57600000000000 → b.lowestNode t.job = some c → c ∈ b.trayContexts → dies ≠ [] →
      exec (.grant id) s = .next (s.setBlock .T (
        let sent := (b.forEach dies (fun b k => b.sendControl (some c) (.die k) 0x0801 body)).count Reg.SEC_GRANTS dies.length
        sent.setTaken { d with waitDies := dies, deadline := ftAdd sent.ft sent.dieTmo }))) ∧
    (s.descNext 0x19 5 id t → b.lowestNode t.job = some c →
      exec (.revoke id) s = .next (s.setBlock .T ((b.sendRevoke c mask (b.diesOf c)).complete d 0))) ∧
    (s.descNext 0x52 5 id t →
      let stopped := b.forEach b.undecided (fun b c => b.abortStart c 2 true)
      let cancelled := stopped.forEach stopped.tray.host.taken (fun b x => if x.id = id then b else b.complete x 0x0D)
      let left := (cancelled.complete d 0).loseOwnership 2
      let until_ := BitVec.ofNat 64 (left.time.cycles + max 1 (left.fld Reg.HST_CTL 23 16) * timHz)
      exec (.ownerTransfer id) s =
        .next (s.setBlock .T (left.modHost (fun h => { h with ownerId := BitVec.ofNat 64 mask, transferEnd := until_ }))) ∧
      ∃ u, exec (.ownerTransfer id) s = .next u ∧ u.t.tray.host.owner = 2 ∧ u.t.tray.host.taken = []) ∧
    (s.descNext 0x53 4 id t → b.logWrites = true → exec (.logClear id) s = .next (s.setBlock .T (b.clearLog.complete d 0))) ∧
    (s.descNext 0x53 4 id t → b.logWrites = false → exec (.logClear id) s = .next (s.setBlock .T (b.complete d 0x09)))

/-- POWER of scope 0 in a listed transition waits for T (R452); STW_RESTART restarts a steward that runs (R443); FW_ACTIVATE with images
that verify writes the directory and restarts the named stewards one at a time, and with images of which some do not it changes nothing but their
CAUSE and completes MODEL_INVALID with the first of them (R441, R447); INJECT makes the next two steps of its unit report
mismatches (R460). -/
def Obligations.ChipDescriptors : Prop :=
  ∀ (s : State) (id : Nat) (t : Taken),
    let b := s.begin t
    let d := t.start
    (s.descNext 0x60 4 id t → byteAt t.bytes 33 = 0 → byteAt t.bytes 32 ≤ 3 → b.mayGo (byteAt t.bytes 32) = true → b.power.desc = none →
      exec (.power id) s = .next (s.setBlock .T (b.modPower (fun p => { p with
        target := some (byteAt t.bytes 32), time := b.powerTime, desc := some id })))) ∧
    (s.descNext 0x60 4 id t → byteAt t.bytes 33 = 0 → byteAt t.bytes 32 ≤ 3 → b.mayGo (byteAt t.bytes 32) = false →
      exec (.power id) s = .next (s.setBlock .T ((b.flag Reg.PWR_STS 6).complete d 0x09))) ∧
    (s.descNext 0x60 4 id t → byteAt t.bytes 33 = 1 → byteAt t.bytes 32 ≤ 3 →
      let slots := maskSlots (fieldAt t.bytes 36 4)
      slots ≠ [] → exec (.power id) s = .next (s.setBlock .T (
        let sent := (b.replacePower id slots).forEach slots (fun b k =>
          b.sendControl none (.die k) 0x0902 (leBytes 1 (byteAt t.bytes 32) ++ zeros 7 ++ leBytes 8 b.powerTime.toNat))
        sent.setTaken { d with waitDies := slots, deadline := ftAdd sent.ft sent.dieTmo }))) ∧
    (s.descNext 0x62 5 id t → byteAt t.bytes 32 ≤ 5 → b.mayRestart (byteAt t.bytes 32) = true →
      exec (.stwRestart id) s = .next (s.setBlock .T (
        (b.modSteward (byteAt t.bytes 32) (fun x => { x with desc := some id })).startRestart (byteAt t.bytes 32) true))) ∧
    (s.descNext 0x61 5 id t → byteAt t.bytes 33 ≤ 1 →
      let named := (List.range 6).filter (fun i => bitOf (byteAt t.bytes 32) i)
      (∀ i ∈ named, b.imageCause (byteAt t.bytes 33) i = 0) →
      exec (.fwActivate id) s = .next (s.setBlock .T ((b.writeDirectory ((List.range 6).foldl (fun a i =>
        a + bit (if i ∈ named then byteAt t.bytes 33 == 1 else bitOf b.activeSlots i) * 2 ^ i) 0)).activateNext
          { d with waitDies := named }))) ∧
    (∀ i refused, s.descNext 0x61 5 id t → byteAt t.bytes 33 ≤ 1 →
      ((List.range 6).filter (fun i => bitOf (byteAt t.bytes 32) i)).filter (fun i => b.imageCause (byteAt t.bytes 33) i != 0) =
        i :: refused →
      exec (.fwActivate id) s = .next (s.setBlock .T ((b.forEach (i :: refused) (fun y j =>
        y.modSteward j (fun x => { x with cause := b.imageCause (byteAt t.bytes 33) j }))).complete d 0x10 0 (leBytes 1 i)))) ∧
    (s.descNext 0x63 4 id t → byteAt t.bytes 32 = 1 → zeroAt t.bytes 39 25 = true →
      unitExists (byteAt t.bytes 36) (byteAt t.bytes 37) (byteAt t.bytes 38) = true →
      let k := unitKey (byteAt t.bytes 36) (byteAt t.bytes 37) (byteAt t.bytes 38)
      exec (.testInject id) s = .next (s.setBlock .T (b.modTest (fun x => { x with
        injected := sput (fun _ => (0 : Nat)) x.injected k 2, descs := sinsert k id x.descs })))) ∧
    (s.descNext 0x63 4 id t → byteAt t.bytes 32 ≠ 1 → exec (.testInject id) s = .next (s.setBlock .T (b.complete d 0x0C)))

/-- The DIE_REG descriptors (R383): READ, WRITE and COMMIT send their record to the die and wait for its answer, STAGE and ABORT send
theirs and complete; a die that is leased under another key refuses all but READ (R433). An answer that does not come in time ends the
descriptor with DEADLINE. -/
def Obligations.DieRegisters : Prop :=
  ∀ (s : State) (id : Nat) (t : Taken),
    let b := s.begin t
    let d := t.start
    let off := leBytes 4 (dieOffset t)
    let free := b.leaseBlocks d (0x02000000 + dieSlot t) = false
    (s.t.takenById id = some t → s.descNext 0x40 5 id t → dieSlot t ≤ 31 →
      (dieOp t = 0 → exec (.dieRegRead id) s = .next (s.setBlock .T ((b.sendDie d 0x0601 off).awaitDie d b.ft))) ∧
      (dieOp t = 1 → free → exec (.dieRegWrite id) s =
        .next (s.setBlock .T ((b.sendDie d 0x0602 (off ++ leBytes 4 (dieValue t))).awaitDie d b.ft))) ∧
      (dieOp t = 2 → free → exec (.dieRegStage id) s =
        .next (s.setBlock .T ((b.sendDie d 0x0201 (off ++ leBytes 4 (dieValue t))).complete d 0))) ∧
      (dieOp t = 3 → free → exec (.dieRegCommit id) s =
        .next (s.setBlock .T ((b.sendDie d 0x0202 (leBytes 8 (dieCft t).toNat)).awaitDie d (dieCft t)))) ∧
      (dieOp t = 4 → free → exec (.dieRegAbort id) s = .next (s.setBlock .T ((b.sendDie d 0x0203 []).complete d 0))) ∧
      (dieOp t = 1 → ¬ free → exec (.dieRegWrite id) s = .next (s.setBlock .T (b.complete d 0x0B))) ∧
      (dieOp t = 2 → ¬ free → exec (.dieRegStage id) s = .next (s.setBlock .T (b.complete d 0x0B))) ∧
      (dieOp t = 3 → ¬ free → exec (.dieRegCommit id) s = .next (s.setBlock .T (b.complete d 0x0B))) ∧
      (dieOp t = 4 → ¬ free → exec (.dieRegAbort id) s = .next (s.setBlock .T (b.complete d 0x0B)))) ∧
    (s.running .T = true → s.t.takenById id = some t → t.waitDies ≠ [] → ftGe s.t.ft t.deadline = true → s.t.stewardRuns 5 = true →
      t.opcode ≠ 0x18 → exec (.dieAnswerTimeout id) s = .next (s.setBlock .T (s.t.complete t 0x0F)))

/-- SEARCH keeps its specification as a scan (R308): a TRACE scan with the loaves that it is to read, a ledger scan without RESCORE with
what it finds, one with RESCORE with the vectors that it is to score. The scan ends once it has read everything and had a slot: its loaves and
summary go to the output and the descriptor completes OK with the number of matches (R310, R312), and SCAN_DONE is set. REPLAY of a context from
its start keeps a job (R336); it ends with its count. That a search or a replay goes by the live context of the job, or else by one that was
given back, is the model's choice (log 60). -/
def Obligations.SearchAndReplay : Prop :=
  ∀ (s : State) (id n : Nat) (node : Ctx) (t : Taken),
    let b := s.begin t
    let d := t.start
    let spec := b.descInput d
    let led := (b.useRegion 1).usePlan (slice spec 96 16)
    (s.t.memoryReady = true → s.descNext 0x22 2 id t → b.freeScan = some n → scanGood spec = true → scanJob spec = t.job → scanSource spec = 0 →
      let found := b.traceLoaves spec (((b.searchCtx (scanJob spec)).map Ctx.map).getD []) b.ft
      exec (.search id) s = .next (s.setBlock .T (
        b.addScan n { desc := id, spec := spec, start := b.ft, loaves := found.1, lost := found.2 }))) ∧
    (s.t.memoryReady = true → s.descNext 0x22 2 id t → b.freeScan = some n → scanGood spec = true → scanJob spec = t.job → scanSource spec ≠ 0 →
      b.searchCtx (scanJob spec) = some node →
      let plan := (b.tray.plane.planOf node.plan).getD []
      let found := led.ledgerScan spec node.k plan led.ft
      (scanRescore spec = false → ∃ x, exec (.search id) s = .next (s.setBlock .T (led.addScan n x)) ∧ x.desc = id ∧ x.spec = spec ∧
        x.read = found.1 ∧ x.hits = found.2 ∧ x.loaves = [] ∧ x.unscored = []) ∧
      (scanRescore spec = true → ∀ e named, led.tray.plane.planOf (slice spec 96 16) = some named →
        (planEnsembles named)[byteAt spec 112]? = some e → planPart named 1 = planPart plan 1 →
        ∃ x, exec (.search id) s = .next (s.setBlock .T (led.addScan n x)) ∧ x.desc = id ∧ x.spec = spec ∧ x.read = found.1 ∧
          x.hits = [] ∧ x.loaves = [] ∧ x.unscored = found.2)) ∧
    (s.t.memoryReady = true → s.descNext 0x22 2 id t → b.freeScan = none → exec (.search id) s = .next (s.setBlock .T (b.complete d 0x11))) ∧
    (s.t.memoryReady = true → s.descNext 0x17 2 id t → b.freeScan = some n → b.replayCtx t.job (fieldAt t.bytes 44 4) = some node →
      byteAt t.bytes 42 ≤ 1 → byteAt t.bytes 43 = 2 →
      let first := fieldAt t.bytes 32 5
      let w := (windowOf node.k node.start + 2 ^ 40 - 1) % 2 ^ 40
      0 ≤ windowDiff (fieldAt t.bytes 37 5) first → node.bind ≠ none → windowDiff w first < 0 →
      let job : ReplayJob := { desc := id, job := t.job, epoch := fieldAt t.bytes 44 4, first := first, next := (w + 1) % 2 ^ 40,
                               last := fieldAt t.bytes 37 5, mode := byteAt t.bytes 42, ctx := node.replayFrom { w := w } }
      exec (.replay id) s = .next (s.setBlock .T (b.modPlane (fun u => { u with replays := sinsert n job u.replays })))) ∧
    (∀ (m : Fin 16) (x : Scan), s.running .T = true → s.t.tray.plane.scans.find? (fun e => e.1 == m.val) = some (m.val, x) →
      x.loaves = [] → x.unscored = [] → 0 < x.slots → s.t.stewardRuns 2 = true → s.t.isSet Reg.PLN_STS 4 = false →
      s.t.takenById x.desc = some t →
      let b0 := (s.t.modPlane (fun u => { u with scans := u.scans.filter (fun e => e.1 != m.val) })).flag Reg.ANV_STS 4
      let b1 := b0.freeNat.2
      let loaves := cutLoaves (b0.freeNat.1 % 5) b1.effort (scanStream x.spec) 0 b1.rawOnly (fun _ => 4) x.result.1
      let bytes := (loaves.map (padTo 64)).flatten ++ x.summary x.result.2
      bytes.length ≤ t.outLen → exec (.searchDone m) s = .next (s.setBlock .T (
        ((b1.countLoaves x.result.1.length loaves).writeOut t 0 bytes).complete t 0 bytes.length
          (leBytes 8 x.hits.length ++ leBytes 4 x.result.2)))) ∧
    (∀ (m : Fin 16) (r : ReplayJob) (status w : Nat), s.running .T = true →
      s.t.tray.plane.replays.find? (fun e => e.1 == m.val) = some (m.val, r) → r.ended = some (status, w) →
      s.t.isSet Reg.PLN_STS 4 = false → s.t.takenById r.desc = some t →
      let b0 := (s.t.modPlane (fun u => { u with replays := u.replays.filter (fun e => e.1 != m.val) })).count Reg.PLN_REPLAYS 1
      let b1 := b0.freeNat.2
      let result := leBytes 5 w ++ zeros 3 ++ leBytes 4 r.count
      let loaves := cutLoaves (b0.freeNat.1 % 5) b1.effort (if r.job = 0 then 0xFFFF else r.job) 0 b1.rawOnly (fun _ => 4) r.out
      let bytes := (loaves.map (padTo 64)).flatten
      (status = 0 → bytes.length ≤ t.outLen → exec (.replayDone m) s = .next (s.setBlock .T (
        ((b1.countLoaves r.out.length loaves).writeOut t 0 bytes).complete t 0 bytes.length result))) ∧
      (status = 0x12 → exec (.replayDone m) s = .next (s.setBlock .T ((b0.flag Reg.PLN_STS 1).complete t 0x12 0 result))) ∧
      (status ≠ 0 → status ≠ 0x12 → exec (.replayDone m) s = .next (s.setBlock .T (b0.complete t status 0 result))))

/-! ### Control records -/

/-- What a control frame does besides its record (R158, R191, R193): a frame that a receive check discards, a frame of another class, a
part of a record that is not whole yet, and a record of another known CTYPE leave the block as the checks left it; a record of a reserved
CTYPE is counted in FRM_BAD. That a frame of another class and a record of another known CTYPE have no effect under the command is the
model's choice: the table has one row for each CTYPE (log 45). A Borlu-T whose plan steward does not run takes no part in starts, teardowns,
remaps and takeovers (R437), and that it drops their records is the model's choice (log 86). -/
def Obligations.ControlFramesChecked : Prop :=
  ∀ (c : Instr) (b : Build) (link : Fin 64) (raw : Bytes) (ctype : Nat) (s : State) (f : Frame) (r : Bytes) (b' b'' : Block),
    controlOf c = some (b, link, raw, ctype) → s.running b = true →
    ((s.block b).rx link raw ctype = (none, b') → exec c s = .next (s.setBlock b b')) ∧
    ((s.block b).rx link raw ctype = (some f, b') → f.cls ≠ 1 → exec c s = .next (s.setBlock b b')) ∧
    ((s.block b).rx link raw ctype = (some f, b') → f.cls = 1 → f.parts ≠ 1 → b'.assemble f = (none, b'') →
      exec c s = .next (s.setBlock b b'')) ∧
    ((s.block b).rx link raw ctype = (some f, b') → f.cls = 1 → f.parts = 1 → controlRecords 512 f.payload = [r] → ctypeOf r ≠ ctype →
      exec c s = .next (s.setBlock b (if knownCtype (ctypeOf r) then b' else b'.recordBad))) ∧
    ((s.block b).rx link raw ctype = (some f, b') → f.cls = 1 → f.parts = 1 → controlRecords 512 f.payload = [r] → ctypeOf r = ctype →
      b'.heeds ctype = false → exec c s = .next (s.setBlock b b')) ∧
    (b'.heeds ctype = false ↔ b'.build = .T ∧ b'.stewardRuns 1 = false ∧
      ctype ∈ [0x0101, 0x0102, 0x0103, 0x0104, 0x0106, 0x0109, 0x010A])

/-- PREPARE with an empty REASONS mask (R197): a die enters PREPARED and answers ACK at once, a Borlu-T enters PREPARED in the role below
its sender's with the binding of its schedule and passes each child its part; with any bit set the node takes no context and answers the
refusal. One of the epoch that the node holds is counted as a duplicate, one with a reserved value or a die address with bits 7:0 set is
discarded (R11, R14, R196); so is one of K 15, which is the model's choice (log 48). -/
def Obligations.PrepareTaken : Prop :=
  ∀ (s : State) (b : Build) (port : Fin 8) (link : Fin 64) (raw : Bytes) (f : Frame) (r : Bytes) (b' : Block) (c : Nat),
    s.hears b link raw 0x0101 f r b' →
    let good := (prepareEntries r).all (fun e => e.2 % 256 == 0) = true ∧ 5 ≤ byteAt r 30 ∧ byteAt r 30 ≤ 9 ∧
      byteAt r 20 % 16 ≠ 15 ∧ (b'.build = .T → 6 ≤ f.level)
    let anew := (b'.fromParent f).any (fun c => (b'.ctx c).epoch == f.epoch) = false
    let x := b'.preparedCtx f r
    let b1 : Block := { b' with prepDups := b'.prepDups.filter (fun d => d.key != f.dupKey) }
    let m := prepareMap (f.level - 1) b'.da r
    (x.phase = .prepared ∧ x.job = f.job ∧ x.epoch = f.epoch ∧ x.start = BitVec.ofNat 64 (fieldAt r 8 8) ∧ x.prepare = r ∧
      (b'.build = .D → x.level = 3 ∧ x.rank = fieldAt r 56 4 ∧ x.ackSent = true) ∧
      (b'.build = .T → x.level = f.level - 1 ∧ x.map = m ∧ x.rank = keyRank m ∧ x.children = childrenOf (f.level - 1) m)) ∧
    (good → anew → b'.prepareIndex r f.job = some c → b'.prepareReasons r x = 0 → b'.build = .D →
      exec (.prepareReceive b port link raw) s = .next (s.setBlock b ((b1.takeCtx c x).sendControl (some c) .tray 0x0102
        (ackBody 0 0 (presenceItem 0 (fieldAt r 56 4) 1 false (fun _ => 1)))))) ∧
    (good → anew → b'.prepareIndex r f.job = some c → b'.prepareReasons r x = 0 → b'.build = .T →
      exec (.prepareReceive b port link raw) s =
        .next (s.setBlock b ((b1.takeCtx c { x with bind := b1.findBinding x }).forwardPrepare c))) ∧
    (good → anew → b'.prepareReasons r x ≠ 0 → exec (.prepareReceive b port link raw) s =
      .next (s.setBlock b (b'.refusePrepare (b'.backTo port link) x (b'.prepareReasons r x)))) ∧
    (good → ¬ anew → exec (.prepareReceive b port link raw) s =
      .next (s.setBlock b ((b'.count Reg.FRM_DUP 1).flag Reg.FRM_STS 2))) ∧
    (¬ good → exec (.prepareReceive b port link raw) s = .next (s.setBlock b b'.recordBad))

/-- The answers of a start. A child's complete ACK in time is kept; when it is the last one the node sends its own, or the hearth decides (R198,
R199). COMMIT of the whole job by S minus 2 µs arms a PREPARED node, later it is only counted, whatever the state of the context (R200); ABORT by
then frees it and is passed on (R196, R200); LATE_COMMIT goes on toward the hearth, where the host is told (R202). -/
def Obligations.StartDecided : Prop :=
  ∀ (s : State) (b : Build) (port : Fin 8) (link : Fin 64) (raw : Bytes) (f : Frame) (r : Bytes) (b' : Block) (c : Nat),
    let x := b'.ctx c
    let above := b'.fromParent f = some c
    let under := b'.fromChild f = some c
    let ks := x.children.map (fun k => if k.level = f.level ∧ f.rank ∈ k.ranks then
      { k with acked := true, present := (presenceCodes (r.drop 32)).filter (fun e => e.2 != 0 && e.1 ∈ k.ranks), refused := fieldAt r 8 4,
               reasons := fieldAt r 12 2 } else k)
    let kept := b'.setCtx c { x with children := ks }
    let told (ctype : Nat) := match b'.build with | .D => b' | .T => b'.sendDecision c ctype (r.drop 8)
    (s.hears .T link raw 0x0102 f r b' → under → presenceGood r = true → x.phase = .prepared → x.ackSent = false →
      ftDiff b'.ft (x.ackDeadlineAt (if x.isHearth then 0 else x.nodeDepth)) ≤ 0 → exec (.ackReceive port link raw) s =
        .next (s.setBlock .T (if ks.all (·.acked) then (if x.isHearth then kept.hearthDecide c else kept.sendAck c) else kept))) ∧
    (s.hears .T link raw 0x0102 f r b' → under → presenceGood r = true → x.phase = .prepared → x.ackSent = true →
      exec (.ackReceive port link raw) s = .next (s.setBlock .T (b'.count Reg.MBR_LATE_ACK 1))) ∧
    (s.hears b link raw 0x0103 f r b' → above → x.phase = .prepared → ftGe x.decisionDeadline b'.ft = true → r.length ≤ 16 →
      exec (.commitReceive b port link raw) s =
        .next (s.setBlock b ((told 0x0103).modCtx c (fun y => { y with phase := .armed, decision := some true })))) ∧
    (s.hears b link raw 0x0103 f r b' → above → r.length ≤ 16 → ftGe x.decisionDeadline b'.ft = false →
      exec (.commitReceive b port link raw) s = .next (s.setBlock b (b'.count Reg.MBR_LATE_COMMIT 1))) ∧
    (s.hears b link raw 0x0104 f r b' → above → byteAt r 8 < 4 → x.phase = .prepared → ftGe x.decisionDeadline b'.ft = true →
      exec (.abortReceive b port link raw) s = .next (s.setBlock b (((told 0x0104).flag Reg.MBR_STS 0).freeCtx c))) ∧
    (s.hears .T link raw 0x0105 f r b' → under → exec (.lateCommitReceive port link raw) s =
      .next (s.setBlock .T (if x.isHearth then b'.pushNotice 0x0A01 f.job (slice r 16 8 ++ zeros 4 ++ slice r 8 8)
        else b'.sendControl (some c) (.parent c) 0x0105 (r.drop 8))))

/-- The records of a running job. TEARDOWN gives an ARMED or ACTIVE node its last window and is passed on (R204); RELEASED ends a child's
part (R204); REMAP is kept for its window and passed on (R212); a MEMBER action acts at the rank's tray or goes on (R211). Embers and
takeovers (R213, R215): the ember of an active hearth with a generation not below the own one restarts the count of its standby; a
TAKEOVER of a higher generation, or of the same one from a lower index, makes the active role of this block at that level a standby with
the winner's former index and generation. -/
def Obligations.RunningRecords : Prop :=
  (∀ (s : State) (b : Build) (port : Fin 8) (link : Fin 64) (raw : Bytes) (f : Frame) (r : Bytes) (b' : Block) (c : Nat),
    let x := b'.ctx c
    let above := b'.fromParent f = some c
    (s.hears b link raw 0x0106 f r b' → above → x.phase = .active → b'.build = .D → exec (.teardownReceive b port link raw) s =
      .next (s.setBlock b (b'.setCtx c { x with phase := .draining, lastWin := some (fieldAt r 8 5) }))) ∧
    (s.hears b link raw 0x0106 f r b' → above → x.phase = .active → b'.build = .T → exec (.teardownReceive b port link raw) s =
      .next (s.setBlock b ((b'.setCtx c { x with phase := .draining, lastWin := some (fieldAt r 8 5) }).sendDecision c 0x0106 (r.drop 8)))) ∧
    (s.hears b link raw 0x0106 f r b' → above → x.phase = .armed → b'.build = .D → exec (.teardownReceive b port link raw) s =
      .next (s.setBlock b (b'.setCtx c { x with lastWin := some (fieldAt r 8 5) }))) ∧
    (s.hears .T link raw 0x0107 f r b' → b'.fromChild f = some c → exec (.releasedReceive port link raw) s =
      .next (s.setBlock .T (b'.setCtx c { x with children := x.children.map (fun k => if k.level = f.level ∧ f.rank ∈ k.ranks then
        { k with released := true, releasedRanks := fieldAt r 16 4 } else k) }))) ∧
    (s.hears b link raw 0x010A f r b' → above → fieldAt r 12 4 % 256 = 0 → exec (.remapReceive b port link raw) s =
      .next (s.setBlock b (b'.remapAct c (bitsOf (fieldAt r 8 4) 17 0) (fieldAt r 12 4) (fieldAt r 16 5) none))) ∧
    (b'.build = .D →
      b'.remapAct c (bitsOf (fieldAt r 8 4) 17 0) (fieldAt r 12 4) (fieldAt r 16 5) none = b'.setCtx c { x with remaps := x.remaps ++
        [{ rank := bitsOf (fieldAt r 8 4) 17 0, addr := fieldAt r 12 4, window := fieldAt r 16 5, desc := none }] }) ∧
    (s.hears .T link raw 0x010B f r b' → above → byteAt r 12 < 3 → exec (.memberReceive port link raw) s =
      .next (s.setBlock .T (b'.memberAct c (bitsOf (fieldAt r 8 4) 17 0) (byteAt r 12)))) ∧
    (∀ rank, x.level = 5 → b'.memberAct c rank 0 = b'.setCtx c { x with members := x.members.map (fun e =>
        if e.1 = rank then (e.1, { e.2 with retire := true }) else e) } ∧
      b'.memberAct c rank 1 = b'.setCtx c { x with members := x.members.map (fun e =>
        if e.1 = rank then (e.1, { e.2 with unretire := true }) else e) })) ∧
  (∀ (s : State) (port : Fin 8) (link : Fin 64) (raw : Bytes) (f : Frame) (r : Bytes) (b' : Block),
    (s.hears .T link raw 0x0108 f r b' → 6 ≤ f.level → bitOf (byteAt r 8) 1 = true →
      let b1 := b'.hearPeer f.srcDa
      (b1.roleAt f.level).role = 2 → (b1.roleAt f.level).gen ≤ fieldAt r 12 4 → exec (.emberReceive port link raw) s =
        .next (s.setBlock .T (b1.setRole f.level { b1.roleAt f.level with missed := 0 }))) ∧
    (s.hears .T link raw 0x0108 f r b' → f.level = 3 → exec (.emberReceive port link raw) s = .next (s.setBlock .T b')) ∧
    (s.hears .T link raw 0x0109 f r b' → 6 ≤ byteAt r 8 → byteAt r 8 ≤ 9 → (b'.roleAt (byteAt r 8)).desc = none →
      let mine := b'.roleAt (byteAt r 8)
      mine.role = 1 → mine.gen < fieldAt r 12 4 ∨ (mine.gen = fieldAt r 12 4 ∧ byteAt r 9 < mine.index) →
      ∃ t, exec (.takeoverReceive port link raw) s = .next t ∧
        t.t.roleAt (byteAt r 8) = { mine with role := 2, index := byteAt r 9 % 3, gen := fieldAt r 12 4, missed := 0, pending := false,
                                              past := [] } ∧ t.t.isSet Reg.MBR_STS 3 = true ∧
        (∀ l, l ≠ byteAt r 8 → t.t.roleAt l = b'.roleAt l)))

/-- A tray's records at a die (R328, R329, R383): a staged write enters the set, one to a register that is never staged acts at once (the model's
choice, log 61), a commit is judged, an abort empties the set and what is
pending; a read answers the value as it stood and has its side effects, a write takes effect and is answered. The answers of a die to its
tray's descriptors: REG_RESP completes the READ or WRITE of its offset with the value, CFG_RESULT the COMMIT with its status (R383);
GRANT_RESP and POWER_RESP count an answer and, as the last one, end their descriptor (R429, R452). -/
def Obligations.RegisterRecords : Prop :=
  (∀ (s : State) (link : Fin 64) (raw : Bytes) (f : Frame) (r : Bytes) (b' : Block),
    let off := fieldAt r 8 4
    let v := word (fieldAt r 12 4)
    let cft := BitVec.ofNat 64 (fieldAt r 8 8)
    (s.hears .D link raw 0x0201 f r b' → (regRowAt b'.build off).isSome = true → neverStaged off = true →
      exec (.cfgWriteReceive link raw) s = .next (s.setBlock .D (b'.storeReg off v))) ∧
    (s.hears .D link raw 0x0201 f r b' → (regRowAt b'.build off).isSome = true → neverStaged off = false → b'.stageRefused off v = false →
      stagedAt b'.txn.staged (b'.stagedKey off) = none → b'.txn.staged.length < b'.stageCap → exec (.cfgWriteReceive link raw) s =
        .next (s.setBlock .D { b' with txn := { b'.txn with staged := b'.txn.staged ++ [(b'.stagedKey off, v)] } })) ∧
    (s.hears .D link raw 0x0202 f r b' → b'.commitStatus cft = 0 →
      let txn := { b'.txn with staged := [], poisoned := false, pending := b'.txn.pending ++ [(cft, b'.txn.staged)] }
      exec (.cfgCommitReceive link raw) s = .next (s.setBlock .D { b' with txn := txn })) ∧
    (s.hears .D link raw 0x0203 f r b' → exec (.cfgAbortReceive link raw) s =
      .next (s.setBlock .D { b' with txn := { b'.txn with staged := [], poisoned := false, pending := [] } })) ∧
    (s.hears .D link raw 0x0601 f r b' → exec (.regReadReceive link raw) s =
      .next (s.setBlock .D ((b'.readNow .tray off 0).regResp off (b'.readNow .tray off 0).rdata))) ∧
    (s.hears .D link raw 0x0602 f r b' → exec (.regWriteReceive link raw) s =
      .next (s.setBlock .D ((b'.writeNow .tray off v).regResp off 0)))) ∧
  (∀ (s : State) (port : Fin 8) (link : Fin 64) (raw : Bytes) (f : Frame) (r : Bytes) (b' : Block) (t : Taken),
    let slot := slotOf f.srcDa
    (s.hears .T link raw 0x0603 f r b' →
      b'.waiting 0x40 slot (fun t => decide (dieOp t ≤ 1) && dieOffset t == fieldAt r 8 4) = some t →
      exec (.regRespReceive port link raw) s = .next (s.setBlock .T (b'.complete t 0 0 (slice r 12 4)))) ∧
    (s.hears .T link raw 0x0204 f r b' → b'.waiting 0x40 slot (fun t => dieOp t == 3) = some t →
      exec (.cfgResultReceive port link raw) s =
        .next (s.setBlock .T (b'.complete t 0 0 (zeros 4 ++ slice r 8 1 ++ zeros 3 ++ slice r 12 4)))) ∧
    (s.hears .T link raw 0x0803 f r b' → b'.waiting 0x18 slot (fun t => t.job == f.job) = some t → byteAt r 8 ∈ [0, 9] →
      let u := t.answered slot (byteAt r 8 == 0)
      exec (.grantRespReceive port link raw) s = .next (s.setBlock .T (if u.waitDies.isEmpty
        then b'.complete u 0 0 (leBytes 4 u.accepted ++ leBytes 4 u.refused) else b'.setTaken u))) ∧
    (s.hears .T link raw 0x0903 f r b' → b'.waiting 0x60 slot (fun _ => true) = some t → byteAt r 8 ∈ [0, 9] →
      let u := t.answered slot (byteAt r 8 == 0)
      exec (.powerRespReceive port link raw) s = .next (s.setBlock .T (if u.waitDies.isEmpty
        then b'.complete u (if 0 < u.refused then 0x09 else 0) else b'.setTaken u))))

/-- GRANT and REVOKE at a die (R123, R124, R429, R430): a grant that keeps every condition takes the lowest free slot and is answered with
it; one that breaks a condition sets GRANT_REFUSED and is answered NOT_PERMITTED; REVOKE clears mask bits of its context's grants. -/
def Obligations.GrantRecords : Prop :=
  ∀ (s : State) (link : Fin 64) (raw : Bytes) (f : Frame) (r : Bytes) (b' : Block) (c g : Nat),
    let held := b'.ctxOfJob f.job = some c
    let x := b'.ctx c
    let expiry := BitVec.ofNat 64 (fieldAt r 8 8)
    let inRange := (chunks 8 (byteAt r 24) (r.drop 32)).any (fun e =>
      decide (bitsOf (fieldAt e 0 4) 17 0 ≤ x.rank) && decide (x.rank ≤ bitsOf (fieldAt e 4 4) 17 0))
    let good := x.isActive = true ∧ inRange = true ∧ b'.time.valid = true ∧ 0 < ftDiff expiry b'.ft ∧
      ftDiff expiry b'.ft ≤ 57600000000000
    let grant : TraceGrant := ⟨c, BitVec.ofNat 64 (fieldAt r 16 8), expiry⟩
    (s.hears .D link raw 0x0801 f r b' → held → good → b'.freeGrantSlot = some g → exec (.grantReceive link raw) s =
      .next (s.setBlock .D ((b'.modTrace (fun t => { t with grants := sput (fun _ => none) t.grants g (some grant) })).updateExclusions.sendControl
        (some c) .tray 0x0803 (leBytes 1 0 ++ leBytes 1 g ++ zeros 6)))) ∧
    (s.hears .D link raw 0x0801 f r b' → b'.ctxOfJob f.job = none → exec (.grantReceive link raw) s =
      .next (s.setBlock .D ((b'.flag Reg.TRC_STS 5).sendControl none .tray 0x0803 (leBytes 1 0x09 ++ leBytes 1 0xFF ++ zeros 6)))) ∧
    (s.hears .D link raw 0x0801 f r b' → held → ¬ good ∨ b'.freeGrantSlot = none → exec (.grantReceive link raw) s =
      .next (s.setBlock .D ((b'.flag Reg.TRC_STS 5).sendControl (some c) .tray 0x0803 (leBytes 1 0x09 ++ leBytes 1 0xFF ++ zeros 6)))) ∧
    (s.hears .D link raw 0x0802 f r b' → held → exec (.revokeReceive link raw) s =
      .next (s.setBlock .D (b'.revokeGrants c (BitVec.ofNat 64 (fieldAt r 8 8)))))

/-- POWER at a die whose transition is listed is answered OK and waits for T, or acts at once without valid time; one that is not listed
is answered NOT_PERMITTED and sets REFUSED (R452, R456). A CRUMB record enters the tray's ring with FROM_DIE set (R413, R414), and one with a
reserved value or a SOURCE that is no die address is discarded and counted in EVR_BAD (R11, R14); a SENSOR record that comes by the close of
its window is that rank's source (R455), and one with a reserved KIND is discarded and counted in FRM_BAD (R11, R454). -/
def Obligations.DieReports : Prop :=
  ∀ (s : State) (port : Fin 8) (link : Fin 64) (raw : Bytes) (f : Frame) (r : Bytes) (b' : Block) (c : Nat),
    (s.hears .D link raw 0x0902 f r b' → byteAt r 8 ≤ 3 → b'.mayGo (byteAt r 8) = true →
      let b1 := (b'.sendControl none .tray 0x0903 (leBytes 1 0 ++ zeros 7)).modPower
        (fun p => { p with target := some (byteAt r 8), time := BitVec.ofNat 64 (fieldAt r 16 8) })
      exec (.powerRecordReceive link raw) s = .next (s.setBlock .D (if b1.time.valid then b1 else b1.applyPower (byteAt r 8)))) ∧
    (s.hears .D link raw 0x0902 f r b' → byteAt r 8 ≤ 3 → b'.mayGo (byteAt r 8) = false → exec (.powerRecordReceive link raw) s =
      .next (s.setBlock .D ((b'.flag Reg.PWR_STS 6).sendControl none .tray 0x0903 (leBytes 1 0x09 ++ zeros 7)))) ∧
    (s.hears .T link raw 0x0701 f r b' →
      let k := slice r 8 31
      let flags := leBytes 1 (byteAt k 3 / 2 * 2 + 1)
      crumbGood k = true → crumbSourceGood k = true → bitOf (byteAt k 2) 7 = true → exec (.crumbReceive port link raw) s =
        .next (s.setBlock .T (b'.storeHealth (slice k 0 3 ++ flags ++ slice k 4 16 ++ b'.healthTime ++ slice k 28 3)))) ∧
    (s.hears .T link raw 0x0701 f r b' → crumbGood (slice r 8 31) = false ∨ crumbSourceGood (slice r 8 31) = false →
      exec (.crumbReceive port link raw) s = .next (s.setBlock .T ((b'.count Reg.EVR_BAD 1).flag Reg.EVR_STS 0))) ∧
    (s.hears .T link raw 0x0901 f r b' → sensorGood r = false →
      exec (.sensorRecordReceive link raw) s = .next (s.setBlock .T b'.recordBad)) ∧
    (s.hears .T link raw 0x0901 f r b' → sensorGood r = true → b'.fromChild f = some c →
      ftGe ((b'.ctx c).closeTime b'.ft (fieldAt r 8 5)) b'.ft = true → exec (.sensorRecordReceive link raw) s =
        .next (s.setBlock .T (b'.modWin c (fieldAt r 8 5) (fun p => { p with sensors := sput (fun _ => []) p.sensors f.rank r }))))

/-- Tempering (R50 to R54): a request is answered with both stamps; a response of the open exchange enters the run with
its round trip and its offset, and the run goes on or ends. A run whose spread is within the limit stores the delay, half the smallest round
trip, rounded down, with TEMPERED and NEAR, and sends it, and TIM_TEMPER_RES reports OK with delay and spread; one whose spread is greater
changes no constant and reports FAIL_SPREAD. The far end stores a delay with NEAR clear and answers; an acknowledgement changes nothing. That SPREAD
and DELAY are set under FAIL_SPREAD too, and a delay outside 16 bits is taken modulo 2^16, is the model's choice (log 36). -/
def Obligations.TemperRecords : Prop :=
  ∀ (s : State) (b : Build) (port : Fin 8) (link : Fin 64) (raw : Bytes) (f : Frame) (r : Bytes) (b' : Block) (t : TemperRun),
    (s.hears b link raw 0x0A02 f r b' → exec (.temperReqReceive b port link raw) s =
      .next (s.setBlock b (b'.sendControl none (b'.backTo port link) 0x0A03
        (slice r 8 8 ++ slice r 16 2 ++ zeros 6 ++ leBytes 8 b'.ft.toNat ++ leBytes 8 b'.ft.toNat)))) ∧
    (s.hears .T link raw 0x0A03 f r b' → b'.time.temper = some t → b'.linkEntry port link = t.link → fieldAt r 8 8 = t.t1.toNat →
      fieldAt r 16 2 = t.done →
      let t2 := BitVec.ofNat 64 (fieldAt r 24 8)
      let t3 := BitVec.ofNat 64 (fieldAt r 32 8)
      let rt := roundTrip t.t1 t2 t3 b'.ft
      let u := t.exchange rt (clockOffset t.t1 t2 t3 b'.ft)
      exec (.temperRespReceive port link raw) s = .next (s.setBlock .T (if u.done = u.count then b'.temperDone u
        else (b'.modTime (fun m => { m with temper := some { u with t1 := b'.ft } })).sendTemperReq t.link u.done)) ∧
      u.done = t.done + 1 ∧ u.offsets = t.offsets ++ [(ftDiff t2 t.t1 - ftDiff b'.ft t3) / 2] ∧ u.minRt = some (match t.minRt with | none => rt | some m => min m rt) ∧
      u.delay = (match t.minRt with | none => halfDown rt | some m => if rt < m then halfDown rt else t.delay) ∧
      2 * halfDown rt ≤ rt ∧ rt ≤ 2 * halfDown rt + 1 ∧
      (u.done = u.count →
        let spread := (u.maxRt - u.minRt.getD 0).toNat
        let delay := (BitVec.ofInt 16 u.delay).toNat
        let b0 := b'.modTime (fun m => { m with temper := none })
        let b1 := ((b0.setFld Reg.TIM_TEMPER_RES 27 16 (satTo 4095 spread)).setFld Reg.TIM_TEMPER_RES 15 0 delay).flag Reg.TIM_TEMPER_RES 31
        (spread ≤ b'.fld Reg.TIM_TEMPER_LIM 15 0 → exec (.temperRespReceive port link raw) s = .next (s.setBlock .T (
          ((b1.setFld Reg.TIM_TEMPER_RES 29 28 1).setReg (linkDelayReg t.link) (BitVec.ofNat 32 (2 ^ 31 + 2 ^ 30 + delay))).sendControl
            none (temperDest t.link) 0x0A04 (leBytes 2 delay ++ zeros 6)))) ∧
        (b'.fld Reg.TIM_TEMPER_LIM 15 0 < spread → exec (.temperRespReceive port link raw) s =
          .next (s.setBlock .T (b1.setFld Reg.TIM_TEMPER_RES 29 28 2))))) ∧
    (s.hears b link raw 0x0A04 f r b' → exec (.temperSetReceive b port link raw) s =
      .next (s.setBlock b ((b'.setReg (linkDelayReg (b'.linkEntry port link)) (BitVec.ofNat 32 (2 ^ 31 + fieldAt r 8 2))).sendControl none
        (b'.backTo port link) 0x0A05 (zeros 8)))) ∧
    (s.hears .T link raw 0x0A05 f r b' → byteAt r 8 = 0 → exec (.temperAckReceive port link raw) s = .next (s.setBlock .T b'))

/-- A beacon in beacon mode on a tempered link (R46 to R49). Its step D is taken against the FT that the cycle would leave without it, and its
sum with the hold balance chooses the case of R43: where the sum is not negative, FT of the cycle becomes the beacon's value and no balance is
left, and where it is negative by no more than TIM_HOLD_MAX it is the new balance; in either case VALID is set and a pending switch takes
effect. That the load leaves the fraction as a cycle does, and FT equal to the value during a hold too, is read from R43, R44 and R47 together (log
31). -/
def Obligations.BeaconLoads : Prop :=
  ∀ (s : State) (b : Build) (port : Fin 8) (link : Fin 64) (raw : Bytes) (f : Frame) (r : Bytes) (b' : Block),
    s.hears b link raw 0x0A01 f r b' → (s.block b).asleep = false → b'.build = .D ∨ (32 ≤ link.val ∧ port.val = b'.fld Reg.TIM_CTL 15 12) →
    b'.time.modeNow = 1 ∨ b'.time.modeNext.isSome = true → b'.linkTempered (b'.linkEntry port link) = true → b'.takesBeacons = true →
    let v := b'.beaconValue (fieldAt r 8 8) (byteAt r 16) (b'.linkEntry port link)
    let sum := ftDiff v b'.flow.ft * 2 ^ 32 - b'.time.hold
    ∃ t, exec (.beaconReceive b port link raw) s = .next t ∧
      (0 ≤ sum → (t.block b).ft = v ∧ (t.block b).time.hold = 0 ∧ (t.block b).time.valid = true ∧
        (t.block b).time.modeNow = b'.time.modeNext.getD b'.time.modeNow ∧ s.sameBlock t b.other) ∧
      (sum < 0 → -(b'.fld Reg.TIM_HOLD_MAX 15 0 * 2 ^ 32 : Int) ≤ sum → (t.block b).ft = (b'.advance 0).ft ∧
        (t.block b).time.hold = sum.natAbs ∧ (t.block b).time.valid = true ∧
        (t.block b).time.modeNow = b'.time.modeNext.getD b'.time.modeNow ∧ s.sameBlock t b.other)

/-- Digest and vote records (R301 to R304): a digest of a group's member at its vote node opens its key or joins it; a second one of the
same member is counted in WIT_DUP and changes no key; a vote record at a tray waits for the witness step. -/
def Obligations.WitnessRecords : Prop :=
  ∀ (s : State) (port : Fin 8) (link : Fin 64) (raw : Bytes) (f : Frame) (r : Bytes) (b' : Block) (c : Nat) (g : Replicas) (k : VoteKey),
    let x := b'.ctx c
    let b1 := b'.count Reg.WIT_RX 1
    let isKey (k : VoteKey) : Bool := k.group == g.id && k.cmd == digCmd r
    let now := windowOf x.k b'.ft
    (s.hears .T link raw 0x0301 f r b' → b'.fromChild f = some c → b'.isSet Reg.WIT_CTL 0 = true → x.level ≠ 5 →
      groupFor (b'.ctxPlan c) (digRank r) (digChannel r) = some g → x.votesFor g = true →
      x.an.decided.any (fun e => e.1 == g.id && e.2.1 == digCmd r && decide (windowDiff now e.2.2 < 2)) = false →
      (x.an.keys.find? isKey = some k → k.records.any (fun q => digRank q == digRank r) = false →
        exec (.digestRecordReceive port link raw) s = .next (s.setBlock .T (b1.modAn c (fun a => { a with keys := a.keys.map (fun k =>
          if isKey k then { k with records := k.records ++ [r], last := b1.ft } else k) })))) ∧
      (x.an.keys.find? isKey = some k → k.records.any (fun q => digRank q == digRank r) = true →
        exec (.digestRecordReceive port link raw) s = .next (s.setBlock .T ((b1.count Reg.WIT_DUP 1).flag Reg.WIT_STS 2))) ∧
      (x.an.keys.find? isKey = none → (x.an.keys.filter (fun k => k.group == g.id)).length < 256 → b1.openGroups.length < 64 ∨ (c, g.id) ∈ b1.openGroups →
        exec (.digestRecordReceive port link raw) s = .next (s.setBlock .T (b1.modAn c (fun a => { a with
          keys := a.keys ++ [{ group := g.id, cmd := digCmd r, records := [r], last := b1.ft }] }))))) ∧
    (s.hears .T link raw 0x0302 f r b' → b'.fromParent f = some c → voteGood r = true → groupById (b'.ctxPlan c) (fieldAt r 8 2) = some g → x.level = 5 →
      exec (.voteReceive port link raw) s = .next (s.setBlock .T (b'.modAn c (fun a => { a with
        votes := a.votes ++ [(b'.ft.toNat, controlRecord 0x0302 (r.drop 8))] }))))

/-! ### Events of time, starts, members and windows -/

/-- Events of fleet time: a beacon is due at each multiple of the beacon period that FT crosses and goes to the dies present and, from a hearth, to
the tree ports (R45); TIM_BCN.LOSS periods without one are reported once (R47); TEMPER_START begins a run of at least 16 exchanges while the time
steward runs (R437), and one at a reserved link is refused (R50); a reply missing for 64 µs ends the run with FAIL_NO_REPLY (R52); a time pulse
latches FT (R63). -/
def Obligations.TimeEvents : Prop :=
  ∀ (s : State) (b : Build) (v : Word) (t : TemperRun) (mark : Nat),
    let x := s.block b
    let y := s.t
    let count := bitsOf v.toNat 15 8
    let link := bitsOf v.toNat 5 0
    let y1 := (y.setFld Reg.TIM_TEMPER 15 8 count).setFld Reg.TIM_TEMPER 5 0 link
    let run : TemperRun := { link := link, count := max 16 count, t1 := y.ft }
    (s.running .T = true → y.isSet Reg.TIM_CTL 9 = true → ftGe y.ft y.time.beaconNext = true → exec .beaconDue s =
      .next (s.setBlock .T ((y.modTime (fun m => { m with
        beaconNext := BitVec.ofNat 64 ((y.ft.toNat / y.beaconTicks + 1) * y.beaconTicks) })).sendBeacons))) ∧
    (s.running b = true → x.time.beaconMark = some mark → x.takesBeacons = true → x.time.modeNow ≠ 0 →
      x.fld Reg.TIM_BCN 15 8 * x.beaconTicks * 2 ^ 32 ≤ (x.time.cycles - mark) * x.incr → exec (.beaconLost b) s =
        .next (s.setBlock b (((x.modTime (fun m => { m with beaconMark := none })).flag Reg.TIM_STS 3).healthCrumb 0x0106 x.sourceLink 0 0))) ∧
    (s.running .T = true → v.getLsbD 31 = true → y.stewardRuns 3 = true → link < 40 → exec (.temperStart v) s =
      .next (s.setBlock .T (((y1.setFld Reg.TIM_TEMPER_RES 29 28 0).modTime (fun m => { m with temper := some run })).sendTemperReq link 0))) ∧
    (s.running .T = true → v.getLsbD 31 = false ∨ y.stewardRuns 3 = false → link < 40 → exec (.temperStart v) s =
      .next (s.setBlock .T y1)) ∧
    (s.running .T = true → v.getLsbD 31 = false ∨ y.stewardRuns 3 = false → 40 ≤ link → exec (.temperStart v) s =
      .next (s.setBlock .T (y.setFld Reg.TIM_TEMPER 15 8 count))) ∧
    (s.running .T = true → v.getLsbD 31 = true → y.stewardRuns 3 = true → 40 ≤ link → exec (.temperStart v) s =
      .next (s.setBlock .T ((y.setFld Reg.TIM_TEMPER 15 8 count).flag Reg.TIM_STS 5))) ∧
    (s.running .T = true → y.time.temper = some t → ftGe y.ft (ftAdd t.t1 1024000) = true → exec .temperReplyTimeout s =
      .next (s.setBlock .T (((y.modTime (fun m => { m with temper := none })).setFld Reg.TIM_TEMPER_RES 29 28 3).flag Reg.TIM_TEMPER_RES 31))) ∧
    (s.running b = true → x.isSet Reg.TIM_CTL 11 = true → exec (.timePulse b) s =
      .next (s.setBlock b { x with time := { x.time with pulse := x.ft } }))

/-- The deadlines of a start and the start itself: at A(h) a node that has not sent its ACK sends it (R198); at A(0) the job hearth decides, COMMIT
where every rank is prepared, ABORT otherwise without PARTIAL (R199), and ABORT with REASON 1 where its own time is not valid (R37; the REASON is
the model's choice, log 48); while the plan steward does not run neither deadline acts (R437); a node without a decision at S − 2 µs frees the
context (R200); at S an ARMED context becomes ACTIVE in the window of S, with sequence counter 0 and no duplicate state (R163, R201), and no
register changes but the queue marks of a die (R85). Where the step over S passed windows over whole, the context opens in the first one after them
(R44). -/
def Obligations.StartEvents : Prop :=
  ∀ (s : State) (b : Build) (c : Fin 64) (codes : Sparse Nat) (refused reasons : Nat),
    let y := s.t
    let x := y.ctx c
    let z := (s.block b).ctx c
    let n := (codes.filter (fun e => e.2 == 1)).length
    (s.running .T = true → y.stewardRuns 1 = false →
      exec (.ackDeadline c) s = .next s ∧ exec (.hearthDecisionDeadline c) s = .next s) ∧
    (s.running .T = true → y.stewardRuns 1 = true → x.phase = .prepared → x.ackSent = false → x.isHearth = false →
      ftGe y.ft (x.ackDeadlineAt x.nodeDepth) = true → exec (.ackDeadline c) s = .next (s.setBlock .T (y.sendAck c))) ∧
    (s.running .T = true → y.stewardRuns 1 = true → x.phase = .prepared → x.isHearth = true → ftGe y.ft (x.ackDeadlineAt 0) = true →
      y.time.valid = false → exec (.hearthDecisionDeadline c) s = .next (s.setBlock .T (y.abortStart c 1))) ∧
    (s.running .T = true → y.stewardRuns 1 = true → x.phase = .prepared → x.isHearth = true → ftGe y.ft (x.ackDeadlineAt 0) = true →
      y.time.valid = true → mergedAck x.children = (codes, refused, reasons) → n = x.ranks → exec (.hearthDecisionDeadline c) s =
        .next (s.setBlock .T (((y.sendDecision c 0x0103 (leBytes 8 x.start.toNat)).modCtx c (fun x =>
          { x with phase := .armed, ackSent := true, decision := some true })).completeStart c 0 n refused reasons (presenceOf x.map codes)))) ∧
    (s.running .T = true → y.stewardRuns 1 = true → x.phase = .prepared → x.isHearth = true → ftGe y.ft (x.ackDeadlineAt 0) = true →
      y.time.valid = true → mergedAck x.children = (codes, refused, reasons) → n ≠ x.ranks → bitOf x.policy 0 = false → exec (.hearthDecisionDeadline c) s =
        .next (s.setBlock .T (y.abortStart c (if reasons ≠ 0 then 1 else 0)))) ∧
    (s.running b = true → z.phase = .prepared → ftGe (s.block b).ft (z.start - BitVec.ofNat 64 32000) = true →
      ∃ t, exec (.lateCommitDeadline b c) s = .next t ∧ (t.block b).ctx c = {} ∧ (t.block b).isSet Reg.MBR_STS 2 = true ∧
        s.sameBlock t b.other) ∧
    (s.running b = true → z.phase = .armed → (s.block b).time.valid = true → ftGe (s.block b).ft z.start = true →
      ∃ t, exec (.contextStart b c) s = .next t ∧
        ((t.block b).ctx c).phase = (if z.lastWin.isSome then CtxPhase.draining else CtxPhase.active) ∧
        ((t.block b).ctx c).openWin = z.windowAfter ((windowOf z.k z.start + 2 ^ 40 - 1) % 2 ^ 40) ∧
        (z.skipped = [] → ((t.block b).ctx c).openWin = windowOf z.k z.start) ∧ ((t.block b).ctx c).seq = 0 ∧ ((t.block b).ctx c).dups = [] ∧
        (∀ c', c' ≠ c.val → (t.block b).ctx c' = (s.block b).ctx c') ∧
        (∀ off, (∀ n, n < 64 → off ≠ Reg.TAP_XQ + 4 * n) → (t.block b).reg off = (s.block b).reg off) ∧ s.sameBlock t b.other)

/-- Member events: an ember goes out at each multiple of the period that FT crosses, while MBR_CTL.EMBER_EN is set, and the settings written since
act from there (R208, R216); a check point gives every member of every ACTIVE context its next state, in ascending rank (R210, R414); a standby that
has missed LOSS + 2i periods takes over while the plan steward runs (R213, R437); a rewritten map entry that FT has reached takes effect, at the old
die as the wait for its release (R212); a new hearth takes each context up at a boundary of that context, and its role is active once it has taken
up all (R213, R214). -/
def Obligations.MemberEvents : Prop :=
  ∀ (s : State) (b : Build) (c : Fin 64) (l : Fin 4),
    let x := s.block b
    let y := s.t
    let e := x.newPeriod
    let lv := l.val + 6
    let r := y.roleAt lv
    (e.periods.per = x.fld Reg.MBR_EMBER 7 0 ∧ e.periods.emberNext = nextMultiple (x.fld Reg.MBR_EMBER 7 0 * 128000) x.ft ∧
      e.periods.loss = x.fld Reg.MBR_HEARTH 7 0 ∧ e.periods.auto = x.isSet Reg.MBR_CTL 1) ∧
    (s.running b = true → ftGe x.ft x.periods.emberNext = true → x.isSet Reg.MBR_CTL 0 = true → x.build = .D → exec (.emberDue b) s =
      .next (s.setBlock b (e.sendControl none .tray 0x0108 (emberBody x.time.valid false x.ctxMask 0)))) ∧
    (s.running b = true → ftGe x.ft x.periods.emberNext = true → x.isSet Reg.MBR_CTL 0 = true → x.build = .T → exec (.emberDue b) s =
      .next (s.setBlock b e.sendEmbers.countSilence)) ∧
    (s.running b = true → ftGe x.ft x.periods.emberNext = true → x.isSet Reg.MBR_CTL 0 = false → x.build = .D →
      exec (.emberDue b) s = .next (s.setBlock b e)) ∧
    (s.running .T = true → ftGe y.ft y.periods.checkNext = true → exec .checkPoint s =
      .next (s.setBlock .T (y.newCheckPoint.forEach y.newCheckPoint.checkedMembers (fun b e =>
        b.setMember e.1 e.2.1 (memberCheck b.suspectAt b.silentAt e.2.2))))) ∧
    (∀ (n rank : Nat) (m : Member), (n, rank, m) ∈ y.checkedMembers ↔
      n < 64 ∧ (y.ctx n).phase = .active ∧ (rank, m) ∈ (y.ctx n).members ∧ y.build = .T ∨
      n < 9 ∧ (y.ctx n).phase = .active ∧ (rank, m) ∈ (y.ctx n).members ∧ y.build = .D) ∧
    (s.running .T = true → y.periods.auto = true → y.stewardRuns 1 = true → r.role = 2 → r.pending = false →
      y.periods.loss + 2 * r.index ≤ r.missed → exec (.hearthLossTimeout l) s = .next (s.setBlock .T (y.takeOver lv none))) ∧
    (s.running b = true → x.build = .D → (x.ctx c).isActive = true → (x.ctx c).remaps.any (fun m => !m.done &&
        ftGe x.ft (windowStart (x.ctx c).k x.ft m.window) && m.rank == (x.ctx c).rank && m.addr != x.da) = true →
      exec (.remapApply b c) s = .next (s.setBlock b (x.queueRelease c))) ∧
    (s.running .T = true → r.pending = true → (y.takeUpDue lv).toTakeUp lv ≠ [] →
      exec (.hearthActivation l) s = .next (s.setBlock .T (y.takeUpDue lv))) ∧
    (s.running .T = true → r.pending = true → (y.takeUpDue lv).toTakeUp lv = [] →
      exec (.hearthActivation l) s = .next (s.setBlock .T ((y.takeUpDue lv).endTakeover lv))) ∧
    (s.running .T = true → r.pending = true → r.desc = none → y.toTakeUp lv = [] →
      exec (.hearthActivation l) s = .next (s.setBlock .T ((y.setRole lv
        { r with role := 1, pending := false, missed := 0, desc := none, past := [] }).flag Reg.MBR_STS 4)))

/-- Window events: FT at the close of the next open window of a context sorts its frames and opens the next window (R169), or
the one after those that a step passed over (R44), and the close of
the window after the last one ends a draining context (R204); a switch boundary acts once (R206), and at a tray row 0 of the new period
starts, for which the schedule is used (R325, R490); a catch-up with no window behind ends
(R340); a die's boundary takes its snapshots (R102); a vote key is decided at the close that R303 names; a tray lets digests go (R301). -/
def Obligations.WindowEvents : Prop :=
  ∀ (s : State) (b : Build) (c : Fin 64) (dc : Fin 9) (ports : List (Fin 64)) (group : Fin 65536) (cmd : BitVec 22) (k : VoteKey)
    (g : Replicas),
    let y := s.t
    let x := y.ctx c
    let w := x.openWin
    let next := x.windowAfter w
    let sorted := ((y.sortWindow c w).modCtx c (fun x => { x with
      openWin := next, behind := if x.catchup then x.behind + (windowDiff next w).toNat else x.behind })).logTxns c w
    let p := (s.block b).ft.toNat / 16384000
    let z := s.d.ctx dc
    let kept := x.an.held.filter (fun r => match groupFor (y.ctxPlan c) (digRank r) (digChannel r) with
      | some g => !ftGe y.ft (x.holdEnd y.ft g r) | none => false)
    (s.running .T = true → x.isActive = true → ftGe y.ft (x.closeTime y.ft w) = true → (∀ l, x.lastWin = some l → windowDiff w l < 1) →
      exec (.windowClose c) s = .next (s.setBlock .T sorted)) ∧
    (∀ last, s.running .T = true → x.isActive = true → ftGe y.ft (x.closeTime y.ft w) = true → x.lastWin = some last →
      1 ≤ windowDiff w last → exec (.windowClose c) s = .next (s.setBlock .T (sorted.lastClose c w last))) ∧
    (x.skipped = [] → next = (w + 1) % 2 ^ 40) ∧
    (s.running b = true → (s.block b).switchMark < p → (s.block b).build = .D → exec (.switchBoundary b) s =
      .next (s.setBlock b ({ s.block b with switchMark := p }.switchContexts (p * 16384000)))) ∧
    (s.running b = true → (s.block b).switchMark < p → (s.block b).build = .T → exec (.switchBoundary b) s =
      .next (s.setBlock b ({ (((s.block b).abandonRows.shareSlots.sealLogs).useSlot 5 ((s.block b).fld Reg.PLN_SCHED 0 0)).startRow p 0
        with switchMark := p }.switchContexts (p * 16384000)))) ∧
    (s.running .T = true → x.catchup = true → x.behind = 0 → exec (.catchupEnd c) s =
      .next (s.setBlock .T (y.setCtx c { x with catchup := false, settings := [] }))) ∧
    (s.running .D = true → z.isActive = true → 0 < windowDiff (windowOf z.k s.d.ft) z.openWin → exec (.dieWindowBoundary dc ports) s =
      .next (s.setBlock .D (s.d.windowBoundary dc ((ports.map Fin.val).mergeSort (fun a b => decide (a ≤ b)))))) ∧
    (s.running .T = true → x.an.keys.find? (fun k => k.group == group.val && k.cmd == cmd.toNat) = some k →
      groupById (y.ctxPlan c) group = some g → x.isActive = true →
      y.isSet Reg.PLN_STS 4 = false → y.roleActs c (x.lastClosed y.ft) = true → x.keyDue y.ft g k = true → exec (.voteDecide c group cmd) s =
        .next (s.setBlock .T (y.decideKey c g k))) ∧
    (s.running .T = true → x.an.held ≠ kept → exec (.digestHoldExpire c) s = .next (s.setBlock .T (y.modAn c (fun a => { a with held := kept }))))

/-- The majority of a vote (R303): a digest value is the majority of the delivered records exactly if more than half of them hold it. -/
def Obligations.MajorityOfVotes : Prop :=
  ∀ (rs : List Bytes) (d : Bytes), majority rs = some d ↔ rs.length < 2 * (rs.filter (fun r => digValue r == d)).length

/-- The member state machine (R210): the states that a check point can lead to, by the evidence of the check. -/
def Obligations.MemberStates : Prop :=
  ∀ (suspect silent : Nat) (x : Member) (ember alt : Bool) (m since : Nat),
    let next := memberNext suspect silent x ember alt m since
    (next = .live ↔ (x.phase = .live ∧ x.retire = false ∧ (ember = true ∨ m < suspect)) ∨
      (ember = true ∧ x.retire = false ∧ (x.phase = .suspect ∨ x.phase = .contested ∨ x.phase = .silent))) ∧
    (next = .retired ↔ (x.phase = .retired ∧ x.unretire = false) ∨ (x.phase ≠ .retired ∧ x.retire = true)) ∧
    (next = .contested ↔ ember = false ∧ x.retire = false ∧ (((x.phase = .suspect ∨ x.phase = .silent) ∧ alt = true) ∨
      (x.phase = .contested ∧ since < silent - suspect))) ∧
    (x.phase = .live → next ≠ .silent)

/-! ### The analysis plane, ingest, windowed frames -/

/-- Rows run (R320 to R325): the entry of a row and column that is due runs once in its period. A step of a kind runs for each binding that
its entry names; ring and search slots and TEST entries do their work; a search slot of a failed decompressor is idle (R459), and which
decompressor a slot uses is a free value (log 4); a failed unit whose boundary has come is retired (R459). An entry that is not due, or whose
step is of another kind, runs nothing. -/
def Obligations.RowsRun : Prop :=
  ∀ (c : Instr) (s : State) (kind : Nat) (row : Fin 6400) (col : Fin 32) (errs : List (Nat × Nat)) (bad : List Nat) (faulty : List (Fin 64))
    (img : Bytes) (arg g k : Nat) (u : TestUnit),
    s.running .T = true →
    let e := schedStep img arg
    let y := s.t.enterRow col
    let z := s.t.enterRow 30
    let v := s.t.enterRow 31
    let unit := Config.slotDecompressor img row % 32
    let works := v.isSet Reg.IST_DEC_FAIL unit = false
    let behind := v.ctxIds.find? (fun c => (v.ctx c).catchup && decide (0 < (v.ctx c).behind))
    (stepRow c = some (kind, row, col, errs) → s.t.entryDue row col 2 = some (img, arg) → stepKind e = kind → exec c s =
      .next (s.setBlock .T ((stepFixed c y).forEach (stepBinds img e).eraseDups (fun b i => b.liveStep img e i col errs)))) ∧
    (stepRow c = some (kind, row, col, errs) → s.t.entryDue row col 2 = none → exec c s = .next s) ∧
    (stepRow c = some (kind, row, col, errs) → s.t.entryDue row col 2 = some (img, arg) → stepKind e ≠ kind → exec c s = .next s) ∧
    (∀ op, y.entryDue row col op = none) ∧
    (s.t.entryDue row 30 3 = some (img, arg) → exec (.ringEntry row) s = .next (s.setBlock .T
      (z.freeNat.2.forEach (if z.anvilLost arg then (z.ingest arg).deferred
        else (z.ingest arg).deferred.take (z.freeNat.1 % ((z.ingest arg).deferred.length + 1))) (fun b q => b.ringLoaf arg q)))) ∧
    (s.t.entryDue row 31 4 = some (img, arg) → works → behind = none →
      v.tray.plane.sharers[arg % v.tray.plane.sharers.length]? = some k → v.stewardRuns 2 = true → v.shares k = true →
      exec (.searchEntry ⟨row, bad⟩) s = .next (s.setBlock .T (v.runSlot unit k bad))) ∧
    (s.t.entryDue row 31 4 = some (img, arg) → works → behind = some k →
      exec (.searchEntry ⟨row, bad⟩) s = .next (s.setBlock .T (v.catchupPass k))) ∧
    (s.t.entryDue row 31 4 = some (img, arg) → v.isSet Reg.IST_DEC_FAIL unit = true → exec (.searchEntry ⟨row, bad⟩) s =
      .next (s.setBlock .T v)) ∧
    (s.t.entryDue row col 1 = some (img, arg) → y.isSet Reg.IST_CTL 0 = true → y.stewardRuns 4 = true → y.tray.test.pick col = (some g, u) →
      exec (.testEntry row col faulty) s = .next (s.setBlock .T ((y.modTest (fun _ => u)).testStep g (faulty.map Fin.val)))) ∧
    ((s.t.tray.test.failing.filter (fun e => ftGe s.t.ft e.2)).map Prod.fst = [k] → s.t.tray.test.descs.any (fun e => e.1 == k) = false →
      exec .unitRetire s = .next (s.setBlock .T ((s.t.retire k).modTest (fun t =>
        { t with failing := t.failing.filter (fun e => e.1 != k), descs := t.descs.filter (fun e => e.1 != k) }))))

/-- The way of a loaf from the trace port to the anvil (R132, R150, R151, R284, R288, R348), while its link is up (R488): a lane locks on its
alignment pattern; of the super-blocks that the four lanes deliver one that starts no loaf is a framing error, one of a loaf is kept, and the last
one gives the whole loaf, which is written into the flight ring and offered to the anvil; the decompressor ends it with its bytes or a fault; the
anvil compares it, or skips it where it is idle (R292). An uncorrected error in a tree store slot makes it BAD (R260), a scrub reads one entry
(R277), a phase mismatch halts the plane (R316). -/
def Obligations.IngestPath : Prop :=
  ∀ (s : State) (p : Fin 32) (lane : Fin 4) (ws : List Bytes) (i n : Nat) (words blk : Bytes) (x : IngestPort) (raw : Bytes) (out : Loaf)
    (e : LoafFault) (slot : Fin 16384) (group : Fin 4096) (entry : Fin 16384)
    (d : Fin 5),
    s.running .T = true →
    let y := s.t
    let y1 := y.modIngest p (fun _ => x)
    let y2 := y.modIngest p (fun x => { x with decoded := none })
    let tree := slotIn y.tray.plane.trees slot
    let g := slotIn y.tray.plane.groups group
    let scrubbed := y.count Reg.RUL_SCRUBBED 1
    ((y.ingest p).up = true → laneFound ws = some (i, n) → ∃ t, exec (.laneLock p ⟨lane, ws⟩) s = .next t ∧
      (∀ l ∈ (t.t.ingest p).lanes, l.lane = lane.val ↔ l = { lane := lane, index := i, head := 4096 * n + 1 }) ∧
      { lane := lane, index := i, head := 4096 * n + 1 } ∈ (t.t.ingest p).lanes ∧ (∀ q, q ≠ p.val → t.t.ingest q = y.ingest q) ∧
      t.t.regs = y.regs ∧ s.sameBlock t .D) ∧
    (y.power.phase < 2 → (y.ingest p).up = true → words.length = 64 → (y.ingest p).wordTime words = (x, none) → exec (.ingestLoafReceive p words) s =
      .next (s.setBlock .T y1)) ∧
    (y.power.phase < 2 → (y.ingest p).up = true → words.length = 64 → (y.ingest p).wordTime words = (x, some blk) →
      (x.loaf = [] → x.searching = false → slice blk 0 2 ≠ [0xB7, 0xE1] → slice blk 0 2 ≠ [0xB7, 0x1F] →
        exec (.ingestLoafReceive p words) s = .next (s.setBlock .T (y1.modIngest p (fun _ =>
          { x with framing := x.framing + 1, searching := true })))) ∧
      (x.loaf = [] → slice blk 0 2 = [0xB7, 0x1F] → blk.length < loafSpan (fieldAt blk 7 3) → x.searching = false ∨ headerFits blk = true →
        exec (.ingestLoafReceive p words) s = .next (s.setBlock .T (y1.modIngest p (fun _ => { x with loaf := blk, searching := false })))) ∧
      (x.loaf ≠ [] → (x.loaf ++ blk).length < loafSpan (fieldAt (x.loaf ++ blk) 7 3) → exec (.ingestLoafReceive p words) s =
        .next (s.setBlock .T (y1.modIngest p (fun _ => { x with loaf := x.loaf ++ blk })))) ∧
      (x.loaf ≠ [] → loafSpan (fieldAt (x.loaf ++ blk) 7 3) ≤ (x.loaf ++ blk).length → exec (.ingestLoafReceive p words) s =
        .next (s.setBlock .T ((y1.modIngest p (fun _ => { x with loaf := [] })).wholeLoaf p (x.loaf ++ blk))))) ∧
    ((y.ingest p).decoding = some raw → decodeLoaf raw (2 ^ 24) = .ok out → ∃ t, exec (.decompressLoaf p) s = .next t ∧
      t.t.ingest p = { y.ingest p with decoding := none, decoded := some raw } ∧ (∀ q, q ≠ p.val → t.t.ingest q = y.ingest q) ∧
      t.t.regs = y.regs ∧ t.t.ctxs = y.ctxs ∧ s.sameBlock t .D) ∧
    ((y.ingest p).decoding = some raw → decodeLoaf raw (2 ^ 24) = .error e → exec (.decompressLoaf p) s =
      .next (s.setBlock .T ((y.modIngest p (fun x => { x with decoding := none })).anvilFault p raw e))) ∧
    ((y.ingest p).decoded = some raw → y2.anvilIdle p raw = none → exec (.anvilCompareLoaf p) s =
      .next (s.setBlock .T (y2.compare p raw false))) ∧
    (∀ lost, (y.ingest p).decoded = some raw → y2.anvilIdle p raw = some lost → exec (.anvilCompareLoaf p) s =
      .next (s.setBlock .T (y2.skipLoaf p raw lost))) ∧
    (tree.phase = 1 ∨ tree.phase = 2 → exec (.storeUe slot) s = .next (s.setBlock .T (((y.modPlane (fun u =>
      { u with trees := putSlot u.trees slot { tree with phase := 3 } })).flag Reg.ENS_STS 5).healthCrumb 0x0C04 slot 0 0))) ∧
    (y.isSet Reg.RUL_CTL 0 = true → g.phase ≠ 0 → entry.val < groupCount g.bytes → exec (.ruleScrub group entry false false) s =
      .next (s.setBlock .T scrubbed)) ∧
    (y.isSet Reg.RUL_CTL 0 = true → g.phase ≠ 0 → entry.val < groupCount g.bytes → exec (.ruleScrub group entry false true) s =
      .next (s.setBlock .T (scrubbed.count Reg.RUL_CE 1))) ∧
    (y.isSet Reg.RUL_CTL 0 = true → g.phase = 1 ∨ g.phase = 2 → entry.val < groupCount g.bytes → exec (.ruleScrub group entry true false) s =
      .next (s.setBlock .T (((scrubbed.modPlane (fun u => { u with groups := putSlot u.groups group { g with phase := 3 } })).flag
        Reg.RUL_STS 2).healthCrumb 0x0D01 group g.bank 0))) ∧
    (y.isSet Reg.PLN_STS 4 = false → exec (.phaseError d) s = .next (s.setBlock .T
      ((((y.flag Reg.PLN_STS 3).flag Reg.PLN_STS 4).setFld Reg.PLN_PHASE 2 0 d.val).healthCrumb 0x1001 d.val 0 0)))

/-- Windowed frames (R158, R168): a frame that comes before the close of its window is an input of that window, one that comes before the close of
the next window is an annex input of that where FRM_CTL.ANNEX_EN is set, a later one is counted too late, one more than a window ahead is counted
FUTURE. Alarm records of a die without a context go to the host, those of a context to the host of the die's tray and of the job hearth, and the
frame goes on toward the hearth, unchanged (R162, R397), statistics wait for their parts (R174), a test frame is discarded (R160). -/
def Obligations.WindowedFrames : Prop :=
  ∀ (s : State) (b : Build) (port : Fin 8) (link : Fin 64) (raw : Bytes) (f : Frame) (b' : Block) (c : Nat),
    let x := b'.ctx c
    let ahead := windowDiff f.window (windowOf x.k b'.ft)
    let next := x.windowAfter f.window
    let key := f.dupKey ++ [f.cls, f.base]
    let others := b'.parts.filter (fun s => s.key != key)
    let recs := alarmRecords f.payload
    let top := b'.climb c
    let told := if link.val < 32 then b'.forEach recs (fun b r => b.pushAlarm (b.egressCtx c) f.job r) else b'
    (s.running .T = true → s.t.rx link raw = (some f, b') → b'.fromChild f = some c → 2 ≤ f.cls → f.cls ≤ 4 → f.down = false →
      (1 < ahead → exec (.windowedFrameReceive port link raw) s = .next (s.setBlock .T ((b'.count Reg.FRM_FUTURE 1).flag Reg.FRM_STS 6))) ∧
      (ahead ≤ 1 → ftGe b'.ft (x.closeTime b'.ft f.window) = false → exec (.windowedFrameReceive port link raw) s =
        .next (s.setBlock .T ((b'.setCtx c (x.setWinSlot { x.winSlot f.window with
          inputs := (x.winSlot f.window).inputs ++ [f] })).badDieRecords f))) ∧
      (ahead ≤ 1 → ftGe b'.ft (x.closeTime b'.ft f.window) = true → ftGe b'.ft (x.closeTime b'.ft next) = false →
        b'.isSet Reg.FRM_CTL 0 = true →
        exec (.windowedFrameReceive port link raw) s = .next (s.setBlock .T ((((b'.setCtx c (x.setWinSlot { x.winSlot next with
          annex := (x.winSlot next).annex ++ [f] })).count Reg.FRM_ANNEX 1).flag Reg.FRM_STS 4).badDieRecords f))) ∧
      (ahead ≤ 1 → ftGe b'.ft (x.closeTime b'.ft f.window) = true → ftGe b'.ft (x.closeTime b'.ft next) = true ∨ b'.isSet Reg.FRM_CTL 0 = false →
        exec (.windowedFrameReceive port link raw) s = .next (s.setBlock .T ((b'.count Reg.FRM_TOO_LATE 1).flag Reg.FRM_STS 5)))) ∧
    (s.running .T = true → s.t.rx link raw = (some f, b') → f.cls = 0 → link.val < 32 → b'.receiver f 0 = none →
      recs.all (fun r => decide (fieldAt r 0 2 ∈ alarmCodes)) = true → exec (.alarmFrameReceive port link raw) s =
        .next (s.setBlock .T (b'.forEach recs (fun b r => b.pushAlarm b.blockCtx 0 r)))) ∧
    (s.running .T = true → s.t.rx link raw = (some f, b') → f.cls = 0 → b'.receiver f 0 = some c →
      recs.all (fun r => decide (fieldAt r 0 2 ∈ alarmCodes)) = true →
      ((b'.ctx top).isHearth = true → exec (.alarmFrameReceive port link raw) s =
        .next (s.setBlock .T (b'.forEach recs (fun b r => b.pushAlarm (b.egressCtx c) f.job r)))) ∧
      ((b'.ctx top).isHearth = false → recs ≠ [] → exec (.alarmFrameReceive port link raw) s =
        .next (s.setBlock .T (told.forwardAlarm (told.egressCtx top) (.parent top) f.raw recs)))) ∧
    (s.running .T = true → s.t.rx link raw = (some f, b') → f.cls = 2 → f.down = true → b'.topNode f.job = some c → 2 ≤ f.parts →
      b'.parts.any (fun s => s.key == key) = false → exec (.jobStatsReceive port link raw) s =
        .next (s.setBlock .T { b' with parts := others ++ [⟨key, f.parts, [(f.part, f.raw)]⟩] })) ∧
    (s.running b = true → (s.block b).rx link raw = (some f, b') → f.cls = 7 → exec (.testFrameReceive b port link raw) s =
      .next (s.setBlock b b'))

/-! ### The erasure code -/

/-- Records of the erasure code from a member that is not LOST (R352 to R354, R358): a first piece of a segment is staged; a parity column
that is whole is acknowledged; with the last acknowledgement the stripe goes to its contributors and, as log 28 has it, to the other holders; a
full staging region and a class with a LOST holder stage nothing (log 28, R353); a segment in a stripe becomes CODED; a
release is noted; a segment whose parity is gone is not coded; a read of a held column is answered; a piece of a degraded read is kept and
ends it when it was the last one. -/
def Obligations.ShareFrames : Prop :=
  ∀ (s : State) (port : Fin 8) (link : Fin 64) (raw : Bytes) (f : Frame) (r : Bytes) (b' : Block) (m : Nat),
    let cls := byteAt r 8
    let me := b'.groupIndex cls
    let n := fieldAt r 12 4
    let h := b'.tray.history
    b'.shareFrom cls f.srcDa = some m →
    (s.hearsShare link raw 0x0501 f r b' → h.staging.any (fun x => x.cls == cls && x.origin == m && x.n == n) = false →
      b'.holderLost cls = false → h.staging.foldl (fun a y => a + y.len) 0 + fieldAt r 20 4 ≤ stagingSize →
      let x : Staged := ⟨cls, m, n, fieldAt r 20 4, sput (fun _ => []) [] (fieldAt r 16 4) (r.drop 24), b'.ft⟩
      let u := { h with staging := h.staging ++ [x] }
      (u.ready cls).length < 8 → exec (.shareDataReceive port link raw) s = .next (s.setBlock .T (b'.modHist (fun _ => u)))) ∧
    (s.hearsShare link raw 0x0501 f r b' → b'.holderLost cls = true ∨ (h.staging.any (fun x => x.cls == cls && x.origin == m && x.n == n) = false ∧
        stagingSize < h.staging.foldl (fun a y => a + y.len) 0 + fieldAt r 20 4) →
      exec (.shareDataReceive port link raw) s = .next (s.setBlock .T b')) ∧
    (s.hearsShare link raw 0x0502 f r b' →
      let is (x : Parity) : Bool := x.cls == cls && x.assembler == byteAt r 10 && x.number == n && x.j == byteAt r 9
      let p := h.parity.map (fun x => if is x then { x with pieces := sput (fun _ => []) x.pieces (fieldAt r 16 4) (r.drop 24) } else x)
      h.parity.any is = true → p.any (fun x => is x && decide (x.len ≤ piecesLen x.pieces)) = true →
      exec (.shareParityReceive port link raw) s = .next (s.setBlock .T ((b'.modHist (fun h => { h with parity := p })).sendHistory cls
        (byteAt r 10) 0x0503 (leBytes 1 cls ++ leBytes 1 me ++ leBytes 1 (byteAt r 10) ++ zeros 1 ++ leBytes 4 n)))) ∧
    (∀ x, s.hearsShare link raw 0x0503 f r b' →
      h.stripes.find? (fun x => x.cls == cls && x.number == n && byteAt r 10 == me) = some x → x.coded = false → m ∉ x.acks →
      (∀ j, 1 ≤ j → j < groupParity cls → (me + j) % groupSize cls ∈ x.acks ++ [m]) → exec (.shareAckReceive port link raw) s =
        .next (s.setBlock .T ((b'.modHist (fun h => { h with stripes := h.stripes.map (fun y => if y = x
          then { y with acks := x.acks ++ [m], coded := true } else y) })).forEach
            (x.members.filter (· != 0xFF) ++ ((List.range (groupParity cls)).drop 1).map (fun j => (me + j) % groupSize cls))
            (fun b c => b.sendHistory cls c 0x0504 (b'.stripeBody x))))) ∧
    (∀ i g, s.hearsShare link raw 0x0504 f r b' → indexOf? (· == me) ((List.range 8).map (fun i => byteAt r (16 + i))) 0 = some i →
      h.segs.find? (fun g => g.cls == cls && g.n == some (fieldAt r (24 + 4 * i) 4) && !g.coded && g.stripe.isNone) = some g →
      let cols := (List.range 8).map (fun i => byteAt r (16 + i))
      let known := b'.modHist (fun h => { h with parity := h.parity.map (fun x => if x.cls == cls && x.assembler == byteAt r 9 && x.number == n
        then { x with members := some (cols.filter (· != 0xFF)) } else x) })
      exec (.stripeReceive port link raw) s = .next (s.setBlock .T ((known.modSegment g.id (fun g => { g with
        stripe := some (byteAt r 9, n), columns := cols, ns := (List.range 8).map (fun i => fieldAt r (24 + 4 * i) 4), coded := true })).count
          Reg.HIS_SEG_CODED 1))) ∧
    (∀ x, s.hearsShare link raw 0x0505 f r b' → byteAt r 9 = 1 →
      h.parity.find? (fun x => x.cls == cls && x.assembler == byteAt r 10 && x.number == n) = some x → m ∉ x.released →
      let b1 := b'.modHist (fun h => { h with parity := h.parity.map (fun y => if y = x then { x with released := x.released ++ [m] } else y) })
      (b1.parityMembers x).all (fun c => decide (c ∈ x.released ++ [m])) = false →
      exec (.releaseReceive port link raw) s = .next (s.setBlock .T b1)) ∧
    (s.hearsShare link raw 0x0505 f r b' → byteAt r 9 = 2 → exec (.notCodedReceive port link raw) s =
      .next (s.setBlock .T (b'.modHist (fun h => { h with segs := h.segs.map (fun g =>
        if g.cls = cls ∧ g.stripe = some (byteAt r 10, n) then { g with stripe := none, columns := [], coded := false } else g) })))) ∧
    (∀ bs, s.hearsShare link raw 0x0506 f r b' → b'.columnBytes cls (byteAt r 10) n (byteAt r 11) = some bs →
      1 ≤ fieldAt r 20 4 → fieldAt r 20 4 ≤ 4000 → fieldAt r 16 4 + fieldAt r 20 4 ≤ bs.length → exec (.readReqReceive port link raw) s =
        .next (s.setBlock .T (b'.sendHistory cls m 0x0507 (readHead cls (byteAt r 9) (byteAt r 10) (byteAt r 11) n ++
          leBytes 4 (fieldAt r 16 4) ++ leBytes 4 (fieldAt r 20 4) ++ slice bs (fieldAt r 16 4) (fieldAt r 20 4))))) ∧
    (∀ x, s.hearsShare link raw 0x0507 f r b' → h.reads.find? (fun x => x.cls == cls && x.assembler == byteAt r 10 && x.number == n &&
        x.member == byteAt r 9 && decide (byteAt r 11 ∈ x.asked)) = some x →
      let x' := { x with got := sput (fun _ => []) x.got (byteAt r 11 * 2 ^ 32 + fieldAt r 16 4) (r.drop 24) }
      exec (.readRespReceive port link raw) s = .next (s.setBlock .T
        ((b'.modHist (fun h => { h with reads := h.reads.map (fun y => if y = x then x' else y) })).endRead x')))

/-- Events of history (R344, R352, R356, R357, R359, R361): a stripe whose oldest staged segment has waited HOLD closes; an uncorrected error in a
segment that is not coded loses its content; the heir of a member that has missed the LOSS periods in force (R216) declares it lost; a LOSS notice
marks a member of the own group; a rebuild ends; a rejoining with the same incarnation number waits for the member to be heard, one with a new
number is a replacement, whose rebuild ends with the member live. -/
def Obligations.HistoryEvents : Prop :=
  ∀ (s : State) (port : Fin 8) (link : Fin 64) (raw : Bytes) (f : Frame) (r : Bytes) (b' : Block) (cls : Fin 3) (m : Fin 16) (id : Nat)
    (g : Segment) (v : Word),
    s.running .T = true →
    let y := s.t
    let h := y.tray.history
    let p := y.peerOf cls m
    let key := 16 * cls.val + m.val
    let w := y.setReg Reg.HIS_GRP_CTL (v &&& 0xFFFF)
    let wc := w.fld Reg.HIS_GRP_SEL 5 4
    let wm := w.fld Reg.HIS_GRP_SEL 3 0
    ((h.ready cls).any (fun x => ftGe y.ft (ftAdd x.came y.ecHold)) = true → exec (.stripeHoldExpire cls) s =
      .next (s.setBlock .T (y.closeStripe cls))) ∧
    (h.segs.find? (fun g => g.id == id && !g.faulted) = some g → g.coded = false → exec (.memoryUe 0 id) s = .next (s.setBlock .T
      (((y.flag Reg.HIS_STS 1).modSegment g.id (fun g => { g with faulted := true })).count Reg.HIS_UE_LOST 1))) ∧
    (y.groupOn cls = true → m.val < groupSize cls → m.val ≠ y.groupIndex cls → p.phase ≠ 1 → y.periods.loss ≤ p.missed → y.stewardRuns 0 = true →
      y.heirOf cls m = y.groupIndex cls → exec (.memberLossDeclare cls m) s = .next (s.setBlock .T (y.declareLoss cls m))) ∧
    (s.hears .T link raw 0x0B01 f r b' → byteAt r 8 ≤ 2 → b'.groupOn (byteAt r 8) = true → byteAt r 9 < groupSize (byteAt r 8) →
      fieldAt r 12 2 = b'.fld (Reg.HIS_GRP + 4 * byteAt r 8) 15 0 → (b'.peerOf (byteAt r 8) (byteAt r 9)).phase ≠ 1 →
      exec (.lossReceive port link raw) s = .next (s.setBlock .T (b'.markLost (byteAt r 8) (byteAt r 9) (byteAt r 10)))) ∧
    (y.isSet Reg.HIS_CTL 1 = true → y.stewardRuns 0 = true → key ∈ h.heirOf → key ∉ h.rebuilt → y.rebuildOver key = true →
      exec (.rebuildDone cls m) s =
      .next (s.setBlock .T ((y.modHist (fun h => { h with rebuilt := h.rebuilt ++ [key] })).putBit Reg.HIS_STS 4 true))) ∧
    (v.getLsbD 31 = false → exec (.hisRejoinWrite v) s = .next (s.setBlock .T w)) ∧
    (v.getLsbD 31 = true → wc ≤ 2 → w.groupOn wc = true → wm < groupSize wc → wm ≠ w.groupIndex wc → (w.peerOf wc wm).phase = 1 →
      exec (.hisRejoinWrite v) s = .next (s.setBlock .T (w.modPeer wc wm (fun p =>
        if p.incarn = v.toNat % 2 ^ 16 then { p with rejoin := true } else { p with phase := 2, incarn := v.toNat % 2 ^ 16, missed := 0 })))) ∧
    (p.phase = 2 → ∃ t, exec (.replacementRebuildDone cls m) s = .next t ∧ t.t.peerOf cls m = { p with phase := 0 } ∧
      (∀ c n, 16 * c + n ≠ key → t.t.peerOf c n = y.peerOf c n) ∧ key ∉ t.t.tray.history.heirOf ∧ key ∉ t.t.tray.history.rebuilt ∧
      s.sameBlock t .D)

/-! ### Borlu-D: taps, regions, trace -/

/-- Words of a tap port (R79 to R84, R96): the head word of a port is dequeued, in the port order of R102: a STRETCH that is due for a region
below the port comes before it, one of the port's own region after it. On an enabled port a word in its row acts by its kind, one that
the state of its region or slot refuses, or that breaks its row, is discarded and counted in TAP_ERR; a disabled port discards. The second word
of a COMMAND_START opens the command with both words' fields, where neither word was discarded. An entry enters a queue of 16, or is lost. -/
def Obligations.TapWords : Prop :=
  ∀ (c : Instr) (s : State) (p : Fin 64) (kinds : List Nat) (w : TapWord) (rest : List TapWord) (first : TapWord) (word : BitVec 64)
    (pc : BitVec 48),
    s.running .D = true → s.d.power.phase < 2 →
    let was := s.d.tapPort p
    let before := s.d.endRuns (fun q => decide (q < p.val))
    let x := before.tapPort p
    let y := before.modPort p (fun x => { x with queue := rest })
    let after (b : Block) : Block := b.endRuns (fun q => q == p.val)
    let v := w.word
    let code := wordCode v
    let z := y.triggerSeen (2 * bit (y.eventMatch 0 (wordKind v) code)) (2 * bit (y.eventMatch 1 (wordKind v) code))
    let seen (b : Block) (discarded : Bool) : Block := b.traceEvent p v (some w.pc.toNat) w.stamp discarded
    let entry : TapWord := ⟨word, pc, s.d.arrivalStamp p, !s.d.time.valid⟩
    (tapRow c = some (p, kinds) → s.d.headKind p kinds = true → x.queue = w :: rest → x.first = none → wordKind v ∈ kinds →
      (y.portEnabled p = true →
        (wordForm p v = true → y.wordRefused p v = false → exec c s = .next (s.setBlock .D
          (after (seen (((z.modPort p (fun x => { x with latestPc := w.pc.toNat })).slipEvent p w).wordEffect p w) false)))) ∧
        (wordForm p v = true → y.wordRefused p v = true → exec c s =
          .next (s.setBlock .D (after (seen ((z.refuseWord p v).tapError) true)))) ∧
        (wordForm p v = false → exec c s = .next (s.setBlock .D (after (seen z.tapError true))))) ∧
      (y.portEnabled p = false →
        (wordForm p v = false → exec c s = .next (s.setBlock .D (after y.tapError))) ∧
        (wordForm p v = true → ¬ (wordKind v = 0 ∧ 0xF00 ≤ code ∧ code < 0xF30) → exec c s = .next (s.setBlock .D (after y))))) ∧
    (let taken := s.d.portWord p
     s.d.headKind p [1] = true → taken.asleep = false → (taken.tapPort p).first.isSome = true → exec (.tapCommandStart p) s =
      .next (s.setBlock .D (taken.portWord p))) ∧
    (was.first.isSome = true → x.queue = w :: rest → x.first = some (first, true) → y.portEnabled p = true →
      let z := y.secondWord p first true v
      exec (.tapCommandStart p) s = .next (s.setBlock .D (after z)) ∧
      (z.tapPort p).first = none ∧ (z.tapPort p).queue = rest ∧
      (z.tapPort p).cmd = { opened := true, tag := wordCmd first.word, layer := bitsOf v.toNat 63 48, operator := bitsOf v.toNat 47 32,
                            model := bitsOf v.toNat 31 12, request := bitsOf v.toNat 11 0, startFt := first.stamp,
                            startInvalid := first.invalid, startPc := first.pc.toNat }) ∧
    (∀ acts, was.first.isSome = true → x.queue = w :: rest → x.first = some (first, acts) → acts = false ∨ y.portEnabled p = false →
      exec (.tapCommandStart p) s = .next (s.setBlock .D (after (y.modPort p (fun x => { x with first := none }))))) ∧
    (s.d.settled = true → was.writeSecond = 0 → wordKind word ≠ 1 → was.queue.length < 16 → exec (.tapEntryWrite p word pc) s =
      .next (s.setBlock .D (s.d.tapPut p entry 0))) ∧
    (s.d.settled = true → was.writeSecond = 0 → wordKind word = 1 → was.queue.length < 15 → exec (.tapEntryWrite p word pc) s =
      .next (s.setBlock .D (s.d.tapPut p entry 1))) ∧
    (s.d.settled = true → was.writeSecond = 0 → wordKind word ≠ 1 → 16 ≤ was.queue.length → exec (.tapEntryWrite p word pc) s =
      .next (s.setBlock .D (s.d.tapLost p 1)))

/-- Region events, outside RETAIN and OFF where R451 says so: up to seven stretches count exactly (R59), where the sample stands before the words of
its cycle (log 40); a stop inserts STOP and a release RESUME with the operating point and the stopped span (R60); pairs are sampled once in 2^m
cycles (R62); an accepted CNT_CLR takes, after the words of its cycle (R102), the 64 counters of its group to zero and no other counter, one for a
group of an active context is refused (R105); TXN_CTL.ABORT, after the words of its cycle (R102), leaves no slot open (R100); a digest is sent or
counted as dropped (R298). -/
def Obligations.RegionEvents : Prop :=
  ∀ (s : State) (p : Fin 64) (gray opp : BitVec 4) (rise : BitVec 64) (v : Word) (c : Fin 8) (cmd : BitVec 22) (digest : BitVec 128),
    s.running .D = true →
    let y := s.d
    let done := y.endWords
    let n := (grayValue gray + 16 - grayValue (y.region p).gray) % 16
    let stamp := y.arrivalStamp p
    let bank := bitsOf v.toNat 30 28
    let group := bitsOf v.toNat 5 0
    let i := y.time.cycles / 2 ^ (y.fld Reg.TIM_PAIR_CTL 3 0 + 8)
    (y.asleep = false → 1 ≤ n → n ≤ 7 → exec (.regionStretch p gray) s = .next (s.setBlock .D (((((y.modRegion p (fun r => { r with gray := gray })).count
      (Reg.TIM_STR_CNT + 4 * p) n).lightAdd 52 n).modRegion p (fun r => { r with run := r.run + n, runCycle := y.time.cycles }))))) ∧
    (exec (.regionStopRise p) s = .next (s.setBlock .D (((y.modRegion p
      (fun r => { r with stopAt := some stamp })).modTraceRegion p (fun r => { r with stopped := true })).insertWord p (mkWord 8 p 0 0) stamp))) ∧
    ((y.region p).stopAt = some rise → exec (.regionStopFall p opp) s = .next (s.setBlock .D
      ((((y.modRegion p (fun r => { r with stopAt := none, anchored := false, opp := opp.toNat,
                                           resume := some (mkWord 9 p opp.toNat 0, stamp - rise) })).lightAdd 53
        ((stamp - rise).toNat / 1024)).traceResume p opp.toNat stamp).insertWord p (mkWord 9 p opp.toNat 0) stamp))) ∧
    (i ≠ y.die.pairCycle → exec .pairSample s =
      .next (s.setBlock .D { y.samplePairs with die := { y.samplePairs.die with pairCycle := i } })) ∧
    (v.getLsbD 31 = true → done.clearAllowed bank group = true → bank = 0 ∨ bank = 3 → ∃ t, exec (.cntClrWrite v) s = .next t ∧
      (∀ j, j < 64 → t.d.counter bank (64 * group + j) = {}) ∧
      (∀ b j, 4096 * b + j < 4096 * bank + 64 * group ∨ 4096 * bank + 64 * group + 64 ≤ 4096 * b + j → t.d.counter b j = done.counter b j) ∧
      t.d.regs = done.regs ∧ s.sameBlock t .T) ∧
    (v.getLsbD 31 = true → done.clearAllowed bank group = false → exec (.cntClrWrite v) s = .next (s.setBlock .D (done.flag Reg.CNT_STS 4))) ∧
    (exec .txnAbortAll s = .next (s.setBlock .D done.abortSlots) ∧ ∀ k, k < 8 → (done.abortSlots.slot k).opened = false) ∧
    (let b0 := y.lightAdd 56 1
     let cfg := Reg.WIT_DCH + 4 * c.val
     y.asleep = false → b0.isSet cfg 31 = false ∨ (b0.ctx (b0.fld cfg 26 24)).phase ≠ .active → exec (.witnessDigest c p cmd digest) s =
      .next (s.setBlock .D ((b0.count Reg.WIT_DDROP 1).flag Reg.WIT_DSTS 0))) ∧
    (let b0 := y.lightAdd 56 1
     let cfg := Reg.WIT_DCH + 4 * c.val
     let ctx := b0.fld cfg 26 24
     let b1 := b0.loadTick
     let t := b1.digestSample (b1.fld cfg 4 0)
     let u := b1.digestSample (b1.fld cfg 12 8)
     let m := b1.digestSample (b1.fld cfg 20 16)
     y.asleep = false → b0.isSet cfg 31 = true → (b0.ctx ctx).phase = .active → exec (.witnessDigest c p cmd digest) s =
      .next (s.setBlock .D ((b1.sendControl (some ctx) .tray 0x0301 (leBytes 4 (b1.ctx ctx).rank ++ leBytes 1 c ++ leBytes 1 p ++ zeros 2 ++
        leBytes 4 cmd.toNat ++ leBytes 8 stamp.toNat ++ leBytes 16 digest.toNat ++ leBytes 2 t.1 ++ leBytes 2 u.1 ++ leBytes 2 m.1 ++
        leBytes 1 (bit t.2 + bit u.2 * 2 + bit m.2 * 4 + bit b1.die.load.last.isNone * 8) ++ zeros 1 ++
        leBytes 4 (b1.die.load.last.getD 0)) none (!y.time.valid)).count Reg.WIT_DSENT 1)))

/-- Trace feeds (R106 to R112, R118): an entry enters a feed of 16 with its stamp, or is lost; the head entry of an enabled feed of a region
that is neither powered down nor suppressed is placed by its kind: a STEP updates A to the address after its run, a DIVERT to its target, a
LOAD or STORE that passes the filter updates D, DATA passes its filter, a MARK is compared with the trigger marks. -/
def Obligations.TraceFeeds : Prop :=
  ∀ (s : State) (p : Fin 64) (entry : BitVec 128) (e : FeedEntry) (rest : List FeedEntry),
    s.running .D = true →
    let r := s.d.traceRegion p
    let y := s.d.modTraceRegion p (fun r => { r with feed := rest })
    let ok : Prop := s.d.power.phase < 2 ∧ r.feed = e :: rest ∧ y.feedEnabled p = true ∧ r.down = false ∧
      s.d.die.trace.suppressed.getLsbD p = false
    let low := bitsOf e.payload 31 0
    let n := bitsOf e.payload 47 32
    let addr := bitsOf e.payload 47 0
    let tag := e.attr % 256
    (s.d.settled = true → s.d.power.phase < 2 → r.feed.length < 16 → exec (.feedEntryWrite p entry) s =
      .next (s.setBlock .D (s.d.modTraceRegion p (fun r => { r with feed := r.feed ++ [⟨entry, s.d.arrivalStamp p⟩] })))) ∧
    (s.d.settled = true → s.d.power.phase < 2 → 16 ≤ r.feed.length → exec (.feedEntryWrite p entry) s = .next (s.setBlock .D (s.d.feedLoss p))) ∧
    (ok → e.kind = 0 → e.attr = 0 → 1 ≤ n → bitsOf e.payload 63 48 = 0 → exec (.feedStep p) s =
      .next (s.setBlock .D (y.placeEntryOf p e.pc e.stamp (some low) true (fun dpc _ => pktHead 0x10 p ++ leBytes 2 dpc ++ leBytes 2 n)
        (fun r => { r with a := (low + n) % 2 ^ 32 })))) ∧
    (ok → e.kind = 1 → bitsOf e.payload 63 32 = 0 → exec (.feedDivert p) s =
      .next (s.setBlock .D (y.placeEntryOf p e.pc e.stamp none true (fun dpc _ => pktHead 0x11 p ++ leBytes 2 dpc ++ leBytes 2 e.attr ++
        leBytes 4 low) (fun r => { r with a := low })))) ∧
    (ok → e.kind = 2 → accessGood e = true → y.addressPasses addr = true → exec (.feedLoad p) s =
      .next (s.setBlock .D (y.placeEntryOf p e.pc e.stamp none true (fun dpc r => accessPacket 0x20 0x22 p tag addr dpc r)
        (fun r => { r with d := addr })))) ∧
    (ok → e.kind = 2 → accessGood e = true → y.addressPasses addr = false → exec (.feedLoad p) s = .next (s.setBlock .D (y.filtered p e.pc))) ∧
    (ok → e.kind = 3 → accessGood e = true → y.addressPasses addr = true → exec (.feedStore p) s =
      .next (s.setBlock .D (y.placeEntryOf p e.pc e.stamp none true (fun dpc r => accessPacket 0x21 0x23 p tag addr dpc r)
        (fun r => { r with d := addr })))) ∧
    (ok → e.kind = 4 → bitsOf e.attr 12 8 = 0 → y.isSet Reg.TRC_DF 31 = false → exec (.feedData p) s =
      .next (s.setBlock .D (y.placeEntryOf p e.pc e.stamp none true (fun dpc _ => pktHead 0x28 p ++ leBytes 1 tag ++ leBytes 2 dpc ++
        leBytes 8 e.payload) (fun r => r)))) ∧
    (ok → e.kind = 5 → e.attr = 0 → bitsOf e.payload 63 32 = 0 → exec (.feedMark p) s =
      .next (s.setBlock .D ((y.triggerSeen (4 * bit (low == y.fld Reg.TRC_TRG_MARK 31 0))
        (4 * bit (low == y.fld (Reg.TRC_TRG_MARK + 4) 31 0))).placeEntryOf p e.pc e.stamp none true
          (fun dpc _ => pktHead 0x30 p ++ leBytes 2 dpc ++ leBytes 4 low) (fun r => r)))) ∧
    (s.d.power.phase < 2 → r.feed = e :: rest → y.feedEnabled p = true → e.kind = 6 ∨ e.kind = 7 → exec (.feedStep p) s =
      .next (s.setBlock .D y.feedBad))

/-- The states of the trace unit (R115, R120, R121, R122, R124): TRC_CTL in OFF is stored and EN starts ARMED or RUN, in another state only
EN = 0 acts; the transitions of the trigger state machine; at most one in a cycle (R116); POST ends after its
count, unless a start with RESTART comes first; FLUSH and the age of a loaf end it; START and STOP are
sources; a secure level suppresses a region; a grant ends at its expiry. -/
def Obligations.TraceStates : Prop :=
  ∀ (s : State) (v : Word) (p : Fin 64) (level : Bool) (start stop : Nat) (l : TraceLoaf),
    s.running .D = true →
    let y := s.d
    let t := y.die.trace
    let stored := (y.writeFields Reg.TRC_CTL v).updateExclusions
    let armed := stored.setGates.modTrace (fun t => { t with starts := 0, stops := 0, pastStarts := 0, pastStops := 0 })
    (y.power.phase = 0 → t.phase = 0 → v.getLsbD 31 = false → exec (.trcCtlEnWrite v) s = .next (s.setBlock .D stored)) ∧
    (y.power.phase = 0 → t.phase = 0 → v.getLsbD 31 = true → v.getLsbD 28 = true → exec (.trcCtlEnWrite v) s =
      .next (s.setBlock .D (armed.tracePhase 1))) ∧
    (y.power.phase = 0 → t.phase = 0 → v.getLsbD 31 = true → v.getLsbD 28 = false → exec (.trcCtlEnWrite v) s =
      .next (s.setBlock .D ((armed.tracePhase 2).startLoaf false))) ∧
    (y.power.phase = 0 → t.phase ≠ 0 → v.getLsbD 31 = false → exec (.trcCtlEnWrite v) s =
      .next (s.setBlock .D (((y.setFld Reg.TRC_CTL 31 31 0).stopPlacing).tracePhase 0))) ∧
    (y.power.phase = 0 → t.phase ≠ 0 → v.getLsbD 31 = true → exec (.trcCtlEnWrite v) s = .next (s.setBlock .D (y.flag Reg.TRC_STS 6))) ∧
    (y.triggerBits = (start, stop) → y.traceMoved = false →
      (t.phase = 1 → start ≠ 0 → stop = 0 → exec .triggerTransition s =
        .next (s.setBlock .D (((y.tracePhase 2).startLoaf false).placeTrigger 1 2 start))) ∧
      (t.phase = 1 → start ≠ 0 → stop ≠ 0 → exec .triggerTransition s =
        .next (s.setBlock .D ((y.enterPost.startLoaf false).placeTrigger 1 3 (start ||| stop)))) ∧
      (t.phase = 2 → stop ≠ 0 → y.isSet Reg.TRC_CTL 28 = true → exec .triggerTransition s =
        .next (s.setBlock .D (y.enterPost.placeTrigger 2 3 stop))) ∧
      (t.phase = 3 → start ≠ 0 → y.isSet Reg.TRC_CTL 26 = true → exec .triggerTransition s =
        .next (s.setBlock .D ((y.tracePhase 2).placeTrigger 3 2 start))) ∧
      (t.phase = 4 → y.isSet Reg.TRC_CTL 27 = true → exec .triggerTransition s = .next (s.setBlock .D (y.tracePhase 1)))) ∧
    (y.traceMoved = true → exec .triggerTransition s = .next s) ∧
    (t.phase = 3 → y.traceMoved = false → t.postMark + y.fld Reg.TRC_TRG 31 16 * 1024 ≤ y.time.cycles →
      y.triggerBits.1 = 0 ∨ y.isSet Reg.TRC_CTL 26 = false → exec .postCountExpire s =
      .next (s.setBlock .D (((y.placeTrigger 3 4 0).stopPlacing.tracePhase 4).flag Reg.TRC_STS 0))) ∧
    (t.loaf = some l → exec .trcCmdFlush s = .next (s.setBlock .D ((y.endLoaf true false).startLoaf false))) ∧
    (t.loaf = none → exec .trcCmdFlush s = .next s) ∧
    (exec .trcCmdStart s = .next (s.setBlock .D (y.triggerSeen 8 0)) ∧ exec .trcCmdStop s = .next (s.setBlock .D (y.triggerSeen 0 8))) ∧
    (t.loaf = some l → y.fld Reg.TRC_FLUSH 15 0 ≠ 0 → ftGe y.ft (ftAdd l.startFt (y.fld Reg.TRC_FLUSH 15 0 * 16000)) = true →
      exec .loafAgeExpire s = .next (s.setBlock .D ((y.endLoaf true false).startLoaf false))) ∧
    (exec (.regionSecureChange p level) s = .next (s.setBlock .D ((y.modTrace (fun t =>
      { t with secure := if level then setB t.secure p else clearB t.secure p })).updateExclusion p))) ∧
    (exec .grantExpire s = .next (s.setBlock .D (y.dropGrants (fun g => ftGe y.ft g.expiry))))

/-- The flow of trace (R125, R127 to R131, R148, R149) and the trigger engine (R264, R265): a POWER packet for each low state
follows an emptied feed; drop mode
ends with a new loaf; a stall is asserted for the regions that can stall, denied without sched_debug, and released; an engine finishes its
oldest loaf, and loaves leave in sequence order; a tree-store word is written while the engine is off, EN is taken only where every enabled
ensemble is ready, and an evaluation comes once in 2^m cycles. -/
def Obligations.TraceFlow : Prop :=
  ∀ (s : State) (p : Fin 64) (engine : Fin 4) (level : Bool) (v : Word) (l : TraceLoaf) (rest : List TraceLoaf) (bytes : Bytes),
    s.running .D = true →
    let y := s.d
    let r := y.traceRegion p
    let d := y.drainStaging
    let t := d.die.trace
    let mask := d.tracedRegions.foldl (fun (m : BitVec 64) p => if t.suppressed.getLsbD p || (d.traceRegion p).down then m else setB m p) 0
    let stored := buildLoaf l.flags l.blk 0 l.seq l.rawOnly l.effort l.input
    let counted := (y.modTrace (fun t => { t with ended := t.ended.map (fun x =>
      if x.seq = l.seq then { x with stored := some stored } else x) })).countWide Reg.LOF_IN_LO l.input.length
    let a := y.fld Reg.ENS_TSTORE_ADDR 16 2
    let per := if 9 ≤ bitsOf v.toNat 3 0 then y.fld Reg.ENS_TRG_CTL 3 0 else bitsOf v.toNat 3 0
    let w := bitsOf v.toNat 10 8 * 2 ^ 8 + per
    let i := (y.time.cycles - y.die.trig.start) / 2 ^ (y.fld Reg.ENS_TRG_CTL 3 0 + 8)
    (r.powerWait ≠ [] → r.feed = [] → exec (.powerPacketPlace p) s =
      .next (s.setBlock .D ((y.forEach r.powerWait (fun b e => b.placePower p e.1 e.2)).modTraceRegion p
        (fun r => { r with down := true, powerWait := [] })))) ∧
    (t.dropping = true → t.staging = 0 → d.resumeBytes ≤ t.bufferFree → exec .dropModeEnd s =
      .next (s.setBlock .D ((d.modTrace (fun t => { t with dropping := false })).startLoaf true))) ∧
    (d.stallPermitted = true → t.stall = 0 → t.bufferFree < d.fld Reg.TRC_STALL 9 0 * 256 → t.schedDebug = false →
      exec .traceStallAssert s = .next (s.setBlock .D (d.flag Reg.TRC_STS 4))) ∧
    (d.stallPermitted = true → t.stall = 0 → t.bufferFree < d.fld Reg.TRC_STALL 9 0 * 256 → t.schedDebug = true →
      exec .traceStallAssert s = .next (s.setBlock .D (d.modTrace (fun t => { t with stall := mask, stallMark := d.time.cycles })))) ∧
    (t.stall ≠ 0 → d.stallOff ≤ t.bufferFree → exec .traceStallRelease s = .next (s.setBlock .D d.releaseStall)) ∧
    (level = true ∨ y.die.trace.stall = 0 → exec (.schedDebugFall level) s =
      .next (s.setBlock .D (y.modTrace (fun t => { t with schedDebug := level })))) ∧
    (y.die.trace.stall ≠ 0 → exec (.schedDebugFall false) s =
      .next (s.setBlock .D ((y.modTrace (fun t => { t with schedDebug := false })).releaseStall.flag Reg.TRC_STS 4))) ∧
    (y.asleep = false → y.die.trace.ended.find? (fun l => l.stored.isNone && l.seq % 4 == engine.val) = some l → exec (.loafCompressed engine) s =
      .next (s.setBlock .D (if loafIsRaw stored then (counted.count Reg.LOF_RAW 1).flag Reg.LOF_STS 1 else counted))) ∧
    (y.die.trace.ended = l :: rest → l.stored = some bytes → y.tracePortUp = true → y.portTime bytes = true → exec .loafDeparted s =
      .next (s.setBlock .D ((((d.sendSuper bytes).modTrace (fun t => { t with ended := rest, sent := t.sent ++ [bytes] })).count Reg.TRC_LOAVES 1).countWide
        Reg.LOF_OUT_LO bytes.length))) ∧
    (exec (.trcLinkUpChange level) s = .next (s.setBlock .D (y.modTrace (fun t => { t with linkUp := level, superCount := 0, wire := [] })))) ∧
    (y.trigOn = false → a % 512 ≠ 511 → exec (.ensTstoreDataWrite v) s =
      .next (s.setBlock .D (((y.modTrig (fun u => { u with store := sput (fun _ => (0 : Word)) u.store a v })).putTrigValid (a / 512)
        false).setFld Reg.ENS_TSTORE_ADDR 16 2 (a + 1)))) ∧
    (y.trigOn = true → exec (.ensTstoreDataWrite v) s = .next (s.setBlock .D (y.flag Reg.ENS_TRG_STS 3))) ∧
    (v.getLsbD 31 = false → exec (.ensTrgCtlWrite v) s = .next (s.setBlock .D (y.setReg Reg.ENS_TRG_CTL (BitVec.ofNat 32 w)))) ∧
    (v.getLsbD 31 = true → y.trigReady = false → exec (.ensTrgCtlWrite v) s = .next (s.setBlock .D (y.flag Reg.ENS_TRG_STS 3))) ∧
    (v.getLsbD 31 = true → y.trigReady = true → y.trigOn = false → exec (.ensTrgCtlWrite v) s =
      .next (s.setBlock .D ((y.setReg Reg.ENS_TRG_CTL (BitVec.ofNat 32 (w + 2 ^ 31))).modTrig (fun u =>
        { u with start := y.time.cycles, period := 0, evaluated := [], first := true, losses := [] })))) ∧
    (y.trigOn = true → y.power.phase = 0 → i ≠ y.die.trig.period → exec .triggerEval s =
      .next (s.setBlock .D (y.trigEval.modTrig (fun u => { u with period := i }))))

/-! ### Stewards, flash, recorder, presence, power, host, egress, network time -/

/-- Stewards (R442 to R450): the verifier ends a steward, which fails its boot where neither image passes; a reload ends a restart, with
FAILED_BOOT where the image does not pass; STW_CMD restarts each named steward that may restart; a fault or an expired watchdog of a
running steward is handled, a kick restarts its count; STW_DUMP_ACK empties the named dump buffers; a read of STW_DUMP_DATA gives the
selected word and advances WORD. -/
def Obligations.StewardEvents : Prop :=
  ∀ (s : State) (i : Fin 6) (cause : Fin 4) (core : Bytes) (v : Word),
    s.running .T = true →
    let y := s.t
    let x := y.steward i
    let w := y.fld Reg.STW_DUMP_SEL 11 0
    let dump := ((y.steward (y.fld Reg.STW_DUMP_SEL 18 16)).dump).getD []
    (x.phase = 1 → exec (.stewardVerifyDone i) s = .next (s.setBlock .T ((y.verifyDone i).cameBack i))) ∧
    (x.phase = 1 → y.imageCause (y.activeSlot i) i ≠ 0 → y.imageCause (1 - y.activeSlot i) i ≠ 0 →
      ((y.verifyDone i).steward i).phase = 5 ∧ ((y.verifyDone i).steward i).cause = y.imageCause (1 - y.activeSlot i) i) ∧
    (x.phase = 3 → exec (.stewardRestartDone i) s = .next (s.setBlock .T ((y.restartDone i).cameBack i))) ∧
    (x.phase = 3 → y.imageCause (y.activeSlot i) i ≠ 0 → ((y.restartDone i).steward i).phase = 5) ∧
    (exec (.stwCmdRestart v) s = .next (s.setBlock .T (y.forEach ((List.range 6).filter (fun i => v.getLsbD i))
      (fun b i => if b.mayRestart i then b.startRestart i true else b)))) ∧
    (y.stewardRuns i = true → exec (.stewardFault i cause core) s = .next (s.setBlock .T (y.stewardFault i (2 + cause) core))) ∧
    (y.stewardRuns i = true → x.wdogStart + max 1 (y.fld Reg.STW_CTL 15 0) * 400000 ≤ y.time.cycles → exec (.watchdogExpire i core) s =
      .next (s.setBlock .T (y.stewardFault i 1 core))) ∧
    (y.stewardRuns i = true → exec (.stwWdogWrite i) s =
      .next (s.setBlock .T (y.modSteward i (fun x => { x with wdogStart := y.time.cycles })))) ∧
    (∃ t, exec (.stwDumpAckWrite v) s = .next t ∧ (∀ k, k < 6 → v.getLsbD k = true → (t.t.steward k).dump = none) ∧
      (∀ k, 6 ≤ k ∨ v.getLsbD k = false → t.t.steward k = y.steward k) ∧ t.t.regs = y.regs ∧ s.sameBlock t .D) ∧
    (exec .stwDumpDataRead s = .next (s.setBlock .T
      { y.setFld Reg.STW_DUMP_SEL 11 0 (w + 1) with rdata := BitVec.ofNat 32 (fieldAt dump (4 * w) 4) }))

/-- The flash window and the recorder (R413, R415, R416, R419, R446, R450): an access of the buffer moves its position by 4; an erase, a program or
a read that is permitted runs, a program with the buffer as it stands, and takes effect when it is done, where a program whose bytes read back
otherwise shows a mismatch; one at an address that the window may not name is refused; a queued crumb is programmed into the log; an HOURS crumb is
due; a read of EVR_RD_DATA latches the eight words of the selected slot. -/
def Obligations.FlashAndRecorder : Prop :=
  ∀ (s : State) (b : Build) (v : Word) (c : Bytes) (cs : List Bytes),
    let y := s.t
    let w := y.tray.window
    let a := y.fld Reg.STW_FL_ADDR 31 8 * 256
    let z := y.modWindow (fun w => { w with pos := 0 })
    let data := sgetList bufByte w.buf 0 256
    let written := y.flashProgram w.addr w.data
    let ended (x : Block) : Block := (x.flag Reg.STW_FL_STS 1).modWindow (fun w => { w with op := 0, data := [] })
    let free : Prop := w.op = 0 ∧ y.flashClosed a = false ∧ y.activation = none ∧ y.stewardRuns 4 = true
    (s.running .T = true →
      (exec (.stwFlBufAccess false v) s = .next (s.setBlock .T (y.modWindow (fun w =>
        { w with buf := sputList bufByte w.buf w.pos (leBytes 4 v.toNat), pos := (w.pos + 4) % 256 })))) ∧
      (exec (.stwFlBufAccess true v) s = .next (s.setBlock .T
        { y.modWindow (fun w => { w with pos := (w.pos + 4) % 256 }) with rdata := BitVec.ofNat 32 (leNat (sgetList bufByte w.buf w.pos 4)) })) ∧
      (free → exec .flashErase s = .next (s.setBlock .T (z.modWindow (fun w => { w with op := 1, addr := a, data := [] })))) ∧
      (free → exec .flashProgram s = .next (s.setBlock .T (z.modWindow (fun w => { w with op := 2, addr := a, data := data })))) ∧
      (free → exec .flashRead s = .next (s.setBlock .T (z.modWindow (fun w => { w with op := 3, addr := a, data := [] })))) ∧
      (y.flashClosed a = true → exec .flashErase s = .next (s.setBlock .T (z.flag Reg.STW_FL_STS 2)) ∧
        exec .flashProgram s = .next (s.setBlock .T (z.flag Reg.STW_FL_STS 2)) ∧
        exec .flashRead s = .next (s.setBlock .T (z.flag Reg.STW_FL_STS 2))) ∧
      (w.op = 1 → y.stewardRuns 4 = true → exec .flashCmdDone s = .next (s.setBlock .T (ended (y.flashErase w.addr)))) ∧
      (w.op = 2 → y.stewardRuns 4 = true → written.flashRead w.addr 256 = w.data → exec .flashCmdDone s =
        .next (s.setBlock .T (ended written))) ∧
      (w.op = 2 → y.stewardRuns 4 = true → written.flashRead w.addr 256 ≠ w.data → exec .flashCmdDone s =
        .next (s.setBlock .T (ended (written.flag Reg.STW_FL_STS 3)))) ∧
      (w.op = 3 → y.stewardRuns 4 = true → exec .flashCmdDone s =
        .next (s.setBlock .T (ended (y.modWindow (fun x => { x with buf := sputList bufByte x.buf 0 (y.flashRead w.addr 256), pos := 0 }))))) ∧
      (y.logWrites = true → y.power.phase ≠ 3 → y.recorder.queue = c :: cs → exec .flashCrumbProgram s =
        .next (s.setBlock .T (((y.modRec (fun x => { x with queue := cs })).programCrumb c).logGap))) ∧
      (y.stewardRuns 4 = true → max 1 (y.fld Reg.EVR_CTL 15 8) ≤ (y.recorder.hours + 2 ^ 32 - y.recorder.hoursWritten) % 2 ^ 32 →
        exec .hoursCrumbDue s =
          .next (s.setBlock .T ((y.modRec (fun x => { x with hoursWritten := x.hours })).healthCrumb 0x1402 0 0 0)))) ∧
    (s.running b = true → ∃ t, exec (.evrRdDataRead b) s = .next t ∧
      (t.block b).rdata = BitVec.ofNat 32 (fieldAt (s.block b).selectedCrumb 0 4) ∧
      (∀ i, i < 8 → (t.block b).reg (Reg.EVR_RD_DATA + 4 * i) = BitVec.ofNat 32 (fieldAt (s.block b).selectedCrumb (4 * i) 4)) ∧
      s.sameBlock t b.other)

/-- Physical presence, power and sensors (R425 to R428, R452, R454): the seal latches on an opened loop once the reset scan has run; a press
opens the presence window of 120 s, reseals with the jumper fitted and the loop closed, or is refused; the window ends; a transition takes
place at its time; every channel is sampled, one whose two captures in a Borlu-D differ as a missing sample. The settle times of the three
inputs run from the levels at the pins (R424), and BUTTON_PRESS, JUMPER_CHANGE and SEAL_LOOP_OPEN give the level that has settled (log 70);
before the scan an opened loop is kept for it (R426). -/
def Obligations.PresenceAndPower : Prop :=
  ∀ (s : State) (b : Build) (fitted pressed : Bool) (v : Word) (n : Nat) (samples : Samples),
    let y := s.t
    let p := y.tray.presence
    let loop (x : Bool) := y.modPres (fun p => { p with loopIn := { p.loopIn with level := x } })
    let opened := (loop true).modPres (fun p => { p with loopOpen := true, firstOpen := p.firstOpen || !p.scanned })
    let button (x : Bool) := y.modPres (fun p => { p with buttonIn := { p.buttonIn with level := x } })
    let press := ((button true).modPres (fun p => { p with button := true })).count Reg.SEC_PRESSES 1
    let x := s.block b
    let z := x.presentSamples samples
    (s.running .T = true → y.power.phase ≠ 3 →
      (p.loopOpen = false → p.scanned = true → p.sealBroken = false → exec (.sealLoopOpen true) s = .next (s.setBlock .T opened.latchSeal)) ∧
      (p.loopOpen = false → p.scanned = false ∨ p.sealBroken = true → exec (.sealLoopOpen true) s = .next (s.setBlock .T opened)) ∧
      (p.loopOpen = true → exec (.sealLoopOpen false) s = .next (s.setBlock .T ((loop false).modPres (fun p => { p with loopOpen := false })))) ∧
      (p.loopOpen = fitted → exec (.sealLoopOpen fitted) s = .next (s.setBlock .T (loop fitted))) ∧
      (p.button = false → p.sealBroken = false → exec (.buttonPress true) s =
        .next (s.setBlock .T (press.modPres (fun p => { p with windowEnd := some (y.time.cycles + 48000000000) })))) ∧
      (p.button = false → p.sealBroken = true → p.jumper = true → p.loopOpen = false → press.logWrites = true →
        exec (.buttonPress true) s =
          .next (s.setBlock .T (((press.modPres (fun p => { p with sealBroken := false })).healthCrumb 0x1502 0 0 0).openWindow))) ∧
      (p.button = false → p.sealBroken = true → p.jumper = false ∨ p.loopOpen = true → exec (.buttonPress true) s =
        .next (s.setBlock .T (press.flag Reg.SEC_STS 8))) ∧
      (p.button = pressed → exec (.buttonPress pressed) s = .next (s.setBlock .T (button pressed))) ∧
      (p.button = true → exec (.buttonPress false) s = .next (s.setBlock .T ((button false).modPres (fun p => { p with button := false })))) ∧
      (exec (.jumperChange fitted) s = .next (s.setBlock .T (y.modPres (fun p => { p with jumper := fitted, jumperIn := { p.jumperIn with level := fitted } }))))) ∧
    (s.running .T = true → p.windowEnd.isSome = true → y.windowOpen = false → exec .presenceWindowExpire s =
      .next (s.setBlock .T (y.modPres (fun p => { p with windowEnd := none })))) ∧
    (s.running .T = true → v.getLsbD 0 = true → exec (.secCloseWrite v) s =
      .next (s.setBlock .T (y.modPres (fun p => { p with windowEnd := none })))) ∧
    (s.running b = true → x.power.target = some n → ftGe x.ft x.power.time = true → x.build = .D ∨ x.stewardRuns 4 = true → exec (.powerTransition b) s =
      .next (s.setBlock b (x.applyPower n))) ∧
    (s.running b = true → x.power.phase < 2 → exec (.sensorSample b samples) s =
      .next (s.setBlock b ((z.memoryErrors samples.errors).forEach (List.range 32) (fun x ch => x.sampleChannel ch (sampleTaken samples x ch)))))

/-- Rings, ownership and the link (R366 to R374, R377, R388, R391, R392): a doorbell of an enabled ring moves its position, one past the ring or
back is counted; the host steward takes descriptors; a free interface is claimed; release, function level reset, hot reset and link down end
ownership; a transfer times out; a ring is configured, enabled where its configuration is accepted, and disabled; held events and bundles
are written; a moderated message leaves. -/
def Obligations.HostInterface : Prop :=
  ∀ (s : State) (i : Fin 16) (v : Word) (d : Fin 37) (isRead level : Bool) (e : Fin 4) (u : Bundle) (places : List (Nat × Bytes)) (off : Nat)
    (m : Fin 17),
    s.running .T = true →
    let y := s.t
    let h := y.tray.host
    let r := h.cmdRing i
    let size := ringSize (y.fld (cmdReg Reg.HST_CMD_CFG i) 20 16)
    let n := v.toNat % 2 ^ 16
    let ev := h.evt
    let evSize := ringSize (y.fld Reg.HST_EVT_CFG 28 24)
    let mod := h.outRing (16 + m.val)
    let us := y.fld (ringCfg (16 + m.val)) 7 0
    let msg : EgItem := { dest := .host 0, bytes := [], whole := y.ft, msix := some (y.fld (ringCfg (16 + m.val)) 21 16) }
    (y.isSet (cmdReg Reg.HST_CMD_CFG i) 31 = true → n < size → (r.tail + size - r.head) % size ≤ (n + size - r.head) % size →
      exec (.commandDoorbell i v) s = .next (s.setBlock .T (y.modHost (fun h => h.modCmd i (fun r => { r with tail := n }))))) ∧
    (y.isSet (cmdReg Reg.HST_CMD_CFG i) 31 = false ∨ size ≤ n → exec (.commandDoorbell i v) s =
      .next (s.setBlock .T ((y.count Reg.HST_DB_ERR 1).flag Reg.HST_STS 1))) ∧
    (y.isSet Reg.HST_EVT_CFG 31 = true → n < evSize → (n + evSize - ev.head) % evSize ≤ (ev.tail + evSize - ev.head) % evSize →
      exec (.consumerDoorbell 16 v) s = .next (s.setBlock .T (y.modHost (fun h => { h with evt := { h.evt with head := n } })))) ∧
    (y.stewardRuns 5 = true → h.busMaster = true → exec .descriptorTake s =
      .next (s.setBlock .T (y.forEach (List.range 16) (fun b i => if b.yields i then b.takeFrom i else b)))) ∧
    (h.owner = 0 ∨ (h.owner = 2 ∧ h.claimLatch = h.ownerId) → exec .hstOwnClaim s =
      .next (s.setBlock .T (y.modHost (fun h => { h with owner := 1, ownerId := h.claimLatch, eseq := 0 })))) ∧
    (h.owner = 1 ∨ (h.owner = 2 ∧ h.claimLatch ≠ h.ownerId) → exec .hstOwnClaim s = .next (s.setBlock .T (y.flag Reg.HST_STS 3))) ∧
    (∀ c, c = .hstOwnRelease ∨ c = .pcieFlr ∨ c = .pcieHotReset ∨ c = .pcieLinkDown →
      (h.owner = 1 → exec c s = .next (s.setBlock .T (y.loseOwnership 0))) ∧
      (h.owner = 2 → exec c s = .next (s.setBlock .T (y.modHost (fun h => { h with owner := 0 })))) ∧ (h.owner = 0 → exec c s = .next s)) ∧
    (h.owner = 2 → h.transferEnd.toNat ≤ y.time.cycles → exec .transferTimeout s =
      .next (s.setBlock .T (y.modHost (fun h => { h with owner := 0 })))) ∧
    (y.ringOn d = false → v.getLsbD 31 = false → exec (.ringCfgWrite d v) s =
      .next (s.setBlock .T (y.setReg (ringCfg d) (y.cfgFields d v)))) ∧
    (y.ringOn d = false → v.getLsbD 31 = true → y.mayEnable d (v &&& cfgMask d) = true → exec (.ringCfgWrite d v) s =
      .next (s.setBlock .T ((y.setReg (ringCfg d) (setB (y.cfgFields d v) 31)).ringStarts d))) ∧
    (y.ringOn d = false → v.getLsbD 31 = true → y.mayEnable d (v &&& cfgMask d) = false → exec (.ringCfgWrite d v) s =
      .next (s.setBlock .T (y.flag Reg.HST_STS 2))) ∧
    (y.ringOn d = true → v.getLsbD 31 = false → d.val < 16 ∨ 32 ≤ d.val → exec (.ringCfgWrite d v) s =
      .next (s.setBlock .T (y.disableRing d))) ∧
    (exec (.barMalformedAccess isRead) s = .next (s.setBlock .T ((if isRead then { y with rdata := 0 } else y).flag Reg.HST_STS 0))) ∧
    (exec (.busMasterEnableChange level) s = .next (s.setBlock .T (y.modHost (fun h => h.setBusMaster level)))) ∧
    (y.eventOpen = true → h.alarmHold = [] → h.fifo = [] → 0 < h.lostEvents → exec .eventHoldDrain s =
      .next (s.setBlock .T ((y.modHost (fun h => { h with lostEvents := 0 })).writeEvent 65 3 0 0
        (leBytes 2 0x1201 ++ zeros 2 ++ leBytes 4 (satTo (2 ^ 32 - 1) h.lostEvents))))) ∧
    (y.exportOpen e = true → (h.expRing e).gaps = [] → (h.expRing e).hold = [u] → y.bundlePlaces e u = some (places, off) →
      exec (.exportHoldDrain e) s = .next (s.setBlock .T ((y.writeBundle e u places off).modExp e (fun x => { x with hold := [] })))) ∧
    (0 < mod.unsignalled → us ≠ 0 → ftGe y.ft (ftAdd mod.firstUnsignalled (us * 16000)) = true → exec (.msixModExpire m) s =
      .next (s.setBlock .T ((y.setPort 8 ((y.port 8).enqueue (if m.val = 16 then 65 else 66) msg)).modOut (16 + m.val)
        (fun r => { r with unsignalled := 0 }))))

/-- Egress (R27, R396 to R403): without a running grant the arbiter grants within the lowest tier that has an eligible requester; the last
beat of a frame ends it; FREEZE is stored; a write of a bucket's RATE, BURST or CFG marks the bucket, and the refill of the next cycle is the
reset of its tokens, in place of the refill, before a debit of that cycle (R402); an alarm slot carries up to two class 0 frames. -/
def Obligations.EgressPorts : Prop :=
  ∀ (s : State) (b : Build) (p : Fin 9) (v : Word) (r port : Nat) (g : Grant),
    let x := s.block b
    let y := x.port p
    let z := x.port port
    (s.running b = true → p.val < portCount x.build → y.grant = none → x.build = .T →
      (x.pickTier p 0 = some r → exec (.egressDecision b p) s = .next (s.setBlock b (x.grantTo p 0 r))) ∧
      (x.pickTier p 0 = none → x.pickTier p 1 = some r → exec (.egressDecision b p) s = .next (s.setBlock b (x.grantTo p 1 r))) ∧
      (x.pickTier p 0 = none → x.pickTier p 1 = none → x.pickTier p 2 = some r → exec (.egressDecision b p) s =
        .next (s.setBlock b (x.grantTo p 2 r))) ∧
      (x.pickTier p 0 = none → x.pickTier p 1 = none → x.pickTier p 2 = none → exec (.egressDecision b p) s = .next s)) ∧
    (s.running b = true → p.val < portCount x.build → y.grant = some g → exec (.frameLastBeat b p) s =
      .next (s.setBlock b (x.lastBeat p g))) ∧
    (s.running b = true → p.val < portCount x.build → exec (.egrFreezeWrite b p v) s =
      .next (s.setBlock b (x.setReg (Reg.EGR_PORT_CTL + 0x10 * p.val) (v &&& 1)))) ∧
    (s.running b = true → x.egrSel = some (port, r) →
      (exec (.egrBktReconfig b 0 v) s = .next (s.setBlock b (x.setPort port
        ({ z with rate := sput (fun _ => (0x100 : Word)) z.rate r (v &&& 0xFFFFFF) }.reconfigure r)))) ∧
      (exec (.egrBktReconfig b 1 v) s = .next (s.setBlock b (x.setPort port
        ({ z with burst := sput (fun _ => (0x1000 : Word)) z.burst r (v &&& 0xFFFFFF) }.reconfigure r)))) ∧
      (exec (.egrBktReconfig b 2 v) s = .next (s.setBlock b (x.setPort port
        ({ z with cfg := sput (fun _ => (0x80001000 : Word)) z.cfg r (v &&& 0x80FF7FFF) }.reconfigure r))))) ∧
    (s.running .D = true → exec .alarmSlotArrival s = .next (s.setBlock .D ((((s.d.measureSlot.modBeats (fun _ => [])).slotFrame).slotFrame).modBeats slotBeats)))

/-- Network time (R64 to R75): an event message is stamped on its way out and in, a read of PTP_TS_META takes the head record; a frame that is no
one-step Sync leaves as it is, a one-step Sync over Layer 2 leaves edited with its predicted stamp, and one that is held back waits; a launch is
queued or refused, and a head entry whose hand-over cycle has come enters the MAC; a received frame goes to the time or the host steward, one with
an error nowhere. -/
def Obligations.NetworkTime : Prop :=
  ∀ (s : State) (port : Fin 2) (phase : Fin 24) (frame : Bytes) (v : Word) (p : PtpPlace) (l : Launch) (rest : List Launch)
    (d : BitVec 64 × Nat),
    s.running .T = true →
    let y := s.t
    let record := y.stampRec port phase frame p true
    let q := y.selectedFifo
    let edited := y.syncEdit frame p (y.ft + y.txDelay port)
    let ahead : Predicted := ⟨byteAt frame (p.off + 4), netAt frame (p.off + 30) 2, some (y.ft + y.txDelay port)⟩
    let open' : Prop := y.ptpEnabled port = true ∧ y.heldBack port = false ∧ y.waitingFrames port = []
    let n := if bitsOf v.toNat 11 0 = 0 then 2048 else bitsOf v.toNat 11 0
    let time := BitVec.ofNat 64 (y.fld (ptpReg Reg.PTP_TLQ_TIME_LO port) 31 0 + y.fld (ptpReg Reg.PTP_TLQ_TIME_HI port) 31 0 * 2 ^ 32)
    let buf := bitsOf v.toNat 31 28
    let placed := y.placeBuf port buf frame
    let entry := placed.markDue port { buf := buf, time := time, frame := (placed.launchBuf port buf).take n }
    (ptpEvent frame = some p → y.ptpEnabled port = true → y.ptpActive port = true → oneStepSync frame p = false →
      exec (.ptpTxStamp port phase frame) s = .next (s.setBlock .T (y.pushStamp (2 * port.val + 1) record))) ∧
    (ptpEvent frame = some p → y.ptpEnabled port = true → y.ptpActive port = false → oneStepSync frame p = false →
      exec (.ptpTxStamp port phase frame) s =
        .next (s.setBlock .T ((y.flag Reg.PTP_STS port).pushStamp (2 * port.val + 1) record))) ∧
    (ptpEvent frame = some p → y.ptpEnabled port = true → exec (.ptpRxStamp port phase frame) s =
      .next (s.setBlock .T (y.pushStamp (2 * port.val) (y.stampRec port phase frame p false)))) ∧
    (open' → ptpEvent frame = none → exec (.onestepSyncEdit port frame) s =
      .next (s.setBlock .T (y.modPtp (fun q => { q with sent := q.sent ++ [(port.val, frame)] })))) ∧
    (open' → ptpEvent frame = some p → y.isSet Reg.PTP_CTL (4 + port.val) = true → oneStepSync frame p = true →
      p.transport = 0 → exec (.onestepSyncEdit port frame) s = .next (s.setBlock .T
        ((y.modPtp (fun q => { q with sent := q.sent ++ [(port.val, edited)] })).modPtp
          (fun q => { q with predicted := smodify (fun _ => []) q.predicted port (· ++ [ahead]) })))) ∧
    (y.ptpEnabled port = false ∨ y.heldBack port = true ∨ y.waitingFrames port ≠ [] → exec (.onestepSyncEdit port frame) s =
      .next (s.setBlock .T (y.setWaiting port (y.waitingFrames port ++ [frame])))) ∧
    (exec .ptpTsMetaRead s = .next (s.setBlock .T { y.modPtp (fun p => { p with
      fifo := sput (fun _ => []) p.fifo (y.fld Reg.PTP_TS_SEL 1 0) q.tail }) with rdata := stampMeta q })) ∧
    (64 ≤ n → n ≤ 2048 → y.launches port = [] → exec (.ptpTlqPush port v frame) s =
      .next (s.setBlock .T (placed.setLaunches port (placed.newHead [entry])))) ∧
    (n < 64 ∨ 2048 < n ∨ 16 ≤ (y.launches port).length → exec (.ptpTlqPush port v frame) s =
      .next (s.setBlock .T (placed.countF (ptpReg Reg.PTP_TLQ_STS port) 15 8 1))) ∧
    (y.launches port = l :: rest → l.due = some d → y.ptpEnabled port = true → l.late = false →
      ftDiff y.ft d.1 ≤ y.fld (ptpReg Reg.PTP_TLQ_TOL port) 15 0 → exec (.timedLaunch port) s =
        .next (s.setBlock .T ((y.setLaunches port (y.newHead rest)).toMac port l.frame))) ∧
    (∀ q, ptpPlace frame = some q → exec (.ethFrameReceive port frame false) s =
      .next (s.setBlock .T (y.modPtp (fun p => { p with toTime := p.toTime ++ [(port.val, frame)] })))) ∧
    (ptpPlace frame = none → exec (.ethFrameReceive port frame false) s =
      .next (s.setBlock .T (y.modPtp (fun p => { p with toHost := p.toHost ++ [(port.val, frame)] })))) ∧
    (exec (.ethFrameReceive port frame true) s = .next s)

/-! ### Registers -/

/-- R464: an offset that maps no register reads as zero without a side effect, and a write to it has no effect. Among those offsets are a
register of the other build and an array index beyond the build's count, such as FRM_CTX[8] to FRM_CTX[63] in Borlu-D. (BAR4, which the path
`msix` names, holds no registers. The state also notes which paths have made their access in the running cycle, for R467: log 33.) -/
def Obligations.UnmappedOffsets : Prop :=
  (∀ (s : State) (b : Build) (path : Path) (off : Nat) (v hw : Word), path ≠ .msix → s.running b = true → regRowAt (s.block b).build off = none →
    (∃ t, exec (.registerWrite b path off v hw) s = .next t ∧ s.sameBlock t b.other ∧
      t.block b = { s.block b with access := (t.block b).access }) ∧
    (∃ t, exec (.rcFieldRead b path off hw) s = .next t ∧ s.sameBlock t b.other ∧
      t.block b = { s.block b with access := (t.block b).access, rdata := 0 })) ∧
  (∀ i, 8 ≤ i → i < 64 → regRowAt .D (Reg.FRM_CTX + 4 * i) = none ∧ regRowAt .T (Reg.FRM_CTX + 4 * i) ≠ none) ∧
  regRowAt .D Reg.LSE_SEL = none ∧ regRowAt .T Reg.TRC_CTL = none

/-- A write of a register that no other path has written in the running cycle, and whose unit gives the write no action of its own (the loaf, frame
and kneader units), leaves its fields as their access kinds say, and every other register as it is (a write of LOF_CTL also reaches the later loaves
of running jobs, and one of LOF_ERR_INFO that clears VALID may leave a fault of its own cycle, R155); where the path that acts second in a cycle has
written it first, that path's value stays, and a read in the cycle of another path's write returns what stood before (R467; which accesses share a
cycle is log 33's choice); a flag that hardware sets in the cycle of the write stays set, and where the write clears it SDC is set (R6, R7). A read
returns the value from before the read and clears the RC fields but for what hardware adds in that cycle (R8); a read of a LO half latches the HI
half of the same cycle (R63). The local port writes nothing without its strap or under LOCAL_RO (R469). The place and the locks of Borlu-D (R469,
R470): a write of PLACE takes effect until LOCK is set and sets PLACED; LOCK and LOCAL_RO, once written, are set; no other register changes. Under
LOCK a write of PLACE changes nothing, and the lock undoes a write of PLACE of its own cycle. -/
def Obligations.RegisterAccess : Prop :=
  (∀ (s : State) (b : Build) (path : Path) (off : Nat) (v hw : Word), s.running b = true →
    let x := s.block b
    let y := x.beginAccess path
    let alone : Prop := y.access.writes.find? (fun w => w.2.1 == off) = none
    let noted (z : Block) : Block := { z with access := { z.access with writes := z.access.writes ++ [(path, off, y.view off, v)] } }
    let open' := (x.build = .D ∧ path = .tray) ∨ (x.build = .T ∧ (path = .host ∨ path = .steward))
    (∀ r, open' → regRowAt x.build off = some r → 7 ≤ unitOf off → unitOf off ≤ 9 → x.isStaged r off = false → alone →
      (off = Reg.LOF_CTL → ∃ t, exec (.registerWrite b path off v 0) s = .next t ∧ s.sameBlock t b.other ∧
        (t.block b).regs = (x.writeFields off v).regs) ∧
      (off = Reg.LOF_ERR_INFO → v.getLsbD 30 = false → exec (.registerWrite b path off v hw) s = .next (s.setBlock b (noted (y.writeFields off v)))) ∧
      (off ≠ Reg.LOF_CTL → off ≠ Reg.LOF_ERR_INFO → exec (.registerWrite b path off v 0) s = .next (s.setBlock b (noted (y.writeFields off v)))) ∧
      (∀ other, other ≠ off → (x.writeFields off v).reg other = x.reg other)) ∧
    (∀ r w, open' → regRowAt x.build off = some r → 8 ≤ unitOf off → unitOf off ≤ 9 → x.isStaged r off = false → storesField x.build off = true →
      actsSecond path = false → y.access.writes.find? (fun w => w.2.1 == off && actsSecond w.1) = some w →
      ∃ t, exec (.registerWrite b path off v 0) s = .next t ∧ s.sameBlock t b.other ∧
        (t.block b).regs = ((x.writeFields off v).writeFields off w.2.2.2).regs) ∧
    (∀ w, open' → (regRowAt x.build off).isSome = true → y.access.writes.find? (fun w => w.2.1 == off) = some w →
      ∃ t, exec (.rcFieldRead b path off hw) s = .next t ∧ s.sameBlock t b.other ∧ (t.block b).rdata = w.2.2.1) ∧
    (∀ r, open' → regRowAt x.build off = some r → 7 ≤ unitOf off → unitOf off ≤ 9 → x.isStaged r off = false → off ≠ Reg.LOF_ERR_INFO → alone →
      ∃ t, exec (.registerWrite b path off v hw) s = .next t ∧ s.sameBlock t b.other ∧
        (∀ other, other ≠ off → (t.block b).reg other = x.reg other) ∧
        (∀ i, (flagMask x.build off &&& hw).getLsbD i = true → (t.block b).isSet off i = true ∧
          (v.getLsbD i = true → (t.block b).isSet off (sdcBit off) = true))) ∧
    (∀ r, open' → regRowAt x.build off = some r → 7 ≤ unitOf off → unitOf off ≤ 9 → x.hiOf off = none → alone →
      exec (.rcFieldRead b path off hw) s = .next (s.setBlock b { y.clearFields off hw with rdata := y.view off })) ∧
    (∀ hi w, open' → (regRowAt x.build off).isSome = true → x.hiOf off = some (hi, w) → alone →
      exec (.loReadLatch b path off) s = .next (s.setBlock b { (y.clearFields off 0).setReg hi w with rdata := y.view off })) ∧
    (x.build = .D → x.strapLocal = false ∨ x.isSet Reg.ID_CTL 1 = true → exec (.registerWrite b .localPort off v 0) s = .next s)) ∧
  (∀ (s : State) (v da : Word) (placed : Bool), s.running .D = true → s.d.build = .D →
    let y := s.d.beginAccess .tray
    (s.d.isSet Reg.ID_CTL 0 = false → y.access.writes.find? (fun w => w.2.1 == Reg.ID_DA) = none →
      ∃ t, exec (.idDaPlaceWrite .tray v) s = .next t ∧ s.sameBlock t .T ∧
      t.d.fld Reg.ID_DA 31 13 = bitsOf v.toNat 31 13 ∧ t.d.isSet Reg.ID_CTL 2 = true ∧
      ∀ off, off ≠ Reg.ID_DA → off ≠ Reg.ID_CTL → t.d.reg off = s.d.reg off) ∧
    (s.d.isSet Reg.ID_CTL 0 = true → ∃ t, exec (.idDaPlaceWrite .tray v) s = .next t ∧ s.sameBlock t .T ∧
      t.d = { s.d with access := t.d.access }) ∧
    (y.access.place = some (da, placed) → ∃ t, exec (.idCtlLockWrite .tray) s = .next t ∧ s.sameBlock t .T ∧ t.d.reg Reg.ID_DA = da ∧
      t.d.isSet Reg.ID_CTL 2 = placed ∧ t.d.isSet Reg.ID_CTL 0 = true) ∧
    (y.access.place = none → ∃ t, exec (.idCtlLockWrite .tray) s = .next t ∧ s.sameBlock t .T ∧ t.d.reg Reg.ID_CTL = s.d.reg Reg.ID_CTL ||| 1 ∧
      ∀ off, off ≠ Reg.ID_CTL → t.d.reg off = s.d.reg off) ∧
    (∃ t, exec (.idCtlLocalRoWrite .tray) s = .next t ∧ s.sameBlock t .T ∧ t.d.reg Reg.ID_CTL = s.d.reg Reg.ID_CTL ||| 2 ∧
      ∀ off, off ≠ Reg.ID_CTL → t.d.reg off = s.d.reg off))

/-- Configuration transactions (R329, R330): a commit whose set was not poisoned, whose CFT is a common window boundary and lies at least 2 µs
ahead waits for CFT on a die; a set that was poisoned, or a CFT that is no boundary, discards it with its status; an abort discards everything; at
CFT a write of a loaf, frame or kneader register takes effect, SEQ advances, DONE is set, and the status reads 0. -/
def Obligations.ConfigTransactions : Prop :=
  ∀ (s : State) (b : Build), s.running b = true →
    let x := s.block b
    let empty : CfgTxn := { x.txn with staged := [], poisoned := false }
    (x.build = .D → x.txn.poisoned = false → x.cft.toNat % windowTicks (max 10 x.kMax) = 0 → (32000 : Int) ≤ ftDiff x.cft x.ft →
      exec (.plnTxnCommit b) s = .next (s.setBlock b { x with txn := { empty with pending := x.txn.pending ++ [(x.cft, x.txn.staged)] } })) ∧
    (x.build = .T → x.txn.poisoned = true → ∃ t, exec (.plnTxnCommit b) s = .next t ∧ s.sameBlock t b.other ∧
      (t.block b).txn = empty ∧ (t.block b).isSet Reg.PLN_TXN_STS 27 = true ∧ (t.block b).fld Reg.PLN_TXN_STS 23 16 = 0x09) ∧
    (x.build = .T → x.txn.poisoned = false → x.cft.toNat % windowTicks (max 10 x.kMax) ≠ 0 → ∃ t, exec (.plnTxnCommit b) s = .next t ∧
      s.sameBlock t b.other ∧ (t.block b).txn = empty ∧ (t.block b).isSet Reg.PLN_TXN_STS 27 = true ∧
      (t.block b).fld Reg.PLN_TXN_STS 23 16 = 0x0C) ∧
    exec (.plnTxnAbort b) s = .next (s.setBlock b { x with txn := { empty with pending := [] } }) ∧
    (∀ cft off v, x.build = .T → x.txn.pending.find? (fun c => ftGe x.ft c.1) = some (cft, [(off, v)]) → 7 ≤ unitOf off → unitOf off ≤ 9 →
      (off = Reg.LOF_ERR_INFO → v.getLsbD 30 = false) → (∀ w ∈ x.access.writes, w.1 ≠ .localPort) →
      ∃ t, exec (.cfgApply b) s = .next t ∧ s.sameBlock t b.other ∧ (t.block b).txn.pending = x.txn.pending.erase (cft, [(off, v)]) ∧
        (t.block b).reg off = x.fieldsAfter off v ∧ (t.block b).reg Reg.PLN_TXN_SEQ = x.reg Reg.PLN_TXN_SEQ + 1 ∧
        (t.block b).isSet Reg.PLN_TXN_STS 28 = true ∧ (t.block b).fld Reg.PLN_TXN_STS 23 16 = 0 ∧
        (∀ other, other ≠ off → other ≠ Reg.PLN_TXN_SEQ → other ≠ Reg.PLN_TXN_STS → (t.block b).reg other = x.reg other)) ∧
    ((∀ c ∈ x.txn.pending, ftGe x.ft c.1 = false) → exec (.cfgApply b) s = .next s)

/-! ### Data -/

/-- A match at distance `d` of a loaf's body (R140): it adds `n` bytes, in ascending order, and leaves the output before it; byte `j` of the copy
is the output byte at P − d + j, P being the length before the match, so that a copy with d below n overlaps its own output, and one with d = 1
repeats one byte n times. (The output is kept in reverse.) -/
def Obligations.MatchCopies : Prop :=
  ∀ (d n : Nat) (out : Bytes), 1 ≤ d → d ≤ out.length →
    let p := out.length
    let res := (copyMatch d n out.reverse).reverse
    res.length = p + n ∧ (∀ i, i < p → res[i]? = out[i]?) ∧ (∀ j, j < n → res[p + j]? = res[p - d + j]?) ∧
      (d = 1 → ∀ j, j < n → res[p + j]? = out[p - 1]?)

/-- A loaf that an encoder builds decodes to its input, under the sequence, stream and block size it was built with (R135 to R146): every input
that a loaf can hold, at every effort, whatever matches the encoder finds (log 14). -/
def Obligations.LoafRoundTrip : Prop :=
  ∀ (flags blk stream seq effort room : Nat) (rawOnly : Bool) (input : Bytes),
    flags < 16 → flags % 2 = 0 → blk ≤ 4 → stream < 2 ^ 16 → seq < 2 ^ 32 → 1 ≤ input.length → input.length ≤ blkSize blk →
    input.length ≤ room →
    decodeLoaf (buildLoaf flags blk stream seq rawOnly effort input) room =
      .ok { flags := flags + bit (storedBody rawOnly effort input).1, blk := blk, stream := stream, seq := seq,
            storedLen := (storedBody rawOnly effort input).2.length, out := input }

/-- The kneaders' sums and extremes (R177, R178) do not depend on the order or the grouping of their operands: SUM, MIN, MAX, ARGMIN and ARGMAX of
one output, with the sticky flags and the saturation of the sums. -/
def Obligations.SumsAndExtremesInAnyOrder : Prop :=
  ∀ a b c : Item, 1 ≤ a.op → a.op ≤ 5 → b.id = a.id → c.id = a.id → b.op = a.op → c.op = a.op → b.form = a.form → c.form = a.form →
    a.layoutGood = true → b.layoutGood = true → c.layoutGood = true → a.n + b.n + c.n < 2 ^ 32 →
    (mergeItems a b).1 = (mergeItems b a).1 ∧ (mergeItems (mergeItems a b).1 c).1 = (mergeItems a (mergeItems b c).1).1

/-- Host memory (R364, log 12): a write of bytes keeps the canonical form of the memory, reads back as written, and leaves every byte outside it.
Reset memory has that form. Addresses wrap at 2^64. -/
def Obligations.HostMemoryWrites : Prop :=
  sparseWf hostByte State.reset.t.tray.host.memory = true ∧
  ∀ (h : HostUnit) (addr : Nat) (bs : Bytes), sparseWf hostByte h.memory = true → bs.length ≤ 2 ^ 64 →
    sparseWf hostByte (h.write addr bs).memory = true ∧ (h.write addr bs).read addr bs.length = bs ∧
    ∀ other, (∀ i < bs.length, (addr + i) % 2 ^ 64 ≠ other % 2 ^ 64) → (h.write addr bs).read other 1 = h.read other 1

end
end

