-- ==== Sys2Proof/Laws/Sparse.lean ====
section
/-! SUPPORT. What a write of a sparse table reads as afterwards, and that it keeps the canonical form. -/

namespace Sys2Proof.Machine

variable {α : Type}

/-- An entry put before the first greater key is the one that its key finds, where the key stood nowhere. -/
theorem find_sinsert (k : Nat) (v : α) (m : Sparse α) (j : Nat) (h : m.find? (fun e => e.1 == k) = none) :
    (sinsert k v m).find? (fun e => e.1 == j) = if j = k then some (k, v) else m.find? (fun e => e.1 == j) := by
  induction m with
  | nil =>
    by_cases hj : j = k
    · simp [sinsert, hj]
    · simp [sinsert, hj, Ne.symm hj]
  | cons e m ih =>
    have hk : ¬ e.1 = k := fun he => by simp [he] at h
    have hm : m.find? (fun e => e.1 == k) = none := by simpa [hk] using h
    by_cases hj : j = k
    · subst hj
      by_cases hlt : j < e.1
      · simp [sinsert, hlt]
      · have := ih hm
        simp only [sinsert, if_neg hlt, List.find?_cons, beq_eq_false_iff_ne.mpr hk]
        simpa using this
    · by_cases hlt : k < e.1
      · simp [sinsert, hlt, hj, Ne.symm hj]
      · simp only [sinsert, if_neg hlt, List.find?_cons, if_neg hj]
        cases hb : (e.1 == j)
        · have := ih hm
          simpa [hj] using this
        · rfl

theorem find_filter_ne (m : Sparse α) (k j : Nat) :
    (m.filter (fun e => e.1 != k)).find? (fun e => e.1 == j) = if j = k then none else m.find? (fun e => e.1 == j) := by
  induction m with
  | nil => simp
  | cons e m ih =>
    by_cases he : e.1 = k
    · have hb : (e.1 != k) = false := by simp [he]
      rw [List.filter_cons, hb, if_neg (by simp), ih, List.find?_cons]
      by_cases hj : j = k
      · simp [hj]
      · have hkj : (k == j) = false := by simp [Ne.symm hj]
        simp [hj, he, hkj]
    · have hb : (e.1 != k) = true := by simp [he]
      rw [List.filter_cons, hb, if_pos rfl, List.find?_cons, List.find?_cons, ih]
      by_cases hj : j = k
      · subst hj
        have hej : (e.1 == j) = false := by simp [he]
        simp [hej]
      · simp [hj]

/-- An empty table reads as its default. -/
@[simp] theorem sget_nil (d : Nat → α) (k : Nat) : sget d [] k = d k := rfl

variable [DecidableEq α]

/-- A written entry reads as what was written. -/
@[simp] theorem sget_sput_same (d : Nat → α) (m : Sparse α) (k : Nat) (v : α) : sget d (sput d m k v) k = v := by
  have hn := find_filter_ne m k k
  rw [if_pos rfl] at hn
  by_cases hv : v = d k
  · simp only [sget, sput, if_pos hv, hn]
    exact hv.symm
  · simp only [sget, sput, if_neg hv, find_sinsert _ _ _ _ hn, if_pos]

/-- Every other entry reads as before. -/
@[simp] theorem sget_sput_other (d : Nat → α) (m : Sparse α) (k j : Nat) (v : α) (h : j ≠ k) : sget d (sput d m k v) j = sget d m j := by
  have hn := find_filter_ne m k k
  have ho := find_filter_ne m k j
  rw [if_pos rfl] at hn
  rw [if_neg h] at ho
  by_cases hv : v = d k
  · simp only [sget, sput, if_pos hv, ho]
  · simp only [sget, sput, if_neg hv, find_sinsert _ _ _ _ hn, if_neg h, ho]

/-- Both at once. -/
theorem sget_sput (d : Nat → α) (m : Sparse α) (k j : Nat) (v : α) : sget d (sput d m k v) j = if j = k then v else sget d m j := by
  by_cases h : j = k
  · simp [h]
  · simp [h]

@[simp] theorem sget_smodify_same (d : Nat → α) (m : Sparse α) (k : Nat) (f : α → α) : sget d (smodify d m k f) k = f (sget d m k) := by
  simp [smodify]

@[simp] theorem sget_smodify_other (d : Nat → α) (m : Sparse α) (k j : Nat) (f : α → α) (h : j ≠ k) :
    sget d (smodify d m k f) j = sget d m j := by
  simp [smodify, h]

/-! ### The canonical form -/

theorem sparseFrom_weaken (d : Nat → α) (m : Sparse α) (lo : Nat) (o : Option Nat) (h : sparseFrom d (some lo) m = true)
    (ho : ∀ l, o = some l → l ≤ lo) : sparseFrom d o m = true := by
  cases m with
  | nil => rfl
  | cons e m =>
    simp only [sparseFrom, Bool.and_eq_true, decide_eq_true_eq] at h ⊢
    refine ⟨⟨?_, h.1.2⟩, h.2⟩
    cases o with
    | none => rfl
    | some l => have := ho l rfl; simp; omega

theorem sparseFrom_filter (d : Nat → α) (p : Nat × α → Bool) (m : Sparse α) (o : Option Nat) (h : sparseFrom d o m = true) :
    sparseFrom d o (m.filter p) = true := by
  induction m generalizing o with
  | nil => rfl
  | cons e m ih =>
    simp only [sparseFrom, Bool.and_eq_true, decide_eq_true_eq] at h
    by_cases hp : p e = true
    · simp only [List.filter_cons, hp, if_true, sparseFrom, Bool.and_eq_true, decide_eq_true_eq]
      exact ⟨h.1, ih _ h.2⟩
    · simp only [List.filter_cons, hp]
      refine ih o (sparseFrom_weaken d m e.1 o h.2 ?_)
      intro l hl; subst hl; have := h.1.1; simp at this; omega

theorem sparseFrom_sinsert (d : Nat → α) (k : Nat) (v : α) (m : Sparse α) (o : Option Nat) (h : sparseFrom d o m = true) (hv : v ≠ d k)
    (ho : ∀ l, o = some l → l < k) (hk : ∀ e ∈ m, e.1 ≠ k) : sparseFrom d o (sinsert k v m) = true := by
  induction m generalizing o with
  | nil => cases o with
    | none => simp [sinsert, sparseFrom, hv]
    | some l => have := ho l rfl; simp [sinsert, sparseFrom, hv, this]
  | cons e m ih =>
    simp only [sparseFrom, Bool.and_eq_true, decide_eq_true_eq] at h
    by_cases hlt : k < e.1
    · simp only [sinsert, if_pos hlt, sparseFrom, Bool.and_eq_true, decide_eq_true_eq]
      refine ⟨⟨?_, hv⟩, ⟨hlt, h.1.2⟩, h.2⟩
      cases o with
      | none => rfl
      | some l => simp [ho l rfl]
    · simp only [sinsert, if_neg hlt, sparseFrom, Bool.and_eq_true, decide_eq_true_eq]
      refine ⟨h.1, ih (some e.1) h.2 ?_ (fun e' he' => hk e' (List.mem_cons_of_mem _ he'))⟩
      intro l hl; cases hl; have := hk e (List.mem_cons_self ..); omega

/-- A write keeps the canonical form. -/
theorem sparseWf_sput (d : Nat → α) (m : Sparse α) (k : Nat) (v : α) (h : sparseWf d m = true) : sparseWf d (sput d m k v) = true := by
  unfold sput
  by_cases hv : v = d k
  · simp only [hv, if_true]
    exact sparseFrom_filter d _ m none h
  · simp only [hv, if_false]
    refine sparseFrom_sinsert d k v _ none (sparseFrom_filter d _ m none h) hv (fun l hl => by cases hl) ?_
    intro e he; simpa using (List.mem_filter.mp he).2

/-- A change of an entry keeps the canonical form. -/
theorem sparseWf_smodify (d : Nat → α) (m : Sparse α) (k : Nat) (f : α → α) (h : sparseWf d m = true) :
    sparseWf d (smodify d m k f) = true := sparseWf_sput d m k _ h

/-- Writes of consecutive entries keep the canonical form. -/
theorem sparseWf_sputList (d : Nat → α) (vs : List α) (m : Sparse α) (k : Nat) (h : sparseWf d m = true) :
    sparseWf d (sputList d m k vs) = true := by
  induction vs generalizing m k with
  | nil => exact h
  | cons v vs ih => exact ih _ _ (sparseWf_sput d m k v h)

end Sys2Proof.Machine
end

