-- ==== Sys2Proof/Laws/State.lean ====
section
/-! SUPPORT. One lemma per field of the state and per update that the machine uses, so that no proof unfolds a record update: what each
update leaves of every other field, and what it makes of its own. -/

namespace Sys2Proof.Machine

/-! ### The machine -/

@[simp] theorem State.setBlock_dReset (s : State) (b : Build) (x : Block) : (s.setBlock b x).dReset = s.dReset := by cases b <;> rfl
@[simp] theorem State.setBlock_tReset (s : State) (b : Build) (x : Block) : (s.setBlock b x).tReset = s.tReset := by cases b <;> rfl
@[simp] theorem State.setBlock_tAligned (s : State) (b : Build) (x : Block) : (s.setBlock b x).tAligned = s.tAligned := by cases b <;> rfl
@[simp] theorem State.setBlock_trstLow (s : State) (b : Build) (x : Block) : (s.setBlock b x).trstLow = s.trstLow := by cases b <;> rfl
@[simp] theorem State.setBlock_pins (s : State) (b : Build) (x : Block) : (s.setBlock b x).pins = s.pins := by cases b <;> rfl
@[simp] theorem State.setBlock_pending (s : State) (b : Build) (x : Block) : (s.setBlock b x).pending = s.pending := by cases b <;> rfl
@[simp] theorem State.setBlock_block (s : State) (b : Build) (x : Block) : (s.setBlock b x).block b = x := by cases b <;> rfl
@[simp] theorem State.setBlock_block_other (s : State) (b c : Build) (x : Block) (h : b ≠ c) : (s.setBlock b x).block c = s.block c := by
  cases b <;> cases c <;> first | rfl | exact absurd rfl h
@[simp] theorem State.setBlock_running (s : State) (b c : Build) (x : Block) : (s.setBlock b x).running c = s.running c := by
  cases b <;> cases c <;> rfl
@[simp] theorem State.setBlock_twice (s : State) (b : Build) (x y : Block) : (s.setBlock b x).setBlock b y = s.setBlock b y := by
  cases b <;> rfl
@[simp] theorem State.setBlock_same (s : State) (b : Build) : s.setBlock b (s.block b) = s := by cases b <;> rfl
@[simp] theorem State.pending_block (s : State) (q : List Instr) (b : Build) : ({ s with pending := q } : State).block b = s.block b := by
  cases b <;> rfl
@[simp] theorem State.pending_running (s : State) (q : List Instr) (b : Build) : ({ s with pending := q } : State).running b = s.running b := by
  cases b <;> rfl

/-! ### setReg -/

@[simp] theorem Block.setReg_build (b : Block) (off : Nat) (v : Word) : (b.setReg off v).build = b.build := rfl
@[simp] theorem Block.setReg_strapSlot (b : Block) (off : Nat) (v : Word) : (b.setReg off v).strapSlot = b.strapSlot := rfl
@[simp] theorem Block.setReg_strapLocal (b : Block) (off : Nat) (v : Word) : (b.setReg off v).strapLocal = b.strapLocal := rfl
@[simp] theorem Block.setReg_strapPkg (b : Block) (off : Nat) (v : Word) : (b.setReg off v).strapPkg = b.strapPkg := rfl
@[simp] theorem Block.setReg_regs (b : Block) (off : Nat) (v : Word) : (b.setReg off v).regs = sput (regReset b.build) b.regs off v := rfl
@[simp] theorem Block.setReg_wide (b : Block) (off : Nat) (v : Word) : (b.setReg off v).wide = b.wide := rfl
@[simp] theorem Block.setReg_rdata (b : Block) (off : Nat) (v : Word) : (b.setReg off v).rdata = b.rdata := rfl
@[simp] theorem Block.setReg_access (b : Block) (off : Nat) (v : Word) : (b.setReg off v).access = b.access := rfl
@[simp] theorem Block.setReg_fresh (b : Block) (off : Nat) (v : Word) : (b.setReg off v).fresh = b.fresh := rfl
@[simp] theorem Block.setReg_time (b : Block) (off : Nat) (v : Word) : (b.setReg off v).time = b.time := rfl
@[simp] theorem Block.setReg_ctxs (b : Block) (off : Nat) (v : Word) : (b.setReg off v).ctxs = b.ctxs := rfl
@[simp] theorem Block.setReg_parts (b : Block) (off : Nat) (v : Word) : (b.setReg off v).parts = b.parts := rfl
@[simp] theorem Block.setReg_released (b : Block) (off : Nat) (v : Word) : (b.setReg off v).released = b.released := rfl
@[simp] theorem Block.setReg_blockDups (b : Block) (off : Nat) (v : Word) : (b.setReg off v).blockDups = b.blockDups := rfl
@[simp] theorem Block.setReg_prepDups (b : Block) (off : Nat) (v : Word) : (b.setReg off v).prepDups = b.prepDups := rfl
@[simp] theorem Block.setReg_blockSeq (b : Block) (off : Nat) (v : Word) : (b.setReg off v).blockSeq = b.blockSeq := rfl
@[simp] theorem Block.setReg_egress (b : Block) (off : Nat) (v : Word) : (b.setReg off v).egress = b.egress := rfl
@[simp] theorem Block.setReg_recorder (b : Block) (off : Nat) (v : Word) : (b.setReg off v).recorder = b.recorder := rfl
@[simp] theorem Block.setReg_txn (b : Block) (off : Nat) (v : Word) : (b.setReg off v).txn = b.txn := rfl
@[simp] theorem Block.setReg_power (b : Block) (off : Nat) (v : Word) : (b.setReg off v).power = b.power := rfl
@[simp] theorem Block.setReg_switchMark (b : Block) (off : Nat) (v : Word) : (b.setReg off v).switchMark = b.switchMark := rfl
@[simp] theorem Block.setReg_periods (b : Block) (off : Nat) (v : Word) : (b.setReg off v).periods = b.periods := rfl
@[simp] theorem Block.setReg_die (b : Block) (off : Nat) (v : Word) : (b.setReg off v).die = b.die := rfl
@[simp] theorem Block.setReg_tray (b : Block) (off : Nat) (v : Word) : (b.setReg off v).tray = b.tray := rfl

/-! ### setFld -/

@[simp] theorem Block.setFld_build (b : Block) (off hi lo v : Nat) : (b.setFld off hi lo v).build = b.build := rfl
@[simp] theorem Block.setFld_strapSlot (b : Block) (off hi lo v : Nat) : (b.setFld off hi lo v).strapSlot = b.strapSlot := rfl
@[simp] theorem Block.setFld_strapLocal (b : Block) (off hi lo v : Nat) : (b.setFld off hi lo v).strapLocal = b.strapLocal := rfl
@[simp] theorem Block.setFld_strapPkg (b : Block) (off hi lo v : Nat) : (b.setFld off hi lo v).strapPkg = b.strapPkg := rfl
@[simp] theorem Block.setFld_wide (b : Block) (off hi lo v : Nat) : (b.setFld off hi lo v).wide = b.wide := rfl
@[simp] theorem Block.setFld_rdata (b : Block) (off hi lo v : Nat) : (b.setFld off hi lo v).rdata = b.rdata := rfl
@[simp] theorem Block.setFld_access (b : Block) (off hi lo v : Nat) : (b.setFld off hi lo v).access = b.access := rfl
@[simp] theorem Block.setFld_fresh (b : Block) (off hi lo v : Nat) : (b.setFld off hi lo v).fresh = b.fresh := rfl
@[simp] theorem Block.setFld_time (b : Block) (off hi lo v : Nat) : (b.setFld off hi lo v).time = b.time := rfl
@[simp] theorem Block.setFld_ctxs (b : Block) (off hi lo v : Nat) : (b.setFld off hi lo v).ctxs = b.ctxs := rfl
@[simp] theorem Block.setFld_parts (b : Block) (off hi lo v : Nat) : (b.setFld off hi lo v).parts = b.parts := rfl
@[simp] theorem Block.setFld_released (b : Block) (off hi lo v : Nat) : (b.setFld off hi lo v).released = b.released := rfl
@[simp] theorem Block.setFld_blockDups (b : Block) (off hi lo v : Nat) : (b.setFld off hi lo v).blockDups = b.blockDups := rfl
@[simp] theorem Block.setFld_prepDups (b : Block) (off hi lo v : Nat) : (b.setFld off hi lo v).prepDups = b.prepDups := rfl
@[simp] theorem Block.setFld_blockSeq (b : Block) (off hi lo v : Nat) : (b.setFld off hi lo v).blockSeq = b.blockSeq := rfl
@[simp] theorem Block.setFld_egress (b : Block) (off hi lo v : Nat) : (b.setFld off hi lo v).egress = b.egress := rfl
@[simp] theorem Block.setFld_recorder (b : Block) (off hi lo v : Nat) : (b.setFld off hi lo v).recorder = b.recorder := rfl
@[simp] theorem Block.setFld_txn (b : Block) (off hi lo v : Nat) : (b.setFld off hi lo v).txn = b.txn := rfl
@[simp] theorem Block.setFld_power (b : Block) (off hi lo v : Nat) : (b.setFld off hi lo v).power = b.power := rfl
@[simp] theorem Block.setFld_switchMark (b : Block) (off hi lo v : Nat) : (b.setFld off hi lo v).switchMark = b.switchMark := rfl
@[simp] theorem Block.setFld_periods (b : Block) (off hi lo v : Nat) : (b.setFld off hi lo v).periods = b.periods := rfl
@[simp] theorem Block.setFld_die (b : Block) (off hi lo v : Nat) : (b.setFld off hi lo v).die = b.die := rfl
@[simp] theorem Block.setFld_tray (b : Block) (off hi lo v : Nat) : (b.setFld off hi lo v).tray = b.tray := rfl

/-! ### flag -/

@[simp] theorem Block.flag_build (b : Block) (off i : Nat) : (b.flag off i).build = b.build := rfl
@[simp] theorem Block.flag_strapSlot (b : Block) (off i : Nat) : (b.flag off i).strapSlot = b.strapSlot := rfl
@[simp] theorem Block.flag_strapLocal (b : Block) (off i : Nat) : (b.flag off i).strapLocal = b.strapLocal := rfl
@[simp] theorem Block.flag_strapPkg (b : Block) (off i : Nat) : (b.flag off i).strapPkg = b.strapPkg := rfl
@[simp] theorem Block.flag_wide (b : Block) (off i : Nat) : (b.flag off i).wide = b.wide := rfl
@[simp] theorem Block.flag_rdata (b : Block) (off i : Nat) : (b.flag off i).rdata = b.rdata := rfl
@[simp] theorem Block.flag_access (b : Block) (off i : Nat) : (b.flag off i).access = b.access := rfl
@[simp] theorem Block.flag_fresh (b : Block) (off i : Nat) : (b.flag off i).fresh = b.fresh := rfl
@[simp] theorem Block.flag_time (b : Block) (off i : Nat) : (b.flag off i).time = b.time := rfl
@[simp] theorem Block.flag_ctxs (b : Block) (off i : Nat) : (b.flag off i).ctxs = b.ctxs := rfl
@[simp] theorem Block.flag_parts (b : Block) (off i : Nat) : (b.flag off i).parts = b.parts := rfl
@[simp] theorem Block.flag_released (b : Block) (off i : Nat) : (b.flag off i).released = b.released := rfl
@[simp] theorem Block.flag_blockDups (b : Block) (off i : Nat) : (b.flag off i).blockDups = b.blockDups := rfl
@[simp] theorem Block.flag_prepDups (b : Block) (off i : Nat) : (b.flag off i).prepDups = b.prepDups := rfl
@[simp] theorem Block.flag_blockSeq (b : Block) (off i : Nat) : (b.flag off i).blockSeq = b.blockSeq := rfl
@[simp] theorem Block.flag_egress (b : Block) (off i : Nat) : (b.flag off i).egress = b.egress := rfl
@[simp] theorem Block.flag_recorder (b : Block) (off i : Nat) : (b.flag off i).recorder = b.recorder := rfl
@[simp] theorem Block.flag_txn (b : Block) (off i : Nat) : (b.flag off i).txn = b.txn := rfl
@[simp] theorem Block.flag_power (b : Block) (off i : Nat) : (b.flag off i).power = b.power := rfl
@[simp] theorem Block.flag_switchMark (b : Block) (off i : Nat) : (b.flag off i).switchMark = b.switchMark := rfl
@[simp] theorem Block.flag_periods (b : Block) (off i : Nat) : (b.flag off i).periods = b.periods := rfl
@[simp] theorem Block.flag_die (b : Block) (off i : Nat) : (b.flag off i).die = b.die := rfl
@[simp] theorem Block.flag_tray (b : Block) (off i : Nat) : (b.flag off i).tray = b.tray := rfl

/-! ### putBit -/

@[simp] theorem Block.putBit_build (b : Block) (off i : Nat) (v : Bool) : (b.putBit off i v).build = b.build := rfl
@[simp] theorem Block.putBit_strapSlot (b : Block) (off i : Nat) (v : Bool) : (b.putBit off i v).strapSlot = b.strapSlot := rfl
@[simp] theorem Block.putBit_strapLocal (b : Block) (off i : Nat) (v : Bool) : (b.putBit off i v).strapLocal = b.strapLocal := rfl
@[simp] theorem Block.putBit_strapPkg (b : Block) (off i : Nat) (v : Bool) : (b.putBit off i v).strapPkg = b.strapPkg := rfl
@[simp] theorem Block.putBit_wide (b : Block) (off i : Nat) (v : Bool) : (b.putBit off i v).wide = b.wide := rfl
@[simp] theorem Block.putBit_rdata (b : Block) (off i : Nat) (v : Bool) : (b.putBit off i v).rdata = b.rdata := rfl
@[simp] theorem Block.putBit_access (b : Block) (off i : Nat) (v : Bool) : (b.putBit off i v).access = b.access := rfl
@[simp] theorem Block.putBit_fresh (b : Block) (off i : Nat) (v : Bool) : (b.putBit off i v).fresh = b.fresh := rfl
@[simp] theorem Block.putBit_time (b : Block) (off i : Nat) (v : Bool) : (b.putBit off i v).time = b.time := rfl
@[simp] theorem Block.putBit_ctxs (b : Block) (off i : Nat) (v : Bool) : (b.putBit off i v).ctxs = b.ctxs := rfl
@[simp] theorem Block.putBit_parts (b : Block) (off i : Nat) (v : Bool) : (b.putBit off i v).parts = b.parts := rfl
@[simp] theorem Block.putBit_released (b : Block) (off i : Nat) (v : Bool) : (b.putBit off i v).released = b.released := rfl
@[simp] theorem Block.putBit_blockDups (b : Block) (off i : Nat) (v : Bool) : (b.putBit off i v).blockDups = b.blockDups := rfl
@[simp] theorem Block.putBit_prepDups (b : Block) (off i : Nat) (v : Bool) : (b.putBit off i v).prepDups = b.prepDups := rfl
@[simp] theorem Block.putBit_blockSeq (b : Block) (off i : Nat) (v : Bool) : (b.putBit off i v).blockSeq = b.blockSeq := rfl
@[simp] theorem Block.putBit_egress (b : Block) (off i : Nat) (v : Bool) : (b.putBit off i v).egress = b.egress := rfl
@[simp] theorem Block.putBit_recorder (b : Block) (off i : Nat) (v : Bool) : (b.putBit off i v).recorder = b.recorder := rfl
@[simp] theorem Block.putBit_txn (b : Block) (off i : Nat) (v : Bool) : (b.putBit off i v).txn = b.txn := rfl
@[simp] theorem Block.putBit_power (b : Block) (off i : Nat) (v : Bool) : (b.putBit off i v).power = b.power := rfl
@[simp] theorem Block.putBit_switchMark (b : Block) (off i : Nat) (v : Bool) : (b.putBit off i v).switchMark = b.switchMark := rfl
@[simp] theorem Block.putBit_periods (b : Block) (off i : Nat) (v : Bool) : (b.putBit off i v).periods = b.periods := rfl
@[simp] theorem Block.putBit_die (b : Block) (off i : Nat) (v : Bool) : (b.putBit off i v).die = b.die := rfl
@[simp] theorem Block.putBit_tray (b : Block) (off i : Nat) (v : Bool) : (b.putBit off i v).tray = b.tray := rfl

/-! ### count -/

@[simp] theorem Block.count_build (b : Block) (off n : Nat) : (b.count off n).build = b.build := by unfold Block.count Block.countF; split <;> rfl
@[simp] theorem Block.count_strapSlot (b : Block) (off n : Nat) : (b.count off n).strapSlot = b.strapSlot := by unfold Block.count Block.countF; split <;> rfl
@[simp] theorem Block.count_strapLocal (b : Block) (off n : Nat) : (b.count off n).strapLocal = b.strapLocal := by unfold Block.count Block.countF; split <;> rfl
@[simp] theorem Block.count_strapPkg (b : Block) (off n : Nat) : (b.count off n).strapPkg = b.strapPkg := by unfold Block.count Block.countF; split <;> rfl
@[simp] theorem Block.count_wide (b : Block) (off n : Nat) : (b.count off n).wide = b.wide := by unfold Block.count Block.countF; split <;> rfl
@[simp] theorem Block.count_rdata (b : Block) (off n : Nat) : (b.count off n).rdata = b.rdata := by unfold Block.count Block.countF; split <;> rfl
@[simp] theorem Block.count_access (b : Block) (off n : Nat) : (b.count off n).access = b.access := by unfold Block.count Block.countF; split <;> rfl
@[simp] theorem Block.count_fresh (b : Block) (off n : Nat) : (b.count off n).fresh = b.fresh := by unfold Block.count Block.countF; split <;> rfl
@[simp] theorem Block.count_time (b : Block) (off n : Nat) : (b.count off n).time = b.time := by unfold Block.count Block.countF; split <;> rfl
@[simp] theorem Block.count_ctxs (b : Block) (off n : Nat) : (b.count off n).ctxs = b.ctxs := by unfold Block.count Block.countF; split <;> rfl
@[simp] theorem Block.count_parts (b : Block) (off n : Nat) : (b.count off n).parts = b.parts := by unfold Block.count Block.countF; split <;> rfl
@[simp] theorem Block.count_released (b : Block) (off n : Nat) : (b.count off n).released = b.released := by unfold Block.count Block.countF; split <;> rfl
@[simp] theorem Block.count_blockDups (b : Block) (off n : Nat) : (b.count off n).blockDups = b.blockDups := by unfold Block.count Block.countF; split <;> rfl
@[simp] theorem Block.count_prepDups (b : Block) (off n : Nat) : (b.count off n).prepDups = b.prepDups := by unfold Block.count Block.countF; split <;> rfl
@[simp] theorem Block.count_blockSeq (b : Block) (off n : Nat) : (b.count off n).blockSeq = b.blockSeq := by unfold Block.count Block.countF; split <;> rfl
@[simp] theorem Block.count_egress (b : Block) (off n : Nat) : (b.count off n).egress = b.egress := by unfold Block.count Block.countF; split <;> rfl
@[simp] theorem Block.count_recorder (b : Block) (off n : Nat) : (b.count off n).recorder = b.recorder := by unfold Block.count Block.countF; split <;> rfl
@[simp] theorem Block.count_txn (b : Block) (off n : Nat) : (b.count off n).txn = b.txn := by unfold Block.count Block.countF; split <;> rfl
@[simp] theorem Block.count_power (b : Block) (off n : Nat) : (b.count off n).power = b.power := by unfold Block.count Block.countF; split <;> rfl
@[simp] theorem Block.count_switchMark (b : Block) (off n : Nat) : (b.count off n).switchMark = b.switchMark := by unfold Block.count Block.countF; split <;> rfl
@[simp] theorem Block.count_periods (b : Block) (off n : Nat) : (b.count off n).periods = b.periods := by unfold Block.count Block.countF; split <;> rfl
@[simp] theorem Block.count_die (b : Block) (off n : Nat) : (b.count off n).die = b.die := by unfold Block.count Block.countF; split <;> rfl
@[simp] theorem Block.count_tray (b : Block) (off n : Nat) : (b.count off n).tray = b.tray := by unfold Block.count Block.countF; split <;> rfl

/-! ### writeFields -/

@[simp] theorem Block.writeFields_build (b : Block) (off : Nat) (v : Word) : (b.writeFields off v).build = b.build := rfl
@[simp] theorem Block.writeFields_strapSlot (b : Block) (off : Nat) (v : Word) : (b.writeFields off v).strapSlot = b.strapSlot := rfl
@[simp] theorem Block.writeFields_strapLocal (b : Block) (off : Nat) (v : Word) : (b.writeFields off v).strapLocal = b.strapLocal := rfl
@[simp] theorem Block.writeFields_strapPkg (b : Block) (off : Nat) (v : Word) : (b.writeFields off v).strapPkg = b.strapPkg := rfl
@[simp] theorem Block.writeFields_wide (b : Block) (off : Nat) (v : Word) : (b.writeFields off v).wide = b.wide := rfl
@[simp] theorem Block.writeFields_rdata (b : Block) (off : Nat) (v : Word) : (b.writeFields off v).rdata = b.rdata := rfl
@[simp] theorem Block.writeFields_access (b : Block) (off : Nat) (v : Word) : (b.writeFields off v).access = b.access := rfl
@[simp] theorem Block.writeFields_fresh (b : Block) (off : Nat) (v : Word) : (b.writeFields off v).fresh = b.fresh := rfl
@[simp] theorem Block.writeFields_time (b : Block) (off : Nat) (v : Word) : (b.writeFields off v).time = b.time := rfl
@[simp] theorem Block.writeFields_ctxs (b : Block) (off : Nat) (v : Word) : (b.writeFields off v).ctxs = b.ctxs := rfl
@[simp] theorem Block.writeFields_parts (b : Block) (off : Nat) (v : Word) : (b.writeFields off v).parts = b.parts := rfl
@[simp] theorem Block.writeFields_released (b : Block) (off : Nat) (v : Word) : (b.writeFields off v).released = b.released := rfl
@[simp] theorem Block.writeFields_blockDups (b : Block) (off : Nat) (v : Word) : (b.writeFields off v).blockDups = b.blockDups := rfl
@[simp] theorem Block.writeFields_prepDups (b : Block) (off : Nat) (v : Word) : (b.writeFields off v).prepDups = b.prepDups := rfl
@[simp] theorem Block.writeFields_blockSeq (b : Block) (off : Nat) (v : Word) : (b.writeFields off v).blockSeq = b.blockSeq := rfl
@[simp] theorem Block.writeFields_egress (b : Block) (off : Nat) (v : Word) : (b.writeFields off v).egress = b.egress := rfl
@[simp] theorem Block.writeFields_recorder (b : Block) (off : Nat) (v : Word) : (b.writeFields off v).recorder = b.recorder := rfl
@[simp] theorem Block.writeFields_txn (b : Block) (off : Nat) (v : Word) : (b.writeFields off v).txn = b.txn := rfl
@[simp] theorem Block.writeFields_power (b : Block) (off : Nat) (v : Word) : (b.writeFields off v).power = b.power := rfl
@[simp] theorem Block.writeFields_switchMark (b : Block) (off : Nat) (v : Word) : (b.writeFields off v).switchMark = b.switchMark := rfl
@[simp] theorem Block.writeFields_periods (b : Block) (off : Nat) (v : Word) : (b.writeFields off v).periods = b.periods := rfl
@[simp] theorem Block.writeFields_die (b : Block) (off : Nat) (v : Word) : (b.writeFields off v).die = b.die := rfl
@[simp] theorem Block.writeFields_tray (b : Block) (off : Nat) (v : Word) : (b.writeFields off v).tray = b.tray := rfl

/-! ### countWide -/

@[simp] theorem Block.countWide_build (b : Block) (lo n : Nat) : (b.countWide lo n).build = b.build := rfl
@[simp] theorem Block.countWide_strapSlot (b : Block) (lo n : Nat) : (b.countWide lo n).strapSlot = b.strapSlot := rfl
@[simp] theorem Block.countWide_strapLocal (b : Block) (lo n : Nat) : (b.countWide lo n).strapLocal = b.strapLocal := rfl
@[simp] theorem Block.countWide_strapPkg (b : Block) (lo n : Nat) : (b.countWide lo n).strapPkg = b.strapPkg := rfl
@[simp] theorem Block.countWide_regs (b : Block) (lo n : Nat) : (b.countWide lo n).regs = b.regs := rfl
@[simp] theorem Block.countWide_rdata (b : Block) (lo n : Nat) : (b.countWide lo n).rdata = b.rdata := rfl
@[simp] theorem Block.countWide_access (b : Block) (lo n : Nat) : (b.countWide lo n).access = b.access := rfl
@[simp] theorem Block.countWide_fresh (b : Block) (lo n : Nat) : (b.countWide lo n).fresh = b.fresh := rfl
@[simp] theorem Block.countWide_time (b : Block) (lo n : Nat) : (b.countWide lo n).time = b.time := rfl
@[simp] theorem Block.countWide_ctxs (b : Block) (lo n : Nat) : (b.countWide lo n).ctxs = b.ctxs := rfl
@[simp] theorem Block.countWide_parts (b : Block) (lo n : Nat) : (b.countWide lo n).parts = b.parts := rfl
@[simp] theorem Block.countWide_released (b : Block) (lo n : Nat) : (b.countWide lo n).released = b.released := rfl
@[simp] theorem Block.countWide_blockDups (b : Block) (lo n : Nat) : (b.countWide lo n).blockDups = b.blockDups := rfl
@[simp] theorem Block.countWide_prepDups (b : Block) (lo n : Nat) : (b.countWide lo n).prepDups = b.prepDups := rfl
@[simp] theorem Block.countWide_blockSeq (b : Block) (lo n : Nat) : (b.countWide lo n).blockSeq = b.blockSeq := rfl
@[simp] theorem Block.countWide_egress (b : Block) (lo n : Nat) : (b.countWide lo n).egress = b.egress := rfl
@[simp] theorem Block.countWide_recorder (b : Block) (lo n : Nat) : (b.countWide lo n).recorder = b.recorder := rfl
@[simp] theorem Block.countWide_txn (b : Block) (lo n : Nat) : (b.countWide lo n).txn = b.txn := rfl
@[simp] theorem Block.countWide_power (b : Block) (lo n : Nat) : (b.countWide lo n).power = b.power := rfl
@[simp] theorem Block.countWide_switchMark (b : Block) (lo n : Nat) : (b.countWide lo n).switchMark = b.switchMark := rfl
@[simp] theorem Block.countWide_periods (b : Block) (lo n : Nat) : (b.countWide lo n).periods = b.periods := rfl
@[simp] theorem Block.countWide_die (b : Block) (lo n : Nat) : (b.countWide lo n).die = b.die := rfl
@[simp] theorem Block.countWide_tray (b : Block) (lo n : Nat) : (b.countWide lo n).tray = b.tray := rfl

/-! ### setCtx -/

@[simp] theorem Block.setCtx_build (b : Block) (c : Nat) (x : Ctx) : (b.setCtx c x).build = b.build := rfl
@[simp] theorem Block.setCtx_strapSlot (b : Block) (c : Nat) (x : Ctx) : (b.setCtx c x).strapSlot = b.strapSlot := rfl
@[simp] theorem Block.setCtx_strapLocal (b : Block) (c : Nat) (x : Ctx) : (b.setCtx c x).strapLocal = b.strapLocal := rfl
@[simp] theorem Block.setCtx_strapPkg (b : Block) (c : Nat) (x : Ctx) : (b.setCtx c x).strapPkg = b.strapPkg := rfl
@[simp] theorem Block.setCtx_regs (b : Block) (c : Nat) (x : Ctx) : (b.setCtx c x).regs = b.regs := rfl
@[simp] theorem Block.setCtx_wide (b : Block) (c : Nat) (x : Ctx) : (b.setCtx c x).wide = b.wide := rfl
@[simp] theorem Block.setCtx_rdata (b : Block) (c : Nat) (x : Ctx) : (b.setCtx c x).rdata = b.rdata := rfl
@[simp] theorem Block.setCtx_access (b : Block) (c : Nat) (x : Ctx) : (b.setCtx c x).access = b.access := rfl
@[simp] theorem Block.setCtx_fresh (b : Block) (c : Nat) (x : Ctx) : (b.setCtx c x).fresh = b.fresh := rfl
@[simp] theorem Block.setCtx_time (b : Block) (c : Nat) (x : Ctx) : (b.setCtx c x).time = b.time := rfl
@[simp] theorem Block.setCtx_ctxs (b : Block) (c : Nat) (x : Ctx) : (b.setCtx c x).ctxs = sput (fun _ => ({} : Ctx)) b.ctxs c x := rfl
@[simp] theorem Block.setCtx_parts (b : Block) (c : Nat) (x : Ctx) : (b.setCtx c x).parts = b.parts := rfl
@[simp] theorem Block.setCtx_released (b : Block) (c : Nat) (x : Ctx) : (b.setCtx c x).released = b.released := rfl
@[simp] theorem Block.setCtx_blockDups (b : Block) (c : Nat) (x : Ctx) : (b.setCtx c x).blockDups = b.blockDups := rfl
@[simp] theorem Block.setCtx_prepDups (b : Block) (c : Nat) (x : Ctx) : (b.setCtx c x).prepDups = b.prepDups := rfl
@[simp] theorem Block.setCtx_blockSeq (b : Block) (c : Nat) (x : Ctx) : (b.setCtx c x).blockSeq = b.blockSeq := rfl
@[simp] theorem Block.setCtx_egress (b : Block) (c : Nat) (x : Ctx) : (b.setCtx c x).egress = b.egress := rfl
@[simp] theorem Block.setCtx_recorder (b : Block) (c : Nat) (x : Ctx) : (b.setCtx c x).recorder = b.recorder := rfl
@[simp] theorem Block.setCtx_txn (b : Block) (c : Nat) (x : Ctx) : (b.setCtx c x).txn = b.txn := rfl
@[simp] theorem Block.setCtx_power (b : Block) (c : Nat) (x : Ctx) : (b.setCtx c x).power = b.power := rfl
@[simp] theorem Block.setCtx_switchMark (b : Block) (c : Nat) (x : Ctx) : (b.setCtx c x).switchMark = b.switchMark := rfl
@[simp] theorem Block.setCtx_periods (b : Block) (c : Nat) (x : Ctx) : (b.setCtx c x).periods = b.periods := rfl
@[simp] theorem Block.setCtx_die (b : Block) (c : Nat) (x : Ctx) : (b.setCtx c x).die = b.die := rfl
@[simp] theorem Block.setCtx_tray (b : Block) (c : Nat) (x : Ctx) : (b.setCtx c x).tray = b.tray := rfl

/-! ### modCtx -/

@[simp] theorem Block.modCtx_build (b : Block) (c : Nat) (f : Ctx → Ctx) : (b.modCtx c f).build = b.build := rfl
@[simp] theorem Block.modCtx_strapSlot (b : Block) (c : Nat) (f : Ctx → Ctx) : (b.modCtx c f).strapSlot = b.strapSlot := rfl
@[simp] theorem Block.modCtx_strapLocal (b : Block) (c : Nat) (f : Ctx → Ctx) : (b.modCtx c f).strapLocal = b.strapLocal := rfl
@[simp] theorem Block.modCtx_strapPkg (b : Block) (c : Nat) (f : Ctx → Ctx) : (b.modCtx c f).strapPkg = b.strapPkg := rfl
@[simp] theorem Block.modCtx_regs (b : Block) (c : Nat) (f : Ctx → Ctx) : (b.modCtx c f).regs = b.regs := rfl
@[simp] theorem Block.modCtx_wide (b : Block) (c : Nat) (f : Ctx → Ctx) : (b.modCtx c f).wide = b.wide := rfl
@[simp] theorem Block.modCtx_rdata (b : Block) (c : Nat) (f : Ctx → Ctx) : (b.modCtx c f).rdata = b.rdata := rfl
@[simp] theorem Block.modCtx_access (b : Block) (c : Nat) (f : Ctx → Ctx) : (b.modCtx c f).access = b.access := rfl
@[simp] theorem Block.modCtx_fresh (b : Block) (c : Nat) (f : Ctx → Ctx) : (b.modCtx c f).fresh = b.fresh := rfl
@[simp] theorem Block.modCtx_time (b : Block) (c : Nat) (f : Ctx → Ctx) : (b.modCtx c f).time = b.time := rfl
@[simp] theorem Block.modCtx_parts (b : Block) (c : Nat) (f : Ctx → Ctx) : (b.modCtx c f).parts = b.parts := rfl
@[simp] theorem Block.modCtx_released (b : Block) (c : Nat) (f : Ctx → Ctx) : (b.modCtx c f).released = b.released := rfl
@[simp] theorem Block.modCtx_blockDups (b : Block) (c : Nat) (f : Ctx → Ctx) : (b.modCtx c f).blockDups = b.blockDups := rfl
@[simp] theorem Block.modCtx_prepDups (b : Block) (c : Nat) (f : Ctx → Ctx) : (b.modCtx c f).prepDups = b.prepDups := rfl
@[simp] theorem Block.modCtx_blockSeq (b : Block) (c : Nat) (f : Ctx → Ctx) : (b.modCtx c f).blockSeq = b.blockSeq := rfl
@[simp] theorem Block.modCtx_egress (b : Block) (c : Nat) (f : Ctx → Ctx) : (b.modCtx c f).egress = b.egress := rfl
@[simp] theorem Block.modCtx_recorder (b : Block) (c : Nat) (f : Ctx → Ctx) : (b.modCtx c f).recorder = b.recorder := rfl
@[simp] theorem Block.modCtx_txn (b : Block) (c : Nat) (f : Ctx → Ctx) : (b.modCtx c f).txn = b.txn := rfl
@[simp] theorem Block.modCtx_power (b : Block) (c : Nat) (f : Ctx → Ctx) : (b.modCtx c f).power = b.power := rfl
@[simp] theorem Block.modCtx_switchMark (b : Block) (c : Nat) (f : Ctx → Ctx) : (b.modCtx c f).switchMark = b.switchMark := rfl
@[simp] theorem Block.modCtx_periods (b : Block) (c : Nat) (f : Ctx → Ctx) : (b.modCtx c f).periods = b.periods := rfl
@[simp] theorem Block.modCtx_die (b : Block) (c : Nat) (f : Ctx → Ctx) : (b.modCtx c f).die = b.die := rfl
@[simp] theorem Block.modCtx_tray (b : Block) (c : Nat) (f : Ctx → Ctx) : (b.modCtx c f).tray = b.tray := rfl

/-! ### modTime -/

@[simp] theorem Block.modTime_build (b : Block) (f : TimeUnit → TimeUnit) : (b.modTime f).build = b.build := rfl
@[simp] theorem Block.modTime_strapSlot (b : Block) (f : TimeUnit → TimeUnit) : (b.modTime f).strapSlot = b.strapSlot := rfl
@[simp] theorem Block.modTime_strapLocal (b : Block) (f : TimeUnit → TimeUnit) : (b.modTime f).strapLocal = b.strapLocal := rfl
@[simp] theorem Block.modTime_strapPkg (b : Block) (f : TimeUnit → TimeUnit) : (b.modTime f).strapPkg = b.strapPkg := rfl
@[simp] theorem Block.modTime_regs (b : Block) (f : TimeUnit → TimeUnit) : (b.modTime f).regs = b.regs := rfl
@[simp] theorem Block.modTime_wide (b : Block) (f : TimeUnit → TimeUnit) : (b.modTime f).wide = b.wide := rfl
@[simp] theorem Block.modTime_rdata (b : Block) (f : TimeUnit → TimeUnit) : (b.modTime f).rdata = b.rdata := rfl
@[simp] theorem Block.modTime_access (b : Block) (f : TimeUnit → TimeUnit) : (b.modTime f).access = b.access := rfl
@[simp] theorem Block.modTime_fresh (b : Block) (f : TimeUnit → TimeUnit) : (b.modTime f).fresh = b.fresh := rfl
@[simp] theorem Block.modTime_time (b : Block) (f : TimeUnit → TimeUnit) : (b.modTime f).time = f b.time := rfl
@[simp] theorem Block.modTime_ctxs (b : Block) (f : TimeUnit → TimeUnit) : (b.modTime f).ctxs = b.ctxs := rfl
@[simp] theorem Block.modTime_parts (b : Block) (f : TimeUnit → TimeUnit) : (b.modTime f).parts = b.parts := rfl
@[simp] theorem Block.modTime_released (b : Block) (f : TimeUnit → TimeUnit) : (b.modTime f).released = b.released := rfl
@[simp] theorem Block.modTime_blockDups (b : Block) (f : TimeUnit → TimeUnit) : (b.modTime f).blockDups = b.blockDups := rfl
@[simp] theorem Block.modTime_prepDups (b : Block) (f : TimeUnit → TimeUnit) : (b.modTime f).prepDups = b.prepDups := rfl
@[simp] theorem Block.modTime_blockSeq (b : Block) (f : TimeUnit → TimeUnit) : (b.modTime f).blockSeq = b.blockSeq := rfl
@[simp] theorem Block.modTime_egress (b : Block) (f : TimeUnit → TimeUnit) : (b.modTime f).egress = b.egress := rfl
@[simp] theorem Block.modTime_recorder (b : Block) (f : TimeUnit → TimeUnit) : (b.modTime f).recorder = b.recorder := rfl
@[simp] theorem Block.modTime_txn (b : Block) (f : TimeUnit → TimeUnit) : (b.modTime f).txn = b.txn := rfl
@[simp] theorem Block.modTime_power (b : Block) (f : TimeUnit → TimeUnit) : (b.modTime f).power = b.power := rfl
@[simp] theorem Block.modTime_switchMark (b : Block) (f : TimeUnit → TimeUnit) : (b.modTime f).switchMark = b.switchMark := rfl
@[simp] theorem Block.modTime_periods (b : Block) (f : TimeUnit → TimeUnit) : (b.modTime f).periods = b.periods := rfl
@[simp] theorem Block.modTime_die (b : Block) (f : TimeUnit → TimeUnit) : (b.modTime f).die = b.die := rfl
@[simp] theorem Block.modTime_tray (b : Block) (f : TimeUnit → TimeUnit) : (b.modTime f).tray = b.tray := rfl

/-! ### modRec -/

@[simp] theorem Block.modRec_build (b : Block) (f : Recorder → Recorder) : (b.modRec f).build = b.build := rfl
@[simp] theorem Block.modRec_strapSlot (b : Block) (f : Recorder → Recorder) : (b.modRec f).strapSlot = b.strapSlot := rfl
@[simp] theorem Block.modRec_strapLocal (b : Block) (f : Recorder → Recorder) : (b.modRec f).strapLocal = b.strapLocal := rfl
@[simp] theorem Block.modRec_strapPkg (b : Block) (f : Recorder → Recorder) : (b.modRec f).strapPkg = b.strapPkg := rfl
@[simp] theorem Block.modRec_regs (b : Block) (f : Recorder → Recorder) : (b.modRec f).regs = b.regs := rfl
@[simp] theorem Block.modRec_wide (b : Block) (f : Recorder → Recorder) : (b.modRec f).wide = b.wide := rfl
@[simp] theorem Block.modRec_rdata (b : Block) (f : Recorder → Recorder) : (b.modRec f).rdata = b.rdata := rfl
@[simp] theorem Block.modRec_access (b : Block) (f : Recorder → Recorder) : (b.modRec f).access = b.access := rfl
@[simp] theorem Block.modRec_fresh (b : Block) (f : Recorder → Recorder) : (b.modRec f).fresh = b.fresh := rfl
@[simp] theorem Block.modRec_time (b : Block) (f : Recorder → Recorder) : (b.modRec f).time = b.time := rfl
@[simp] theorem Block.modRec_ctxs (b : Block) (f : Recorder → Recorder) : (b.modRec f).ctxs = b.ctxs := rfl
@[simp] theorem Block.modRec_parts (b : Block) (f : Recorder → Recorder) : (b.modRec f).parts = b.parts := rfl
@[simp] theorem Block.modRec_released (b : Block) (f : Recorder → Recorder) : (b.modRec f).released = b.released := rfl
@[simp] theorem Block.modRec_blockDups (b : Block) (f : Recorder → Recorder) : (b.modRec f).blockDups = b.blockDups := rfl
@[simp] theorem Block.modRec_prepDups (b : Block) (f : Recorder → Recorder) : (b.modRec f).prepDups = b.prepDups := rfl
@[simp] theorem Block.modRec_blockSeq (b : Block) (f : Recorder → Recorder) : (b.modRec f).blockSeq = b.blockSeq := rfl
@[simp] theorem Block.modRec_egress (b : Block) (f : Recorder → Recorder) : (b.modRec f).egress = b.egress := rfl
@[simp] theorem Block.modRec_recorder (b : Block) (f : Recorder → Recorder) : (b.modRec f).recorder = f b.recorder := rfl
@[simp] theorem Block.modRec_txn (b : Block) (f : Recorder → Recorder) : (b.modRec f).txn = b.txn := rfl
@[simp] theorem Block.modRec_power (b : Block) (f : Recorder → Recorder) : (b.modRec f).power = b.power := rfl
@[simp] theorem Block.modRec_switchMark (b : Block) (f : Recorder → Recorder) : (b.modRec f).switchMark = b.switchMark := rfl
@[simp] theorem Block.modRec_periods (b : Block) (f : Recorder → Recorder) : (b.modRec f).periods = b.periods := rfl
@[simp] theorem Block.modRec_die (b : Block) (f : Recorder → Recorder) : (b.modRec f).die = b.die := rfl
@[simp] theorem Block.modRec_tray (b : Block) (f : Recorder → Recorder) : (b.modRec f).tray = b.tray := rfl

/-! ### modPower -/

@[simp] theorem Block.modPower_build (b : Block) (f : PowerUnit → PowerUnit) : (b.modPower f).build = b.build := rfl
@[simp] theorem Block.modPower_strapSlot (b : Block) (f : PowerUnit → PowerUnit) : (b.modPower f).strapSlot = b.strapSlot := rfl
@[simp] theorem Block.modPower_strapLocal (b : Block) (f : PowerUnit → PowerUnit) : (b.modPower f).strapLocal = b.strapLocal := rfl
@[simp] theorem Block.modPower_strapPkg (b : Block) (f : PowerUnit → PowerUnit) : (b.modPower f).strapPkg = b.strapPkg := rfl
@[simp] theorem Block.modPower_regs (b : Block) (f : PowerUnit → PowerUnit) : (b.modPower f).regs = b.regs := rfl
@[simp] theorem Block.modPower_wide (b : Block) (f : PowerUnit → PowerUnit) : (b.modPower f).wide = b.wide := rfl
@[simp] theorem Block.modPower_rdata (b : Block) (f : PowerUnit → PowerUnit) : (b.modPower f).rdata = b.rdata := rfl
@[simp] theorem Block.modPower_access (b : Block) (f : PowerUnit → PowerUnit) : (b.modPower f).access = b.access := rfl
@[simp] theorem Block.modPower_fresh (b : Block) (f : PowerUnit → PowerUnit) : (b.modPower f).fresh = b.fresh := rfl
@[simp] theorem Block.modPower_time (b : Block) (f : PowerUnit → PowerUnit) : (b.modPower f).time = b.time := rfl
@[simp] theorem Block.modPower_ctxs (b : Block) (f : PowerUnit → PowerUnit) : (b.modPower f).ctxs = b.ctxs := rfl
@[simp] theorem Block.modPower_parts (b : Block) (f : PowerUnit → PowerUnit) : (b.modPower f).parts = b.parts := rfl
@[simp] theorem Block.modPower_released (b : Block) (f : PowerUnit → PowerUnit) : (b.modPower f).released = b.released := rfl
@[simp] theorem Block.modPower_blockDups (b : Block) (f : PowerUnit → PowerUnit) : (b.modPower f).blockDups = b.blockDups := rfl
@[simp] theorem Block.modPower_prepDups (b : Block) (f : PowerUnit → PowerUnit) : (b.modPower f).prepDups = b.prepDups := rfl
@[simp] theorem Block.modPower_blockSeq (b : Block) (f : PowerUnit → PowerUnit) : (b.modPower f).blockSeq = b.blockSeq := rfl
@[simp] theorem Block.modPower_egress (b : Block) (f : PowerUnit → PowerUnit) : (b.modPower f).egress = b.egress := rfl
@[simp] theorem Block.modPower_recorder (b : Block) (f : PowerUnit → PowerUnit) : (b.modPower f).recorder = b.recorder := rfl
@[simp] theorem Block.modPower_txn (b : Block) (f : PowerUnit → PowerUnit) : (b.modPower f).txn = b.txn := rfl
@[simp] theorem Block.modPower_power (b : Block) (f : PowerUnit → PowerUnit) : (b.modPower f).power = f b.power := rfl
@[simp] theorem Block.modPower_switchMark (b : Block) (f : PowerUnit → PowerUnit) : (b.modPower f).switchMark = b.switchMark := rfl
@[simp] theorem Block.modPower_periods (b : Block) (f : PowerUnit → PowerUnit) : (b.modPower f).periods = b.periods := rfl
@[simp] theorem Block.modPower_die (b : Block) (f : PowerUnit → PowerUnit) : (b.modPower f).die = b.die := rfl
@[simp] theorem Block.modPower_tray (b : Block) (f : PowerUnit → PowerUnit) : (b.modPower f).tray = b.tray := rfl

/-! ### setPort -/

@[simp] theorem Block.setPort_build (b : Block) (p : Nat) (x : EgPort) : (b.setPort p x).build = b.build := rfl
@[simp] theorem Block.setPort_strapSlot (b : Block) (p : Nat) (x : EgPort) : (b.setPort p x).strapSlot = b.strapSlot := rfl
@[simp] theorem Block.setPort_strapLocal (b : Block) (p : Nat) (x : EgPort) : (b.setPort p x).strapLocal = b.strapLocal := rfl
@[simp] theorem Block.setPort_strapPkg (b : Block) (p : Nat) (x : EgPort) : (b.setPort p x).strapPkg = b.strapPkg := rfl
@[simp] theorem Block.setPort_regs (b : Block) (p : Nat) (x : EgPort) : (b.setPort p x).regs = b.regs := rfl
@[simp] theorem Block.setPort_wide (b : Block) (p : Nat) (x : EgPort) : (b.setPort p x).wide = b.wide := rfl
@[simp] theorem Block.setPort_rdata (b : Block) (p : Nat) (x : EgPort) : (b.setPort p x).rdata = b.rdata := rfl
@[simp] theorem Block.setPort_access (b : Block) (p : Nat) (x : EgPort) : (b.setPort p x).access = b.access := rfl
@[simp] theorem Block.setPort_fresh (b : Block) (p : Nat) (x : EgPort) : (b.setPort p x).fresh = b.fresh := rfl
@[simp] theorem Block.setPort_time (b : Block) (p : Nat) (x : EgPort) : (b.setPort p x).time = b.time := rfl
@[simp] theorem Block.setPort_ctxs (b : Block) (p : Nat) (x : EgPort) : (b.setPort p x).ctxs = b.ctxs := rfl
@[simp] theorem Block.setPort_parts (b : Block) (p : Nat) (x : EgPort) : (b.setPort p x).parts = b.parts := rfl
@[simp] theorem Block.setPort_released (b : Block) (p : Nat) (x : EgPort) : (b.setPort p x).released = b.released := rfl
@[simp] theorem Block.setPort_blockDups (b : Block) (p : Nat) (x : EgPort) : (b.setPort p x).blockDups = b.blockDups := rfl
@[simp] theorem Block.setPort_prepDups (b : Block) (p : Nat) (x : EgPort) : (b.setPort p x).prepDups = b.prepDups := rfl
@[simp] theorem Block.setPort_blockSeq (b : Block) (p : Nat) (x : EgPort) : (b.setPort p x).blockSeq = b.blockSeq := rfl
@[simp] theorem Block.setPort_recorder (b : Block) (p : Nat) (x : EgPort) : (b.setPort p x).recorder = b.recorder := rfl
@[simp] theorem Block.setPort_txn (b : Block) (p : Nat) (x : EgPort) : (b.setPort p x).txn = b.txn := rfl
@[simp] theorem Block.setPort_power (b : Block) (p : Nat) (x : EgPort) : (b.setPort p x).power = b.power := rfl
@[simp] theorem Block.setPort_switchMark (b : Block) (p : Nat) (x : EgPort) : (b.setPort p x).switchMark = b.switchMark := rfl
@[simp] theorem Block.setPort_periods (b : Block) (p : Nat) (x : EgPort) : (b.setPort p x).periods = b.periods := rfl
@[simp] theorem Block.setPort_die (b : Block) (p : Nat) (x : EgPort) : (b.setPort p x).die = b.die := rfl
@[simp] theorem Block.setPort_tray (b : Block) (p : Nat) (x : EgPort) : (b.setPort p x).tray = b.tray := rfl

/-! ### modTaps -/

@[simp] theorem Block.modTaps_build (b : Block) (f : TapUnit → TapUnit) : (b.modTaps f).build = b.build := rfl
@[simp] theorem Block.modTaps_strapSlot (b : Block) (f : TapUnit → TapUnit) : (b.modTaps f).strapSlot = b.strapSlot := rfl
@[simp] theorem Block.modTaps_strapLocal (b : Block) (f : TapUnit → TapUnit) : (b.modTaps f).strapLocal = b.strapLocal := rfl
@[simp] theorem Block.modTaps_strapPkg (b : Block) (f : TapUnit → TapUnit) : (b.modTaps f).strapPkg = b.strapPkg := rfl
@[simp] theorem Block.modTaps_regs (b : Block) (f : TapUnit → TapUnit) : (b.modTaps f).regs = b.regs := rfl
@[simp] theorem Block.modTaps_wide (b : Block) (f : TapUnit → TapUnit) : (b.modTaps f).wide = b.wide := rfl
@[simp] theorem Block.modTaps_rdata (b : Block) (f : TapUnit → TapUnit) : (b.modTaps f).rdata = b.rdata := rfl
@[simp] theorem Block.modTaps_access (b : Block) (f : TapUnit → TapUnit) : (b.modTaps f).access = b.access := rfl
@[simp] theorem Block.modTaps_fresh (b : Block) (f : TapUnit → TapUnit) : (b.modTaps f).fresh = b.fresh := rfl
@[simp] theorem Block.modTaps_time (b : Block) (f : TapUnit → TapUnit) : (b.modTaps f).time = b.time := rfl
@[simp] theorem Block.modTaps_ctxs (b : Block) (f : TapUnit → TapUnit) : (b.modTaps f).ctxs = b.ctxs := rfl
@[simp] theorem Block.modTaps_parts (b : Block) (f : TapUnit → TapUnit) : (b.modTaps f).parts = b.parts := rfl
@[simp] theorem Block.modTaps_released (b : Block) (f : TapUnit → TapUnit) : (b.modTaps f).released = b.released := rfl
@[simp] theorem Block.modTaps_blockDups (b : Block) (f : TapUnit → TapUnit) : (b.modTaps f).blockDups = b.blockDups := rfl
@[simp] theorem Block.modTaps_prepDups (b : Block) (f : TapUnit → TapUnit) : (b.modTaps f).prepDups = b.prepDups := rfl
@[simp] theorem Block.modTaps_blockSeq (b : Block) (f : TapUnit → TapUnit) : (b.modTaps f).blockSeq = b.blockSeq := rfl
@[simp] theorem Block.modTaps_egress (b : Block) (f : TapUnit → TapUnit) : (b.modTaps f).egress = b.egress := rfl
@[simp] theorem Block.modTaps_recorder (b : Block) (f : TapUnit → TapUnit) : (b.modTaps f).recorder = b.recorder := rfl
@[simp] theorem Block.modTaps_txn (b : Block) (f : TapUnit → TapUnit) : (b.modTaps f).txn = b.txn := rfl
@[simp] theorem Block.modTaps_power (b : Block) (f : TapUnit → TapUnit) : (b.modTaps f).power = b.power := rfl
@[simp] theorem Block.modTaps_switchMark (b : Block) (f : TapUnit → TapUnit) : (b.modTaps f).switchMark = b.switchMark := rfl
@[simp] theorem Block.modTaps_periods (b : Block) (f : TapUnit → TapUnit) : (b.modTaps f).periods = b.periods := rfl
@[simp] theorem Block.modTaps_tray (b : Block) (f : TapUnit → TapUnit) : (b.modTaps f).tray = b.tray := rfl
@[simp] theorem Block.modTaps_die_regions (b : Block) (f : TapUnit → TapUnit) : (b.modTaps f).die.regions = b.die.regions := rfl
@[simp] theorem Block.modTaps_die_pairLate (b : Block) (f : TapUnit → TapUnit) : (b.modTaps f).die.pairLate = b.die.pairLate := rfl
@[simp] theorem Block.modTaps_die_pairLead (b : Block) (f : TapUnit → TapUnit) : (b.modTaps f).die.pairLead = b.die.pairLead := rfl
@[simp] theorem Block.modTaps_die_pairCycle (b : Block) (f : TapUnit → TapUnit) : (b.modTaps f).die.pairCycle = b.die.pairCycle := rfl
@[simp] theorem Block.modTaps_die_taps (b : Block) (f : TapUnit → TapUnit) : (b.modTaps f).die.taps = f b.die.taps := rfl
@[simp] theorem Block.modTaps_die_trace (b : Block) (f : TapUnit → TapUnit) : (b.modTaps f).die.trace = b.die.trace := rfl
@[simp] theorem Block.modTaps_die_load (b : Block) (f : TapUnit → TapUnit) : (b.modTaps f).die.load = b.die.load := rfl
@[simp] theorem Block.modTaps_die_trig (b : Block) (f : TapUnit → TapUnit) : (b.modTaps f).die.trig = b.die.trig := rfl
@[simp] theorem Block.modTaps_die_sensors (b : Block) (f : TapUnit → TapUnit) : (b.modTaps f).die.sensors = b.die.sensors := rfl
@[simp] theorem Block.modTaps_die_beats (b : Block) (f : TapUnit → TapUnit) : (b.modTaps f).die.beats = b.die.beats := rfl
@[simp] theorem Block.modTaps_die_slotMark (b : Block) (f : TapUnit → TapUnit) : (b.modTaps f).die.slotMark = b.die.slotMark := rfl
@[simp] theorem Block.modTaps_die_slotSpan (b : Block) (f : TapUnit → TapUnit) : (b.modTaps f).die.slotSpan = b.die.slotSpan := rfl
@[simp] theorem Block.modTaps_die_slotGap (b : Block) (f : TapUnit → TapUnit) : (b.modTaps f).die.slotGap = b.die.slotGap := rfl

/-! ### modTrace -/

@[simp] theorem Block.modTrace_build (b : Block) (f : TraceUnit → TraceUnit) : (b.modTrace f).build = b.build := rfl
@[simp] theorem Block.modTrace_strapSlot (b : Block) (f : TraceUnit → TraceUnit) : (b.modTrace f).strapSlot = b.strapSlot := rfl
@[simp] theorem Block.modTrace_strapLocal (b : Block) (f : TraceUnit → TraceUnit) : (b.modTrace f).strapLocal = b.strapLocal := rfl
@[simp] theorem Block.modTrace_strapPkg (b : Block) (f : TraceUnit → TraceUnit) : (b.modTrace f).strapPkg = b.strapPkg := rfl
@[simp] theorem Block.modTrace_regs (b : Block) (f : TraceUnit → TraceUnit) : (b.modTrace f).regs = b.regs := rfl
@[simp] theorem Block.modTrace_wide (b : Block) (f : TraceUnit → TraceUnit) : (b.modTrace f).wide = b.wide := rfl
@[simp] theorem Block.modTrace_rdata (b : Block) (f : TraceUnit → TraceUnit) : (b.modTrace f).rdata = b.rdata := rfl
@[simp] theorem Block.modTrace_access (b : Block) (f : TraceUnit → TraceUnit) : (b.modTrace f).access = b.access := rfl
@[simp] theorem Block.modTrace_fresh (b : Block) (f : TraceUnit → TraceUnit) : (b.modTrace f).fresh = b.fresh := rfl
@[simp] theorem Block.modTrace_time (b : Block) (f : TraceUnit → TraceUnit) : (b.modTrace f).time = b.time := rfl
@[simp] theorem Block.modTrace_ctxs (b : Block) (f : TraceUnit → TraceUnit) : (b.modTrace f).ctxs = b.ctxs := rfl
@[simp] theorem Block.modTrace_parts (b : Block) (f : TraceUnit → TraceUnit) : (b.modTrace f).parts = b.parts := rfl
@[simp] theorem Block.modTrace_released (b : Block) (f : TraceUnit → TraceUnit) : (b.modTrace f).released = b.released := rfl
@[simp] theorem Block.modTrace_blockDups (b : Block) (f : TraceUnit → TraceUnit) : (b.modTrace f).blockDups = b.blockDups := rfl
@[simp] theorem Block.modTrace_prepDups (b : Block) (f : TraceUnit → TraceUnit) : (b.modTrace f).prepDups = b.prepDups := rfl
@[simp] theorem Block.modTrace_blockSeq (b : Block) (f : TraceUnit → TraceUnit) : (b.modTrace f).blockSeq = b.blockSeq := rfl
@[simp] theorem Block.modTrace_egress (b : Block) (f : TraceUnit → TraceUnit) : (b.modTrace f).egress = b.egress := rfl
@[simp] theorem Block.modTrace_recorder (b : Block) (f : TraceUnit → TraceUnit) : (b.modTrace f).recorder = b.recorder := rfl
@[simp] theorem Block.modTrace_txn (b : Block) (f : TraceUnit → TraceUnit) : (b.modTrace f).txn = b.txn := rfl
@[simp] theorem Block.modTrace_power (b : Block) (f : TraceUnit → TraceUnit) : (b.modTrace f).power = b.power := rfl
@[simp] theorem Block.modTrace_switchMark (b : Block) (f : TraceUnit → TraceUnit) : (b.modTrace f).switchMark = b.switchMark := rfl
@[simp] theorem Block.modTrace_periods (b : Block) (f : TraceUnit → TraceUnit) : (b.modTrace f).periods = b.periods := rfl
@[simp] theorem Block.modTrace_tray (b : Block) (f : TraceUnit → TraceUnit) : (b.modTrace f).tray = b.tray := rfl
@[simp] theorem Block.modTrace_die_regions (b : Block) (f : TraceUnit → TraceUnit) : (b.modTrace f).die.regions = b.die.regions := rfl
@[simp] theorem Block.modTrace_die_pairLate (b : Block) (f : TraceUnit → TraceUnit) : (b.modTrace f).die.pairLate = b.die.pairLate := rfl
@[simp] theorem Block.modTrace_die_pairLead (b : Block) (f : TraceUnit → TraceUnit) : (b.modTrace f).die.pairLead = b.die.pairLead := rfl
@[simp] theorem Block.modTrace_die_pairCycle (b : Block) (f : TraceUnit → TraceUnit) : (b.modTrace f).die.pairCycle = b.die.pairCycle := rfl
@[simp] theorem Block.modTrace_die_taps (b : Block) (f : TraceUnit → TraceUnit) : (b.modTrace f).die.taps = b.die.taps := rfl
@[simp] theorem Block.modTrace_die_trace (b : Block) (f : TraceUnit → TraceUnit) : (b.modTrace f).die.trace = f b.die.trace := rfl
@[simp] theorem Block.modTrace_die_load (b : Block) (f : TraceUnit → TraceUnit) : (b.modTrace f).die.load = b.die.load := rfl
@[simp] theorem Block.modTrace_die_trig (b : Block) (f : TraceUnit → TraceUnit) : (b.modTrace f).die.trig = b.die.trig := rfl
@[simp] theorem Block.modTrace_die_sensors (b : Block) (f : TraceUnit → TraceUnit) : (b.modTrace f).die.sensors = b.die.sensors := rfl
@[simp] theorem Block.modTrace_die_beats (b : Block) (f : TraceUnit → TraceUnit) : (b.modTrace f).die.beats = b.die.beats := rfl
@[simp] theorem Block.modTrace_die_slotMark (b : Block) (f : TraceUnit → TraceUnit) : (b.modTrace f).die.slotMark = b.die.slotMark := rfl
@[simp] theorem Block.modTrace_die_slotSpan (b : Block) (f : TraceUnit → TraceUnit) : (b.modTrace f).die.slotSpan = b.die.slotSpan := rfl
@[simp] theorem Block.modTrace_die_slotGap (b : Block) (f : TraceUnit → TraceUnit) : (b.modTrace f).die.slotGap = b.die.slotGap := rfl

/-! ### modTrig -/

@[simp] theorem Block.modTrig_build (b : Block) (f : TriggerUnit → TriggerUnit) : (b.modTrig f).build = b.build := rfl
@[simp] theorem Block.modTrig_strapSlot (b : Block) (f : TriggerUnit → TriggerUnit) : (b.modTrig f).strapSlot = b.strapSlot := rfl
@[simp] theorem Block.modTrig_strapLocal (b : Block) (f : TriggerUnit → TriggerUnit) : (b.modTrig f).strapLocal = b.strapLocal := rfl
@[simp] theorem Block.modTrig_strapPkg (b : Block) (f : TriggerUnit → TriggerUnit) : (b.modTrig f).strapPkg = b.strapPkg := rfl
@[simp] theorem Block.modTrig_regs (b : Block) (f : TriggerUnit → TriggerUnit) : (b.modTrig f).regs = b.regs := rfl
@[simp] theorem Block.modTrig_wide (b : Block) (f : TriggerUnit → TriggerUnit) : (b.modTrig f).wide = b.wide := rfl
@[simp] theorem Block.modTrig_rdata (b : Block) (f : TriggerUnit → TriggerUnit) : (b.modTrig f).rdata = b.rdata := rfl
@[simp] theorem Block.modTrig_access (b : Block) (f : TriggerUnit → TriggerUnit) : (b.modTrig f).access = b.access := rfl
@[simp] theorem Block.modTrig_fresh (b : Block) (f : TriggerUnit → TriggerUnit) : (b.modTrig f).fresh = b.fresh := rfl
@[simp] theorem Block.modTrig_time (b : Block) (f : TriggerUnit → TriggerUnit) : (b.modTrig f).time = b.time := rfl
@[simp] theorem Block.modTrig_ctxs (b : Block) (f : TriggerUnit → TriggerUnit) : (b.modTrig f).ctxs = b.ctxs := rfl
@[simp] theorem Block.modTrig_parts (b : Block) (f : TriggerUnit → TriggerUnit) : (b.modTrig f).parts = b.parts := rfl
@[simp] theorem Block.modTrig_released (b : Block) (f : TriggerUnit → TriggerUnit) : (b.modTrig f).released = b.released := rfl
@[simp] theorem Block.modTrig_blockDups (b : Block) (f : TriggerUnit → TriggerUnit) : (b.modTrig f).blockDups = b.blockDups := rfl
@[simp] theorem Block.modTrig_prepDups (b : Block) (f : TriggerUnit → TriggerUnit) : (b.modTrig f).prepDups = b.prepDups := rfl
@[simp] theorem Block.modTrig_blockSeq (b : Block) (f : TriggerUnit → TriggerUnit) : (b.modTrig f).blockSeq = b.blockSeq := rfl
@[simp] theorem Block.modTrig_egress (b : Block) (f : TriggerUnit → TriggerUnit) : (b.modTrig f).egress = b.egress := rfl
@[simp] theorem Block.modTrig_recorder (b : Block) (f : TriggerUnit → TriggerUnit) : (b.modTrig f).recorder = b.recorder := rfl
@[simp] theorem Block.modTrig_txn (b : Block) (f : TriggerUnit → TriggerUnit) : (b.modTrig f).txn = b.txn := rfl
@[simp] theorem Block.modTrig_power (b : Block) (f : TriggerUnit → TriggerUnit) : (b.modTrig f).power = b.power := rfl
@[simp] theorem Block.modTrig_switchMark (b : Block) (f : TriggerUnit → TriggerUnit) : (b.modTrig f).switchMark = b.switchMark := rfl
@[simp] theorem Block.modTrig_periods (b : Block) (f : TriggerUnit → TriggerUnit) : (b.modTrig f).periods = b.periods := rfl
@[simp] theorem Block.modTrig_tray (b : Block) (f : TriggerUnit → TriggerUnit) : (b.modTrig f).tray = b.tray := rfl
@[simp] theorem Block.modTrig_die_regions (b : Block) (f : TriggerUnit → TriggerUnit) : (b.modTrig f).die.regions = b.die.regions := rfl
@[simp] theorem Block.modTrig_die_pairLate (b : Block) (f : TriggerUnit → TriggerUnit) : (b.modTrig f).die.pairLate = b.die.pairLate := rfl
@[simp] theorem Block.modTrig_die_pairLead (b : Block) (f : TriggerUnit → TriggerUnit) : (b.modTrig f).die.pairLead = b.die.pairLead := rfl
@[simp] theorem Block.modTrig_die_pairCycle (b : Block) (f : TriggerUnit → TriggerUnit) : (b.modTrig f).die.pairCycle = b.die.pairCycle := rfl
@[simp] theorem Block.modTrig_die_taps (b : Block) (f : TriggerUnit → TriggerUnit) : (b.modTrig f).die.taps = b.die.taps := rfl
@[simp] theorem Block.modTrig_die_trace (b : Block) (f : TriggerUnit → TriggerUnit) : (b.modTrig f).die.trace = b.die.trace := rfl
@[simp] theorem Block.modTrig_die_load (b : Block) (f : TriggerUnit → TriggerUnit) : (b.modTrig f).die.load = b.die.load := rfl
@[simp] theorem Block.modTrig_die_trig (b : Block) (f : TriggerUnit → TriggerUnit) : (b.modTrig f).die.trig = f b.die.trig := rfl
@[simp] theorem Block.modTrig_die_sensors (b : Block) (f : TriggerUnit → TriggerUnit) : (b.modTrig f).die.sensors = b.die.sensors := rfl
@[simp] theorem Block.modTrig_die_beats (b : Block) (f : TriggerUnit → TriggerUnit) : (b.modTrig f).die.beats = b.die.beats := rfl
@[simp] theorem Block.modTrig_die_slotMark (b : Block) (f : TriggerUnit → TriggerUnit) : (b.modTrig f).die.slotMark = b.die.slotMark := rfl
@[simp] theorem Block.modTrig_die_slotSpan (b : Block) (f : TriggerUnit → TriggerUnit) : (b.modTrig f).die.slotSpan = b.die.slotSpan := rfl
@[simp] theorem Block.modTrig_die_slotGap (b : Block) (f : TriggerUnit → TriggerUnit) : (b.modTrig f).die.slotGap = b.die.slotGap := rfl

/-! ### modRegion -/

@[simp] theorem Block.modRegion_build (b : Block) (p : Nat) (f : Region → Region) : (b.modRegion p f).build = b.build := rfl
@[simp] theorem Block.modRegion_strapSlot (b : Block) (p : Nat) (f : Region → Region) : (b.modRegion p f).strapSlot = b.strapSlot := rfl
@[simp] theorem Block.modRegion_strapLocal (b : Block) (p : Nat) (f : Region → Region) : (b.modRegion p f).strapLocal = b.strapLocal := rfl
@[simp] theorem Block.modRegion_strapPkg (b : Block) (p : Nat) (f : Region → Region) : (b.modRegion p f).strapPkg = b.strapPkg := rfl
@[simp] theorem Block.modRegion_regs (b : Block) (p : Nat) (f : Region → Region) : (b.modRegion p f).regs = b.regs := rfl
@[simp] theorem Block.modRegion_wide (b : Block) (p : Nat) (f : Region → Region) : (b.modRegion p f).wide = b.wide := rfl
@[simp] theorem Block.modRegion_rdata (b : Block) (p : Nat) (f : Region → Region) : (b.modRegion p f).rdata = b.rdata := rfl
@[simp] theorem Block.modRegion_access (b : Block) (p : Nat) (f : Region → Region) : (b.modRegion p f).access = b.access := rfl
@[simp] theorem Block.modRegion_fresh (b : Block) (p : Nat) (f : Region → Region) : (b.modRegion p f).fresh = b.fresh := rfl
@[simp] theorem Block.modRegion_time (b : Block) (p : Nat) (f : Region → Region) : (b.modRegion p f).time = b.time := rfl
@[simp] theorem Block.modRegion_ctxs (b : Block) (p : Nat) (f : Region → Region) : (b.modRegion p f).ctxs = b.ctxs := rfl
@[simp] theorem Block.modRegion_parts (b : Block) (p : Nat) (f : Region → Region) : (b.modRegion p f).parts = b.parts := rfl
@[simp] theorem Block.modRegion_released (b : Block) (p : Nat) (f : Region → Region) : (b.modRegion p f).released = b.released := rfl
@[simp] theorem Block.modRegion_blockDups (b : Block) (p : Nat) (f : Region → Region) : (b.modRegion p f).blockDups = b.blockDups := rfl
@[simp] theorem Block.modRegion_prepDups (b : Block) (p : Nat) (f : Region → Region) : (b.modRegion p f).prepDups = b.prepDups := rfl
@[simp] theorem Block.modRegion_blockSeq (b : Block) (p : Nat) (f : Region → Region) : (b.modRegion p f).blockSeq = b.blockSeq := rfl
@[simp] theorem Block.modRegion_egress (b : Block) (p : Nat) (f : Region → Region) : (b.modRegion p f).egress = b.egress := rfl
@[simp] theorem Block.modRegion_recorder (b : Block) (p : Nat) (f : Region → Region) : (b.modRegion p f).recorder = b.recorder := rfl
@[simp] theorem Block.modRegion_txn (b : Block) (p : Nat) (f : Region → Region) : (b.modRegion p f).txn = b.txn := rfl
@[simp] theorem Block.modRegion_power (b : Block) (p : Nat) (f : Region → Region) : (b.modRegion p f).power = b.power := rfl
@[simp] theorem Block.modRegion_switchMark (b : Block) (p : Nat) (f : Region → Region) : (b.modRegion p f).switchMark = b.switchMark := rfl
@[simp] theorem Block.modRegion_periods (b : Block) (p : Nat) (f : Region → Region) : (b.modRegion p f).periods = b.periods := rfl
@[simp] theorem Block.modRegion_tray (b : Block) (p : Nat) (f : Region → Region) : (b.modRegion p f).tray = b.tray := rfl
@[simp] theorem Block.modRegion_die_pairLate (b : Block) (p : Nat) (f : Region → Region) : (b.modRegion p f).die.pairLate = b.die.pairLate := rfl
@[simp] theorem Block.modRegion_die_pairLead (b : Block) (p : Nat) (f : Region → Region) : (b.modRegion p f).die.pairLead = b.die.pairLead := rfl
@[simp] theorem Block.modRegion_die_pairCycle (b : Block) (p : Nat) (f : Region → Region) : (b.modRegion p f).die.pairCycle = b.die.pairCycle := rfl
@[simp] theorem Block.modRegion_die_taps (b : Block) (p : Nat) (f : Region → Region) : (b.modRegion p f).die.taps = b.die.taps := rfl
@[simp] theorem Block.modRegion_die_trace (b : Block) (p : Nat) (f : Region → Region) : (b.modRegion p f).die.trace = b.die.trace := rfl
@[simp] theorem Block.modRegion_die_load (b : Block) (p : Nat) (f : Region → Region) : (b.modRegion p f).die.load = b.die.load := rfl
@[simp] theorem Block.modRegion_die_trig (b : Block) (p : Nat) (f : Region → Region) : (b.modRegion p f).die.trig = b.die.trig := rfl
@[simp] theorem Block.modRegion_die_sensors (b : Block) (p : Nat) (f : Region → Region) : (b.modRegion p f).die.sensors = b.die.sensors := rfl
@[simp] theorem Block.modRegion_die_beats (b : Block) (p : Nat) (f : Region → Region) : (b.modRegion p f).die.beats = b.die.beats := rfl
@[simp] theorem Block.modRegion_die_slotMark (b : Block) (p : Nat) (f : Region → Region) : (b.modRegion p f).die.slotMark = b.die.slotMark := rfl
@[simp] theorem Block.modRegion_die_slotSpan (b : Block) (p : Nat) (f : Region → Region) : (b.modRegion p f).die.slotSpan = b.die.slotSpan := rfl
@[simp] theorem Block.modRegion_die_slotGap (b : Block) (p : Nat) (f : Region → Region) : (b.modRegion p f).die.slotGap = b.die.slotGap := rfl

/-! ### modHost -/

@[simp] theorem Block.modHost_build (b : Block) (f : HostUnit → HostUnit) : (b.modHost f).build = b.build := rfl
@[simp] theorem Block.modHost_strapSlot (b : Block) (f : HostUnit → HostUnit) : (b.modHost f).strapSlot = b.strapSlot := rfl
@[simp] theorem Block.modHost_strapLocal (b : Block) (f : HostUnit → HostUnit) : (b.modHost f).strapLocal = b.strapLocal := rfl
@[simp] theorem Block.modHost_strapPkg (b : Block) (f : HostUnit → HostUnit) : (b.modHost f).strapPkg = b.strapPkg := rfl
@[simp] theorem Block.modHost_regs (b : Block) (f : HostUnit → HostUnit) : (b.modHost f).regs = b.regs := rfl
@[simp] theorem Block.modHost_wide (b : Block) (f : HostUnit → HostUnit) : (b.modHost f).wide = b.wide := rfl
@[simp] theorem Block.modHost_rdata (b : Block) (f : HostUnit → HostUnit) : (b.modHost f).rdata = b.rdata := rfl
@[simp] theorem Block.modHost_access (b : Block) (f : HostUnit → HostUnit) : (b.modHost f).access = b.access := rfl
@[simp] theorem Block.modHost_fresh (b : Block) (f : HostUnit → HostUnit) : (b.modHost f).fresh = b.fresh := rfl
@[simp] theorem Block.modHost_time (b : Block) (f : HostUnit → HostUnit) : (b.modHost f).time = b.time := rfl
@[simp] theorem Block.modHost_ctxs (b : Block) (f : HostUnit → HostUnit) : (b.modHost f).ctxs = b.ctxs := rfl
@[simp] theorem Block.modHost_parts (b : Block) (f : HostUnit → HostUnit) : (b.modHost f).parts = b.parts := rfl
@[simp] theorem Block.modHost_released (b : Block) (f : HostUnit → HostUnit) : (b.modHost f).released = b.released := rfl
@[simp] theorem Block.modHost_blockDups (b : Block) (f : HostUnit → HostUnit) : (b.modHost f).blockDups = b.blockDups := rfl
@[simp] theorem Block.modHost_prepDups (b : Block) (f : HostUnit → HostUnit) : (b.modHost f).prepDups = b.prepDups := rfl
@[simp] theorem Block.modHost_blockSeq (b : Block) (f : HostUnit → HostUnit) : (b.modHost f).blockSeq = b.blockSeq := rfl
@[simp] theorem Block.modHost_egress (b : Block) (f : HostUnit → HostUnit) : (b.modHost f).egress = b.egress := rfl
@[simp] theorem Block.modHost_recorder (b : Block) (f : HostUnit → HostUnit) : (b.modHost f).recorder = b.recorder := rfl
@[simp] theorem Block.modHost_txn (b : Block) (f : HostUnit → HostUnit) : (b.modHost f).txn = b.txn := rfl
@[simp] theorem Block.modHost_power (b : Block) (f : HostUnit → HostUnit) : (b.modHost f).power = b.power := rfl
@[simp] theorem Block.modHost_switchMark (b : Block) (f : HostUnit → HostUnit) : (b.modHost f).switchMark = b.switchMark := rfl
@[simp] theorem Block.modHost_periods (b : Block) (f : HostUnit → HostUnit) : (b.modHost f).periods = b.periods := rfl
@[simp] theorem Block.modHost_die (b : Block) (f : HostUnit → HostUnit) : (b.modHost f).die = b.die := rfl
@[simp] theorem Block.modHost_tray_present (b : Block) (f : HostUnit → HostUnit) : (b.modHost f).tray.present = b.tray.present := rfl
@[simp] theorem Block.modHost_tray_placed (b : Block) (f : HostUnit → HostUnit) : (b.modHost f).tray.placed = b.tray.placed := rfl
@[simp] theorem Block.modHost_tray_i3c (b : Block) (f : HostUnit → HostUnit) : (b.modHost f).tray.i3c = b.tray.i3c := rfl
@[simp] theorem Block.modHost_tray_flashTable (b : Block) (f : HostUnit → HostUnit) : (b.modHost f).tray.flashTable = b.tray.flashTable := rfl
@[simp] theorem Block.modHost_tray_ptp (b : Block) (f : HostUnit → HostUnit) : (b.modHost f).tray.ptp = b.tray.ptp := rfl
@[simp] theorem Block.modHost_tray_host (b : Block) (f : HostUnit → HostUnit) : (b.modHost f).tray.host = f b.tray.host := rfl
@[simp] theorem Block.modHost_tray_presence (b : Block) (f : HostUnit → HostUnit) : (b.modHost f).tray.presence = b.tray.presence := rfl
@[simp] theorem Block.modHost_tray_stewards (b : Block) (f : HostUnit → HostUnit) : (b.modHost f).tray.stewards = b.tray.stewards := rfl
@[simp] theorem Block.modHost_tray_flash (b : Block) (f : HostUnit → HostUnit) : (b.modHost f).tray.flash = b.tray.flash := rfl
@[simp] theorem Block.modHost_tray_powerOn (b : Block) (f : HostUnit → HostUnit) : (b.modHost f).tray.powerOn = b.tray.powerOn := rfl
@[simp] theorem Block.modHost_tray_recordCopy (b : Block) (f : HostUnit → HostUnit) : (b.modHost f).tray.recordCopy = b.tray.recordCopy := rfl
@[simp] theorem Block.modHost_tray_window (b : Block) (f : HostUnit → HostUnit) : (b.modHost f).tray.window = b.tray.window := rfl
@[simp] theorem Block.modHost_tray_roles (b : Block) (f : HostUnit → HostUnit) : (b.modHost f).tray.roles = b.tray.roles := rfl
@[simp] theorem Block.modHost_tray_seenGen (b : Block) (f : HostUnit → HostUnit) : (b.modHost f).tray.seenGen = b.tray.seenGen := rfl
@[simp] theorem Block.modHost_tray_peers (b : Block) (f : HostUnit → HostUnit) : (b.modHost f).tray.peers = b.tray.peers := rfl
@[simp] theorem Block.modHost_tray_test (b : Block) (f : HostUnit → HostUnit) : (b.modHost f).tray.test = b.tray.test := rfl
@[simp] theorem Block.modHost_tray_plane (b : Block) (f : HostUnit → HostUnit) : (b.modHost f).tray.plane = b.tray.plane := rfl
@[simp] theorem Block.modHost_tray_history (b : Block) (f : HostUnit → HostUnit) : (b.modHost f).tray.history = b.tray.history := rfl
@[simp] theorem Block.modHost_tray_loafFaults (b : Block) (f : HostUnit → HostUnit) : (b.modHost f).tray.loafFaults = b.tray.loafFaults := rfl
@[simp] theorem Block.modHost_tray_jtag (b : Block) (f : HostUnit → HostUnit) : (b.modHost f).tray.jtag = b.tray.jtag := rfl
@[simp] theorem Block.modHost_tray_stacksReady (b : Block) (f : HostUnit → HostUnit) : (b.modHost f).tray.stacksReady = b.tray.stacksReady := rfl
@[simp] theorem Block.modHost_tray_stacksFailed (b : Block) (f : HostUnit → HostUnit) : (b.modHost f).tray.stacksFailed = b.tray.stacksFailed := rfl

/-! ### modPres -/

@[simp] theorem Block.modPres_build (b : Block) (f : Presence → Presence) : (b.modPres f).build = b.build := rfl
@[simp] theorem Block.modPres_strapSlot (b : Block) (f : Presence → Presence) : (b.modPres f).strapSlot = b.strapSlot := rfl
@[simp] theorem Block.modPres_strapLocal (b : Block) (f : Presence → Presence) : (b.modPres f).strapLocal = b.strapLocal := rfl
@[simp] theorem Block.modPres_strapPkg (b : Block) (f : Presence → Presence) : (b.modPres f).strapPkg = b.strapPkg := rfl
@[simp] theorem Block.modPres_regs (b : Block) (f : Presence → Presence) : (b.modPres f).regs = b.regs := rfl
@[simp] theorem Block.modPres_wide (b : Block) (f : Presence → Presence) : (b.modPres f).wide = b.wide := rfl
@[simp] theorem Block.modPres_rdata (b : Block) (f : Presence → Presence) : (b.modPres f).rdata = b.rdata := rfl
@[simp] theorem Block.modPres_access (b : Block) (f : Presence → Presence) : (b.modPres f).access = b.access := rfl
@[simp] theorem Block.modPres_fresh (b : Block) (f : Presence → Presence) : (b.modPres f).fresh = b.fresh := rfl
@[simp] theorem Block.modPres_time (b : Block) (f : Presence → Presence) : (b.modPres f).time = b.time := rfl
@[simp] theorem Block.modPres_ctxs (b : Block) (f : Presence → Presence) : (b.modPres f).ctxs = b.ctxs := rfl
@[simp] theorem Block.modPres_parts (b : Block) (f : Presence → Presence) : (b.modPres f).parts = b.parts := rfl
@[simp] theorem Block.modPres_released (b : Block) (f : Presence → Presence) : (b.modPres f).released = b.released := rfl
@[simp] theorem Block.modPres_blockDups (b : Block) (f : Presence → Presence) : (b.modPres f).blockDups = b.blockDups := rfl
@[simp] theorem Block.modPres_prepDups (b : Block) (f : Presence → Presence) : (b.modPres f).prepDups = b.prepDups := rfl
@[simp] theorem Block.modPres_blockSeq (b : Block) (f : Presence → Presence) : (b.modPres f).blockSeq = b.blockSeq := rfl
@[simp] theorem Block.modPres_egress (b : Block) (f : Presence → Presence) : (b.modPres f).egress = b.egress := rfl
@[simp] theorem Block.modPres_recorder (b : Block) (f : Presence → Presence) : (b.modPres f).recorder = b.recorder := rfl
@[simp] theorem Block.modPres_txn (b : Block) (f : Presence → Presence) : (b.modPres f).txn = b.txn := rfl
@[simp] theorem Block.modPres_power (b : Block) (f : Presence → Presence) : (b.modPres f).power = b.power := rfl
@[simp] theorem Block.modPres_switchMark (b : Block) (f : Presence → Presence) : (b.modPres f).switchMark = b.switchMark := rfl
@[simp] theorem Block.modPres_periods (b : Block) (f : Presence → Presence) : (b.modPres f).periods = b.periods := rfl
@[simp] theorem Block.modPres_die (b : Block) (f : Presence → Presence) : (b.modPres f).die = b.die := rfl
@[simp] theorem Block.modPres_tray_present (b : Block) (f : Presence → Presence) : (b.modPres f).tray.present = b.tray.present := rfl
@[simp] theorem Block.modPres_tray_placed (b : Block) (f : Presence → Presence) : (b.modPres f).tray.placed = b.tray.placed := rfl
@[simp] theorem Block.modPres_tray_i3c (b : Block) (f : Presence → Presence) : (b.modPres f).tray.i3c = b.tray.i3c := rfl
@[simp] theorem Block.modPres_tray_flashTable (b : Block) (f : Presence → Presence) : (b.modPres f).tray.flashTable = b.tray.flashTable := rfl
@[simp] theorem Block.modPres_tray_ptp (b : Block) (f : Presence → Presence) : (b.modPres f).tray.ptp = b.tray.ptp := rfl
@[simp] theorem Block.modPres_tray_host (b : Block) (f : Presence → Presence) : (b.modPres f).tray.host = b.tray.host := rfl
@[simp] theorem Block.modPres_tray_presence (b : Block) (f : Presence → Presence) : (b.modPres f).tray.presence = f b.tray.presence := rfl
@[simp] theorem Block.modPres_tray_stewards (b : Block) (f : Presence → Presence) : (b.modPres f).tray.stewards = b.tray.stewards := rfl
@[simp] theorem Block.modPres_tray_flash (b : Block) (f : Presence → Presence) : (b.modPres f).tray.flash = b.tray.flash := rfl
@[simp] theorem Block.modPres_tray_powerOn (b : Block) (f : Presence → Presence) : (b.modPres f).tray.powerOn = b.tray.powerOn := rfl
@[simp] theorem Block.modPres_tray_recordCopy (b : Block) (f : Presence → Presence) : (b.modPres f).tray.recordCopy = b.tray.recordCopy := rfl
@[simp] theorem Block.modPres_tray_window (b : Block) (f : Presence → Presence) : (b.modPres f).tray.window = b.tray.window := rfl
@[simp] theorem Block.modPres_tray_roles (b : Block) (f : Presence → Presence) : (b.modPres f).tray.roles = b.tray.roles := rfl
@[simp] theorem Block.modPres_tray_seenGen (b : Block) (f : Presence → Presence) : (b.modPres f).tray.seenGen = b.tray.seenGen := rfl
@[simp] theorem Block.modPres_tray_peers (b : Block) (f : Presence → Presence) : (b.modPres f).tray.peers = b.tray.peers := rfl
@[simp] theorem Block.modPres_tray_test (b : Block) (f : Presence → Presence) : (b.modPres f).tray.test = b.tray.test := rfl
@[simp] theorem Block.modPres_tray_plane (b : Block) (f : Presence → Presence) : (b.modPres f).tray.plane = b.tray.plane := rfl
@[simp] theorem Block.modPres_tray_history (b : Block) (f : Presence → Presence) : (b.modPres f).tray.history = b.tray.history := rfl
@[simp] theorem Block.modPres_tray_loafFaults (b : Block) (f : Presence → Presence) : (b.modPres f).tray.loafFaults = b.tray.loafFaults := rfl
@[simp] theorem Block.modPres_tray_jtag (b : Block) (f : Presence → Presence) : (b.modPres f).tray.jtag = b.tray.jtag := rfl
@[simp] theorem Block.modPres_tray_stacksReady (b : Block) (f : Presence → Presence) : (b.modPres f).tray.stacksReady = b.tray.stacksReady := rfl
@[simp] theorem Block.modPres_tray_stacksFailed (b : Block) (f : Presence → Presence) : (b.modPres f).tray.stacksFailed = b.tray.stacksFailed := rfl

/-! ### modPtp -/

@[simp] theorem Block.modPtp_build (b : Block) (f : PtpUnit → PtpUnit) : (b.modPtp f).build = b.build := rfl
@[simp] theorem Block.modPtp_strapSlot (b : Block) (f : PtpUnit → PtpUnit) : (b.modPtp f).strapSlot = b.strapSlot := rfl
@[simp] theorem Block.modPtp_strapLocal (b : Block) (f : PtpUnit → PtpUnit) : (b.modPtp f).strapLocal = b.strapLocal := rfl
@[simp] theorem Block.modPtp_strapPkg (b : Block) (f : PtpUnit → PtpUnit) : (b.modPtp f).strapPkg = b.strapPkg := rfl
@[simp] theorem Block.modPtp_regs (b : Block) (f : PtpUnit → PtpUnit) : (b.modPtp f).regs = b.regs := rfl
@[simp] theorem Block.modPtp_wide (b : Block) (f : PtpUnit → PtpUnit) : (b.modPtp f).wide = b.wide := rfl
@[simp] theorem Block.modPtp_rdata (b : Block) (f : PtpUnit → PtpUnit) : (b.modPtp f).rdata = b.rdata := rfl
@[simp] theorem Block.modPtp_access (b : Block) (f : PtpUnit → PtpUnit) : (b.modPtp f).access = b.access := rfl
@[simp] theorem Block.modPtp_fresh (b : Block) (f : PtpUnit → PtpUnit) : (b.modPtp f).fresh = b.fresh := rfl
@[simp] theorem Block.modPtp_time (b : Block) (f : PtpUnit → PtpUnit) : (b.modPtp f).time = b.time := rfl
@[simp] theorem Block.modPtp_ctxs (b : Block) (f : PtpUnit → PtpUnit) : (b.modPtp f).ctxs = b.ctxs := rfl
@[simp] theorem Block.modPtp_parts (b : Block) (f : PtpUnit → PtpUnit) : (b.modPtp f).parts = b.parts := rfl
@[simp] theorem Block.modPtp_released (b : Block) (f : PtpUnit → PtpUnit) : (b.modPtp f).released = b.released := rfl
@[simp] theorem Block.modPtp_blockDups (b : Block) (f : PtpUnit → PtpUnit) : (b.modPtp f).blockDups = b.blockDups := rfl
@[simp] theorem Block.modPtp_prepDups (b : Block) (f : PtpUnit → PtpUnit) : (b.modPtp f).prepDups = b.prepDups := rfl
@[simp] theorem Block.modPtp_blockSeq (b : Block) (f : PtpUnit → PtpUnit) : (b.modPtp f).blockSeq = b.blockSeq := rfl
@[simp] theorem Block.modPtp_egress (b : Block) (f : PtpUnit → PtpUnit) : (b.modPtp f).egress = b.egress := rfl
@[simp] theorem Block.modPtp_recorder (b : Block) (f : PtpUnit → PtpUnit) : (b.modPtp f).recorder = b.recorder := rfl
@[simp] theorem Block.modPtp_txn (b : Block) (f : PtpUnit → PtpUnit) : (b.modPtp f).txn = b.txn := rfl
@[simp] theorem Block.modPtp_power (b : Block) (f : PtpUnit → PtpUnit) : (b.modPtp f).power = b.power := rfl
@[simp] theorem Block.modPtp_switchMark (b : Block) (f : PtpUnit → PtpUnit) : (b.modPtp f).switchMark = b.switchMark := rfl
@[simp] theorem Block.modPtp_periods (b : Block) (f : PtpUnit → PtpUnit) : (b.modPtp f).periods = b.periods := rfl
@[simp] theorem Block.modPtp_die (b : Block) (f : PtpUnit → PtpUnit) : (b.modPtp f).die = b.die := rfl
@[simp] theorem Block.modPtp_tray_present (b : Block) (f : PtpUnit → PtpUnit) : (b.modPtp f).tray.present = b.tray.present := rfl
@[simp] theorem Block.modPtp_tray_placed (b : Block) (f : PtpUnit → PtpUnit) : (b.modPtp f).tray.placed = b.tray.placed := rfl
@[simp] theorem Block.modPtp_tray_i3c (b : Block) (f : PtpUnit → PtpUnit) : (b.modPtp f).tray.i3c = b.tray.i3c := rfl
@[simp] theorem Block.modPtp_tray_flashTable (b : Block) (f : PtpUnit → PtpUnit) : (b.modPtp f).tray.flashTable = b.tray.flashTable := rfl
@[simp] theorem Block.modPtp_tray_ptp (b : Block) (f : PtpUnit → PtpUnit) : (b.modPtp f).tray.ptp = f b.tray.ptp := rfl
@[simp] theorem Block.modPtp_tray_host (b : Block) (f : PtpUnit → PtpUnit) : (b.modPtp f).tray.host = b.tray.host := rfl
@[simp] theorem Block.modPtp_tray_presence (b : Block) (f : PtpUnit → PtpUnit) : (b.modPtp f).tray.presence = b.tray.presence := rfl
@[simp] theorem Block.modPtp_tray_stewards (b : Block) (f : PtpUnit → PtpUnit) : (b.modPtp f).tray.stewards = b.tray.stewards := rfl
@[simp] theorem Block.modPtp_tray_flash (b : Block) (f : PtpUnit → PtpUnit) : (b.modPtp f).tray.flash = b.tray.flash := rfl
@[simp] theorem Block.modPtp_tray_powerOn (b : Block) (f : PtpUnit → PtpUnit) : (b.modPtp f).tray.powerOn = b.tray.powerOn := rfl
@[simp] theorem Block.modPtp_tray_recordCopy (b : Block) (f : PtpUnit → PtpUnit) : (b.modPtp f).tray.recordCopy = b.tray.recordCopy := rfl
@[simp] theorem Block.modPtp_tray_window (b : Block) (f : PtpUnit → PtpUnit) : (b.modPtp f).tray.window = b.tray.window := rfl
@[simp] theorem Block.modPtp_tray_roles (b : Block) (f : PtpUnit → PtpUnit) : (b.modPtp f).tray.roles = b.tray.roles := rfl
@[simp] theorem Block.modPtp_tray_seenGen (b : Block) (f : PtpUnit → PtpUnit) : (b.modPtp f).tray.seenGen = b.tray.seenGen := rfl
@[simp] theorem Block.modPtp_tray_peers (b : Block) (f : PtpUnit → PtpUnit) : (b.modPtp f).tray.peers = b.tray.peers := rfl
@[simp] theorem Block.modPtp_tray_test (b : Block) (f : PtpUnit → PtpUnit) : (b.modPtp f).tray.test = b.tray.test := rfl
@[simp] theorem Block.modPtp_tray_plane (b : Block) (f : PtpUnit → PtpUnit) : (b.modPtp f).tray.plane = b.tray.plane := rfl
@[simp] theorem Block.modPtp_tray_history (b : Block) (f : PtpUnit → PtpUnit) : (b.modPtp f).tray.history = b.tray.history := rfl
@[simp] theorem Block.modPtp_tray_loafFaults (b : Block) (f : PtpUnit → PtpUnit) : (b.modPtp f).tray.loafFaults = b.tray.loafFaults := rfl
@[simp] theorem Block.modPtp_tray_jtag (b : Block) (f : PtpUnit → PtpUnit) : (b.modPtp f).tray.jtag = b.tray.jtag := rfl
@[simp] theorem Block.modPtp_tray_stacksReady (b : Block) (f : PtpUnit → PtpUnit) : (b.modPtp f).tray.stacksReady = b.tray.stacksReady := rfl
@[simp] theorem Block.modPtp_tray_stacksFailed (b : Block) (f : PtpUnit → PtpUnit) : (b.modPtp f).tray.stacksFailed = b.tray.stacksFailed := rfl

/-! ### modPlane -/

@[simp] theorem Block.modPlane_build (b : Block) (f : PlaneUnit → PlaneUnit) : (b.modPlane f).build = b.build := rfl
@[simp] theorem Block.modPlane_strapSlot (b : Block) (f : PlaneUnit → PlaneUnit) : (b.modPlane f).strapSlot = b.strapSlot := rfl
@[simp] theorem Block.modPlane_strapLocal (b : Block) (f : PlaneUnit → PlaneUnit) : (b.modPlane f).strapLocal = b.strapLocal := rfl
@[simp] theorem Block.modPlane_strapPkg (b : Block) (f : PlaneUnit → PlaneUnit) : (b.modPlane f).strapPkg = b.strapPkg := rfl
@[simp] theorem Block.modPlane_regs (b : Block) (f : PlaneUnit → PlaneUnit) : (b.modPlane f).regs = b.regs := rfl
@[simp] theorem Block.modPlane_wide (b : Block) (f : PlaneUnit → PlaneUnit) : (b.modPlane f).wide = b.wide := rfl
@[simp] theorem Block.modPlane_rdata (b : Block) (f : PlaneUnit → PlaneUnit) : (b.modPlane f).rdata = b.rdata := rfl
@[simp] theorem Block.modPlane_access (b : Block) (f : PlaneUnit → PlaneUnit) : (b.modPlane f).access = b.access := rfl
@[simp] theorem Block.modPlane_fresh (b : Block) (f : PlaneUnit → PlaneUnit) : (b.modPlane f).fresh = b.fresh := rfl
@[simp] theorem Block.modPlane_time (b : Block) (f : PlaneUnit → PlaneUnit) : (b.modPlane f).time = b.time := rfl
@[simp] theorem Block.modPlane_ctxs (b : Block) (f : PlaneUnit → PlaneUnit) : (b.modPlane f).ctxs = b.ctxs := rfl
@[simp] theorem Block.modPlane_parts (b : Block) (f : PlaneUnit → PlaneUnit) : (b.modPlane f).parts = b.parts := rfl
@[simp] theorem Block.modPlane_released (b : Block) (f : PlaneUnit → PlaneUnit) : (b.modPlane f).released = b.released := rfl
@[simp] theorem Block.modPlane_blockDups (b : Block) (f : PlaneUnit → PlaneUnit) : (b.modPlane f).blockDups = b.blockDups := rfl
@[simp] theorem Block.modPlane_prepDups (b : Block) (f : PlaneUnit → PlaneUnit) : (b.modPlane f).prepDups = b.prepDups := rfl
@[simp] theorem Block.modPlane_blockSeq (b : Block) (f : PlaneUnit → PlaneUnit) : (b.modPlane f).blockSeq = b.blockSeq := rfl
@[simp] theorem Block.modPlane_egress (b : Block) (f : PlaneUnit → PlaneUnit) : (b.modPlane f).egress = b.egress := rfl
@[simp] theorem Block.modPlane_recorder (b : Block) (f : PlaneUnit → PlaneUnit) : (b.modPlane f).recorder = b.recorder := rfl
@[simp] theorem Block.modPlane_txn (b : Block) (f : PlaneUnit → PlaneUnit) : (b.modPlane f).txn = b.txn := rfl
@[simp] theorem Block.modPlane_power (b : Block) (f : PlaneUnit → PlaneUnit) : (b.modPlane f).power = b.power := rfl
@[simp] theorem Block.modPlane_switchMark (b : Block) (f : PlaneUnit → PlaneUnit) : (b.modPlane f).switchMark = b.switchMark := rfl
@[simp] theorem Block.modPlane_periods (b : Block) (f : PlaneUnit → PlaneUnit) : (b.modPlane f).periods = b.periods := rfl
@[simp] theorem Block.modPlane_die (b : Block) (f : PlaneUnit → PlaneUnit) : (b.modPlane f).die = b.die := rfl
@[simp] theorem Block.modPlane_tray_present (b : Block) (f : PlaneUnit → PlaneUnit) : (b.modPlane f).tray.present = b.tray.present := rfl
@[simp] theorem Block.modPlane_tray_placed (b : Block) (f : PlaneUnit → PlaneUnit) : (b.modPlane f).tray.placed = b.tray.placed := rfl
@[simp] theorem Block.modPlane_tray_i3c (b : Block) (f : PlaneUnit → PlaneUnit) : (b.modPlane f).tray.i3c = b.tray.i3c := rfl
@[simp] theorem Block.modPlane_tray_flashTable (b : Block) (f : PlaneUnit → PlaneUnit) : (b.modPlane f).tray.flashTable = b.tray.flashTable := rfl
@[simp] theorem Block.modPlane_tray_ptp (b : Block) (f : PlaneUnit → PlaneUnit) : (b.modPlane f).tray.ptp = b.tray.ptp := rfl
@[simp] theorem Block.modPlane_tray_host (b : Block) (f : PlaneUnit → PlaneUnit) : (b.modPlane f).tray.host = b.tray.host := rfl
@[simp] theorem Block.modPlane_tray_presence (b : Block) (f : PlaneUnit → PlaneUnit) : (b.modPlane f).tray.presence = b.tray.presence := rfl
@[simp] theorem Block.modPlane_tray_stewards (b : Block) (f : PlaneUnit → PlaneUnit) : (b.modPlane f).tray.stewards = b.tray.stewards := rfl
@[simp] theorem Block.modPlane_tray_flash (b : Block) (f : PlaneUnit → PlaneUnit) : (b.modPlane f).tray.flash = b.tray.flash := rfl
@[simp] theorem Block.modPlane_tray_powerOn (b : Block) (f : PlaneUnit → PlaneUnit) : (b.modPlane f).tray.powerOn = b.tray.powerOn := rfl
@[simp] theorem Block.modPlane_tray_recordCopy (b : Block) (f : PlaneUnit → PlaneUnit) : (b.modPlane f).tray.recordCopy = b.tray.recordCopy := rfl
@[simp] theorem Block.modPlane_tray_window (b : Block) (f : PlaneUnit → PlaneUnit) : (b.modPlane f).tray.window = b.tray.window := rfl
@[simp] theorem Block.modPlane_tray_roles (b : Block) (f : PlaneUnit → PlaneUnit) : (b.modPlane f).tray.roles = b.tray.roles := rfl
@[simp] theorem Block.modPlane_tray_seenGen (b : Block) (f : PlaneUnit → PlaneUnit) : (b.modPlane f).tray.seenGen = b.tray.seenGen := rfl
@[simp] theorem Block.modPlane_tray_peers (b : Block) (f : PlaneUnit → PlaneUnit) : (b.modPlane f).tray.peers = b.tray.peers := rfl
@[simp] theorem Block.modPlane_tray_test (b : Block) (f : PlaneUnit → PlaneUnit) : (b.modPlane f).tray.test = b.tray.test := rfl
@[simp] theorem Block.modPlane_tray_plane (b : Block) (f : PlaneUnit → PlaneUnit) : (b.modPlane f).tray.plane = f b.tray.plane := rfl
@[simp] theorem Block.modPlane_tray_history (b : Block) (f : PlaneUnit → PlaneUnit) : (b.modPlane f).tray.history = b.tray.history := rfl
@[simp] theorem Block.modPlane_tray_loafFaults (b : Block) (f : PlaneUnit → PlaneUnit) : (b.modPlane f).tray.loafFaults = b.tray.loafFaults := rfl
@[simp] theorem Block.modPlane_tray_jtag (b : Block) (f : PlaneUnit → PlaneUnit) : (b.modPlane f).tray.jtag = b.tray.jtag := rfl
@[simp] theorem Block.modPlane_tray_stacksReady (b : Block) (f : PlaneUnit → PlaneUnit) : (b.modPlane f).tray.stacksReady = b.tray.stacksReady := rfl
@[simp] theorem Block.modPlane_tray_stacksFailed (b : Block) (f : PlaneUnit → PlaneUnit) : (b.modPlane f).tray.stacksFailed = b.tray.stacksFailed := rfl

/-! ### modHist -/

@[simp] theorem Block.modHist_build (b : Block) (f : HistoryUnit → HistoryUnit) : (b.modHist f).build = b.build := rfl
@[simp] theorem Block.modHist_strapSlot (b : Block) (f : HistoryUnit → HistoryUnit) : (b.modHist f).strapSlot = b.strapSlot := rfl
@[simp] theorem Block.modHist_strapLocal (b : Block) (f : HistoryUnit → HistoryUnit) : (b.modHist f).strapLocal = b.strapLocal := rfl
@[simp] theorem Block.modHist_strapPkg (b : Block) (f : HistoryUnit → HistoryUnit) : (b.modHist f).strapPkg = b.strapPkg := rfl
@[simp] theorem Block.modHist_regs (b : Block) (f : HistoryUnit → HistoryUnit) : (b.modHist f).regs = b.regs := rfl
@[simp] theorem Block.modHist_wide (b : Block) (f : HistoryUnit → HistoryUnit) : (b.modHist f).wide = b.wide := rfl
@[simp] theorem Block.modHist_rdata (b : Block) (f : HistoryUnit → HistoryUnit) : (b.modHist f).rdata = b.rdata := rfl
@[simp] theorem Block.modHist_access (b : Block) (f : HistoryUnit → HistoryUnit) : (b.modHist f).access = b.access := rfl
@[simp] theorem Block.modHist_fresh (b : Block) (f : HistoryUnit → HistoryUnit) : (b.modHist f).fresh = b.fresh := rfl
@[simp] theorem Block.modHist_time (b : Block) (f : HistoryUnit → HistoryUnit) : (b.modHist f).time = b.time := rfl
@[simp] theorem Block.modHist_ctxs (b : Block) (f : HistoryUnit → HistoryUnit) : (b.modHist f).ctxs = b.ctxs := rfl
@[simp] theorem Block.modHist_parts (b : Block) (f : HistoryUnit → HistoryUnit) : (b.modHist f).parts = b.parts := rfl
@[simp] theorem Block.modHist_released (b : Block) (f : HistoryUnit → HistoryUnit) : (b.modHist f).released = b.released := rfl
@[simp] theorem Block.modHist_blockDups (b : Block) (f : HistoryUnit → HistoryUnit) : (b.modHist f).blockDups = b.blockDups := rfl
@[simp] theorem Block.modHist_prepDups (b : Block) (f : HistoryUnit → HistoryUnit) : (b.modHist f).prepDups = b.prepDups := rfl
@[simp] theorem Block.modHist_blockSeq (b : Block) (f : HistoryUnit → HistoryUnit) : (b.modHist f).blockSeq = b.blockSeq := rfl
@[simp] theorem Block.modHist_egress (b : Block) (f : HistoryUnit → HistoryUnit) : (b.modHist f).egress = b.egress := rfl
@[simp] theorem Block.modHist_recorder (b : Block) (f : HistoryUnit → HistoryUnit) : (b.modHist f).recorder = b.recorder := rfl
@[simp] theorem Block.modHist_txn (b : Block) (f : HistoryUnit → HistoryUnit) : (b.modHist f).txn = b.txn := rfl
@[simp] theorem Block.modHist_power (b : Block) (f : HistoryUnit → HistoryUnit) : (b.modHist f).power = b.power := rfl
@[simp] theorem Block.modHist_switchMark (b : Block) (f : HistoryUnit → HistoryUnit) : (b.modHist f).switchMark = b.switchMark := rfl
@[simp] theorem Block.modHist_periods (b : Block) (f : HistoryUnit → HistoryUnit) : (b.modHist f).periods = b.periods := rfl
@[simp] theorem Block.modHist_die (b : Block) (f : HistoryUnit → HistoryUnit) : (b.modHist f).die = b.die := rfl
@[simp] theorem Block.modHist_tray_present (b : Block) (f : HistoryUnit → HistoryUnit) : (b.modHist f).tray.present = b.tray.present := rfl
@[simp] theorem Block.modHist_tray_placed (b : Block) (f : HistoryUnit → HistoryUnit) : (b.modHist f).tray.placed = b.tray.placed := rfl
@[simp] theorem Block.modHist_tray_i3c (b : Block) (f : HistoryUnit → HistoryUnit) : (b.modHist f).tray.i3c = b.tray.i3c := rfl
@[simp] theorem Block.modHist_tray_flashTable (b : Block) (f : HistoryUnit → HistoryUnit) : (b.modHist f).tray.flashTable = b.tray.flashTable := rfl
@[simp] theorem Block.modHist_tray_ptp (b : Block) (f : HistoryUnit → HistoryUnit) : (b.modHist f).tray.ptp = b.tray.ptp := rfl
@[simp] theorem Block.modHist_tray_host (b : Block) (f : HistoryUnit → HistoryUnit) : (b.modHist f).tray.host = b.tray.host := rfl
@[simp] theorem Block.modHist_tray_presence (b : Block) (f : HistoryUnit → HistoryUnit) : (b.modHist f).tray.presence = b.tray.presence := rfl
@[simp] theorem Block.modHist_tray_stewards (b : Block) (f : HistoryUnit → HistoryUnit) : (b.modHist f).tray.stewards = b.tray.stewards := rfl
@[simp] theorem Block.modHist_tray_flash (b : Block) (f : HistoryUnit → HistoryUnit) : (b.modHist f).tray.flash = b.tray.flash := rfl
@[simp] theorem Block.modHist_tray_powerOn (b : Block) (f : HistoryUnit → HistoryUnit) : (b.modHist f).tray.powerOn = b.tray.powerOn := rfl
@[simp] theorem Block.modHist_tray_recordCopy (b : Block) (f : HistoryUnit → HistoryUnit) : (b.modHist f).tray.recordCopy = b.tray.recordCopy := rfl
@[simp] theorem Block.modHist_tray_window (b : Block) (f : HistoryUnit → HistoryUnit) : (b.modHist f).tray.window = b.tray.window := rfl
@[simp] theorem Block.modHist_tray_roles (b : Block) (f : HistoryUnit → HistoryUnit) : (b.modHist f).tray.roles = b.tray.roles := rfl
@[simp] theorem Block.modHist_tray_seenGen (b : Block) (f : HistoryUnit → HistoryUnit) : (b.modHist f).tray.seenGen = b.tray.seenGen := rfl
@[simp] theorem Block.modHist_tray_peers (b : Block) (f : HistoryUnit → HistoryUnit) : (b.modHist f).tray.peers = b.tray.peers := rfl
@[simp] theorem Block.modHist_tray_test (b : Block) (f : HistoryUnit → HistoryUnit) : (b.modHist f).tray.test = b.tray.test := rfl
@[simp] theorem Block.modHist_tray_plane (b : Block) (f : HistoryUnit → HistoryUnit) : (b.modHist f).tray.plane = b.tray.plane := rfl
@[simp] theorem Block.modHist_tray_history (b : Block) (f : HistoryUnit → HistoryUnit) : (b.modHist f).tray.history = f b.tray.history := rfl
@[simp] theorem Block.modHist_tray_loafFaults (b : Block) (f : HistoryUnit → HistoryUnit) : (b.modHist f).tray.loafFaults = b.tray.loafFaults := rfl
@[simp] theorem Block.modHist_tray_jtag (b : Block) (f : HistoryUnit → HistoryUnit) : (b.modHist f).tray.jtag = b.tray.jtag := rfl
@[simp] theorem Block.modHist_tray_stacksReady (b : Block) (f : HistoryUnit → HistoryUnit) : (b.modHist f).tray.stacksReady = b.tray.stacksReady := rfl
@[simp] theorem Block.modHist_tray_stacksFailed (b : Block) (f : HistoryUnit → HistoryUnit) : (b.modHist f).tray.stacksFailed = b.tray.stacksFailed := rfl

/-! ### modTest -/

@[simp] theorem Block.modTest_build (b : Block) (f : TestUnit → TestUnit) : (b.modTest f).build = b.build := rfl
@[simp] theorem Block.modTest_strapSlot (b : Block) (f : TestUnit → TestUnit) : (b.modTest f).strapSlot = b.strapSlot := rfl
@[simp] theorem Block.modTest_strapLocal (b : Block) (f : TestUnit → TestUnit) : (b.modTest f).strapLocal = b.strapLocal := rfl
@[simp] theorem Block.modTest_strapPkg (b : Block) (f : TestUnit → TestUnit) : (b.modTest f).strapPkg = b.strapPkg := rfl
@[simp] theorem Block.modTest_regs (b : Block) (f : TestUnit → TestUnit) : (b.modTest f).regs = b.regs := rfl
@[simp] theorem Block.modTest_wide (b : Block) (f : TestUnit → TestUnit) : (b.modTest f).wide = b.wide := rfl
@[simp] theorem Block.modTest_rdata (b : Block) (f : TestUnit → TestUnit) : (b.modTest f).rdata = b.rdata := rfl
@[simp] theorem Block.modTest_access (b : Block) (f : TestUnit → TestUnit) : (b.modTest f).access = b.access := rfl
@[simp] theorem Block.modTest_fresh (b : Block) (f : TestUnit → TestUnit) : (b.modTest f).fresh = b.fresh := rfl
@[simp] theorem Block.modTest_time (b : Block) (f : TestUnit → TestUnit) : (b.modTest f).time = b.time := rfl
@[simp] theorem Block.modTest_ctxs (b : Block) (f : TestUnit → TestUnit) : (b.modTest f).ctxs = b.ctxs := rfl
@[simp] theorem Block.modTest_parts (b : Block) (f : TestUnit → TestUnit) : (b.modTest f).parts = b.parts := rfl
@[simp] theorem Block.modTest_released (b : Block) (f : TestUnit → TestUnit) : (b.modTest f).released = b.released := rfl
@[simp] theorem Block.modTest_blockDups (b : Block) (f : TestUnit → TestUnit) : (b.modTest f).blockDups = b.blockDups := rfl
@[simp] theorem Block.modTest_prepDups (b : Block) (f : TestUnit → TestUnit) : (b.modTest f).prepDups = b.prepDups := rfl
@[simp] theorem Block.modTest_blockSeq (b : Block) (f : TestUnit → TestUnit) : (b.modTest f).blockSeq = b.blockSeq := rfl
@[simp] theorem Block.modTest_egress (b : Block) (f : TestUnit → TestUnit) : (b.modTest f).egress = b.egress := rfl
@[simp] theorem Block.modTest_recorder (b : Block) (f : TestUnit → TestUnit) : (b.modTest f).recorder = b.recorder := rfl
@[simp] theorem Block.modTest_txn (b : Block) (f : TestUnit → TestUnit) : (b.modTest f).txn = b.txn := rfl
@[simp] theorem Block.modTest_power (b : Block) (f : TestUnit → TestUnit) : (b.modTest f).power = b.power := rfl
@[simp] theorem Block.modTest_switchMark (b : Block) (f : TestUnit → TestUnit) : (b.modTest f).switchMark = b.switchMark := rfl
@[simp] theorem Block.modTest_periods (b : Block) (f : TestUnit → TestUnit) : (b.modTest f).periods = b.periods := rfl
@[simp] theorem Block.modTest_die (b : Block) (f : TestUnit → TestUnit) : (b.modTest f).die = b.die := rfl
@[simp] theorem Block.modTest_tray_present (b : Block) (f : TestUnit → TestUnit) : (b.modTest f).tray.present = b.tray.present := rfl
@[simp] theorem Block.modTest_tray_placed (b : Block) (f : TestUnit → TestUnit) : (b.modTest f).tray.placed = b.tray.placed := rfl
@[simp] theorem Block.modTest_tray_i3c (b : Block) (f : TestUnit → TestUnit) : (b.modTest f).tray.i3c = b.tray.i3c := rfl
@[simp] theorem Block.modTest_tray_flashTable (b : Block) (f : TestUnit → TestUnit) : (b.modTest f).tray.flashTable = b.tray.flashTable := rfl
@[simp] theorem Block.modTest_tray_ptp (b : Block) (f : TestUnit → TestUnit) : (b.modTest f).tray.ptp = b.tray.ptp := rfl
@[simp] theorem Block.modTest_tray_host (b : Block) (f : TestUnit → TestUnit) : (b.modTest f).tray.host = b.tray.host := rfl
@[simp] theorem Block.modTest_tray_presence (b : Block) (f : TestUnit → TestUnit) : (b.modTest f).tray.presence = b.tray.presence := rfl
@[simp] theorem Block.modTest_tray_stewards (b : Block) (f : TestUnit → TestUnit) : (b.modTest f).tray.stewards = b.tray.stewards := rfl
@[simp] theorem Block.modTest_tray_flash (b : Block) (f : TestUnit → TestUnit) : (b.modTest f).tray.flash = b.tray.flash := rfl
@[simp] theorem Block.modTest_tray_powerOn (b : Block) (f : TestUnit → TestUnit) : (b.modTest f).tray.powerOn = b.tray.powerOn := rfl
@[simp] theorem Block.modTest_tray_recordCopy (b : Block) (f : TestUnit → TestUnit) : (b.modTest f).tray.recordCopy = b.tray.recordCopy := rfl
@[simp] theorem Block.modTest_tray_window (b : Block) (f : TestUnit → TestUnit) : (b.modTest f).tray.window = b.tray.window := rfl
@[simp] theorem Block.modTest_tray_roles (b : Block) (f : TestUnit → TestUnit) : (b.modTest f).tray.roles = b.tray.roles := rfl
@[simp] theorem Block.modTest_tray_seenGen (b : Block) (f : TestUnit → TestUnit) : (b.modTest f).tray.seenGen = b.tray.seenGen := rfl
@[simp] theorem Block.modTest_tray_peers (b : Block) (f : TestUnit → TestUnit) : (b.modTest f).tray.peers = b.tray.peers := rfl
@[simp] theorem Block.modTest_tray_test (b : Block) (f : TestUnit → TestUnit) : (b.modTest f).tray.test = f b.tray.test := rfl
@[simp] theorem Block.modTest_tray_plane (b : Block) (f : TestUnit → TestUnit) : (b.modTest f).tray.plane = b.tray.plane := rfl
@[simp] theorem Block.modTest_tray_history (b : Block) (f : TestUnit → TestUnit) : (b.modTest f).tray.history = b.tray.history := rfl
@[simp] theorem Block.modTest_tray_loafFaults (b : Block) (f : TestUnit → TestUnit) : (b.modTest f).tray.loafFaults = b.tray.loafFaults := rfl
@[simp] theorem Block.modTest_tray_jtag (b : Block) (f : TestUnit → TestUnit) : (b.modTest f).tray.jtag = b.tray.jtag := rfl
@[simp] theorem Block.modTest_tray_stacksReady (b : Block) (f : TestUnit → TestUnit) : (b.modTest f).tray.stacksReady = b.tray.stacksReady := rfl
@[simp] theorem Block.modTest_tray_stacksFailed (b : Block) (f : TestUnit → TestUnit) : (b.modTest f).tray.stacksFailed = b.tray.stacksFailed := rfl

/-! ### modSteward -/

@[simp] theorem Block.modSteward_build (b : Block) (i : Nat) (f : Steward → Steward) : (b.modSteward i f).build = b.build := rfl
@[simp] theorem Block.modSteward_strapSlot (b : Block) (i : Nat) (f : Steward → Steward) : (b.modSteward i f).strapSlot = b.strapSlot := rfl
@[simp] theorem Block.modSteward_strapLocal (b : Block) (i : Nat) (f : Steward → Steward) : (b.modSteward i f).strapLocal = b.strapLocal := rfl
@[simp] theorem Block.modSteward_strapPkg (b : Block) (i : Nat) (f : Steward → Steward) : (b.modSteward i f).strapPkg = b.strapPkg := rfl
@[simp] theorem Block.modSteward_regs (b : Block) (i : Nat) (f : Steward → Steward) : (b.modSteward i f).regs = b.regs := rfl
@[simp] theorem Block.modSteward_wide (b : Block) (i : Nat) (f : Steward → Steward) : (b.modSteward i f).wide = b.wide := rfl
@[simp] theorem Block.modSteward_rdata (b : Block) (i : Nat) (f : Steward → Steward) : (b.modSteward i f).rdata = b.rdata := rfl
@[simp] theorem Block.modSteward_access (b : Block) (i : Nat) (f : Steward → Steward) : (b.modSteward i f).access = b.access := rfl
@[simp] theorem Block.modSteward_fresh (b : Block) (i : Nat) (f : Steward → Steward) : (b.modSteward i f).fresh = b.fresh := rfl
@[simp] theorem Block.modSteward_time (b : Block) (i : Nat) (f : Steward → Steward) : (b.modSteward i f).time = b.time := rfl
@[simp] theorem Block.modSteward_ctxs (b : Block) (i : Nat) (f : Steward → Steward) : (b.modSteward i f).ctxs = b.ctxs := rfl
@[simp] theorem Block.modSteward_parts (b : Block) (i : Nat) (f : Steward → Steward) : (b.modSteward i f).parts = b.parts := rfl
@[simp] theorem Block.modSteward_released (b : Block) (i : Nat) (f : Steward → Steward) : (b.modSteward i f).released = b.released := rfl
@[simp] theorem Block.modSteward_blockDups (b : Block) (i : Nat) (f : Steward → Steward) : (b.modSteward i f).blockDups = b.blockDups := rfl
@[simp] theorem Block.modSteward_prepDups (b : Block) (i : Nat) (f : Steward → Steward) : (b.modSteward i f).prepDups = b.prepDups := rfl
@[simp] theorem Block.modSteward_blockSeq (b : Block) (i : Nat) (f : Steward → Steward) : (b.modSteward i f).blockSeq = b.blockSeq := rfl
@[simp] theorem Block.modSteward_egress (b : Block) (i : Nat) (f : Steward → Steward) : (b.modSteward i f).egress = b.egress := rfl
@[simp] theorem Block.modSteward_recorder (b : Block) (i : Nat) (f : Steward → Steward) : (b.modSteward i f).recorder = b.recorder := rfl
@[simp] theorem Block.modSteward_txn (b : Block) (i : Nat) (f : Steward → Steward) : (b.modSteward i f).txn = b.txn := rfl
@[simp] theorem Block.modSteward_power (b : Block) (i : Nat) (f : Steward → Steward) : (b.modSteward i f).power = b.power := rfl
@[simp] theorem Block.modSteward_switchMark (b : Block) (i : Nat) (f : Steward → Steward) : (b.modSteward i f).switchMark = b.switchMark := rfl
@[simp] theorem Block.modSteward_periods (b : Block) (i : Nat) (f : Steward → Steward) : (b.modSteward i f).periods = b.periods := rfl
@[simp] theorem Block.modSteward_die (b : Block) (i : Nat) (f : Steward → Steward) : (b.modSteward i f).die = b.die := rfl
@[simp] theorem Block.modSteward_tray_present (b : Block) (i : Nat) (f : Steward → Steward) : (b.modSteward i f).tray.present = b.tray.present := rfl
@[simp] theorem Block.modSteward_tray_placed (b : Block) (i : Nat) (f : Steward → Steward) : (b.modSteward i f).tray.placed = b.tray.placed := rfl
@[simp] theorem Block.modSteward_tray_i3c (b : Block) (i : Nat) (f : Steward → Steward) : (b.modSteward i f).tray.i3c = b.tray.i3c := rfl
@[simp] theorem Block.modSteward_tray_flashTable (b : Block) (i : Nat) (f : Steward → Steward) : (b.modSteward i f).tray.flashTable = b.tray.flashTable := rfl
@[simp] theorem Block.modSteward_tray_ptp (b : Block) (i : Nat) (f : Steward → Steward) : (b.modSteward i f).tray.ptp = b.tray.ptp := rfl
@[simp] theorem Block.modSteward_tray_host (b : Block) (i : Nat) (f : Steward → Steward) : (b.modSteward i f).tray.host = b.tray.host := rfl
@[simp] theorem Block.modSteward_tray_presence (b : Block) (i : Nat) (f : Steward → Steward) : (b.modSteward i f).tray.presence = b.tray.presence := rfl
@[simp] theorem Block.modSteward_tray_flash (b : Block) (i : Nat) (f : Steward → Steward) : (b.modSteward i f).tray.flash = b.tray.flash := rfl
@[simp] theorem Block.modSteward_tray_powerOn (b : Block) (i : Nat) (f : Steward → Steward) : (b.modSteward i f).tray.powerOn = b.tray.powerOn := rfl
@[simp] theorem Block.modSteward_tray_recordCopy (b : Block) (i : Nat) (f : Steward → Steward) : (b.modSteward i f).tray.recordCopy = b.tray.recordCopy := rfl
@[simp] theorem Block.modSteward_tray_window (b : Block) (i : Nat) (f : Steward → Steward) : (b.modSteward i f).tray.window = b.tray.window := rfl
@[simp] theorem Block.modSteward_tray_roles (b : Block) (i : Nat) (f : Steward → Steward) : (b.modSteward i f).tray.roles = b.tray.roles := rfl
@[simp] theorem Block.modSteward_tray_seenGen (b : Block) (i : Nat) (f : Steward → Steward) : (b.modSteward i f).tray.seenGen = b.tray.seenGen := rfl
@[simp] theorem Block.modSteward_tray_peers (b : Block) (i : Nat) (f : Steward → Steward) : (b.modSteward i f).tray.peers = b.tray.peers := rfl
@[simp] theorem Block.modSteward_tray_test (b : Block) (i : Nat) (f : Steward → Steward) : (b.modSteward i f).tray.test = b.tray.test := rfl
@[simp] theorem Block.modSteward_tray_plane (b : Block) (i : Nat) (f : Steward → Steward) : (b.modSteward i f).tray.plane = b.tray.plane := rfl
@[simp] theorem Block.modSteward_tray_history (b : Block) (i : Nat) (f : Steward → Steward) : (b.modSteward i f).tray.history = b.tray.history := rfl
@[simp] theorem Block.modSteward_tray_loafFaults (b : Block) (i : Nat) (f : Steward → Steward) : (b.modSteward i f).tray.loafFaults = b.tray.loafFaults := rfl
@[simp] theorem Block.modSteward_tray_jtag (b : Block) (i : Nat) (f : Steward → Steward) : (b.modSteward i f).tray.jtag = b.tray.jtag := rfl
@[simp] theorem Block.modSteward_tray_stacksReady (b : Block) (i : Nat) (f : Steward → Steward) : (b.modSteward i f).tray.stacksReady = b.tray.stacksReady := rfl
@[simp] theorem Block.modSteward_tray_stacksFailed (b : Block) (i : Nat) (f : Steward → Steward) : (b.modSteward i f).tray.stacksFailed = b.tray.stacksFailed := rfl

/-! ### modWindow -/

@[simp] theorem Block.modWindow_build (b : Block) (f : FlashWindow → FlashWindow) : (b.modWindow f).build = b.build := rfl
@[simp] theorem Block.modWindow_strapSlot (b : Block) (f : FlashWindow → FlashWindow) : (b.modWindow f).strapSlot = b.strapSlot := rfl
@[simp] theorem Block.modWindow_strapLocal (b : Block) (f : FlashWindow → FlashWindow) : (b.modWindow f).strapLocal = b.strapLocal := rfl
@[simp] theorem Block.modWindow_strapPkg (b : Block) (f : FlashWindow → FlashWindow) : (b.modWindow f).strapPkg = b.strapPkg := rfl
@[simp] theorem Block.modWindow_regs (b : Block) (f : FlashWindow → FlashWindow) : (b.modWindow f).regs = b.regs := rfl
@[simp] theorem Block.modWindow_wide (b : Block) (f : FlashWindow → FlashWindow) : (b.modWindow f).wide = b.wide := rfl
@[simp] theorem Block.modWindow_rdata (b : Block) (f : FlashWindow → FlashWindow) : (b.modWindow f).rdata = b.rdata := rfl
@[simp] theorem Block.modWindow_access (b : Block) (f : FlashWindow → FlashWindow) : (b.modWindow f).access = b.access := rfl
@[simp] theorem Block.modWindow_fresh (b : Block) (f : FlashWindow → FlashWindow) : (b.modWindow f).fresh = b.fresh := rfl
@[simp] theorem Block.modWindow_time (b : Block) (f : FlashWindow → FlashWindow) : (b.modWindow f).time = b.time := rfl
@[simp] theorem Block.modWindow_ctxs (b : Block) (f : FlashWindow → FlashWindow) : (b.modWindow f).ctxs = b.ctxs := rfl
@[simp] theorem Block.modWindow_parts (b : Block) (f : FlashWindow → FlashWindow) : (b.modWindow f).parts = b.parts := rfl
@[simp] theorem Block.modWindow_released (b : Block) (f : FlashWindow → FlashWindow) : (b.modWindow f).released = b.released := rfl
@[simp] theorem Block.modWindow_blockDups (b : Block) (f : FlashWindow → FlashWindow) : (b.modWindow f).blockDups = b.blockDups := rfl
@[simp] theorem Block.modWindow_prepDups (b : Block) (f : FlashWindow → FlashWindow) : (b.modWindow f).prepDups = b.prepDups := rfl
@[simp] theorem Block.modWindow_blockSeq (b : Block) (f : FlashWindow → FlashWindow) : (b.modWindow f).blockSeq = b.blockSeq := rfl
@[simp] theorem Block.modWindow_egress (b : Block) (f : FlashWindow → FlashWindow) : (b.modWindow f).egress = b.egress := rfl
@[simp] theorem Block.modWindow_recorder (b : Block) (f : FlashWindow → FlashWindow) : (b.modWindow f).recorder = b.recorder := rfl
@[simp] theorem Block.modWindow_txn (b : Block) (f : FlashWindow → FlashWindow) : (b.modWindow f).txn = b.txn := rfl
@[simp] theorem Block.modWindow_power (b : Block) (f : FlashWindow → FlashWindow) : (b.modWindow f).power = b.power := rfl
@[simp] theorem Block.modWindow_switchMark (b : Block) (f : FlashWindow → FlashWindow) : (b.modWindow f).switchMark = b.switchMark := rfl
@[simp] theorem Block.modWindow_periods (b : Block) (f : FlashWindow → FlashWindow) : (b.modWindow f).periods = b.periods := rfl
@[simp] theorem Block.modWindow_die (b : Block) (f : FlashWindow → FlashWindow) : (b.modWindow f).die = b.die := rfl
@[simp] theorem Block.modWindow_tray_present (b : Block) (f : FlashWindow → FlashWindow) : (b.modWindow f).tray.present = b.tray.present := rfl
@[simp] theorem Block.modWindow_tray_placed (b : Block) (f : FlashWindow → FlashWindow) : (b.modWindow f).tray.placed = b.tray.placed := rfl
@[simp] theorem Block.modWindow_tray_i3c (b : Block) (f : FlashWindow → FlashWindow) : (b.modWindow f).tray.i3c = b.tray.i3c := rfl
@[simp] theorem Block.modWindow_tray_flashTable (b : Block) (f : FlashWindow → FlashWindow) : (b.modWindow f).tray.flashTable = b.tray.flashTable := rfl
@[simp] theorem Block.modWindow_tray_ptp (b : Block) (f : FlashWindow → FlashWindow) : (b.modWindow f).tray.ptp = b.tray.ptp := rfl
@[simp] theorem Block.modWindow_tray_host (b : Block) (f : FlashWindow → FlashWindow) : (b.modWindow f).tray.host = b.tray.host := rfl
@[simp] theorem Block.modWindow_tray_presence (b : Block) (f : FlashWindow → FlashWindow) : (b.modWindow f).tray.presence = b.tray.presence := rfl
@[simp] theorem Block.modWindow_tray_stewards (b : Block) (f : FlashWindow → FlashWindow) : (b.modWindow f).tray.stewards = b.tray.stewards := rfl
@[simp] theorem Block.modWindow_tray_flash (b : Block) (f : FlashWindow → FlashWindow) : (b.modWindow f).tray.flash = b.tray.flash := rfl
@[simp] theorem Block.modWindow_tray_powerOn (b : Block) (f : FlashWindow → FlashWindow) : (b.modWindow f).tray.powerOn = b.tray.powerOn := rfl
@[simp] theorem Block.modWindow_tray_recordCopy (b : Block) (f : FlashWindow → FlashWindow) : (b.modWindow f).tray.recordCopy = b.tray.recordCopy := rfl
@[simp] theorem Block.modWindow_tray_window (b : Block) (f : FlashWindow → FlashWindow) : (b.modWindow f).tray.window = f b.tray.window := rfl
@[simp] theorem Block.modWindow_tray_roles (b : Block) (f : FlashWindow → FlashWindow) : (b.modWindow f).tray.roles = b.tray.roles := rfl
@[simp] theorem Block.modWindow_tray_seenGen (b : Block) (f : FlashWindow → FlashWindow) : (b.modWindow f).tray.seenGen = b.tray.seenGen := rfl
@[simp] theorem Block.modWindow_tray_peers (b : Block) (f : FlashWindow → FlashWindow) : (b.modWindow f).tray.peers = b.tray.peers := rfl
@[simp] theorem Block.modWindow_tray_test (b : Block) (f : FlashWindow → FlashWindow) : (b.modWindow f).tray.test = b.tray.test := rfl
@[simp] theorem Block.modWindow_tray_plane (b : Block) (f : FlashWindow → FlashWindow) : (b.modWindow f).tray.plane = b.tray.plane := rfl
@[simp] theorem Block.modWindow_tray_history (b : Block) (f : FlashWindow → FlashWindow) : (b.modWindow f).tray.history = b.tray.history := rfl
@[simp] theorem Block.modWindow_tray_loafFaults (b : Block) (f : FlashWindow → FlashWindow) : (b.modWindow f).tray.loafFaults = b.tray.loafFaults := rfl
@[simp] theorem Block.modWindow_tray_jtag (b : Block) (f : FlashWindow → FlashWindow) : (b.modWindow f).tray.jtag = b.tray.jtag := rfl
@[simp] theorem Block.modWindow_tray_stacksReady (b : Block) (f : FlashWindow → FlashWindow) : (b.modWindow f).tray.stacksReady = b.tray.stacksReady := rfl
@[simp] theorem Block.modWindow_tray_stacksFailed (b : Block) (f : FlashWindow → FlashWindow) : (b.modWindow f).tray.stacksFailed = b.tray.stacksFailed := rfl

/-! ### modFlash -/

@[simp] theorem Block.modFlash_build (b : Block) (f : Sparse Byte → Sparse Byte) : (b.modFlash f).build = b.build := rfl
@[simp] theorem Block.modFlash_strapSlot (b : Block) (f : Sparse Byte → Sparse Byte) : (b.modFlash f).strapSlot = b.strapSlot := rfl
@[simp] theorem Block.modFlash_strapLocal (b : Block) (f : Sparse Byte → Sparse Byte) : (b.modFlash f).strapLocal = b.strapLocal := rfl
@[simp] theorem Block.modFlash_strapPkg (b : Block) (f : Sparse Byte → Sparse Byte) : (b.modFlash f).strapPkg = b.strapPkg := rfl
@[simp] theorem Block.modFlash_regs (b : Block) (f : Sparse Byte → Sparse Byte) : (b.modFlash f).regs = b.regs := rfl
@[simp] theorem Block.modFlash_wide (b : Block) (f : Sparse Byte → Sparse Byte) : (b.modFlash f).wide = b.wide := rfl
@[simp] theorem Block.modFlash_rdata (b : Block) (f : Sparse Byte → Sparse Byte) : (b.modFlash f).rdata = b.rdata := rfl
@[simp] theorem Block.modFlash_access (b : Block) (f : Sparse Byte → Sparse Byte) : (b.modFlash f).access = b.access := rfl
@[simp] theorem Block.modFlash_fresh (b : Block) (f : Sparse Byte → Sparse Byte) : (b.modFlash f).fresh = b.fresh := rfl
@[simp] theorem Block.modFlash_time (b : Block) (f : Sparse Byte → Sparse Byte) : (b.modFlash f).time = b.time := rfl
@[simp] theorem Block.modFlash_ctxs (b : Block) (f : Sparse Byte → Sparse Byte) : (b.modFlash f).ctxs = b.ctxs := rfl
@[simp] theorem Block.modFlash_parts (b : Block) (f : Sparse Byte → Sparse Byte) : (b.modFlash f).parts = b.parts := rfl
@[simp] theorem Block.modFlash_released (b : Block) (f : Sparse Byte → Sparse Byte) : (b.modFlash f).released = b.released := rfl
@[simp] theorem Block.modFlash_blockDups (b : Block) (f : Sparse Byte → Sparse Byte) : (b.modFlash f).blockDups = b.blockDups := rfl
@[simp] theorem Block.modFlash_prepDups (b : Block) (f : Sparse Byte → Sparse Byte) : (b.modFlash f).prepDups = b.prepDups := rfl
@[simp] theorem Block.modFlash_blockSeq (b : Block) (f : Sparse Byte → Sparse Byte) : (b.modFlash f).blockSeq = b.blockSeq := rfl
@[simp] theorem Block.modFlash_egress (b : Block) (f : Sparse Byte → Sparse Byte) : (b.modFlash f).egress = b.egress := rfl
@[simp] theorem Block.modFlash_recorder (b : Block) (f : Sparse Byte → Sparse Byte) : (b.modFlash f).recorder = b.recorder := rfl
@[simp] theorem Block.modFlash_txn (b : Block) (f : Sparse Byte → Sparse Byte) : (b.modFlash f).txn = b.txn := rfl
@[simp] theorem Block.modFlash_power (b : Block) (f : Sparse Byte → Sparse Byte) : (b.modFlash f).power = b.power := rfl
@[simp] theorem Block.modFlash_switchMark (b : Block) (f : Sparse Byte → Sparse Byte) : (b.modFlash f).switchMark = b.switchMark := rfl
@[simp] theorem Block.modFlash_periods (b : Block) (f : Sparse Byte → Sparse Byte) : (b.modFlash f).periods = b.periods := rfl
@[simp] theorem Block.modFlash_die (b : Block) (f : Sparse Byte → Sparse Byte) : (b.modFlash f).die = b.die := rfl
@[simp] theorem Block.modFlash_tray_present (b : Block) (f : Sparse Byte → Sparse Byte) : (b.modFlash f).tray.present = b.tray.present := rfl
@[simp] theorem Block.modFlash_tray_placed (b : Block) (f : Sparse Byte → Sparse Byte) : (b.modFlash f).tray.placed = b.tray.placed := rfl
@[simp] theorem Block.modFlash_tray_i3c (b : Block) (f : Sparse Byte → Sparse Byte) : (b.modFlash f).tray.i3c = b.tray.i3c := rfl
@[simp] theorem Block.modFlash_tray_flashTable (b : Block) (f : Sparse Byte → Sparse Byte) : (b.modFlash f).tray.flashTable = b.tray.flashTable := rfl
@[simp] theorem Block.modFlash_tray_ptp (b : Block) (f : Sparse Byte → Sparse Byte) : (b.modFlash f).tray.ptp = b.tray.ptp := rfl
@[simp] theorem Block.modFlash_tray_host (b : Block) (f : Sparse Byte → Sparse Byte) : (b.modFlash f).tray.host = b.tray.host := rfl
@[simp] theorem Block.modFlash_tray_presence (b : Block) (f : Sparse Byte → Sparse Byte) : (b.modFlash f).tray.presence = b.tray.presence := rfl
@[simp] theorem Block.modFlash_tray_stewards (b : Block) (f : Sparse Byte → Sparse Byte) : (b.modFlash f).tray.stewards = b.tray.stewards := rfl
@[simp] theorem Block.modFlash_tray_flash (b : Block) (f : Sparse Byte → Sparse Byte) : (b.modFlash f).tray.flash = f b.tray.flash := rfl
@[simp] theorem Block.modFlash_tray_powerOn (b : Block) (f : Sparse Byte → Sparse Byte) : (b.modFlash f).tray.powerOn = b.tray.powerOn := rfl
@[simp] theorem Block.modFlash_tray_recordCopy (b : Block) (f : Sparse Byte → Sparse Byte) : (b.modFlash f).tray.recordCopy = b.tray.recordCopy := rfl
@[simp] theorem Block.modFlash_tray_window (b : Block) (f : Sparse Byte → Sparse Byte) : (b.modFlash f).tray.window = b.tray.window := rfl
@[simp] theorem Block.modFlash_tray_roles (b : Block) (f : Sparse Byte → Sparse Byte) : (b.modFlash f).tray.roles = b.tray.roles := rfl
@[simp] theorem Block.modFlash_tray_seenGen (b : Block) (f : Sparse Byte → Sparse Byte) : (b.modFlash f).tray.seenGen = b.tray.seenGen := rfl
@[simp] theorem Block.modFlash_tray_peers (b : Block) (f : Sparse Byte → Sparse Byte) : (b.modFlash f).tray.peers = b.tray.peers := rfl
@[simp] theorem Block.modFlash_tray_test (b : Block) (f : Sparse Byte → Sparse Byte) : (b.modFlash f).tray.test = b.tray.test := rfl
@[simp] theorem Block.modFlash_tray_plane (b : Block) (f : Sparse Byte → Sparse Byte) : (b.modFlash f).tray.plane = b.tray.plane := rfl
@[simp] theorem Block.modFlash_tray_history (b : Block) (f : Sparse Byte → Sparse Byte) : (b.modFlash f).tray.history = b.tray.history := rfl
@[simp] theorem Block.modFlash_tray_loafFaults (b : Block) (f : Sparse Byte → Sparse Byte) : (b.modFlash f).tray.loafFaults = b.tray.loafFaults := rfl
@[simp] theorem Block.modFlash_tray_jtag (b : Block) (f : Sparse Byte → Sparse Byte) : (b.modFlash f).tray.jtag = b.tray.jtag := rfl
@[simp] theorem Block.modFlash_tray_stacksReady (b : Block) (f : Sparse Byte → Sparse Byte) : (b.modFlash f).tray.stacksReady = b.tray.stacksReady := rfl
@[simp] theorem Block.modFlash_tray_stacksFailed (b : Block) (f : Sparse Byte → Sparse Byte) : (b.modFlash f).tray.stacksFailed = b.tray.stacksFailed := rfl

end Sys2Proof.Machine
end

