-- ==== Sys2Proof/Laws/Ops.lean ====
section
/-! SUPPORT. What each shared operation can do, said once: lifting to the machine, triggers and folds, contexts, registers and flags, the
descriptor in turn, what a receiver hears, host memory. -/

namespace Sys2Proof.Machine

/-! ### Lifting -/

/-- A command of one block always answers a next state; while the block runs, that block's new value, otherwise the same state. -/
theorem onBlock_eq (b : Build) (f : Block → Block) (s : State) :
    onBlock b f s = .next (if s.running b then s.setBlock b (f (s.block b)) else s) := rfl

theorem onBlock_running (b : Build) (f : Block → Block) (s : State) (h : s.running b = true) :
    onBlock b f s = .next (s.setBlock b (f (s.block b))) := by simp [onBlock, h]

theorem onBlock_stopped (b : Build) (f : Block → Block) (s : State) (h : s.running b = false) : onBlock b f s = .next s := by
  simp [onBlock, h]

theorem onDie_running (f : Block → Block) (s : State) (h : s.running .D = true) : onDie f s = .next (s.setBlock .D (f s.d)) :=
  onBlock_running .D f s h

theorem onTray_running (f : Block → Block) (s : State) (h : s.running .T = true) : onTray f s = .next (s.setBlock .T (f s.t)) :=
  onBlock_running .T f s h

/-- What a command of one block can do: the reset lines, the alignment, the queue and the other block stay. -/
theorem onBlock_frame (b : Build) (f : Block → Block) (s t : State) (h : onBlock b f s = .next t) :
    t.dReset = s.dReset ∧ t.tReset = s.tReset ∧ t.tAligned = s.tAligned ∧ t.pending = s.pending ∧
      (∀ c, c ≠ b → t.block c = s.block c) ∧ t.block b = if s.running b then f (s.block b) else s.block b := by
  simp only [onBlock, Host.Outcome.next.injEq] at h
  subst h
  by_cases hr : s.running b = true
  · simp only [if_pos hr]
    exact ⟨by simp, by simp, by simp, by simp, fun c hc => by simp [Ne.symm hc], by simp⟩
  · simp only [if_neg hr]
    exact ⟨by simp, by simp, by simp, by simp, fun _ _ => by simp, by simp⟩

@[simp] theorem Block.when_true (b : Block) (f : Block → Block) : b.when true f = f b := rfl
@[simp] theorem Block.when_false (b : Block) (f : Block → Block) : b.when false f = b := rfl

@[simp] theorem Block.forEach_nil {α : Type} (b : Block) (f : Block → α → Block) : b.forEach [] f = b := rfl
@[simp] theorem Block.forEach_cons {α : Type} (b : Block) (x : α) (xs : List α) (f : Block → α → Block) :
    b.forEach (x :: xs) f = (f b x).forEach xs f := rfl
theorem Block.forEach_append {α : Type} (b : Block) (xs ys : List α) (f : Block → α → Block) :
    b.forEach (xs ++ ys) f = (b.forEach xs f).forEach ys f := List.foldl_append

/-- What every iteration keeps, the fold keeps. -/
theorem Block.forEach_keeps {α : Type} (P : Block → Prop) (f : Block → α → Block) (xs : List α) (b : Block) (h : P b)
    (hf : ∀ b x, P b → P (f b x)) : P (b.forEach xs f) := by
  induction xs generalizing b with
  | nil => exact h
  | cons x xs ih => exact ih _ (hf b x h)

/-! ### Contexts, registers, flags -/

@[simp] theorem Block.setCtx_ctx (b : Block) (c : Nat) (x : Ctx) : (b.setCtx c x).ctx c = x := by simp [Block.ctx]
@[simp] theorem Block.setCtx_ctx_other (b : Block) (c e : Nat) (x : Ctx) (h : e ≠ c) : (b.setCtx c x).ctx e = b.ctx e := by
  simp [Block.ctx, h]
@[simp] theorem Block.modCtx_ctx (b : Block) (c : Nat) (f : Ctx → Ctx) : (b.modCtx c f).ctx c = f (b.ctx c) := by simp [Block.modCtx]
@[simp] theorem Block.modCtx_ctx_other (b : Block) (c e : Nat) (f : Ctx → Ctx) (h : e ≠ c) : (b.modCtx c f).ctx e = b.ctx e := by
  simp [Block.modCtx, h]

@[simp] theorem Block.setReg_reg (b : Block) (off : Nat) (v : Word) : (b.setReg off v).reg off = v := by simp [Block.reg]
@[simp] theorem Block.setReg_reg_other (b : Block) (off o : Nat) (v : Word) (h : o ≠ off) : (b.setReg off v).reg o = b.reg o := by
  simp [Block.reg, h]
@[simp] theorem Block.setFld_reg_other (b : Block) (off hi lo v o : Nat) (h : o ≠ off) : (b.setFld off hi lo v).reg o = b.reg o := by
  simp [Block.setFld, h]
@[simp] theorem Block.flag_reg (b : Block) (off i : Nat) : (b.flag off i).reg off = setB (b.reg off) i := by simp [Block.flag]
@[simp] theorem Block.flag_reg_other (b : Block) (off i o : Nat) (h : o ≠ off) : (b.flag off i).reg o = b.reg o := by simp [Block.flag, h]
@[simp] theorem Block.count_reg_other (b : Block) (off n o : Nat) (h : o ≠ off) : (b.count off n).reg o = b.reg o := by
  unfold Block.count Block.countF; split <;> simp [h]
@[simp] theorem Block.putBit_reg_other (b : Block) (off i : Nat) (v : Bool) (o : Nat) (h : o ≠ off) : (b.putBit off i v).reg o = b.reg o := by
  simp [Block.putBit, h]

/-- A flag that hardware sets reads 1. -/
@[simp] theorem Block.flag_isSet (b : Block) (off i : Nat) (h : i < 32) : (b.flag off i).isSet off i = true := by
  simp only [Block.isSet, Block.flag_reg, setB, BitVec.getLsbD_or, BitVec.getLsbD_ofNat, Nat.testBit_two_pow_self, Bool.and_true]
  simp [h]

/-- Every other bit of its register stays. -/
theorem Block.flag_isSet_other (b : Block) (off i j : Nat) (h : j ≠ i) : (b.flag off i).isSet off j = b.isSet off j := by
  simp only [Block.isSet, Block.flag_reg, setB, BitVec.getLsbD_or, BitVec.getLsbD_ofNat, Nat.testBit_two_pow]
  simp [Ne.symm h]

/-- What a saturating 32-bit counter holds after it has advanced, in a block that is not a die in RETAIN or OFF. -/
theorem Block.count_reg (b : Block) (off n : Nat) (hh : b.hushed = false) :
    ((b.count off n).reg off).toNat = min (2 ^ 32 - 1) ((b.reg off).toNat + n) := by
  have hx := (b.reg off).isLt
  simp only [Block.count, Block.countF, hh, Bool.false_eq_true, if_false, Block.setFld, Block.setReg_reg, wordPut, Block.fld, bitsOf, satTo,
    BitVec.toNat_ofNat]
  simp only [Nat.pow_zero, Nat.div_one, Nat.mul_one, Nat.sub_zero]
  split <;> omega

/-! ### The descriptor in turn (R377) -/

/-- A counter of a die in RETAIN or OFF stays (R451). -/
theorem Block.count_hushed (b : Block) (off n : Nat) (hh : b.hushed = true) : b.count off n = b := by simp [Block.count, Block.countF, hh]

/-- The descriptor that is carried out next, where it has the opcode and the identity, its steward runs and its input can be read. -/
theorem Block.onDesc_eq (b : Block) (op steward id : Nat) (f : Block → Taken → Block) (t : Taken)
    (h : b.tray.host.taken.find? (fun t => !t.begun) = some t) (ht : t.id = id ∧ t.opcode = op ∧ b.stewardRuns steward = true ∧ b.mayRead t = true) :
    b.onDesc op steward id f = f (b.setTaken { t with begun := true }) { t with begun := true } := by
  simp [Block.onDesc, h, ht]

/-- Everything that carrying out a descriptor can be: its act on the first descriptor not begun, or nothing. -/
theorem Block.onDesc_cases (b : Block) (op steward id : Nat) (f : Block → Taken → Block) :
    (∃ t, b.tray.host.taken.find? (fun t => !t.begun) = some t ∧ t.id = id ∧ t.opcode = op ∧ b.stewardRuns steward = true ∧ b.mayRead t = true ∧
      b.onDesc op steward id f = f (b.setTaken { t with begun := true }) { t with begun := true }) ∨
    b.onDesc op steward id f = b := by
  unfold Block.onDesc
  split
  · exact .inr rfl
  · next t h =>
    split
    · next ht => exact .inl ⟨t, h, ht.1, ht.2.1, ht.2.2.1, ht.2.2.2, rfl⟩
    · exact .inr rfl

/-! ### What a receiver hears (R158, R191) -/

/-- A frame that the receive checks refuse leaves only what `rx` counted. -/
theorem Block.receiveControl_refused (b : Block) (link : Nat) (raw : Bytes) (ctype : Nat) (act : Block → Frame → Bytes → Block) 
    (b' : Block) (h : b.rx link raw ctype = (none, b')) : b.receiveControl link raw ctype act = b' := by
  simp [Block.receiveControl, h]

/-- An accepted frame of one part whose payload is one record of the type acts once, where the block heeds the type (R437). -/
theorem Block.receiveControl_one (b : Block) (link : Nat) (raw : Bytes) (ctype : Nat) (act : Block → Frame → Bytes → Block)
    (f : Frame) (b' : Block) (r : Bytes) (h : b.rx link raw ctype = (some f, b')) (hc : f.cls = 1) (hp : f.parts = 1)
    (hr : controlRecords 512 f.payload = [r]) (ht : ctypeOf r = ctype) (hs : b'.heeds ctype = true) :
    b.receiveControl link raw ctype act = act b' f r := by
  simp [Block.receiveControl, h, hc, hp, hr, ht, hs, Block.onRecords]

/-- Everything that receiving a control frame can do: what `rx` left, what assembling a record left, or the act folded over the
records. -/
theorem Block.receiveControl_cases (b : Block) (link : Nat) (raw : Bytes) (ctype : Nat) (act : Block → Frame → Bytes → Block) :
    b.receiveControl link raw ctype act = (b.rx link raw ctype).2 ∨
    ∃ f, (b.rx link raw ctype).1 = some f ∧ f.cls = 1 ∧
      (b.receiveControl link raw ctype act = (b.rx link raw ctype).2.onRecords ctype f (controlRecords 512 f.payload) act ∨
       b.receiveControl link raw ctype act = ((b.rx link raw ctype).2.assemble f).2 ∨
       ∃ whole, ((b.rx link raw ctype).2.assemble f).1 = some whole ∧ b.receiveControl link raw ctype act =
         ((b.rx link raw ctype).2.assemble f).2.onRecords ctype f (controlRecords 1 whole) act) := by
  unfold Block.receiveControl
  rcases hx : b.rx link raw ctype with ⟨_ | f, b'⟩
  · exact .inl rfl
  · by_cases hc : f.cls = 1
    · refine .inr ⟨f, rfl, hc, ?_⟩
      by_cases hp : f.parts = 1
      · exact .inl (by simp [hc, hp])
      · rcases ha : b'.assemble f with ⟨_ | whole, b''⟩
        · exact .inr (.inl (by simp [hc, hp, ha]))
        · exact .inr (.inr ⟨whole, rfl, by simp [hc, hp, ha]⟩)
    · exact .inl (by simp [hc])

/-- What an accepted frame is: the frame that its bytes spell, whose CRC and form passed (R158). -/
theorem Block.rx_some (b : Block) (link : Nat) (raw : Bytes) (ctype : Nat) (f : Frame) (b' : Block)
    (h : b.rx link raw ctype = (some f, b')) :
    f = readFrame raw ∧ crcGood raw = true ∧ b.power.phase ≠ 3 ∧
      formGood (b.markPresent link) f ((b.markPresent link).receiver f ctype) (ctype == 0x0101) = true := by
  unfold Block.rx at h
  split at h
  · cases h
  next h1 =>
  split at h
  · cases h
  split at h
  · cases h
  next h3 =>
  dsimp only at h
  split at h
  · cases h
  next h4 =>
  split at h
  · cases h
  simp only [Bool.not_eq_true, Bool.not_eq_false'] at h3
  simp only [Bool.or_eq_true, Bool.not_eq_true', not_or, Bool.not_eq_false] at h4
  rcases hr : (b.markPresent link).dupCheck (readFrame raw) ((b.markPresent link).receiver (readFrame raw) ctype) with ⟨r, x⟩
  rw [hr] at h
  cases r
  · have hf : some f = some (readFrame raw) := by
      have h' := congrArg Prod.fst h
      dsimp only at h'
      split at h'
      all_goals first | exact h'.symm | exact absurd h' (by simp) | (split at h' <;> first | exact h'.symm | exact absurd h' (by simp))
    cases hf
    exact ⟨rfl, h3, fun hp => h1 (.inl hp), h4.1⟩
  · cases h
  · cases h

/-! ### Counters of Borlu-D (R89, R93) -/

/-- What an add can do: nothing while the die sleeps; else the one entry, and the flag of its bank where it saturates. -/
theorem Block.addCounter_cases (b : Block) (bank i v : Nat) :
    (b.asleep = true ∧ b.addCounter bank i v = b) ∨
    (b.asleep = false ∧ ∃ c' : Counter, c'.v = satTo (2 ^ 48 - 1) ((sget (fun _ => ({} : Counter)) b.die.taps.counters (4096 * bank + i)).v + v) ∧
      let y : Block := { b with die := { b.die with taps := { b.die.taps with
        counters := sput (fun _ => ({} : Counter)) b.die.taps.counters (4096 * bank + i) c' } } }
      (b.addCounter bank i v = y ∨ b.addCounter bank i v = y.flag Reg.CNT_STS bank)) := by
  unfold Block.addCounter
  by_cases h : b.asleep = true
  · exact .inl ⟨h, by simp [h]⟩
  · let c := sget (fun _ => ({} : Counter)) b.die.taps.counters (4096 * bank + i)
    refine .inr ⟨by simpa using h, { v := satTo (2 ^ 48 - 1) (c.v + v), sat := c.sat || decide (2 ^ 48 - 1 < c.v + v) }, rfl, ?_⟩
    simp only [if_neg h]
    split
    · exact .inr rfl
    · exact .inl rfl

@[simp] theorem Block.addCounter_time (b : Block) (bank i v : Nat) : (b.addCounter bank i v).time = b.time := by
  rcases b.addCounter_cases bank i v with ⟨-, h⟩ | ⟨-, _, -, h | h⟩ <;> rw [h] <;> rfl
@[simp] theorem Block.addCounter_ctxs (b : Block) (bank i v : Nat) : (b.addCounter bank i v).ctxs = b.ctxs := by
  rcases b.addCounter_cases bank i v with ⟨-, h⟩ | ⟨-, _, -, h | h⟩ <;> rw [h] <;> rfl
@[simp] theorem Block.addCounter_tray (b : Block) (bank i v : Nat) : (b.addCounter bank i v).tray = b.tray := by
  rcases b.addCounter_cases bank i v with ⟨-, h⟩ | ⟨-, _, -, h | h⟩ <;> rw [h] <;> rfl
@[simp] theorem Block.addCounter_power (b : Block) (bank i v : Nat) : (b.addCounter bank i v).power = b.power := by
  rcases b.addCounter_cases bank i v with ⟨-, h⟩ | ⟨-, _, -, h | h⟩ <;> rw [h] <;> rfl

/-! ### Host memory -/

/-- Writes from an address on, as a fold whose counter is told. -/
theorem hostFold_counter (bs : Bytes) (m : Sparse Byte) (a : Nat) :
    (bs.foldl (fun (p : Sparse Byte × Nat) x => (sput hostByte p.1 (p.2 % 2 ^ 64) x, p.2 + 1)) (m, a)).2 = a + bs.length := by
  induction bs generalizing m a with
  | nil => simp
  | cons x xs ih => simp only [List.foldl_cons, ih, List.length_cons]; omega

/-- One byte more is one entry more. -/
theorem HostUnit.write_cons (h : HostUnit) (addr : Nat) (x : Byte) (xs : Bytes) :
    h.write addr (x :: xs) = ({ h with memory := sput hostByte h.memory (addr % 2 ^ 64) x } : HostUnit).write (addr + 1) xs := rfl

@[simp] theorem HostUnit.write_nil (h : HostUnit) (addr : Nat) : h.write addr [] = h := rfl

end Sys2Proof.Machine
end

