-- ==== Sys2Proof/Tests/Support.lean ====
section
/-! SUPPORT. Small states that the tests and the witnesses of the statements share. -/

namespace Sys2Proof.Tests
open Sys2Proof.Machine

/-- Both blocks out of reset, the tray past its alignment pulse. -/
def on : State := { State.reset with tAligned := true }

/-- That state with the tray changed. -/
def onT (f : Block → Block) : State := { on with t := f on.t }

/-- That state with the die changed. -/
def onD (f : Block → Block) : State := { on with d := f on.d }

/-- Bytes with pieces put over them at offsets. -/
def patch (bs : Bytes) (ps : List (Nat × Bytes)) : Bytes :=
  ps.foldl (fun a p => a.take p.1 ++ p.2 ++ a.drop (p.1 + p.2.length)) bs

/-- A taken descriptor: 64 bytes with an opcode and some fields set. -/
def desc (op : Nat) (ps : List (Nat × Bytes) := []) (id : Nat := 0) (begun : Bool := false) : Taken :=
  { id := id, ring := 0, index := 0, cpl := 0, bytes := patch (zeros 64) ((0, leBytes 1 op) :: ps), begun := begun }

/-- A descriptor with an input at address 0 of host memory. -/
def descIn (op : Nat) (input : Bytes) (ps : List (Nat × Bytes) := []) (begun : Bool := false) : Taken :=
  desc op ((16, leBytes 4 input.length) :: ps) 0 begun

/-- Host memory that holds bytes from an address on. -/
def memoryFrom : Nat → Bytes → Sparse Byte
  | _, [] => []
  | k, x :: xs => if x = 0 then memoryFrom (k + 1) xs else (k, x) :: memoryFrom (k + 1) xs

/-- Every steward running. -/
def stewardsUp : Sparse Steward := (List.range 6).map (fun i => (i, ({ phase := 2 } : Steward)))

/-- A tray whose stewards run and whose stacks are ready. -/
def Block.up (b : Block) : Block :=
  { b with tray := { b.tray with stewards := stewardsUp, stacksReady := BitVec.allOnes 24 } }

/-- Descriptors that have been taken, with the bytes of host memory from address 0 on, the block a bus master. -/
def Block.took (b : Block) (ts : List Taken) (input : Bytes := []) : Block :=
  { b with tray := { b.tray with host := { b.tray.host with taken := ts, nextId := ts.length, memory := memoryFrom 0 input, busMaster := true } } }

/-- Stewards up and one descriptor taken; the tray changed further. -/
def onDesc (t : Taken) (f : Block → Block := id) (input : Bytes := []) : State := onT (fun b => f (Block.took (Block.up b) [t] input))

/-- The smallest tree and its reference image: every node always-left, every leaf zero (R239, R241, R252). -/
def tree : Bytes := [1, 1, 0, 0] ++ (List.replicate 255 ([0, 0x40, 0, 0] : Bytes)).flatten ++ zeros 1024
def treeRef : Bytes := [1, 1, 0, 0] ++ zeros 6140

/-- The smallest rule group: one entry, every field unused (R271). -/
def group : Bytes := patch (zeros 4384) [(0, [1, 1]), (4, [1])]

/-- An image with its digest put into bytes 16 to 31. -/
def digested (img : Bytes) : Bytes := patch img [(16, digest16 (patch img [(16, zeros 16)]))]

/-- The smallest plan image: one region with one block that ends (R279, R280). -/
def planImage : Bytes :=
  digested (patch (zeros 112) [(0, [0xA9, 0x4E, 1]), (4, [1]), (8, [1]), (32, leBytes 8 112), (72, [1]), (84, [1]), (88, [2]),
    (92, List.replicate 16 0xFF)])

/-- The smallest analysis plan: an empty feature table and an empty reduction list (R318). -/
def plan : Bytes :=
  digested (patch (zeros 96) [(0, [0xA9, 0x50, 1, 2]), (32, leBytes 8 96), (64, [1]), (68, [96]), (80, [5]), (84, [96])])

/-- A class 1 frame with one control record, from a die of job 7, rank 0, slot 5. -/
def dieFrame (ctype : Nat) (body : Bytes) : Bytes :=
  frameBytes 1 7 (sourceWord 0 3 false false) 1 0 0 0 1 0 0x500 3 (padTo 8 (controlRecord ctype body))

/-- The same from another level, without a rank. -/
def roleFrame (level : Nat) (ctype : Nat) (body : Bytes) : Bytes :=
  frameBytes 1 7 (sourceWord 0 level true true) 1 0 0 0 1 0 0 3 (padTo 8 (controlRecord ctype body))

/-- A class 1 block frame (R194) with one control record. -/
def blockFrame (level da : Nat) (ctype : Nat) (body : Bytes) : Bytes :=
  frameBytes 1 0 (sourceWord 0 level true true) 1 0 0 0 1 0 da 0 (padTo 8 (controlRecord ctype body))

/-- An active context of job 7, epoch 3, K 10, with one rank, held by the die in slot 5 of a tray that is the job hearth. -/
def ctx7 : Ctx :=
  { phase := .active, job := 7, epoch := 3, k := 10, ranks := 1, level := 5, hop := 2, height := 1, hlevel := 5, close := 1, isHearth := true,
    map := [(0, 0x500)] }

/-- A plan with one replica group: identifier 9, channel 2, ranks 0 and 1 (R300, R318). -/
def votePlan : Bytes :=
  digested (patch (zeros 200) [(0, [0xA9, 0x50, 1, 3]), (32, leBytes 8 200), (64, [1]), (68, [112]), (80, [5]), (84, [112]),
    (96, [8]), (100, [112]), (104, [88]), (116, [1]), (128, [9, 0, 2, 2]), (140, [1])])

/-- A row context at level 6 over two trays, rank 0 in the first and rank 1 in the second, under that plan. -/
def voteCtx : Ctx :=
  { phase := .active, job := 7, epoch := 3, k := 10, ranks := 2, level := 6, hop := 2, height := 2, hlevel := 6, close := 1,
    allow := [0, 0, 0, 0], isHearth := true, map := [(0, 0x500), (1, 0x2500)], plan := imageDigest votePlan,
    children := [{ level := 5, addr := 0, ranks := [0] }, { level := 5, addr := 0x2000, ranks := [1] }] }

/-- A tray with that plan bound and a context. -/
def onVote (x : Ctx) : State :=
  onT (fun b => (b.setCtx 0 x).modPlane (fun u => { u with plans := [(0, { phase := 2, bytes := votePlan })] }))

/-- A digest record's body of a rank on channel 2, CMD 5 (R299). -/
def digestBody (rank : Nat) : Bytes := leBytes 4 rank ++ [2, 0, 0, 0] ++ leBytes 4 5 ++ zeros 8 ++ List.replicate 16 1

end Sys2Proof.Tests
end

