-- ==== Sys2Proof/Tests/Witness.lean ====
section
/-! SUPPORT. Concrete values that meet the hypotheses of the statements: `witness_<Statement>` has one conjunct for each clause with
hypotheses, and shows them true together on the states of Tests/Support.lean. Where a clause says that a block hears a record, the conjunct
writes out what that means (the block runs; the frame is taken; its class, its one part and its one record), the block after it being the
one that `rx` answers. A hypothesis that quantifies stands in a form that decides it. The loads of a tree, a rule group and a schedule have theirs in Tests/Images.lean. -/

namespace Sys2Proof.Tests
open Sys2Proof.Machine

set_option Elab.async false
set_option maxRecDepth 100000
set_option linter.unusedVariables false

theorem sget_memoryFrom_lt (bs : Bytes) : ∀ k j, j < k → (memoryFrom k bs).find? (fun e => e.1 == j) = none := by
  induction bs with
  | nil => intro k j _; rfl
  | cons x xs ih =>
    intro k j h
    have hn : (k == j) = false := by simp; omega
    have := ih (k + 1) j (by omega)
    by_cases hx : x = 0
    · rw [memoryFrom, if_pos hx]; exact this
    · rw [memoryFrom, if_neg hx, List.find?_cons, hn]; exact this

theorem sget_memoryFrom (bs : Bytes) : ∀ k j, j < bs.length → sget hostByte (memoryFrom k bs) (k + j) = bs[j]?.getD 0 := by
  induction bs with
  | nil => intro k j h; simp at h
  | cons x xs ih =>
    intro k j h
    cases j with
    | zero =>
      have hf := sget_memoryFrom_lt xs (k + 1) k (by omega)
      by_cases hx : x = 0
      · simp only [sget, memoryFrom, if_pos hx, Nat.add_zero, hf]; simp [hostByte, hx]
      · rw [memoryFrom, if_neg hx]; simp [sget]
    | succ j =>
      have := ih (k + 1) j (by simpa using h)
      have e : k + 1 + j = k + (j + 1) := by omega
      rw [e] at this
      by_cases hx : x = 0
      · rw [memoryFrom, if_pos hx]; simpa using this
      · rw [memoryFrom, if_neg hx, sget, List.find?_cons]
        simp only [show (k == k + (j + 1)) = false by simp]
        simpa [sget] using this

/-- Host memory filled from address 0 reads back what it was filled with. -/
theorem read_memoryFrom (h : HostUnit) (bs : Bytes) (hm : h.memory = memoryFrom 0 bs) (hl : bs.length ≤ 2 ^ 64) : h.read 0 bs.length = bs := by
  apply List.ext_getElem
  · simp [HostUnit.read]
  · intro i h1 h2
    have := sget_memoryFrom bs 0 i h2
    have hi : i % 2 ^ 64 = i := Nat.mod_eq_of_lt (by omega)
    rw [Nat.zero_add] at this
    simp only [HostUnit.read, List.getElem_map, List.getElem_range, hm, Nat.zero_add, hi, this]
    simp [h2]

theorem input_of (t : Taken) (input : Bytes) (h : t.inAddr = 0) (hl : t.inLen = input.length) (hb : input.length ≤ 2 ^ 64) :
    ((onDesc t id input).begin t).descInput t.start = input := by
  have : ((onDesc t id input).begin t).descInput t.start = ((onDesc t id input).begin t).tray.host.read 0 input.length := by
    simp only [Block.descInput]
    have h1 : t.start.inAddr = 0 := h
    have h2 : t.start.inLen = input.length := hl
    rw [h1, h2]
  rw [this]
  exact read_memoryFrom _ _ rfl hb

theorem witness_TimeAfterReset : ∃ t u, exec .borluDResetAssert on = .next t ∧ exec (.borluTResetAssert true) on = .next u :=
  ⟨_, _, rfl, rfl⟩

theorem witness_StoppedBlockUnchanged :
    (Instr.isReset .pairSample = false ∧ Instr.isLevel .pairSample = false ∧
      ({ on with dReset := true } : State).running (Instr.target .pairSample) = false) ∧
    (Instr.isReset .pcieFlr = false ∧ Instr.isLevel .pcieFlr = false ∧ State.reset.running (Instr.target .pcieFlr) = false) ∧
    ({ on with dReset := true } : State).running .D = false := by
  refine ⟨⟨rfl, rfl, rfl⟩, ⟨rfl, rfl, rfl⟩, rfl⟩

theorem witness_ResetHeldKept : State.reset.resetHeld ∧ ∃ t, step State.reset = .next t := ⟨by decide +kernel, _, rfl⟩

theorem witness_DescriptorsInTurn :
    descriptorOf (.nop 0) = some (0x01, 5, 0) ∧ on.running .T = true ∧ ∀ t, ¬ on.descNext 0x01 5 0 t :=
  ⟨rfl, rfl, fun t h => nomatch (show none = some t from h.2.1)⟩

theorem witness_UnmappedOffsets :
    (Path.tray ≠ .msix ∧ on.running .D = true ∧ regRowAt (on.block .D).build Reg.LSE_SEL = none) ∧ (8 ≤ 8 ∧ 8 < 64) ∧ 8 ≤ 63 ∧ 63 < 64 := by
  decide +kernel

theorem witness_RegisterAccess :
    (let x := on.block .T
     let good (off : Nat) : Prop := on.running .T = true ∧ x.build = .T ∧ (regRowAt x.build off).isSome = true ∧ 7 ≤ unitOf off ∧
       unitOf off ≤ 9 ∧ (regRowAt x.build off).all (fun r => !x.isStaged r off) = true ∧
       (x.beginAccess .host).access.writes.find? (fun w => w.2.1 == off) = none
     good Reg.LOF_CTL ∧ (good Reg.LOF_ERR_INFO ∧ (0x3FFFFFFF : Word).getLsbD 30 = false) ∧
       (good Reg.LOF_STS ∧ Reg.LOF_STS ≠ Reg.LOF_CTL ∧ Reg.LOF_STS ≠ Reg.LOF_ERR_INFO ∧ x.hiOf Reg.LOF_STS = none ∧
         (flagMask x.build Reg.LOF_STS &&& 2).getLsbD 1 = true)) ∧
    (let x := on.block .D
     on.running .D = true ∧ x.build = .D ∧ (regRowAt x.build Reg.LOF_IN_LO).isSome = true ∧ x.hiOf Reg.LOF_IN_LO = some (Reg.LOF_IN_HI, 0) ∧
       x.strapLocal = false ∧ (x.beginAccess .tray).access.writes.find? (fun w => w.2.1 == Reg.LOF_IN_LO) = none) := by
  decide +kernel

/-- A steward has written FRM_CTL in the running cycle; the host comes after it. -/
theorem witness_RegisterAccess_cycle :
    let s := onT (fun b => { b with access := { seen := [.steward], writes := [(.steward, Reg.FRM_CTL, 0, 5)] } })
    let x := s.block .T
    s.running .T = true ∧ x.build = .T ∧ (regRowAt x.build Reg.FRM_CTL).all (fun r => !x.isStaged r Reg.FRM_CTL) = true ∧
      (regRowAt x.build Reg.FRM_CTL).isSome = true ∧ 8 ≤ unitOf Reg.FRM_CTL ∧ unitOf Reg.FRM_CTL ≤ 9 ∧ storesField x.build Reg.FRM_CTL = true ∧
      actsSecond .host = false ∧
      (x.beginAccess .host).access.writes.find? (fun w => w.2.1 == Reg.FRM_CTL && actsSecond w.1) = some (.steward, Reg.FRM_CTL, 0, 5) ∧
      (x.beginAccess .host).access.writes.find? (fun w => w.2.1 == Reg.FRM_CTL) = some (.steward, Reg.FRM_CTL, 0, 5) := by
  decide +kernel

theorem witness_RegisterAccess_identity :
    (on.running .D = true ∧ on.d.build = .D ∧ on.d.isSet Reg.ID_CTL 0 = false ∧
      (on.d.beginAccess .tray).access.writes.find? (fun w => w.2.1 == Reg.ID_DA) = none ∧ (on.d.beginAccess .tray).access.place = none) ∧
    (let s := onD (fun b => b.setReg Reg.ID_CTL 1)
     s.running .D = true ∧ s.d.build = .D ∧ s.d.isSet Reg.ID_CTL 0 = true) ∧
    (let s := onD (fun b => { b with access := { seen := [.localPort], place := some (7, false) } })
     s.running .D = true ∧ s.d.build = .D ∧ (s.d.beginAccess .tray).access.place = some (7, false)) := by
  decide +kernel

theorem witness_ConfigTransactions :
    (let s := onD (fun b => (b.setReg Reg.PLN_TXN_CFT_LO 16384000).modTime (fun m => { m with acc := 0 }))
     let x := s.block .D
     s.running .D = true ∧ x.build = .D ∧ x.txn.poisoned = false ∧ x.cft.toNat % windowTicks (max 10 x.kMax) = 0 ∧
       (32000 : Int) ≤ ftDiff x.cft x.ft ∧ ∀ c ∈ x.txn.pending, ftGe x.ft c.1 = false) ∧
    (let s := onT (fun b => { b with txn := { b.txn with poisoned := true } })
     s.running .T = true ∧ s.t.build = .T ∧ s.t.txn.poisoned = true) ∧
    (let s := onT (fun b => b.setReg Reg.PLN_TXN_CFT_LO 7)
     s.running .T = true ∧ s.t.build = .T ∧ s.t.txn.poisoned = false ∧ s.t.cft.toNat % windowTicks (max 10 s.t.kMax) ≠ 0) ∧
    (let s := onT (fun b => { b with txn := { b.txn with pending := [(0, [(Reg.LOF_CTL, 1)])] } })
     s.running .T = true ∧ s.t.build = .T ∧ s.t.txn.pending.find? (fun c => ftGe s.t.ft c.1) = some (0, [(Reg.LOF_CTL, 1)]) ∧
       7 ≤ unitOf Reg.LOF_CTL ∧ unitOf Reg.LOF_CTL ≤ 9 ∧ Reg.LOF_CTL ≠ Reg.LOF_ERR_INFO ∧ ∀ w ∈ s.t.access.writes, w.1 ≠ .localPort) ∧
    (on.running .T = true ∧ ∀ c ∈ on.t.txn.pending, ftGe on.t.ft c.1 = false) := by
  decide +kernel

theorem witness_MatchCopies : 1 ≤ 1 ∧ 1 ≤ ([7, 9] : Bytes).length ∧ (copyMatch 1 3 ([7, 9] : Bytes).reverse).reverse = [7, 9, 9, 9, 9] := by decide

theorem witness_LoafRoundTrip :
    (14 : Nat) < 16 ∧ 14 % 2 = 0 ∧ 4 ≤ 4 ∧ 65535 < 2 ^ 16 ∧ 4294967295 < 2 ^ 32 ∧ 1 ≤ ([7] : Bytes).length ∧ ([7] : Bytes).length ≤ blkSize 4 ∧
      ([7] : Bytes).length ≤ 1 := by
  decide +kernel

/-- A sum item of one rank. -/
def sumItem (v : Nat) : Item := { id := 5, op := 1, form := 0, sat := false, nan := false, late := false, body := leBytes 4 1 ++ zeros 4 ++ leBytes 8 v }

theorem witness_SumsAndExtremesInAnyOrder :
    let a := sumItem 7
    let b := sumItem (2 ^ 64 - 1)
    let c := { sumItem 9 with late := true }
    1 ≤ a.op ∧ a.op ≤ 5 ∧ b.id = a.id ∧ c.id = a.id ∧ b.op = a.op ∧ c.op = a.op ∧ b.form = a.form ∧ c.form = a.form ∧
      a.layoutGood = true ∧ b.layoutGood = true ∧ c.layoutGood = true ∧ a.n + b.n + c.n < 2 ^ 32 := by
  decide +kernel

theorem witness_HostMemoryWrites :
    let h : HostUnit := { memory := [(2 ^ 64 - 1, 3)] }
    sparseWf hostByte h.memory = true ∧ ([1, 2] : Bytes).length ≤ 2 ^ 64 ∧ ∀ i < ([1, 2] : Bytes).length, (2 ^ 64 - 1 + i) % 2 ^ 64 ≠ 5 % 2 ^ 64 := by
  decide +kernel

theorem witness_RegionEvents_digest :
    (let s := onD (fun b => b.setReg Reg.WIT_DCH 0)
     s.running .D = true ∧ (s.d.lightAdd 56 1).isSet Reg.WIT_DCH 31 = false) ∧
    (let s := onD (fun b => (b.setCtx 0 ctx7).setReg Reg.WIT_DCH 0x80000000)
     s.running .D = true ∧ (s.d.lightAdd 56 1).isSet Reg.WIT_DCH 31 = true ∧
       ((s.d.lightAdd 56 1).ctx ((s.d.lightAdd 56 1).fld Reg.WIT_DCH 26 24)).phase = CtxPhase.active) := by
  decide +kernel

/-- A context that was given back is the one that a replay of its job and epoch goes by. -/
theorem witness_SearchAndReplay_past :
    let t := desc 0x17 [(6, leBytes 2 7), (32, leBytes 5 1), (37, leBytes 5 2), (42, [1, 2]), (44, [3])]
    let x : Ctx := { ctx7 with phase := .releaseQueued, start := 16384000, plan := zeros 16, allow := [0, 0, 0, 0] }
    let img := patch (zeros 96) [(4, [1]), (80, [10, 5, 1, 0])]
    let s := onDesc t (fun b => ((b.setCtx 0 x).releaseCtx 0).modPlane (fun u => { u with scheds := [(0, img)], plans := [(0, { phase := 2, bytes := zeros 64 })] }))
    ((s.begin t).ctx 0).phase = CtxPhase.free ∧ (((s.begin t).replayCtx 7 3).map (fun x => (x.job, x.epoch, x.bind))) = some (7, 3, some 0) := by
  decide +kernel

/-- The header of an image of four zero bytes for steward 2, with the SHA-384 of these bytes, its signature left at zero (R439). -/
def fwHead : Bytes := patch (zeros 256)
  [(0, [0xA9, 0x46, 1, 2]), (12, [4]), (64, leBytes 48 0xf089129fade160fcefc971b9b418589f0141aed97ead7365578e2b29c43661d8df0c00f87eb0c6c527d22c18b7414339)]

/-- Where the verifier takes the signature, the images of FW_ACTIVATE that names steward 2 verify. The verifier is a constant of Config. -/
theorem witness_ChipDescriptors_named (h : ∀ k m g, Config.signatureVerifies k m g = true) :
    let t := desc 0x61 [(32, [4]), (33, [1])]
    let s := onDesc t (fun b => { b with tray := { b.tray with flash := (fwHead ++ zeros 4).zipIdx.map (fun x => (imageOffset 1 2 + x.2, x.1)) } })
    let b := s.begin t
    s.descNext 0x61 5 0 t ∧ byteAt t.bytes 33 = 1 ∧ (List.range 6).filter (fun i => bitOf (byteAt t.bytes 32) i) = [2] ∧
      b.imageCause (byteAt t.bytes 33) 2 = 0 := by
  refine ⟨by decide +kernel, rfl, by decide +kernel, ?_⟩
  rw [Block.imageCause]
  rw [if_neg (by decide +kernel), if_neg (by decide +kernel), if_neg (by rw [h]; decide), if_neg (by decide +kernel), if_neg (by decide +kernel)]

theorem witness_ResetsComplete :
    (let s : State := { on with dReset := true }
     s.dReset = true) ∧
    (let s : State := { on with tReset := true }
     s.tReset = true) ∧
    (let s : State := State.reset
     s.tReset = false ∧ s.tAligned = false) ∧
    (let s : State := on
     s.tAligned = true) ∧
    (let s : State := on
     s.running .T = true) := by
  refine ⟨?_, ?_, ?_, ?_, ?_⟩ <;> decide +kernel

theorem witness_CycleAdvancesTime :
    (let s : State := on
     s.pending = []) ∧
    (let s : State := on
     let b : Build := .T
     s.running b = true ∧ (s.block b).power.phase ≤ 1 ∧ (s.block b).time.hold = 0) ∧
    (let s : State := onT (fun b => b.modTime (fun t => { t with hold := 2 ^ 40 }))
     let b : Build := .T
     s.running b = true ∧ (s.block b).power.phase ≤ 1 ∧ 0 < (s.block b).time.hold ∧ (s.block b).incr ≤ (s.block b).time.hold) ∧
    (let s : State := onT (fun b => b.modTime (fun t => { t with hold := 5 }))
     let b : Build := .T
     s.running b = true ∧ (s.block b).power.phase ≤ 1 ∧ (s.block b).time.hold < (s.block b).incr) := by
  refine ⟨?_, ?_, ?_, ?_⟩ <;> decide +kernel

theorem witness_TimeControlWrites :
    (let s : State := onT (fun b => b.modTime (fun t => { t with fracStage := 7 }))
     let b : Build := .T
     s.running b = true) ∧
    (let s : State := onT (fun b => b.modTime (fun t => { t with fracStage := 7 }))
     let b : Build := .T
     let v : Word := 0x1FF
     s.running b = true ∧ ¬ (v.toNat % 256 = 0 ∧ (s.block b).time.fracStage = 0)) ∧
    (let s : State := on
     let b : Build := .T
     let v : Word := 0x100
     s.running b = true ∧ v.toNat % 256 = 0 ∧ (s.block b).time.fracStage = 0) ∧
    (let s : State := onT (fun b => b.modTime (fun t => { t with modeNow := 1, modeNext := some 2 }))
     let b : Build := .T
     let m : BitVec 2 := 1
     let x := s.block b
     s.running b = true ∧ m ≠ 3 ∧ x.time.modeNow = m.toNat) ∧
    (let s : State := on
     let b : Build := .T
     let x := s.block b
     s.running b = true ∧ x.time.modeNow = 0 ∧ b = .T ∧ x.build = .T ∧ x.isSet Reg.TIM_CTL 8 = false) ∧
    (let s : State := on
     let b : Build := .D
     let x := s.block b
     s.running b = true ∧ x.time.modeNow = 0 ∧ (x.build = .D ∨ x.isSet Reg.TIM_CTL 8 = true)) ∧
    (let s : State := onT (fun b => (b.setCtx 0 ctx7).modTime (fun t => { t with modeNow := 1 }))
     let b : Build := .T
     let x := s.block b
     s.running b = true ∧ (x.time.modeNow = 1 ∨ x.time.modeNow = 2) ∧ x.anyActive = true) ∧
    (let s : State := onT (fun b => b.modTime (fun t => { t with modeNow := 1 }))
     let b : Build := .T
     let x := s.block b
     s.running b = true ∧ x.time.modeNow = 1) := by
  refine ⟨?_, ?_, ?_, ?_, ?_, ?_, ?_, ?_⟩ <;> decide +kernel

theorem witness_StepsOfTime :
    (let s : State := onD (fun b => b.modPower (fun p => { p with phase := 2 }))
     let b : Build := .D
     let x := s.block b
     s.running b = true ∧ x.hushed = true) ∧
    (let s : State := onT (fun b => b.modTime (fun t => { t with stepLo := 5 }))
     let b : Build := .T
     let hi : Word := 0
     let x := s.block b
     let d := signed 64 (hi.toNat * 2 ^ 32 + x.time.stepLo.toNat)
     s.running b = true ∧ x.hushed = false ∧ x.time.hold = 0 ∧ 0 ≤ d) ∧
    (let s : State := onT (fun b => b.modTime (fun t => { t with stepLo := 0xFFFFFF00 }))
     let b : Build := .T
     let hi : Word := 0xFFFFFFFF
     let x := s.block b
     let d := signed 64 (hi.toNat * 2 ^ 32 + x.time.stepLo.toNat)
     s.running b = true ∧ x.hushed = false ∧ x.time.hold = 0 ∧ d < 0 ∧ (-(x.fld Reg.TIM_HOLD_MAX 15 0 : Int) ≤ d)) ∧
    (let s : State := onT (fun b => b.setCtx 0 ctx7)
     let b : Build := .T
     let hi : Word := 0x80000000
     let x := s.block b
     let d := signed 64 (hi.toNat * 2 ^ 32 + x.time.stepLo.toNat)
     s.running b = true ∧ x.hushed = false ∧ x.time.hold = 0 ∧ x.anyActive = true ∧ (d < -(x.fld Reg.TIM_HOLD_MAX 15 0 : Int))) ∧
    (let s : State := onD (fun b => b.modTime (fun m => { m with hold := 99 }))
     let b : Build := .D
     let x := s.block b
     s.running b = true ∧ 0 < x.time.hold ∧ 0 < x.incr ∧ x.time.incrHeld = none) := by
  refine ⟨?_, ?_, ?_, ?_, ?_⟩ <;> decide +kernel

theorem witness_SmallDescriptors :
    (let t : Taken := desc 1
     let s : State := onDesc t
     let id : Nat := 0
     s.descNext 0x01 5 id t) ∧
    (let t : Taken := desc 0x20 [(32, [4]), (33, [3]), (34, leBytes 2 1)]
     let s : State := onDesc t
     let id : Nat := 0
     s.descNext 0x20 2 id t ∧ byteAt t.bytes 32 ≤ 4 ∧ byteAt t.bytes 33 ≤ 3 ∧ fieldAt t.bytes 34 2 ≠ 0) ∧
    (let t : Taken := desc 0x20 [(32, [5]), (34, leBytes 2 1)]
     let s : State := onDesc t
     let id : Nat := 0
     s.descNext 0x20 2 id t ∧ (4 < byteAt t.bytes 32 ∨ 3 < byteAt t.bytes 33 ∨ fieldAt t.bytes 34 2 = 0)) ∧
    (let t : Taken := desc 0x21
     let s : State := onDesc t
     let id : Nat := 0
     s.descNext 0x21 2 id t) ∧
    (let x : Taken := desc 0x20 [] 0 true
     let t : Taken := desc 2 [(32, leBytes 4 9)] 1
     let s : State := onT (fun b => (Block.took (Block.up b) [x, t]).modHost (fun h => h.modCmd 0 (fun r => { r with dedup := [(9, 0, none)] })))
     let id : Nat := 1
     let n : Nat := 0
     let b := s.begin t
     let seen := (b.tray.host.cmdRing (byteAt t.bytes 36 % 16)).dedup.find? (fun e => e.1 == fieldAt t.bytes 32 4)
     s.descNext 0x02 5 id t ∧ seen = some (fieldAt t.bytes 32 4, n, none) ∧ b.takenById n = some x ∧ x.opcode ∈ cancellable ∧ x.begun = true) ∧
    (let x : Taken := desc 0x11 [] 0 true
     let t : Taken := desc 2 [(32, leBytes 4 9)] 1
     let s : State := onT (fun b => (Block.took (Block.up b) [x, t]).modHost (fun h => h.modCmd 0 (fun r => { r with dedup := [(9, 0, none)] })))
     let id : Nat := 1
     let n : Nat := 0
     let b := s.begin t
     let seen := (b.tray.host.cmdRing (byteAt t.bytes 36 % 16)).dedup.find? (fun e => e.1 == fieldAt t.bytes 32 4)
     s.descNext 0x02 5 id t ∧ seen = some (fieldAt t.bytes 32 4, n, none) ∧ b.takenById n = some x ∧ x.opcode ∉ cancellable) ∧
    (let t : Taken := desc 2 [(32, leBytes 4 9)]
     let s : State := onDesc t
     let id : Nat := 0
     let b := s.begin t
     let seen := (b.tray.host.cmdRing (byteAt t.bytes 36 % 16)).dedup.find? (fun e => e.1 == fieldAt t.bytes 32 4)
     s.descNext 0x02 5 id t ∧ seen = none) := by
  refine ⟨?_, ?_, ?_, ?_, ?_, ?_, ?_⟩ <;> decide +kernel

theorem witness_JobsEnd :
    (let t : Taken := { descIn 0x20 [1, 2, 3, 4] [(20, leBytes 4 4096), (34, leBytes 2 1)] true with note := 8 }
     let s : State := onDesc t id [1, 2, 3, 4]
     let id : Nat := 0
     let b := s.t
     let loaves := cutBy t.how (byteAt t.bytes 32) (fieldAt t.bytes 34 2) (fieldAt t.bytes 36 4) (fun _ => 4) (b.descInput t)
     let out := (loaves.map (padTo 64)).flatten
     s.running .T = true ∧ s.t.takenById id = some t ∧ t.begun = true ∧ s.t.stewardRuns 2 = true ∧ s.t.mayRead t = true ∧ t.opcode = 0x20 ∧
         out.length ≤ t.outLen) ∧
    (let t : Taken := descIn 0x21 (padTo 64 (buildLoaf 0 0 1 0 true 0 [1, 2, 3, 4])) [(20, leBytes 4 4096)] true
     let s : State := onDesc t id (padTo 64 (buildLoaf 0 0 1 0 true 0 [1, 2, 3, 4]))
     let id : Nat := 0
     let n := 1
     let bytes := [1, 2, 3, 4]
     let b := s.t
     s.running .T = true ∧ s.t.takenById id = some t ∧ t.begun = true ∧ s.t.stewardRuns 2 = true ∧ s.t.mayRead t = true ∧ t.opcode = 0x21 ∧
         b.decompressors ≠ [] ∧ decodeRun t.outLen (t.inLen / 64 + 1) (b.descInput t) 0 [] = (n, bytes, none)) := by
  refine ⟨?_, ?_⟩ <;> decide +kernel

theorem witness_HearthDescriptors :
    (let t : Taken := descIn 0x10 (controlRecord 0x0101 (leBytes 8 (16384000 * 10) ++ leBytes 4 1 ++ [10, 0] ++ leBytes 2 1 ++ zeros 4 ++ [2, 1,
         5, 0] ++ zeros 16 ++ zeros 8 ++ leBytes 4 0 ++ leBytes 4 1 ++ leBytes 4 0x500)) [(2, leBytes 2 7), (32, leBytes 4 3)]
     let s : State := onDesc t (fun b => b.modTime (fun m => { m with valid := true })) (controlRecord 0x0101 (leBytes 8 (16384000 * 10) ++
         leBytes 4 1 ++ [10, 0] ++ leBytes 2 1 ++ zeros 4 ++ [2, 1, 5, 0] ++ zeros 16 ++ zeros 8 ++ leBytes 4 0 ++ leBytes 4 1 ++ leBytes 4
         0x500))
     let id : Nat := 0
     let c : Nat := 0
     let b := s.begin t
     s.descNext 0x10 1 id t ∧ b.startStatus t.start (b.startCtx t.start) = 0 ∧ b.freeCtxIndex = some c) ∧
    (let t : Taken := desc 0x11 [(2, leBytes 2 7), (32, leBytes 5 20)]
     let s : State := onDesc t (fun b => b.setCtx 0 ctx7)
     let id : Nat := 0
     let c : Nat := 0
     let b := s.begin t
     let x := b.ctx c
     s.descNext 0x11 1 id t ∧ b.hearthOf t.job = some c ∧ x.phase = .active) ∧
    (let t : Taken := desc 0x11 [(2, leBytes 2 7)]
     let s : State := onDesc t (fun b => b.setCtx 0 { ctx7 with phase := .armed, start := 16384000 })
     let id : Nat := 0
     let c : Nat := 0
     let b := s.begin t
     let x := b.ctx c
     s.descNext 0x11 1 id t ∧ b.hearthOf t.job = some c ∧ x.phase = .armed) ∧
    (let t : Taken := desc 0x11 [(2, leBytes 2 7)]
     let s : State := onDesc t (fun b => b.setCtx 0 { ctx7 with phase := .prepared })
     let id : Nat := 0
     let c : Nat := 0
     let b := s.begin t
     let x := b.ctx c
     s.descNext 0x11 1 id t ∧ b.hearthOf t.job = some c ∧ x.phase = .prepared) ∧
    (let t : Taken := desc 0x12 [(2, leBytes 2 7), (36, leBytes 4 0x600), (40, leBytes 5 20)]
     let s : State := onDesc t (fun b => b.setCtx 0 ctx7)
     let id : Nat := 0
     let c : Nat := 0
     let b := s.begin t
     let x := b.ctx c
     s.descNext 0x12 1 id t ∧ b.hearthOf t.job = some c ∧ fieldAt t.bytes 36 4 % 256 = 0 ∧ x.map.any (fun e => e.1 == fieldAt t.bytes 32 4) = true
         ∧ (2 * x.traversal : Int) ≤ ftDiff (windowStart x.k b.ft (fieldAt t.bytes 40 5)) b.ft) ∧
    (let t : Taken := desc 0x13 [(2, leBytes 2 7), (36, [2])]
     let s : State := onDesc t (fun b => b.setCtx 0 ctx7)
     let id : Nat := 0
     let c : Nat := 0
     let b := s.begin t
     let x := b.ctx c
     s.descNext 0x13 1 id t ∧ b.hearthOf t.job = some c ∧ byteAt t.bytes 36 ≤ 2 ∧ x.map.any (fun e => e.1 == fieldAt t.bytes 32 4) = true) ∧
    (let t : Taken := desc 0x14 [(32, [9])]
     let s : State := onDesc t (fun b => b.setRole 9 { role := 2 })
     let id : Nat := 0
     let b := s.begin t
     s.descNext 0x14 1 id t ∧ 6 ≤ byteAt t.bytes 32 ∧ byteAt t.bytes 32 ≤ 9 ∧ (b.roleAt (byteAt t.bytes 32)).role = 2) := by
  refine ⟨?_, ?_, ?_, ?_, ?_, ?_, ?_⟩ <;> decide +kernel

theorem witness_QuenchAndRestore :
    (let t : Taken := desc 0x15 [(2, leBytes 2 7), (32, leBytes 5 20)]
     let s : State := onDesc t (fun b => b.setCtx 0 ctx7)
     let id : Nat := 0
     let c : Nat := 0
     let b := s.begin t
     let x := b.ctx c
     s.descNext 0x15 1 id t ∧ b.activeOf t.job = some c ∧ x.quenched = false ∧ x.quenchAt = none) ∧
    (let t : Taken := desc 0x15 [(2, leBytes 2 7)]
     let s : State := onDesc t
     let id : Nat := 0
     let b := s.begin t
     s.descNext 0x15 1 id t ∧ b.activeOf t.job = none) ∧
    (let t : Taken := descIn 0x16 (imageBytes 7 3 5 (zeros 16) []) [(2, leBytes 2 7)]
     let s : State := onDesc t (fun b => b.setCtx 0 { ctx7 with quenched := true, bind := some 0, plan := zeros 16, openWin := 6 }) (imageBytes 7
         3 5 (zeros 16) [])
     let id : Nat := 0
     let c : Nat := 0
     let b := s.begin t
     let x := b.ctx c
     let img := b.descInput t.start
     let r := b.useRegion 2
     s.descNext 0x16 1 id t ∧ s.t.memoryReady = true ∧ imageFormGood img = true ∧ imageDigestGood img = true ∧ b.activeOf t.job = some c ∧
         x.quenched = true ∧ x.bind ≠ none ∧ imgJob img = x.job ∧ imgEpoch img = x.epoch ∧ imgPlan img = x.plan ∧ r.replayHeld x (imgWindow img) =
         true) ∧
    (let t : Taken := descIn 0x16 (patch (imageBytes 7 3 5 (zeros 16) []) [(48, [0, 0])]) [(2, leBytes 2 7)]
     let s : State := onDesc t id (patch (imageBytes 7 3 5 (zeros 16) []) [(48, [0, 0])])
     let id : Nat := 0
     let b := s.begin t
     let img := b.descInput t.start
     s.descNext 0x16 1 id t ∧ s.t.memoryReady = true ∧ imageFormGood img = true ∧ imageDigestGood img = false) := by
  refine ⟨?_, ?_, ?_, ?_⟩ <;> decide +kernel

theorem witness_StoreSlots :
    (let t : Taken := desc 0x30
     let s : State := onDesc t (fun b => b.modPlane (fun u => { u with trees := [(0, { phase := 2 })] }))
     let id : Nat := 0
     let b := s.begin t
     let u := b.tray.plane
     let i := fieldAt t.bytes 32 2
     s.t.memoryReady = true ∧ s.descNext 0x30 1 id t ∧ i < 16384 ∧ (slotIn u.trees i).phase = 2) ∧
    (let t : Taken := desc 0x32 [(34, [3])]
     let s : State := onDesc t (fun b => b.modPlane (fun u => { u with groups := [(0, { phase := 2 })] }))
     let id : Nat := 0
     let b := s.begin t
     let u := b.tray.plane
     let i := fieldAt t.bytes 32 2
     s.t.memoryReady = true ∧ s.descNext 0x32 1 id t ∧ i < 4096 ∧ byteAt t.bytes 34 < 4 ∧ (slotIn u.groups i).phase = 2) ∧
    (let t : Taken := descIn 0x34 planImage [(32, leBytes 2 1023)]
     let s : State := onDesc t id planImage
     let id : Nat := 0
     let b := s.begin t
     let d := t.start
     let u := b.tray.plane
     let img := b.descInput d
     let i := fieldAt t.bytes 32 2
     s.t.memoryReady = true ∧ s.descNext 0x34 1 id t ∧ i < 1024 ∧ (slotIn u.images i).phase < 2 ∧ planImageGood img = true ∧ u.hasRoom (slotIn
         u.images i).bytes.length img.length = true) ∧
    (let t : Taken := desc 0x34
     let s : State := onDesc t (fun b => b.modPlane (fun u => { u with images := [(0, { phase := 2 })] }))
     let id : Nat := 0
     let b := s.begin t
     let u := b.tray.plane
     let i := fieldAt t.bytes 32 2
     s.t.memoryReady = true ∧ s.descNext 0x34 1 id t ∧ i < 1024 ∧ (slotIn u.images i).phase = 2) ∧
    (let t : Taken := descIn 0x36 plan [(32, [63])]
     let s : State := onDesc t id plan
     let id : Nat := 0
     let b := s.begin t
     let d := t.start
     let u := b.tray.plane
     let img := b.descInput d
     s.t.memoryReady = true ∧ s.descNext 0x36 1 id t ∧ byteAt t.bytes 32 < 64 ∧ (slotIn u.plans (byteAt t.bytes 32)).phase < 2 ∧ u.planGood img =
         true ∧ u.hasRoom (slotIn u.plans (byteAt t.bytes 32)).bytes.length img.length = true) ∧
    (let t : Taken := desc 0x36
     let s : State := onDesc t (fun b => b.modPlane (fun u => { u with plans := [(0, { phase := 2 })] }))
     let id : Nat := 0
     let b := s.begin t
     let u := b.tray.plane
     s.t.memoryReady = true ∧ s.descNext 0x36 1 id t ∧ byteAt t.bytes 32 < 64 ∧ (slotIn u.plans (byteAt t.bytes 32)).phase = 2) ∧
    (let t : Taken := desc 0x38 [(32, [0])]
     let s : State := onDesc t (fun b => b.modPlane (fun u => { u with scheds := [(0, [1])] }))
     let id : Nat := 0
     let b := s.begin t
     let d := t.start
     s.t.memoryReady = true ∧ s.descNext 0x38 1 id t ∧ byteAt t.bytes 32 < 2 ∧ b.leaseBlocks d (0x03000000 + byteAt t.bytes 32) = false ∧
         b.schedBusy (byteAt t.bytes 32) = true) ∧
    (let t : Taken := desc 0x38 [(32, [1])]
     let s : State := onDesc t (fun b => b.modHost (fun h => h.setLease 0x03000001 { phase := 1, key := ⟨1, 0, 0, 0⟩ }))
     let id : Nat := 0
     let b := s.begin t
     let d := t.start
     s.t.memoryReady = true ∧ s.descNext 0x38 1 id t ∧ byteAt t.bytes 32 < 2 ∧ b.leaseBlocks d (0x03000000 + byteAt t.bytes 32) = true) ∧
    (let t : Taken := desc 0x31 [(32, leBytes 2 16383)]
     let s : State := onDesc t
     let id : Nat := 0
     let b := s.begin t
     let u := b.tray.plane
     let i := fieldAt t.bytes 32 2
     s.t.memoryReady = true ∧ s.descNext 0x31 1 id t ∧ i < 16384 ∧ (slotIn u.trees i).phase < 2) ∧
    (let t : Taken := desc 0x31
     let s : State := onDesc t (fun b => b.modPlane (fun u => { u with trees := [(0, { phase := 2 })] }))
     let id : Nat := 0
     let b := s.begin t
     let u := b.tray.plane
     let i := fieldAt t.bytes 32 2
     s.t.memoryReady = true ∧ s.descNext 0x31 1 id t ∧ i < 16384 ∧ (slotIn u.trees i).phase = 2) ∧
    (let t : Taken := desc 0x33 [(32, leBytes 2 4095)]
     let s : State := onDesc t
     let id : Nat := 0
     let b := s.begin t
     let u := b.tray.plane
     let i := fieldAt t.bytes 32 2
     s.t.memoryReady = true ∧ s.descNext 0x33 1 id t ∧ i < 4096 ∧ (slotIn u.groups i).phase < 2) ∧
    (let t : Taken := desc 0x33
     let s : State := onDesc t (fun b => b.modPlane (fun u => { u with groups := [(0, { phase := 2 })] }))
     let id : Nat := 0
     let b := s.begin t
     let u := b.tray.plane
     let i := fieldAt t.bytes 32 2
     s.t.memoryReady = true ∧ s.descNext 0x33 1 id t ∧ i < 4096 ∧ (slotIn u.groups i).phase = 2) ∧
    (let t : Taken := desc 0x35 [(32, leBytes 2 1023)]
     let s : State := onDesc t
     let id : Nat := 0
     let b := s.begin t
     let u := b.tray.plane
     let i := fieldAt t.bytes 32 2
     s.t.memoryReady = true ∧ s.descNext 0x35 1 id t ∧ i < 1024 ∧ (slotIn u.images i).phase < 2) ∧
    (let t : Taken := desc 0x35
     let s : State := onDesc t (fun b => b.modPlane (fun u => { u with images := [(0, { phase := 2 })] }))
     let id : Nat := 0
     let b := s.begin t
     let u := b.tray.plane
     let i := fieldAt t.bytes 32 2
     s.t.memoryReady = true ∧ s.descNext 0x35 1 id t ∧ i < 1024 ∧ (slotIn u.images i).phase = 2) ∧
    (let t : Taken := desc 0x37 [(32, [63])]
     let s : State := onDesc t
     let id : Nat := 0
     let b := s.begin t
     let u := b.tray.plane
     s.t.memoryReady = true ∧ s.descNext 0x37 1 id t ∧ byteAt t.bytes 32 < 64 ∧ (slotIn u.plans (byteAt t.bytes 32)).phase < 2) ∧
    (let t : Taken := desc 0x37
     let s : State := onDesc t (fun b => b.modPlane (fun u => { u with plans := [(0, { phase := 2 })] }))
     let id : Nat := 0
     let b := s.begin t
     let u := b.tray.plane
     s.t.memoryReady = true ∧ s.descNext 0x37 1 id t ∧ byteAt t.bytes 32 < 64 ∧ (slotIn u.plans (byteAt t.bytes 32)).phase = 2) := by
  refine ⟨?_, ?_, ?_, ?_, ?_, ?_, ?_, ?_, ?_, ?_, ?_, ?_, ?_, ?_, ?_, ?_⟩ <;> decide +kernel

theorem witness_LeaseTable :
    (let t : Taken := desc 0x50 [(32, leBytes 4 0x0200001F)]
     let s : State := onDesc t (fun b => b.modHost (fun h => h.setLease 0x0200001F { phase := 2, key := ⟨1, 0, 0, 0⟩ }))
     let id : Nat := 0
     let b := s.begin t
     let r := fieldAt t.bytes 32 4
     let l := b.tray.host.lease r
     let key := b.ringKey t.ring
     s.descNext 0x50 5 id t ∧ leaseGood r = true ∧ (l.phase ≠ 1 ∨ l.key = key)) ∧
    (let t : Taken := desc 0x50 [(32, leBytes 4 0x0200001F)]
     let s : State := onDesc t (fun b => b.modHost (fun h => h.setLease 0x0200001F { phase := 1, key := ⟨1, 0, 0, 0⟩ }))
     let id : Nat := 0
     let b := s.begin t
     let r := fieldAt t.bytes 32 4
     let l := b.tray.host.lease r
     let key := b.ringKey t.ring
     s.descNext 0x50 5 id t ∧ leaseGood r = true ∧ l.phase = 1 ∧ l.key ≠ key) ∧
    (let t : Taken := desc 0x51 [(32, leBytes 4 0x0200001F)]
     let s : State := onDesc t (fun b => b.modHost (fun h => h.setLease 0x0200001F { phase := 1, key := ⟨0, 0, 0, 0⟩ }))
     let id : Nat := 0
     let b := s.begin t
     let r := fieldAt t.bytes 32 4
     let l := b.tray.host.lease r
     let key := b.ringKey t.ring
     s.descNext 0x51 5 id t ∧ leaseGood r = true ∧ l.phase = 1 ∧ l.key = key) ∧
    (let t : Taken := desc 0x51 [(32, leBytes 4 0x0200001F)]
     let s : State := onDesc t (fun b => b.modHost (fun h => h.setLease 0x0200001F { phase := 2, key := ⟨0, 0, 0, 0⟩ }))
     let id : Nat := 0
     let b := s.begin t
     let r := fieldAt t.bytes 32 4
     let l := b.tray.host.lease r
     let key := b.ringKey t.ring
     s.descNext 0x51 5 id t ∧ leaseGood r = true ∧ (l.phase ≠ 1 ∨ l.key ≠ key)) ∧
    (let t : Taken := desc 0x50 [(32, leBytes 4 0x02000020)]
     let s : State := onDesc t
     let id : Nat := 0
     let r := fieldAt t.bytes 32 4
     s.descNext 0x50 5 id t ∧ leaseGood r = false) := by
  refine ⟨?_, ?_, ?_, ?_, ?_⟩ <;> decide +kernel

theorem witness_AccessDescriptors :
    (let t : Taken := descIn 0x18 (leBytes 4 0 ++ leBytes 4 0) [(2, leBytes 2 7), (32, [1]), (40, leBytes 8 57600000000000)]
     let s : State := onDesc t (fun b => b.setCtx 0 ctx7) (leBytes 4 0 ++ leBytes 4 0)
     let id : Nat := 0
     let c : Nat := 0
     let b := s.begin t
     let d := t.start
     let n := t.inLen / 8
     let ranges := (List.range n).map (fun i => (fieldAt (b.descInput d) (8 * i) 4, fieldAt (b.descInput d) (8 * i + 4) 4))
     let mask := fieldAt t.bytes 32 8
     let expiry := BitVec.ofNat 64 (fieldAt t.bytes 40 8)
     let dies := (b.diesOf c).filter (fun k => (b.ctx c).map.any (fun m => slotOf m.2 == k && m.2 / 2 ^ 13 == b.da / 2 ^ 13 && ranges.any (fun r
         => decide (r.1 ≤ m.1) && decide (m.1 ≤ r.2))))
     s.descNext 0x18 5 id t ∧ t.inLen % 8 = 0 ∧ 1 ≤ n ∧ n ≤ 64 ∧ ranges.all (fun r => decide (r.1 ≤ r.2) && decide (r.2 < (b.ctx c).ranks)) = true
         ∧ mask ≠ 0 ∧ 0 < ftDiff expiry b.ft ∧ ftDiff expiry b.ft ≤ 57600000000000 ∧ b.lowestNode t.job = some c ∧ c ∈ b.trayContexts ∧ dies ≠ []) ∧
    (let t : Taken := desc 0x19 [(2, leBytes 2 7), (32, [1])]
     let s : State := onDesc t (fun b => b.setCtx 0 ctx7)
     let id : Nat := 0
     let c : Nat := 0
     let b := s.begin t
     s.descNext 0x19 5 id t ∧ b.lowestNode t.job = some c) ∧
    (let t : Taken := desc 0x52 [(32, leBytes 8 9)]
     let s : State := onDesc t
     let id : Nat := 0
     s.descNext 0x52 5 id t) ∧
    (let t : Taken := desc 0x53
     let s : State := onDesc t (fun b => ({ b with tray := { b.tray with recordCopy := some 0 } } : Block).flashProgram 0x20034 (leBytes 4
         0xD00000 ++ leBytes 4 0x100000))
     let id : Nat := 0
     let b := s.begin t
     s.descNext 0x53 4 id t ∧ b.logWrites = true) ∧
    (let t : Taken := desc 0x53
     let s : State := onDesc t
     let id : Nat := 0
     let b := s.begin t
     s.descNext 0x53 4 id t ∧ b.logWrites = false) := by
  refine ⟨?_, ?_, ?_, ?_, ?_⟩ <;> decide +kernel

theorem witness_ChipDescriptors :
    (let t : Taken := desc 0x60 [(32, [1])]
     let s : State := onDesc t
     let id : Nat := 0
     let b := s.begin t
     s.descNext 0x60 4 id t ∧ byteAt t.bytes 33 = 0 ∧ byteAt t.bytes 32 ≤ 3 ∧ b.mayGo (byteAt t.bytes 32) = true ∧ b.power.desc = none) ∧
    (let t : Taken := desc 0x60 [(32, [2])]
     let s : State := onDesc t
     let id : Nat := 0
     let b := s.begin t
     s.descNext 0x60 4 id t ∧ byteAt t.bytes 33 = 0 ∧ byteAt t.bytes 32 ≤ 3 ∧ b.mayGo (byteAt t.bytes 32) = false) ∧
    (let t : Taken := desc 0x60 [(32, [3]), (33, [1]), (36, [1, 0, 0, 0x80])]
     let s : State := onDesc t
     let id : Nat := 0
     let slots := maskSlots (fieldAt t.bytes 36 4)
     s.descNext 0x60 4 id t ∧ byteAt t.bytes 33 = 1 ∧ byteAt t.bytes 32 ≤ 3 ∧ slots ≠ []) ∧
    (let t : Taken := desc 0x62 [(32, [5])]
     let s : State := onDesc t
     let id : Nat := 0
     let b := s.begin t
     s.descNext 0x62 5 id t ∧ byteAt t.bytes 32 ≤ 5 ∧ b.mayRestart (byteAt t.bytes 32) = true) ∧
    (let t : Taken := desc 0x61 [(32, [36]), (33, [1])]
     let s : State := onDesc t
     let id : Nat := 0
     let i := 2
     let refused := [5]
     let b := s.begin t
     s.descNext 0x61 5 id t ∧ byteAt t.bytes 33 ≤ 1 ∧ ((List.range 6).filter (fun i => bitOf (byteAt t.bytes 32) i)).filter (fun i => b.imageCause
         (byteAt t.bytes 33) i != 0) = i :: refused) ∧
    (let t : Taken := desc 0x63 [(32, [1]), (36, [5, 0, 33])]
     let s : State := onDesc t
     let id : Nat := 0
     s.descNext 0x63 4 id t ∧ byteAt t.bytes 32 = 1 ∧ zeroAt t.bytes 39 25 = true ∧ unitExists (byteAt t.bytes 36) (byteAt t.bytes 37) (byteAt
         t.bytes 38) = true) ∧
    (let t : Taken := desc 0x63 [(32, [2])]
     let s : State := onDesc t
     let id : Nat := 0
     s.descNext 0x63 4 id t ∧ byteAt t.bytes 32 ≠ 1) := by
  refine ⟨?_, ?_, ?_, ?_, ?_, ?_, ?_⟩ <;> decide +kernel

theorem witness_DieRegisters :
    (let t : Taken := desc 0x40 [(32, [31, 0]), (36, leBytes 4 0x80008)]
     let s : State := onDesc t
     let id : Nat := 0
     s.t.takenById id = some t ∧ s.descNext 0x40 5 id t ∧ dieSlot t ≤ 31 ∧ dieOp t = 0) ∧
    (let t : Taken := desc 0x40 [(32, [31, 1]), (36, leBytes 4 0x80008)]
     let s : State := onDesc t
     let id : Nat := 0
     let b := s.begin t
     let d := t.start
     s.t.takenById id = some t ∧ s.descNext 0x40 5 id t ∧ dieSlot t ≤ 31 ∧ dieOp t = 1 ∧ (b.leaseBlocks d (0x02000000 + dieSlot t) = false)) ∧
    (let t : Taken := desc 0x40 [(32, [31, 2]), (36, leBytes 4 0x80008)]
     let s : State := onDesc t
     let id : Nat := 0
     let b := s.begin t
     let d := t.start
     s.t.takenById id = some t ∧ s.descNext 0x40 5 id t ∧ dieSlot t ≤ 31 ∧ dieOp t = 2 ∧ (b.leaseBlocks d (0x02000000 + dieSlot t) = false)) ∧
    (let t : Taken := desc 0x40 [(32, [31, 3]), (36, leBytes 4 0x80008)]
     let s : State := onDesc t
     let id : Nat := 0
     let b := s.begin t
     let d := t.start
     s.t.takenById id = some t ∧ s.descNext 0x40 5 id t ∧ dieSlot t ≤ 31 ∧ dieOp t = 3 ∧ (b.leaseBlocks d (0x02000000 + dieSlot t) = false)) ∧
    (let t : Taken := desc 0x40 [(32, [31, 4]), (36, leBytes 4 0x80008)]
     let s : State := onDesc t
     let id : Nat := 0
     let b := s.begin t
     let d := t.start
     s.t.takenById id = some t ∧ s.descNext 0x40 5 id t ∧ dieSlot t ≤ 31 ∧ dieOp t = 4 ∧ (b.leaseBlocks d (0x02000000 + dieSlot t) = false)) ∧
    (let t : Taken := desc 0x40 [(32, [31, 1]), (36, leBytes 4 0x80008)]
     let s : State := onDesc t (fun b => b.modHost (fun h => h.setLease 0x0200001F { phase := 1, key := ⟨1, 0, 0, 0⟩ }))
     let id : Nat := 0
     let b := s.begin t
     let d := t.start
     s.t.takenById id = some t ∧ s.descNext 0x40 5 id t ∧ dieSlot t ≤ 31 ∧ dieOp t = 1 ∧ ¬ (b.leaseBlocks d (0x02000000 + dieSlot t) = false)) ∧
    (let t : Taken := desc 0x40 [(32, [31, 2]), (36, leBytes 4 0x80008)]
     let s : State := onDesc t (fun b => b.modHost (fun h => h.setLease 0x0200001F { phase := 1, key := ⟨1, 0, 0, 0⟩ }))
     let id : Nat := 0
     let b := s.begin t
     let d := t.start
     s.t.takenById id = some t ∧ s.descNext 0x40 5 id t ∧ dieSlot t ≤ 31 ∧ dieOp t = 2 ∧ ¬ (b.leaseBlocks d (0x02000000 + dieSlot t) = false)) ∧
    (let t : Taken := desc 0x40 [(32, [31, 3]), (36, leBytes 4 0x80008)]
     let s : State := onDesc t (fun b => b.modHost (fun h => h.setLease 0x0200001F { phase := 1, key := ⟨1, 0, 0, 0⟩ }))
     let id : Nat := 0
     let b := s.begin t
     let d := t.start
     s.t.takenById id = some t ∧ s.descNext 0x40 5 id t ∧ dieSlot t ≤ 31 ∧ dieOp t = 3 ∧ ¬ (b.leaseBlocks d (0x02000000 + dieSlot t) = false)) ∧
    (let t : Taken := desc 0x40 [(32, [31, 4]), (36, leBytes 4 0x80008)]
     let s : State := onDesc t (fun b => b.modHost (fun h => h.setLease 0x0200001F { phase := 1, key := ⟨1, 0, 0, 0⟩ }))
     let id : Nat := 0
     let b := s.begin t
     let d := t.start
     s.t.takenById id = some t ∧ s.descNext 0x40 5 id t ∧ dieSlot t ≤ 31 ∧ dieOp t = 4 ∧ ¬ (b.leaseBlocks d (0x02000000 + dieSlot t) = false)) ∧
    (let t : Taken := { desc 0x40 [] 0 true with waitDies := [3] }
     let s : State := onDesc t
     let id : Nat := 0
     s.running .T = true ∧ s.t.takenById id = some t ∧ t.waitDies ≠ [] ∧ ftGe s.t.ft t.deadline = true ∧ s.t.stewardRuns 5 = true ∧ t.opcode ≠
         0x18) := by
  refine ⟨?_, ?_, ?_, ?_, ?_, ?_, ?_, ?_, ?_, ?_⟩ <;> decide +kernel

theorem witness_SearchAndReplay :
    (let t : Taken := descIn 0x22 (patch (zeros 128) [(2, leBytes 2 7), (6, [1]), (16, [9])]) [(2, leBytes 2 7)]
     let s : State := onDesc t id (patch (zeros 128) [(2, leBytes 2 7), (6, [1]), (16, [9])])
     let id : Nat := 0
     let n : Nat := 0
     let b := s.begin t
     let d := t.start
     let spec := b.descInput d
     s.t.memoryReady = true ∧ s.descNext 0x22 2 id t ∧ b.freeScan = some n ∧ scanGood spec = true ∧ scanJob spec = t.job ∧ scanSource spec = 0) ∧
    (let t : Taken := descIn 0x22 (patch (zeros 128) [(0, [1]), (2, leBytes 2 7), (6, [1]), (16, [9])]) [(2, leBytes 2 7)]
     let s : State := onDesc t (fun b => b.setCtx 0 ctx7) (patch (zeros 128) [(0, [1]), (2, leBytes 2 7), (6, [1]), (16, [9])])
     let id : Nat := 0
     let n : Nat := 0
     let node : Ctx := ctx7
     let b := s.begin t
     let d := t.start
     let spec := b.descInput d
     s.t.memoryReady = true ∧ s.descNext 0x22 2 id t ∧ b.freeScan = some n ∧ scanGood spec = true ∧ scanJob spec = t.job ∧ scanSource spec ≠ 0 ∧
         b.searchCtx (scanJob spec) = some node ∧ scanRescore spec = false) ∧
    (let t : Taken := descIn 0x22 (patch (zeros 128) [(0, [1]), (2, leBytes 2 7), (4, [2]), (6, [1]), (16, [9])]) [(2, leBytes 2 7)]
     let s : State := onDesc t (fun b => (b.setCtx 0 ctx7).modPlane (fun u =>
         { u with plans := [(0, { phase := 2, bytes := patch (zeros 200) [(0, [0xA9, 0x50, 1, 1]), (64, [4]), (68, [80]), (72, [72]), (80, [68])] })] }))
         (patch (zeros 128) [(0, [1]), (2, leBytes 2 7), (4, [2]), (6, [1]), (16, [9])])
     let id : Nat := 0
     let n : Nat := 0
     let node : Ctx := ctx7
     let e := readEnsemble (zeros 68)
     let named := patch (zeros 200) [(0, [0xA9, 0x50, 1, 1]), (64, [4]), (68, [80]), (72, [72]), (80, [68])]
     let b := s.begin t
     let d := t.start
     let spec := b.descInput d
     let led := (b.useRegion 1).usePlan (slice spec 96 16)
     let plan := (b.tray.plane.planOf node.plan).getD []
     s.t.memoryReady = true ∧ s.descNext 0x22 2 id t ∧ b.freeScan = some n ∧ scanGood spec = true ∧ scanJob spec = t.job ∧ scanSource spec ≠ 0 ∧
         b.searchCtx (scanJob spec) = some node ∧ scanRescore spec = true ∧ led.tray.plane.planOf (slice spec 96 16) = some named ∧ (planEnsembles
         named)[byteAt spec 112]? = some e ∧ planPart named 1 = planPart plan 1) ∧
    (let t : Taken := desc 0x22
     let s : State := onDesc t (fun b => b.modPlane (fun u =>
         { u with scans := (List.range 16).map (fun i => (i, { desc := 0, spec := patch (zeros 128) [(2, leBytes 2 7), (6, [1]), (16, [9])], start := 0, slots := 1 })) }))
     let id : Nat := 0
     let b := s.begin t
     s.t.memoryReady = true ∧ s.descNext 0x22 2 id t ∧ b.freeScan = none) ∧
    (let t : Taken := desc 0x17 [(2, leBytes 2 7), (32, leBytes 5 1), (37, leBytes 5 2), (42, [1, 2]), (44, [3])]
     let s : State := onDesc t (fun b => b.setCtx 0 { ctx7 with bind := some 0, start := 16384000 })
     let id : Nat := 0
     let n : Nat := 0
     let node : Ctx := { ctx7 with bind := some 0, start := 16384000 }
     let b := s.begin t
     let first := fieldAt t.bytes 32 5
     let w := (windowOf node.k node.start + 2 ^ 40 - 1) % 2 ^ 40
     let job : ReplayJob :=
         { desc := id, job := t.job, epoch := fieldAt t.bytes 44 4, first := first, next := (w + 1) % 2 ^ 40, last := fieldAt t.bytes 37 5, mode := byteAt t.bytes 42, ctx := node.replayFrom { w := w } }
     s.t.memoryReady = true ∧ s.descNext 0x17 2 id t ∧ b.freeScan = some n ∧ b.replayCtx t.job (fieldAt t.bytes 44 4) = some node ∧ byteAt t.bytes
         42 ≤ 1 ∧ byteAt t.bytes 43 = 2 ∧ 0 ≤ windowDiff (fieldAt t.bytes 37 5) first ∧ node.bind ≠ none ∧ windowDiff w first < 0) ∧
    (let t : Taken := desc 0x22 [(20, leBytes 4 65536)] 0 true
     let x : Scan := { desc := 0, spec := patch (zeros 128) [(2, leBytes 2 7), (6, [1]), (16, [9])], start := 0, slots := 1 }
     let s : State := onDesc t (fun b => b.modPlane (fun u => { u with scans := [(15, x)] }))
     let m : Fin 16 := 15
     let b := s.begin t
     let d := t.start
     let spec := b.descInput d
     let b0 := (s.t.modPlane (fun u => { u with scans := u.scans.filter (fun e => e.1 != m.val) })).flag Reg.ANV_STS 4
     let b1 := b0.freeNat.2
     let loaves := cutLoaves (b0.freeNat.1 % 5) b1.effort (scanStream x.spec) 0 b1.rawOnly (fun _ => 4) x.result.1
     let bytes := (loaves.map (padTo 64)).flatten ++ x.summary x.result.2
     s.running .T = true ∧ s.t.tray.plane.scans.find? (fun e => e.1 == m.val) = some (m.val, x) ∧ x.loaves = [] ∧ x.unscored = [] ∧ 0 < x.slots ∧
         s.t.stewardRuns 2 = true ∧ s.t.isSet Reg.PLN_STS 4 = false ∧ s.t.takenById x.desc = some t ∧ bytes.length ≤ t.outLen) ∧
    (let t : Taken := desc 0x17 [(20, leBytes 4 65536)] 0 true
     let r : ReplayJob := { desc := 0, job := 7, epoch := 3, first := 1, next := 3, last := 2, mode := 0, ctx := ctx7, ended := some (0, 2) }
     let s : State := onDesc t (fun b => b.modPlane (fun u => { u with replays := [(15, r)] }))
     let m : Fin 16 := 15
     let status : Nat := 0
     let w : Nat := 2
     let b0 := (s.t.modPlane (fun u => { u with replays := u.replays.filter (fun e => e.1 != m.val) })).count Reg.PLN_REPLAYS 1
     let b1 := b0.freeNat.2
     let loaves := cutLoaves (b0.freeNat.1 % 5) b1.effort (if r.job = 0 then 0xFFFF else r.job) 0 b1.rawOnly (fun _ => 4) r.out
     let bytes := (loaves.map (padTo 64)).flatten
     s.running .T = true ∧ s.t.tray.plane.replays.find? (fun e => e.1 == m.val) = some (m.val, r) ∧ r.ended = some (status, w) ∧ s.t.isSet
         Reg.PLN_STS 4 = false ∧ s.t.takenById r.desc = some t ∧ status = 0 ∧ bytes.length ≤ t.outLen) ∧
    (let t : Taken := desc 0x17 [] 0 true
     let r : ReplayJob := { desc := 0, job := 7, epoch := 3, first := 1, next := 3, last := 2, mode := 0, ctx := ctx7, ended := some (0x12, 2) }
     let s : State := onDesc t (fun b => b.modPlane (fun u => { u with replays := [(15, r)] }))
     let m : Fin 16 := 15
     let status : Nat := 0x12
     let w : Nat := 2
     s.running .T = true ∧ s.t.tray.plane.replays.find? (fun e => e.1 == m.val) = some (m.val, r) ∧ r.ended = some (status, w) ∧ s.t.isSet
         Reg.PLN_STS 4 = false ∧ s.t.takenById r.desc = some t ∧ status = 0x12) ∧
    (let t : Taken := desc 0x17 [] 0 true
     let r : ReplayJob := { desc := 0, job := 7, epoch := 3, first := 1, next := 3, last := 2, mode := 0, ctx := ctx7, ended := some (0x0D, 2) }
     let s : State := onDesc t (fun b => b.modPlane (fun u => { u with replays := [(15, r)] }))
     let m : Fin 16 := 15
     let status : Nat := 0x0D
     let w : Nat := 2
     s.running .T = true ∧ s.t.tray.plane.replays.find? (fun e => e.1 == m.val) = some (m.val, r) ∧ r.ended = some (status, w) ∧ s.t.isSet
         Reg.PLN_STS 4 = false ∧ s.t.takenById r.desc = some t ∧ status ≠ 0 ∧ status ≠ 0x12) := by
  refine ⟨?_, ?_, ?_, ?_, ?_, ?_, ?_, ?_, ?_⟩ <;> decide +kernel

theorem witness_ControlFramesChecked :
    (let raw : Bytes := dieFrame 0x0102 (zeros 8)
     let c : Instr := .ackReceive 0 5 raw
     let b : Build := .T
     let link : Fin 64 := 5
     let ctype : Nat := 0x0102
     let s : State := onT id
     controlOf c = some (b, link, raw, ctype) ∧ s.running b = true ∧ ((s.block b).rx link raw ctype).1 = none) ∧
    (let raw : Bytes := frameBytes 2 7 (sourceWord 0 3 false false) 1 0 0 0 1 0 0x500 3 []
     let c : Instr := .ackReceive 0 5 raw
     let b : Build := .T
     let link : Fin 64 := 5
     let ctype : Nat := 0x0102
     let s : State := onT (fun b => b.setCtx 0 ctx7)
     let f : Frame := readFrame raw
     controlOf c = some (b, link, raw, ctype) ∧ s.running b = true ∧ ((s.block b).rx link raw ctype).1 = some f ∧ f.cls ≠ 1) ∧
    (let raw : Bytes := frameBytes 1 7 (sourceWord 0 3 false false) 1 0 0 0 2 0 0x500 3 []
     let c : Instr := .ackReceive 0 5 raw
     let b : Build := .T
     let link : Fin 64 := 5
     let ctype : Nat := 0x0102
     let s : State := onT (fun b => b.setCtx 0 ctx7)
     let f : Frame := readFrame raw
     let b' : Block := ((s.block .T).rx 5 raw 0x0102).2
     let b'' : Block := (((s.block .T).rx 5 raw).2.assemble (readFrame raw)).2
     controlOf c = some (b, link, raw, ctype) ∧ s.running b = true ∧ ((s.block b).rx link raw ctype).1 = some f ∧ f.cls = 1 ∧ f.parts ≠ 1 ∧
         b'.assemble f = (none, b'')) ∧
    (let raw : Bytes := dieFrame 0x0107 (zeros 8)
     let c : Instr := .ackReceive 0 5 raw
     let b : Build := .T
     let link : Fin 64 := 5
     let ctype : Nat := 0x0102
     let s : State := onT (fun b => b.setCtx 0 ctx7)
     let f : Frame := readFrame raw
     let r : Bytes := (controlRecord 0x0107 (zeros 8))
     controlOf c = some (b, link, raw, ctype) ∧ s.running b = true ∧ ((s.block b).rx link raw ctype).1 = some f ∧ f.cls = 1 ∧ f.parts = 1 ∧
         controlRecords 512 f.payload = [r] ∧ ctypeOf r ≠ ctype) ∧
    (let raw : Bytes := roleFrame 6 0x0106 (leBytes 8 9)
     let c : Instr := .teardownReceive .T 0 32 raw
     let b : Build := .T
     let link : Fin 64 := 32
     let ctype : Nat := 0x0106
     let s : State := onT (fun b => b.setCtx 0 { ctx7 with children := [{ level := 3, addr := 0x500, ranks := [0] }] })
     let f : Frame := readFrame raw
     let r : Bytes := (controlRecord 0x0106 (leBytes 8 9))
     let b' : Block := ((s.block .T).rx 32 raw 0x0106).2
     controlOf c = some (b, link, raw, ctype) ∧ s.running b = true ∧ ((s.block b).rx link raw ctype).1 = some f ∧ f.cls = 1 ∧ f.parts = 1 ∧
         controlRecords 512 f.payload = [r] ∧ ctypeOf r = ctype ∧ b'.heeds ctype = false) ∧
    (let raw : Bytes := dieFrame 0x0102 (zeros 8)
     let c : Instr := .ackReceive 0 5 raw
     let b : Build := .T
     let link : Fin 64 := 5
     let ctype : Nat := 0x0102
     let s : State := onT id
     controlOf c = some (b, link, raw, ctype) ∧ s.running b = true) := by
  refine ⟨?_, ?_, ?_, ?_, ?_, ?_⟩ <;> decide +kernel

theorem witness_PrepareTaken :
    (let s : State := onD (fun b => (({ b with strapSlot := 5 }.modTime (fun m => { m with valid := true })).flag Reg.ID_CTL 2).setReg
         Reg.TIM_LINK_DELAY 0x80000000)
     let b : Build := .D
     let link : Fin 64 := 0
     let raw : Bytes := roleFrame 5 0x0101 (leBytes 8 (16384000 * 10) ++ leBytes 4 1 ++ [10, 0] ++ leBytes 2 1 ++ zeros 4 ++ [2, 1, 5, 0] ++ zeros
         16 ++ zeros 8 ++ leBytes 4 0 ++ leBytes 4 1 ++ leBytes 4 0x500)
     let f : Frame := readFrame raw
     let r : Bytes := (controlRecord 0x0101 (leBytes 8 (16384000 * 10) ++ leBytes 4 1 ++ [10, 0] ++ leBytes 2 1 ++ zeros 4 ++ [2, 1, 5, 0] ++
         zeros 16 ++ zeros 8 ++ leBytes 4 0 ++ leBytes 4 1 ++ leBytes 4 0x500))
     s.running b = true ∧ ((s.block b).rx link raw 0x0101).1 = some f ∧ f.cls = 1 ∧ f.parts = 1 ∧ controlRecords 512 f.payload = [r] ∧ ctypeOf r =
         0x0101) ∧
    (let s : State := onD (fun b => (({ b with strapSlot := 5 }.modTime (fun m => { m with valid := true })).flag Reg.ID_CTL 2).setReg
         Reg.TIM_LINK_DELAY 0x80000000)
     let b : Build := .D
     let link : Fin 64 := 0
     let raw : Bytes := roleFrame 5 0x0101 (leBytes 8 (16384000 * 10) ++ leBytes 4 1 ++ [10, 0] ++ leBytes 2 1 ++ zeros 4 ++ [2, 1, 5, 0] ++ zeros
         16 ++ zeros 8 ++ leBytes 4 0 ++ leBytes 4 1 ++ leBytes 4 0x500)
     let f : Frame := readFrame raw
     let r : Bytes := (controlRecord 0x0101 (leBytes 8 (16384000 * 10) ++ leBytes 4 1 ++ [10, 0] ++ leBytes 2 1 ++ zeros 4 ++ [2, 1, 5, 0] ++
         zeros 16 ++ zeros 8 ++ leBytes 4 0 ++ leBytes 4 1 ++ leBytes 4 0x500))
     let b' : Block := ((s.block .D).rx 0 raw 0x0101).2
     s.running b = true ∧ ((s.block b).rx link raw 0x0101).1 = some f ∧ f.cls = 1 ∧ f.parts = 1 ∧ controlRecords 512 f.payload = [r] ∧ ctypeOf r =
         0x0101 ∧ b'.build = .D) ∧
    (let s : State := onT (fun b => (b.modTime (fun m => { m with valid := true })).modPlane (fun u =>
         { u with scheds := [(0, patch (zeros 96) [(4, [1]), (80, [10, 5, 1, 0])])] }))
     let b : Build := .T
     let link : Fin 64 := 32
     let raw : Bytes := roleFrame 6 0x0101 (leBytes 8 (16384000 * 10) ++ leBytes 4 1 ++ [10, 0] ++ leBytes 2 1 ++ zeros 4 ++ [2, 1, 5, 0] ++ zeros
         16 ++ zeros 8 ++ leBytes 4 0 ++ leBytes 4 1 ++ leBytes 4 0x500)
     let f : Frame := readFrame raw
     let r : Bytes := (controlRecord 0x0101 (leBytes 8 (16384000 * 10) ++ leBytes 4 1 ++ [10, 0] ++ leBytes 2 1 ++ zeros 4 ++ [2, 1, 5, 0] ++
         zeros 16 ++ zeros 8 ++ leBytes 4 0 ++ leBytes 4 1 ++ leBytes 4 0x500))
     let b' : Block := ((s.block .T).rx 32 raw 0x0101).2
     s.running b = true ∧ ((s.block b).rx link raw 0x0101).1 = some f ∧ f.cls = 1 ∧ f.parts = 1 ∧ controlRecords 512 f.payload = [r] ∧ ctypeOf r =
         0x0101 ∧ b'.build = .T) ∧
    (let s : State := onD (fun b => (({ b with strapSlot := 5 }.modTime (fun m => { m with valid := true })).flag Reg.ID_CTL 2).setReg
         Reg.TIM_LINK_DELAY 0x80000000)
     let b : Build := .D
     let link : Fin 64 := 0
     let raw : Bytes := roleFrame 5 0x0101 (leBytes 8 (16384000 * 10) ++ leBytes 4 1 ++ [10, 0] ++ leBytes 2 1 ++ zeros 4 ++ [2, 1, 5, 0] ++ zeros
         16 ++ zeros 8 ++ leBytes 4 0 ++ leBytes 4 1 ++ leBytes 4 0x500)
     let f : Frame := readFrame raw
     let r : Bytes := (controlRecord 0x0101 (leBytes 8 (16384000 * 10) ++ leBytes 4 1 ++ [10, 0] ++ leBytes 2 1 ++ zeros 4 ++ [2, 1, 5, 0] ++
         zeros 16 ++ zeros 8 ++ leBytes 4 0 ++ leBytes 4 1 ++ leBytes 4 0x500))
     let b' : Block := ((s.block .D).rx 0 raw 0x0101).2
     let c : Nat := 0
     let x := b'.preparedCtx f r
     s.running b = true ∧ ((s.block b).rx link raw 0x0101).1 = some f ∧ f.cls = 1 ∧ f.parts = 1 ∧ controlRecords 512 f.payload = [r] ∧ ctypeOf r =
         0x0101 ∧ ((prepareEntries r).all (fun e => e.2 % 256 == 0) = true ∧ 5 ≤ byteAt r 30 ∧ byteAt r 30 ≤ 9 ∧ byteAt r 20 % 16 ≠ 15 ∧ (b'.build
         = .T → 6 ≤ f.level)) ∧ ((b'.fromParent f).any (fun c => (b'.ctx c).epoch == f.epoch) = false) ∧ b'.prepareIndex r f.job = some c ∧
         b'.prepareReasons r x = 0 ∧ b'.build = .D) ∧
    (let s : State := onT (fun b => (b.modTime (fun m => { m with valid := true })).modPlane (fun u =>
         { u with scheds := [(0, patch (zeros 96) [(4, [1]), (80, [10, 5, 1, 0])])] }))
     let b : Build := .T
     let link : Fin 64 := 32
     let raw : Bytes := roleFrame 6 0x0101 (leBytes 8 (16384000 * 10) ++ leBytes 4 1 ++ [10, 0] ++ leBytes 2 1 ++ zeros 4 ++ [2, 1, 5, 0] ++ zeros
         16 ++ zeros 8 ++ leBytes 4 0 ++ leBytes 4 1 ++ leBytes 4 0x500)
     let f : Frame := readFrame raw
     let r : Bytes := (controlRecord 0x0101 (leBytes 8 (16384000 * 10) ++ leBytes 4 1 ++ [10, 0] ++ leBytes 2 1 ++ zeros 4 ++ [2, 1, 5, 0] ++
         zeros 16 ++ zeros 8 ++ leBytes 4 0 ++ leBytes 4 1 ++ leBytes 4 0x500))
     let b' : Block := ((s.block .T).rx 32 raw 0x0101).2
     let c : Nat := 0
     let x := b'.preparedCtx f r
     s.running b = true ∧ ((s.block b).rx link raw 0x0101).1 = some f ∧ f.cls = 1 ∧ f.parts = 1 ∧ controlRecords 512 f.payload = [r] ∧ ctypeOf r =
         0x0101 ∧ ((prepareEntries r).all (fun e => e.2 % 256 == 0) = true ∧ 5 ≤ byteAt r 30 ∧ byteAt r 30 ≤ 9 ∧ byteAt r 20 % 16 ≠ 15 ∧ (b'.build
         = .T → 6 ≤ f.level)) ∧ ((b'.fromParent f).any (fun c => (b'.ctx c).epoch == f.epoch) = false) ∧ b'.prepareIndex r f.job = some c ∧
         b'.prepareReasons r x = 0 ∧ b'.build = .T) ∧
    (let s : State := on
     let b : Build := .T
     let link : Fin 64 := 32
     let raw : Bytes := roleFrame 6 0x0101 (leBytes 8 (16384000 * 10) ++ leBytes 4 1 ++ [10, 0] ++ leBytes 2 1 ++ zeros 4 ++ [2, 1, 5, 0] ++ zeros
         16 ++ zeros 8 ++ leBytes 4 0 ++ leBytes 4 1 ++ leBytes 4 0x500)
     let f : Frame := readFrame raw
     let r : Bytes := (controlRecord 0x0101 (leBytes 8 (16384000 * 10) ++ leBytes 4 1 ++ [10, 0] ++ leBytes 2 1 ++ zeros 4 ++ [2, 1, 5, 0] ++
         zeros 16 ++ zeros 8 ++ leBytes 4 0 ++ leBytes 4 1 ++ leBytes 4 0x500))
     let b' : Block := ((s.block .T).rx 32 raw 0x0101).2
     let c : Nat := 0
     let x := b'.preparedCtx f r
     s.running b = true ∧ ((s.block b).rx link raw 0x0101).1 = some f ∧ f.cls = 1 ∧ f.parts = 1 ∧ controlRecords 512 f.payload = [r] ∧ ctypeOf r =
         0x0101 ∧ ((prepareEntries r).all (fun e => e.2 % 256 == 0) = true ∧ 5 ≤ byteAt r 30 ∧ byteAt r 30 ≤ 9 ∧ byteAt r 20 % 16 ≠ 15 ∧ (b'.build
         = .T → 6 ≤ f.level)) ∧ ((b'.fromParent f).any (fun c => (b'.ctx c).epoch == f.epoch) = false) ∧ b'.prepareReasons r x ≠ 0) ∧
    (let s : State := onT (fun b => b.setCtx 0 { ctx7 with isHearth := false, phase := .prepared })
     let b : Build := .T
     let link : Fin 64 := 32
     let raw : Bytes := roleFrame 6 0x0101 (leBytes 8 (16384000 * 10) ++ leBytes 4 1 ++ [10, 0] ++ leBytes 2 1 ++ zeros 4 ++ [2, 1, 5, 0] ++ zeros
         16 ++ zeros 8 ++ leBytes 4 0 ++ leBytes 4 1 ++ leBytes 4 0x500)
     let f : Frame := readFrame raw
     let r : Bytes := (controlRecord 0x0101 (leBytes 8 (16384000 * 10) ++ leBytes 4 1 ++ [10, 0] ++ leBytes 2 1 ++ zeros 4 ++ [2, 1, 5, 0] ++
         zeros 16 ++ zeros 8 ++ leBytes 4 0 ++ leBytes 4 1 ++ leBytes 4 0x500))
     let b' : Block := ((s.block .T).rx 32 raw 0x0101).2
     let c : Nat := 0
     s.running b = true ∧ ((s.block b).rx link raw 0x0101).1 = some f ∧ f.cls = 1 ∧ f.parts = 1 ∧ controlRecords 512 f.payload = [r] ∧ ctypeOf r =
         0x0101 ∧ ((prepareEntries r).all (fun e => e.2 % 256 == 0) = true ∧ 5 ≤ byteAt r 30 ∧ byteAt r 30 ≤ 9 ∧ byteAt r 20 % 16 ≠ 15 ∧ (b'.build
         = .T → 6 ≤ f.level)) ∧ ¬ ((b'.fromParent f).any (fun c => (b'.ctx c).epoch == f.epoch) = false)) ∧
    (let s : State := onD (fun b => (({ b with strapSlot := 5 }.modTime (fun m => { m with valid := true })).flag Reg.ID_CTL 2).setReg
         Reg.TIM_LINK_DELAY 0x80000000)
     let b : Build := .D
     let link : Fin 64 := 0
     let raw : Bytes := roleFrame 5 0x0101 (leBytes 8 (16384000 * 10) ++ leBytes 4 1 ++ [10, 0] ++ leBytes 2 1 ++ zeros 4 ++ [2, 1, 5, 0] ++ zeros
         16 ++ zeros 8 ++ leBytes 4 0 ++ leBytes 4 1 ++ leBytes 4 0x501)
     let f : Frame := readFrame raw
     let r : Bytes := (controlRecord 0x0101 (leBytes 8 (16384000 * 10) ++ leBytes 4 1 ++ [10, 0] ++ leBytes 2 1 ++ zeros 4 ++ [2, 1, 5, 0] ++
         zeros 16 ++ zeros 8 ++ leBytes 4 0 ++ leBytes 4 1 ++ leBytes 4 0x501))
     let b' : Block := ((s.block .D).rx 0 raw 0x0101).2
     s.running b = true ∧ ((s.block b).rx link raw 0x0101).1 = some f ∧ f.cls = 1 ∧ f.parts = 1 ∧ controlRecords 512 f.payload = [r] ∧ ctypeOf r =
         0x0101 ∧ ¬ ((prepareEntries r).all (fun e => e.2 % 256 == 0) = true ∧ 5 ≤ byteAt r 30 ∧ byteAt r 30 ≤ 9 ∧ byteAt r 20 % 16 ≠ 15 ∧
         (b'.build = .T → 6 ≤ f.level))) := by
  refine ⟨?_, ?_, ?_, ?_, ?_, ?_, ?_, ?_⟩ <;> decide +kernel

theorem witness_StartDecided :
    (let s : State := onT (fun b => b.setCtx 0
         { ctx7 with phase := .prepared, start := 16384000, children := [{ level := 3, addr := 0x500, ranks := [0] }] })
     let link : Fin 64 := 5
     let raw : Bytes := dieFrame 0x0102 (zeros 8 ++ presenceItem 0 0 1 false (fun _ => 1))
     let f : Frame := readFrame raw
     let r : Bytes := (controlRecord 0x0102 (zeros 8 ++ presenceItem 0 0 1 false (fun _ => 1)))
     let b' : Block := ((s.block .T).rx 5 raw 0x0102).2
     let c : Nat := 0
     let x := b'.ctx c
     s.running .T = true ∧ ((s.block .T).rx link raw 0x0102).1 = some f ∧ f.cls = 1 ∧ f.parts = 1 ∧ controlRecords 512 f.payload = [r] ∧ ctypeOf r
         = 0x0102 ∧ (b'.fromChild f = some c) ∧ presenceGood r = true ∧ x.phase = .prepared ∧ x.ackSent = false ∧ ftDiff b'.ft (x.ackDeadlineAt
         (if x.isHearth then 0 else x.nodeDepth)) ≤ 0) ∧
    (let s : State := onT (fun b => b.setCtx 0
         { ctx7 with phase := .prepared, start := 16384000, ackSent := true, children := [{ level := 3, addr := 0x500, ranks := [0] }] })
     let link : Fin 64 := 5
     let raw : Bytes := dieFrame 0x0102 (zeros 8 ++ presenceItem 0 0 1 false (fun _ => 1))
     let f : Frame := readFrame raw
     let r : Bytes := (controlRecord 0x0102 (zeros 8 ++ presenceItem 0 0 1 false (fun _ => 1)))
     let b' : Block := ((s.block .T).rx 5 raw 0x0102).2
     let c : Nat := 0
     let x := b'.ctx c
     s.running .T = true ∧ ((s.block .T).rx link raw 0x0102).1 = some f ∧ f.cls = 1 ∧ f.parts = 1 ∧ controlRecords 512 f.payload = [r] ∧ ctypeOf r
         = 0x0102 ∧ (b'.fromChild f = some c) ∧ presenceGood r = true ∧ x.phase = .prepared ∧ x.ackSent = true) ∧
    (let s : State := onD (fun b => b.setCtx 0 { ctx7 with phase := .prepared, start := 16384000 })
     let b : Build := .D
     let link : Fin 64 := 0
     let raw : Bytes := roleFrame 5 0x0103 (leBytes 8 16384000)
     let f : Frame := readFrame raw
     let r : Bytes := (controlRecord 0x0103 (leBytes 8 16384000))
     let b' : Block := ((s.block .D).rx 0 raw 0x0103).2
     let c : Nat := 0
     let x := b'.ctx c
     s.running b = true ∧ ((s.block b).rx link raw 0x0103).1 = some f ∧ f.cls = 1 ∧ f.parts = 1 ∧ controlRecords 512 f.payload = [r] ∧ ctypeOf r =
         0x0103 ∧ (b'.fromParent f = some c) ∧ x.phase = .prepared ∧ ftGe x.decisionDeadline b'.ft = true ∧ r.length ≤ 16) ∧
    (let s : State := onD (fun b => b.setCtx 0 { ctx7 with phase := .prepared, start := 0 })
     let b : Build := .D
     let link : Fin 64 := 0
     let raw : Bytes := roleFrame 5 0x0103 (leBytes 8 16384000)
     let f : Frame := readFrame raw
     let r : Bytes := (controlRecord 0x0103 (leBytes 8 16384000))
     let b' : Block := ((s.block .D).rx 0 raw 0x0103).2
     let c : Nat := 0
     let x := b'.ctx c
     s.running b = true ∧ ((s.block b).rx link raw 0x0103).1 = some f ∧ f.cls = 1 ∧ f.parts = 1 ∧ controlRecords 512 f.payload = [r] ∧ ctypeOf r =
         0x0103 ∧ (b'.fromParent f = some c) ∧ r.length ≤ 16 ∧ ftGe x.decisionDeadline b'.ft = false) ∧
    (let s : State := onT (fun b => b.setCtx 0
         { ctx7 with phase := .prepared, start := 16384000, children := [{ level := 3, addr := 0x500, ranks := [0] }] })
     let b : Build := .T
     let link : Fin 64 := 32
     let raw : Bytes := roleFrame 6 0x0104 ([3] ++ zeros 7)
     let f : Frame := readFrame raw
     let r : Bytes := (controlRecord 0x0104 ([3] ++ zeros 7))
     let b' : Block := ((s.block .T).rx 32 raw 0x0104).2
     let c : Nat := 0
     let x := b'.ctx c
     s.running b = true ∧ ((s.block b).rx link raw 0x0104).1 = some f ∧ f.cls = 1 ∧ f.parts = 1 ∧ controlRecords 512 f.payload = [r] ∧ ctypeOf r =
         0x0104 ∧ (b'.fromParent f = some c) ∧ byteAt r 8 < 4 ∧ x.phase = .prepared ∧ ftGe x.decisionDeadline b'.ft = true) ∧
    (let s : State := onT (fun b => b.setCtx 0 { ctx7 with children := [{ level := 3, addr := 0x500, ranks := [0] }] })
     let link : Fin 64 := 5
     let raw : Bytes := dieFrame 0x0105 (zeros 16)
     let f : Frame := readFrame raw
     let r : Bytes := (controlRecord 0x0105 (zeros 16))
     let b' : Block := ((s.block .T).rx 5 raw 0x0105).2
     let c : Nat := 0
     s.running .T = true ∧ ((s.block .T).rx link raw 0x0105).1 = some f ∧ f.cls = 1 ∧ f.parts = 1 ∧ controlRecords 512 f.payload = [r] ∧ ctypeOf r
         = 0x0105 ∧ (b'.fromChild f = some c)) := by
  refine ⟨?_, ?_, ?_, ?_, ?_, ?_⟩ <;> decide +kernel

theorem witness_RunningRecords :
    (let s : State := onD (fun b => b.setCtx 0 ctx7)
     let b : Build := .D
     let link : Fin 64 := 0
     let raw : Bytes := roleFrame 5 0x0106 (leBytes 8 9)
     let f : Frame := readFrame raw
     let r : Bytes := (controlRecord 0x0106 (leBytes 8 9))
     let b' : Block := ((s.block .D).rx 0 raw 0x0106).2
     let c : Nat := 0
     let x := b'.ctx c
     s.running b = true ∧ ((s.block b).rx link raw 0x0106).1 = some f ∧ f.cls = 1 ∧ f.parts = 1 ∧ controlRecords 512 f.payload = [r] ∧ ctypeOf r =
         0x0106 ∧ (b'.fromParent f = some c) ∧ x.phase = .active ∧ b'.build = .D) ∧
    (let s : State := onT (fun b => b.setCtx 0 { ctx7 with children := [{ level := 3, addr := 0x500, ranks := [0] }] })
     let b : Build := .T
     let link : Fin 64 := 32
     let raw : Bytes := roleFrame 6 0x0106 (leBytes 8 9)
     let f : Frame := readFrame raw
     let r : Bytes := (controlRecord 0x0106 (leBytes 8 9))
     let b' : Block := ((s.block .T).rx 32 raw 0x0106).2
     let c : Nat := 0
     let x := b'.ctx c
     s.running b = true ∧ ((s.block b).rx link raw 0x0106).1 = some f ∧ f.cls = 1 ∧ f.parts = 1 ∧ controlRecords 512 f.payload = [r] ∧ ctypeOf r =
         0x0106 ∧ (b'.fromParent f = some c) ∧ x.phase = .active ∧ b'.build = .T) ∧
    (let s : State := onD (fun b => b.setCtx 0 { ctx7 with phase := .armed })
     let b : Build := .D
     let link : Fin 64 := 0
     let raw : Bytes := roleFrame 5 0x0106 (leBytes 8 9)
     let f : Frame := readFrame raw
     let r : Bytes := (controlRecord 0x0106 (leBytes 8 9))
     let b' : Block := ((s.block .D).rx 0 raw 0x0106).2
     let c : Nat := 0
     let x := b'.ctx c
     s.running b = true ∧ ((s.block b).rx link raw 0x0106).1 = some f ∧ f.cls = 1 ∧ f.parts = 1 ∧ controlRecords 512 f.payload = [r] ∧ ctypeOf r =
         0x0106 ∧ (b'.fromParent f = some c) ∧ x.phase = .armed ∧ b'.build = .D) ∧
    (let s : State := onT (fun b => b.setCtx 0 { ctx7 with children := [{ level := 3, addr := 0x500, ranks := [0] }] })
     let link : Fin 64 := 5
     let raw : Bytes := dieFrame 0x0107 (zeros 16)
     let f : Frame := readFrame raw
     let r : Bytes := (controlRecord 0x0107 (zeros 16))
     let b' : Block := ((s.block .T).rx 5 raw 0x0107).2
     let c : Nat := 0
     s.running .T = true ∧ ((s.block .T).rx link raw 0x0107).1 = some f ∧ f.cls = 1 ∧ f.parts = 1 ∧ controlRecords 512 f.payload = [r] ∧ ctypeOf r
         = 0x0107 ∧ b'.fromChild f = some c) ∧
    (let s : State := onD (fun b => b.setCtx 0 ctx7)
     let b : Build := .D
     let link : Fin 64 := 0
     let raw : Bytes := roleFrame 5 0x010A (leBytes 4 0 ++ leBytes 4 0x600 ++ leBytes 8 20)
     let f : Frame := readFrame raw
     let r : Bytes := (controlRecord 0x010A (leBytes 4 0 ++ leBytes 4 0x600 ++ leBytes 8 20))
     let b' : Block := ((s.block .D).rx 0 raw 0x010A).2
     let c : Nat := 0
     s.running b = true ∧ ((s.block b).rx link raw 0x010A).1 = some f ∧ f.cls = 1 ∧ f.parts = 1 ∧ controlRecords 512 f.payload = [r] ∧ ctypeOf r =
         0x010A ∧ (b'.fromParent f = some c) ∧ fieldAt r 12 4 % 256 = 0) ∧
    (let s : State := onD (fun b => b.setCtx 0 ctx7)
     let raw : Bytes := roleFrame 5 0x010A (leBytes 4 0 ++ leBytes 4 0x600 ++ leBytes 8 20)
     let b' : Block := ((s.block .D).rx 0 raw 0x010A).2
     b'.build = .D) ∧
    (let s : State := onT (fun b => b.setCtx 0 { ctx7 with members := [(0, ({} : Member))] })
     let link : Fin 64 := 32
     let raw : Bytes := roleFrame 6 0x010B (leBytes 4 0 ++ [1, 0, 0, 0])
     let f : Frame := readFrame raw
     let r : Bytes := (controlRecord 0x010B (leBytes 4 0 ++ [1, 0, 0, 0]))
     let b' : Block := ((s.block .T).rx 32 raw 0x010B).2
     let c : Nat := 0
     s.running .T = true ∧ ((s.block .T).rx link raw 0x010B).1 = some f ∧ f.cls = 1 ∧ f.parts = 1 ∧ controlRecords 512 f.payload = [r] ∧ ctypeOf r
         = 0x010B ∧ (b'.fromParent f = some c) ∧ byteAt r 12 < 3) ∧
    (let s : State := onT (fun b => b.setCtx 0 { ctx7 with members := [(0, ({} : Member))] })
     let raw : Bytes := roleFrame 6 0x010B (leBytes 4 0 ++ [1, 0, 0, 0])
     let b' : Block := ((s.block .T).rx 32 raw 0x010B).2
     let c : Nat := 0
     let x := b'.ctx c
     x.level = 5) ∧
    (let s : State := onT (fun b => b.setRole 9 { role := 2, missed := 1 })
     let link : Fin 64 := 32
     let raw : Bytes := blockFrame 9 0 0x0108 ([2, 0, 0, 0] ++ leBytes 4 1)
     let f : Frame := readFrame raw
     let r : Bytes := (controlRecord 0x0108 ([2, 0, 0, 0] ++ leBytes 4 1))
     let b' : Block := ((s.block .T).rx 32 raw 0x0108).2
     let b1 := b'.hearPeer f.srcDa
     s.running .T = true ∧ ((s.block .T).rx link raw 0x0108).1 = some f ∧ f.cls = 1 ∧ f.parts = 1 ∧ controlRecords 512 f.payload = [r] ∧ ctypeOf r
         = 0x0108 ∧ 6 ≤ f.level ∧ bitOf (byteAt r 8) 1 = true ∧ (b1.roleAt f.level).role = 2 ∧ (b1.roleAt f.level).gen ≤ fieldAt r 12 4) ∧
    (let s : State := on
     let link : Fin 64 := 5
     let raw : Bytes := blockFrame 3 0x500 0x0108 ([1, 0, 0, 0] ++ leBytes 4 0)
     let f : Frame := readFrame raw
     let r : Bytes := (controlRecord 0x0108 ([1, 0, 0, 0] ++ leBytes 4 0))
     s.running .T = true ∧ ((s.block .T).rx link raw 0x0108).1 = some f ∧ f.cls = 1 ∧ f.parts = 1 ∧ controlRecords 512 f.payload = [r] ∧ ctypeOf r
         = 0x0108 ∧ f.level = 3) ∧
    (let s : State := onT (fun b => b.setRole 6 { role := 1, gen := 7 })
     let link : Fin 64 := 32
     let raw : Bytes := blockFrame 6 0 0x0109 ([6, 2, 0, 0] ++ leBytes 4 8)
     let f : Frame := readFrame raw
     let r : Bytes := (controlRecord 0x0109 ([6, 2, 0, 0] ++ leBytes 4 8))
     let b' : Block := ((s.block .T).rx 32 raw 0x0109).2
     let mine := b'.roleAt (byteAt r 8)
     s.running .T = true ∧ ((s.block .T).rx link raw 0x0109).1 = some f ∧ f.cls = 1 ∧ f.parts = 1 ∧ controlRecords 512 f.payload = [r] ∧ ctypeOf r
         = 0x0109 ∧ 6 ≤ byteAt r 8 ∧ byteAt r 8 ≤ 9 ∧ (b'.roleAt (byteAt r 8)).desc = none ∧ mine.role = 1 ∧ (mine.gen < fieldAt r 12 4 ∨
         (mine.gen = fieldAt r 12 4 ∧ byteAt r 9 < mine.index))) := by
  refine ⟨?_, ?_, ?_, ?_, ?_, ?_, ?_, ?_, ?_, ?_, ?_⟩ <;> decide +kernel

theorem witness_RegisterRecords :
    (let s : State := on
     let link : Fin 64 := 0
     let raw : Bytes := blockFrame 5 0 0x0201 (leBytes 4 Reg.EGR_SEL ++ leBytes 4 1)
     let f : Frame := readFrame raw
     let r : Bytes := (controlRecord 0x0201 (leBytes 4 Reg.EGR_SEL ++ leBytes 4 1))
     let b' : Block := ((s.block .D).rx 0 raw 0x0201).2
     let off := fieldAt r 8 4
     s.running .D = true ∧ ((s.block .D).rx link raw 0x0201).1 = some f ∧ f.cls = 1 ∧ f.parts = 1 ∧ controlRecords 512 f.payload = [r] ∧ ctypeOf r
         = 0x0201 ∧ (regRowAt b'.build off).isSome = true ∧ neverStaged off = true) ∧
    (let s : State := on
     let link : Fin 64 := 0
     let raw : Bytes := blockFrame 5 0 0x0201 (leBytes 4 0x80000 ++ leBytes 4 3)
     let f : Frame := readFrame raw
     let r : Bytes := (controlRecord 0x0201 (leBytes 4 0x80000 ++ leBytes 4 3))
     let b' : Block := ((s.block .D).rx 0 raw 0x0201).2
     let off := fieldAt r 8 4
     let v := word (fieldAt r 12 4)
     s.running .D = true ∧ ((s.block .D).rx link raw 0x0201).1 = some f ∧ f.cls = 1 ∧ f.parts = 1 ∧ controlRecords 512 f.payload = [r] ∧ ctypeOf r
         = 0x0201 ∧ (regRowAt b'.build off).isSome = true ∧ neverStaged off = false ∧ b'.stageRefused off v = false ∧ stagedAt b'.txn.staged
         (b'.stagedKey off) = none ∧ b'.txn.staged.length < b'.stageCap) ∧
    (let s : State := on
     let link : Fin 64 := 0
     let raw : Bytes := blockFrame 5 0 0x0202 (leBytes 8 (16384000 * 5))
     let f : Frame := readFrame raw
     let r : Bytes := (controlRecord 0x0202 (leBytes 8 (16384000 * 5)))
     let b' : Block := ((s.block .D).rx 0 raw 0x0202).2
     let cft := BitVec.ofNat 64 (fieldAt r 8 8)
     s.running .D = true ∧ ((s.block .D).rx link raw 0x0202).1 = some f ∧ f.cls = 1 ∧ f.parts = 1 ∧ controlRecords 512 f.payload = [r] ∧ ctypeOf r
         = 0x0202 ∧ b'.commitStatus cft = 0) ∧
    (let s : State := on
     let link : Fin 64 := 0
     let raw : Bytes := blockFrame 5 0 0x0203 ([])
     let f : Frame := readFrame raw
     let r : Bytes := (controlRecord 0x0203 ([]))
     s.running .D = true ∧ ((s.block .D).rx link raw 0x0203).1 = some f ∧ f.cls = 1 ∧ f.parts = 1 ∧ controlRecords 512 f.payload = [r] ∧ ctypeOf r
         = 0x0203) ∧
    (let s : State := on
     let link : Fin 64 := 0
     let raw : Bytes := blockFrame 5 0 0x0601 (leBytes 4 0x80008)
     let f : Frame := readFrame raw
     let r : Bytes := (controlRecord 0x0601 (leBytes 4 0x80008))
     s.running .D = true ∧ ((s.block .D).rx link raw 0x0601).1 = some f ∧ f.cls = 1 ∧ f.parts = 1 ∧ controlRecords 512 f.payload = [r] ∧ ctypeOf r
         = 0x0601) ∧
    (let s : State := on
     let link : Fin 64 := 0
     let raw : Bytes := blockFrame 5 0 0x0602 (leBytes 4 0x80000 ++ leBytes 4 3)
     let f : Frame := readFrame raw
     let r : Bytes := (controlRecord 0x0602 (leBytes 4 0x80000 ++ leBytes 4 3))
     s.running .D = true ∧ ((s.block .D).rx link raw 0x0602).1 = some f ∧ f.cls = 1 ∧ f.parts = 1 ∧ controlRecords 512 f.payload = [r] ∧ ctypeOf r
         = 0x0602) ∧
    (let t : Taken := { desc 0x40 [(32, [5, 0]), (36, leBytes 4 0x80008)] 0 true with waitDies := [5] }
     let s : State := onDesc t
     let link : Fin 64 := 5
     let raw : Bytes := blockFrame 3 0x500 0x0603 (leBytes 4 0x80008 ++ leBytes 4 77)
     let f : Frame := readFrame raw
     let r : Bytes := (controlRecord 0x0603 (leBytes 4 0x80008 ++ leBytes 4 77))
     let b' : Block := ((s.block .T).rx 5 raw 0x0603).2
     let slot := slotOf f.srcDa
     s.running .T = true ∧ ((s.block .T).rx link raw 0x0603).1 = some f ∧ f.cls = 1 ∧ f.parts = 1 ∧ controlRecords 512 f.payload = [r] ∧ ctypeOf r
         = 0x0603 ∧ b'.waiting 0x40 slot (fun t => decide (dieOp t ≤ 1) && dieOffset t == fieldAt r 8 4) = some t) ∧
    (let t : Taken := { desc 0x40 [(32, [5, 3])] 0 true with waitDies := [5] }
     let s : State := onDesc t
     let link : Fin 64 := 5
     let raw : Bytes := blockFrame 3 0x500 0x0204 (zeros 8)
     let f : Frame := readFrame raw
     let r : Bytes := (controlRecord 0x0204 (zeros 8))
     let b' : Block := ((s.block .T).rx 5 raw 0x0204).2
     let slot := slotOf f.srcDa
     s.running .T = true ∧ ((s.block .T).rx link raw 0x0204).1 = some f ∧ f.cls = 1 ∧ f.parts = 1 ∧ controlRecords 512 f.payload = [r] ∧ ctypeOf r
         = 0x0204 ∧ b'.waiting 0x40 slot (fun t => dieOp t == 3) = some t) ∧
    (let t : Taken := { desc 0x18 [(2, leBytes 2 7)] 0 true with waitDies := [5] }
     let s : State := onDesc t (fun b => b.setCtx 0 ctx7)
     let link : Fin 64 := 5
     let raw : Bytes := dieFrame 0x0803 ([0, 1, 0, 0, 0, 0, 0, 0])
     let f : Frame := readFrame raw
     let r : Bytes := (controlRecord 0x0803 ([0, 1, 0, 0, 0, 0, 0, 0]))
     let b' : Block := ((s.block .T).rx 5 raw 0x0803).2
     let slot := slotOf f.srcDa
     s.running .T = true ∧ ((s.block .T).rx link raw 0x0803).1 = some f ∧ f.cls = 1 ∧ f.parts = 1 ∧ controlRecords 512 f.payload = [r] ∧ ctypeOf r
         = 0x0803 ∧ b'.waiting 0x18 slot (fun t => t.job == f.job) = some t ∧ byteAt r 8 ∈ [0, 9]) ∧
    (let t : Taken := { desc 0x60 [] 0 true with waitDies := [5] }
     let s : State := onDesc t
     let link : Fin 64 := 5
     let raw : Bytes := blockFrame 3 0x500 0x0903 ([9] ++ zeros 7)
     let f : Frame := readFrame raw
     let r : Bytes := (controlRecord 0x0903 ([9] ++ zeros 7))
     let b' : Block := ((s.block .T).rx 5 raw 0x0903).2
     let slot := slotOf f.srcDa
     s.running .T = true ∧ ((s.block .T).rx link raw 0x0903).1 = some f ∧ f.cls = 1 ∧ f.parts = 1 ∧ controlRecords 512 f.payload = [r] ∧ ctypeOf r
         = 0x0903 ∧ b'.waiting 0x60 slot (fun _ => true) = some t ∧ byteAt r 8 ∈ [0, 9]) := by
  refine ⟨?_, ?_, ?_, ?_, ?_, ?_, ?_, ?_, ?_, ?_⟩ <;> decide +kernel

theorem witness_GrantRecords :
    (let s : State := onD (fun b => (b.setCtx 0 ctx7).modTime (fun m => { m with valid := true }))
     let link : Fin 64 := 0
     let raw : Bytes := roleFrame 5 0x0801 (leBytes 8 57600000000000 ++ leBytes 8 3 ++ [1] ++ zeros 7 ++ leBytes 4 0 ++ leBytes 4 0)
     let f : Frame := readFrame raw
     let r : Bytes := (controlRecord 0x0801 (leBytes 8 57600000000000 ++ leBytes 8 3 ++ [1] ++ zeros 7 ++ leBytes 4 0 ++ leBytes 4 0))
     let b' : Block := ((s.block .D).rx 0 raw 0x0801).2
     let c : Nat := 0
     let g : Nat := 0
     let x := b'.ctx c
     let expiry := BitVec.ofNat 64 (fieldAt r 8 8)
     let inRange := (chunks 8 (byteAt r 24) (r.drop 32)).any (fun e => decide (bitsOf (fieldAt e 0 4) 17 0 ≤ x.rank) && decide (x.rank ≤ bitsOf
         (fieldAt e 4 4) 17 0))
     s.running .D = true ∧ ((s.block .D).rx link raw 0x0801).1 = some f ∧ f.cls = 1 ∧ f.parts = 1 ∧ controlRecords 512 f.payload = [r] ∧ ctypeOf r
         = 0x0801 ∧ (b'.ctxOfJob f.job = some c) ∧ (x.isActive = true ∧ inRange = true ∧ b'.time.valid = true ∧ 0 < ftDiff expiry b'.ft ∧ ftDiff
         expiry b'.ft ≤ 57600000000000) ∧ b'.freeGrantSlot = some g) ∧
    (let s : State := on
     let link : Fin 64 := 0
     let raw : Bytes := blockFrame 5 0 0x0801 (leBytes 8 57600000000000 ++ leBytes 8 3 ++ [1] ++ zeros 7 ++ leBytes 4 0 ++ leBytes 4 0)
     let f : Frame := readFrame raw
     let r : Bytes := (controlRecord 0x0801 (leBytes 8 57600000000000 ++ leBytes 8 3 ++ [1] ++ zeros 7 ++ leBytes 4 0 ++ leBytes 4 0))
     let b' : Block := ((s.block .D).rx 0 raw 0x0801).2
     s.running .D = true ∧ ((s.block .D).rx link raw 0x0801).1 = some f ∧ f.cls = 1 ∧ f.parts = 1 ∧ controlRecords 512 f.payload = [r] ∧ ctypeOf r
         = 0x0801 ∧ b'.ctxOfJob f.job = none) ∧
    (let s : State := onD (fun b => b.setCtx 0 ctx7)
     let link : Fin 64 := 0
     let raw : Bytes := roleFrame 5 0x0801 (leBytes 8 57600000000000 ++ leBytes 8 3 ++ [1] ++ zeros 7 ++ leBytes 4 0 ++ leBytes 4 0)
     let f : Frame := readFrame raw
     let r : Bytes := (controlRecord 0x0801 (leBytes 8 57600000000000 ++ leBytes 8 3 ++ [1] ++ zeros 7 ++ leBytes 4 0 ++ leBytes 4 0))
     let b' : Block := ((s.block .D).rx 0 raw 0x0801).2
     let c : Nat := 0
     let x := b'.ctx c
     let expiry := BitVec.ofNat 64 (fieldAt r 8 8)
     let inRange := (chunks 8 (byteAt r 24) (r.drop 32)).any (fun e => decide (bitsOf (fieldAt e 0 4) 17 0 ≤ x.rank) && decide (x.rank ≤ bitsOf
         (fieldAt e 4 4) 17 0))
     s.running .D = true ∧ ((s.block .D).rx link raw 0x0801).1 = some f ∧ f.cls = 1 ∧ f.parts = 1 ∧ controlRecords 512 f.payload = [r] ∧ ctypeOf r
         = 0x0801 ∧ (b'.ctxOfJob f.job = some c) ∧ (¬ (x.isActive = true ∧ inRange = true ∧ b'.time.valid = true ∧ 0 < ftDiff expiry b'.ft ∧
         ftDiff expiry b'.ft ≤ 57600000000000) ∨ b'.freeGrantSlot = none)) ∧
    (let s : State := onD (fun b => (b.setCtx 0 ctx7).modTrace (fun t => { t with grants := [(0, some ⟨0, 3, 9⟩)] }))
     let link : Fin 64 := 0
     let raw : Bytes := roleFrame 5 0x0802 (leBytes 8 1)
     let f : Frame := readFrame raw
     let r : Bytes := (controlRecord 0x0802 (leBytes 8 1))
     let b' : Block := ((s.block .D).rx 0 raw 0x0802).2
     let c : Nat := 0
     s.running .D = true ∧ ((s.block .D).rx link raw 0x0802).1 = some f ∧ f.cls = 1 ∧ f.parts = 1 ∧ controlRecords 512 f.payload = [r] ∧ ctypeOf r
         = 0x0802 ∧ (b'.ctxOfJob f.job = some c)) := by
  refine ⟨?_, ?_, ?_, ?_⟩ <;> decide +kernel

theorem witness_DieReports :
    (let s : State := on
     let link : Fin 64 := 0
     let raw : Bytes := blockFrame 5 0 0x0902 ([1] ++ zeros 7 ++ leBytes 8 0)
     let f : Frame := readFrame raw
     let r : Bytes := (controlRecord 0x0902 ([1] ++ zeros 7 ++ leBytes 8 0))
     let b' : Block := ((s.block .D).rx 0 raw 0x0902).2
     s.running .D = true ∧ ((s.block .D).rx link raw 0x0902).1 = some f ∧ f.cls = 1 ∧ f.parts = 1 ∧ controlRecords 512 f.payload = [r] ∧ ctypeOf r
         = 0x0902 ∧ byteAt r 8 ≤ 3 ∧ b'.mayGo (byteAt r 8) = true) ∧
    (let s : State := on
     let link : Fin 64 := 0
     let raw : Bytes := blockFrame 5 0 0x0902 ([0] ++ zeros 7 ++ leBytes 8 0)
     let f : Frame := readFrame raw
     let r : Bytes := (controlRecord 0x0902 ([0] ++ zeros 7 ++ leBytes 8 0))
     let b' : Block := ((s.block .D).rx 0 raw 0x0902).2
     s.running .D = true ∧ ((s.block .D).rx link raw 0x0902).1 = some f ∧ f.cls = 1 ∧ f.parts = 1 ∧ controlRecords 512 f.payload = [r] ∧ ctypeOf r
         = 0x0902 ∧ byteAt r 8 ≤ 3 ∧ b'.mayGo (byteAt r 8) = false) ∧
    (let s : State := on
     let link : Fin 64 := 5
     let raw : Bytes := blockFrame 3 0x500 0x0701 (leBytes 2 0x0101 ++ [0x80] ++ zeros 29)
     let f : Frame := readFrame raw
     let r : Bytes := (controlRecord 0x0701 (leBytes 2 0x0101 ++ [0x80] ++ zeros 29))
     let k := slice r 8 31
     s.running .T = true ∧ ((s.block .T).rx link raw 0x0701).1 = some f ∧ f.cls = 1 ∧ f.parts = 1 ∧ controlRecords 512 f.payload = [r] ∧ ctypeOf r
         = 0x0701 ∧ crumbGood k = true ∧ crumbSourceGood k = true ∧ bitOf (byteAt k 2) 7 = true) ∧
    (let s : State := on
     let link : Fin 64 := 5
     let raw : Bytes := blockFrame 3 0x500 0x0701 (leBytes 2 0 ++ zeros 30)
     let f : Frame := readFrame raw
     let r : Bytes := (controlRecord 0x0701 (leBytes 2 0 ++ zeros 30))
     s.running .T = true ∧ ((s.block .T).rx link raw 0x0701).1 = some f ∧ f.cls = 1 ∧ f.parts = 1 ∧ controlRecords 512 f.payload = [r] ∧ ctypeOf r
         = 0x0701 ∧ (crumbGood (slice r 8 31) = false ∨ crumbSourceGood (slice r 8 31) = false)) ∧
    (let s : State := onT (fun b => b.setCtx 0 ctx7)
     let link : Fin 64 := 5
     let raw : Bytes := dieFrame 0x0901 (zeros 8 ++ zeros 80 ++ [7] ++ zeros 100)
     let f : Frame := readFrame raw
     let r : Bytes := (controlRecord 0x0901 (zeros 8 ++ zeros 80 ++ [7] ++ zeros 100))
     s.running .T = true ∧ ((s.block .T).rx link raw 0x0901).1 = some f ∧ f.cls = 1 ∧ f.parts = 1 ∧ controlRecords 512 f.payload = [r] ∧ ctypeOf r
         = 0x0901 ∧ sensorGood r = false) ∧
    (let s : State := onT (fun b => b.setCtx 0 ctx7)
     let link : Fin 64 := 5
     let raw : Bytes := dieFrame 0x0901 (zeros 8 ++ zeros 24)
     let f : Frame := readFrame raw
     let r : Bytes := (controlRecord 0x0901 (zeros 8 ++ zeros 24))
     let b' : Block := ((s.block .T).rx 5 raw 0x0901).2
     let c : Nat := 0
     s.running .T = true ∧ ((s.block .T).rx link raw 0x0901).1 = some f ∧ f.cls = 1 ∧ f.parts = 1 ∧ controlRecords 512 f.payload = [r] ∧ ctypeOf r
         = 0x0901 ∧ sensorGood r = true ∧ b'.fromChild f = some c ∧ ftGe ((b'.ctx c).closeTime b'.ft (fieldAt r 8 5)) b'.ft = true) := by
  refine ⟨?_, ?_, ?_, ?_, ?_, ?_⟩ <;> decide +kernel

theorem witness_TemperRecords :
    (let s : State := on
     let b : Build := .D
     let link : Fin 64 := 0
     let raw : Bytes := blockFrame 5 0 0x0A02 (zeros 16)
     let f : Frame := readFrame raw
     let r : Bytes := (controlRecord 0x0A02 (zeros 16))
     s.running b = true ∧ ((s.block b).rx link raw 0x0A02).1 = some f ∧ f.cls = 1 ∧ f.parts = 1 ∧ controlRecords 512 f.payload = [r] ∧ ctypeOf r =
         0x0A02) ∧
    (let t : TemperRun := { link := 5, count := 16, t1 := 0 }
     let s : State := onT (fun b => b.modTime (fun m => { m with temper := some t }))
     let port : Fin 8 := 0
     let link : Fin 64 := 5
     let raw : Bytes := blockFrame 3 0x500 0x0A03 (zeros 32)
     let f : Frame := readFrame raw
     let r : Bytes := (controlRecord 0x0A03 (zeros 32))
     let b' : Block := ((s.block .T).rx 5 raw 0x0A03).2
     s.running .T = true ∧ ((s.block .T).rx link raw 0x0A03).1 = some f ∧ f.cls = 1 ∧ f.parts = 1 ∧ controlRecords 512 f.payload = [r] ∧ ctypeOf r
         = 0x0A03 ∧ b'.time.temper = some t ∧ b'.linkEntry port link = t.link ∧ fieldAt r 8 8 = t.t1.toNat ∧ fieldAt r 16 2 = t.done) ∧
    (let t : TemperRun := { link := 5, count := 1, t1 := 0 }
     let s : State := onT (fun b => b.modTime (fun m => { m with temper := some t }))
     let port : Fin 8 := 0
     let link : Fin 64 := 5
     let raw : Bytes := blockFrame 3 0x500 0x0A03 (zeros 32)
     let f : Frame := readFrame raw
     let r : Bytes := (controlRecord 0x0A03 (zeros 32))
     let b' : Block := ((s.block .T).rx 5 raw 0x0A03).2
     let t2 := BitVec.ofNat 64 (fieldAt r 24 8)
     let t3 := BitVec.ofNat 64 (fieldAt r 32 8)
     let rt := roundTrip t.t1 t2 t3 b'.ft
     let u := t.exchange rt (clockOffset t.t1 t2 t3 b'.ft)
     let spread := (u.maxRt - u.minRt.getD 0).toNat
     s.running .T = true ∧ ((s.block .T).rx link raw 0x0A03).1 = some f ∧ f.cls = 1 ∧ f.parts = 1 ∧ controlRecords 512 f.payload = [r] ∧ ctypeOf r
         = 0x0A03 ∧ b'.time.temper = some t ∧ b'.linkEntry port link = t.link ∧ fieldAt r 8 8 = t.t1.toNat ∧ fieldAt r 16 2 = t.done ∧ u.done =
         u.count ∧ spread ≤ b'.fld Reg.TIM_TEMPER_LIM 15 0) ∧
    (let t : TemperRun := { link := 5, count := 2, t1 := 0, done := 1, minRt := some 0, maxRt := 100000 }
     let s : State := onT (fun b => b.modTime (fun m => { m with temper := some t }))
     let port : Fin 8 := 0
     let link : Fin 64 := 5
     let raw : Bytes := blockFrame 3 0x500 0x0A03 (zeros 8 ++ [1] ++ zeros 23)
     let f : Frame := readFrame raw
     let r : Bytes := (controlRecord 0x0A03 (zeros 8 ++ [1] ++ zeros 23))
     let b' : Block := ((s.block .T).rx 5 raw 0x0A03).2
     let t2 := BitVec.ofNat 64 (fieldAt r 24 8)
     let t3 := BitVec.ofNat 64 (fieldAt r 32 8)
     let rt := roundTrip t.t1 t2 t3 b'.ft
     let u := t.exchange rt (clockOffset t.t1 t2 t3 b'.ft)
     let spread := (u.maxRt - u.minRt.getD 0).toNat
     s.running .T = true ∧ ((s.block .T).rx link raw 0x0A03).1 = some f ∧ f.cls = 1 ∧ f.parts = 1 ∧ controlRecords 512 f.payload = [r] ∧ ctypeOf r
         = 0x0A03 ∧ b'.time.temper = some t ∧ b'.linkEntry port link = t.link ∧ fieldAt r 8 8 = t.t1.toNat ∧ fieldAt r 16 2 = t.done ∧ u.done =
         u.count ∧ b'.fld Reg.TIM_TEMPER_LIM 15 0 < spread) ∧
    (let s : State := on
     let b : Build := .D
     let link : Fin 64 := 0
     let raw : Bytes := blockFrame 5 0 0x0A04 (leBytes 8 100)
     let f : Frame := readFrame raw
     let r : Bytes := (controlRecord 0x0A04 (leBytes 8 100))
     s.running b = true ∧ ((s.block b).rx link raw 0x0A04).1 = some f ∧ f.cls = 1 ∧ f.parts = 1 ∧ controlRecords 512 f.payload = [r] ∧ ctypeOf r =
         0x0A04) ∧
    (let s : State := on
     let link : Fin 64 := 5
     let raw : Bytes := blockFrame 3 0x500 0x0A05 (zeros 8)
     let f : Frame := readFrame raw
     let r : Bytes := (controlRecord 0x0A05 (zeros 8))
     s.running .T = true ∧ ((s.block .T).rx link raw 0x0A05).1 = some f ∧ f.cls = 1 ∧ f.parts = 1 ∧ controlRecords 512 f.payload = [r] ∧ ctypeOf r
         = 0x0A05 ∧ byteAt r 8 = 0) := by
  refine ⟨?_, ?_, ?_, ?_, ?_, ?_⟩ <;> decide +kernel

theorem witness_BeaconLoads :
    let s : State := onD (fun b => (b.setReg Reg.TIM_LINK_DELAY 0x80000010).modTime (fun m => { m with modeNow := 1 }))
    let b : Build := .D
    let port : Fin 8 := 0
    let link : Fin 64 := 0
    let raw : Bytes := blockFrame 5 0 0x0A01 (leBytes 8 1000000 ++ zeros 8)
    let f : Frame := readFrame raw
    let r : Bytes := (controlRecord 0x0A01 (leBytes 8 1000000 ++ zeros 8))
    let b' : Block := ((s.block .D).rx 0 raw 0x0A01).2
    s.running b = true ∧ ((s.block b).rx link raw 0x0A01).1 = some f ∧ f.cls = 1 ∧ f.parts = 1 ∧ controlRecords 512 f.payload = [r] ∧ ctypeOf r =
        0x0A01 ∧ (s.block b).asleep = false ∧ (b'.build = .D ∨ (32 ≤ link.val ∧ port.val = b'.fld Reg.TIM_CTL 15 12)) ∧ (b'.time.modeNow = 1 ∨
        b'.time.modeNext.isSome = true) ∧ b'.linkTempered (b'.linkEntry port link) = true ∧ b'.takesBeacons = true := by
  decide +kernel

theorem witness_WitnessRecords :
    (let k : VoteKey := { group := 9, cmd := 5, records := [controlRecord 0x0301 (digestBody 1)], last := 0 }
     let s : State := onVote { voteCtx with an := { keys := [k] } }
     let link : Fin 64 := 32
     let raw : Bytes := roleFrame 5 0x0301 (digestBody 0)
     let f : Frame := readFrame raw
     let r : Bytes := (controlRecord 0x0301 (digestBody 0))
     let b' : Block := ((s.block .T).rx 32 raw 0x0301).2
     let c : Nat := 0
     let g : Replicas := { id := 9, channel := 2, alarm := false, members := [0, 1] }
     let x := b'.ctx c
     let isKey (k : VoteKey) : Bool := k.group == g.id && k.cmd == digCmd r
     let now := windowOf x.k b'.ft
     s.running .T = true ∧ ((s.block .T).rx link raw 0x0301).1 = some f ∧ f.cls = 1 ∧ f.parts = 1 ∧ controlRecords 512 f.payload = [r] ∧ ctypeOf r
         = 0x0301 ∧ b'.fromChild f = some c ∧ b'.isSet Reg.WIT_CTL 0 = true ∧ x.level ≠ 5 ∧ groupFor (b'.ctxPlan c) (digRank r) (digChannel r) =
         some g ∧ x.votesFor g = true ∧ x.an.decided.any (fun e => e.1 == g.id && e.2.1 == digCmd r && decide (windowDiff now e.2.2 < 2)) = false
         ∧ x.an.keys.find? isKey = some k ∧ k.records.any (fun q => digRank q == digRank r) = false) ∧
    (let k : VoteKey := { group := 9, cmd := 5, records := [controlRecord 0x0301 (digestBody 0)], last := 0 }
     let s : State := onVote { voteCtx with an := { keys := [k] } }
     let link : Fin 64 := 32
     let raw : Bytes := roleFrame 5 0x0301 (digestBody 0)
     let f : Frame := readFrame raw
     let r : Bytes := (controlRecord 0x0301 (digestBody 0))
     let b' : Block := ((s.block .T).rx 32 raw 0x0301).2
     let c : Nat := 0
     let g : Replicas := { id := 9, channel := 2, alarm := false, members := [0, 1] }
     let x := b'.ctx c
     let isKey (k : VoteKey) : Bool := k.group == g.id && k.cmd == digCmd r
     let now := windowOf x.k b'.ft
     s.running .T = true ∧ ((s.block .T).rx link raw 0x0301).1 = some f ∧ f.cls = 1 ∧ f.parts = 1 ∧ controlRecords 512 f.payload = [r] ∧ ctypeOf r
         = 0x0301 ∧ b'.fromChild f = some c ∧ b'.isSet Reg.WIT_CTL 0 = true ∧ x.level ≠ 5 ∧ groupFor (b'.ctxPlan c) (digRank r) (digChannel r) =
         some g ∧ x.votesFor g = true ∧ x.an.decided.any (fun e => e.1 == g.id && e.2.1 == digCmd r && decide (windowDiff now e.2.2 < 2)) = false
         ∧ x.an.keys.find? isKey = some k ∧ k.records.any (fun q => digRank q == digRank r) = true) ∧
    (let s : State := onVote { voteCtx with an := { keys := [] } }
     let link : Fin 64 := 32
     let raw : Bytes := roleFrame 5 0x0301 (digestBody 0)
     let f : Frame := readFrame raw
     let r : Bytes := (controlRecord 0x0301 (digestBody 0))
     let b' : Block := ((s.block .T).rx 32 raw 0x0301).2
     let c : Nat := 0
     let g : Replicas := { id := 9, channel := 2, alarm := false, members := [0, 1] }
     let k : VoteKey := { group := 9, cmd := 5, records := [], last := 0 }
     let x := b'.ctx c
     let b1 := b'.count Reg.WIT_RX 1
     let isKey (k : VoteKey) : Bool := k.group == g.id && k.cmd == digCmd r
     let now := windowOf x.k b'.ft
     s.running .T = true ∧ ((s.block .T).rx link raw 0x0301).1 = some f ∧ f.cls = 1 ∧ f.parts = 1 ∧ controlRecords 512 f.payload = [r] ∧ ctypeOf r
         = 0x0301 ∧ b'.fromChild f = some c ∧ b'.isSet Reg.WIT_CTL 0 = true ∧ x.level ≠ 5 ∧ groupFor (b'.ctxPlan c) (digRank r) (digChannel r) =
         some g ∧ x.votesFor g = true ∧ x.an.decided.any (fun e => e.1 == g.id && e.2.1 == digCmd r && decide (windowDiff now e.2.2 < 2)) = false
         ∧ x.an.keys.find? isKey = none ∧ (x.an.keys.filter (fun k => k.group == g.id)).length < 256 ∧ (b1.openGroups.length < 64 ∨ (c, g.id) ∈
         b1.openGroups)) ∧
    (let s : State := onVote { voteCtx with level := 5 }
     let link : Fin 64 := 32
     let raw : Bytes := roleFrame 6 0x0302 (leBytes 2 9 ++ zeros 38)
     let f : Frame := readFrame raw
     let r : Bytes := (controlRecord 0x0302 (leBytes 2 9 ++ zeros 38))
     let b' : Block := ((s.block .T).rx 32 raw 0x0302).2
     let c : Nat := 0
     let g : Replicas := { id := 9, channel := 2, alarm := false, members := [0, 1] }
     let x := b'.ctx c
     s.running .T = true ∧ ((s.block .T).rx link raw 0x0302).1 = some f ∧ f.cls = 1 ∧ f.parts = 1 ∧ controlRecords 512 f.payload = [r] ∧ ctypeOf r
         = 0x0302 ∧ b'.fromParent f = some c ∧ voteGood r = true ∧ groupById (b'.ctxPlan c) (fieldAt r 8 2) = some g ∧ x.level = 5) := by
  refine ⟨?_, ?_, ?_, ?_⟩ <;> decide +kernel

theorem witness_TimeEvents :
    (let s : State := onT (fun b => (b.setFld Reg.TIM_CTL 9 9 1).modTime (fun m => { m with acc := BitVec.ofNat 96 (2000000 * 2 ^ 32) }))
     let t : TemperRun := { link := 5, count := 16, t1 := 0 }
     let y := s.t
     s.running .T = true ∧ y.isSet Reg.TIM_CTL 9 = true ∧ ftGe y.ft y.time.beaconNext = true) ∧
    (let s : State := onD (fun b => b.modTime (fun m => { m with modeNow := 1, cycles := 10000000, beaconMark := some 0 }))
     let b : Build := .D
     let mark : Nat := 0
     let x := s.block b
     s.running b = true ∧ x.time.beaconMark = some mark ∧ x.takesBeacons = true ∧ x.time.modeNow ≠ 0 ∧ x.fld Reg.TIM_BCN 15 8 * x.beaconTicks * 2
         ^ 32 ≤ (x.time.cycles - mark) * x.incr) ∧
    (let s : State := onT Block.up
     let v : Word := 0x80001005
     let t : TemperRun := { link := 5, count := 16, t1 := 0 }
     let y := s.t
     let link := bitsOf v.toNat 5 0
     s.running .T = true ∧ v.getLsbD 31 = true ∧ y.stewardRuns 3 = true ∧ link < 40) ∧
    (let s : State := onT (fun b => b.modTime (fun m => { m with acc := BitVec.ofNat 96 (2000000 * 2 ^ 32) }))
     let v : Word := 0x00001005
     let t : TemperRun := { link := 5, count := 16, t1 := 0 }
     let y := s.t
     let link := bitsOf v.toNat 5 0
     s.running .T = true ∧ (v.getLsbD 31 = false ∨ y.stewardRuns 3 = false) ∧ link < 40) ∧
    (let s : State := onT (fun b => b.modTime (fun m => { m with acc := BitVec.ofNat 96 (2000000 * 2 ^ 32) }))
     let v : Word := 0x00001028
     let t : TemperRun := { link := 5, count := 16, t1 := 0 }
     let y := s.t
     let link := bitsOf v.toNat 5 0
     s.running .T = true ∧ (v.getLsbD 31 = false ∨ y.stewardRuns 3 = false) ∧ 40 ≤ link) ∧
    (let s : State := onT Block.up
     let v : Word := 0x80001028
     let t : TemperRun := { link := 5, count := 16, t1 := 0 }
     let y := s.t
     let link := bitsOf v.toNat 5 0
     s.running .T = true ∧ v.getLsbD 31 = true ∧ y.stewardRuns 3 = true ∧ 40 ≤ link) ∧
    (let t : TemperRun := { link := 5, count := 16, t1 := 0 }
     let s : State := onT (fun b => (b.modTime (fun m => { m with temper := some t })).modTime (fun m =>
         { m with acc := BitVec.ofNat 96 (2000000 * 2 ^ 32) }))
     let y := s.t
     s.running .T = true ∧ y.time.temper = some t ∧ ftGe y.ft (ftAdd t.t1 1024000) = true) ∧
    (let s : State := onT (fun b => b.setFld Reg.TIM_CTL 11 11 1)
     let b : Build := .T
     let x := s.block b
     s.running b = true ∧ x.isSet Reg.TIM_CTL 11 = true) := by
  refine ⟨?_, ?_, ?_, ?_, ?_, ?_, ?_, ?_⟩ <;> decide +kernel

theorem witness_StartEvents :
    (let s : State := on
     let y := s.t
     s.running .T = true ∧ y.stewardRuns 1 = false) ∧
    (let s : State := onT (fun b => (((Block.up b).setCtx 0
         { ctx7 with phase := .prepared, start := 32768000, isHearth := false, children := [{ level := 3, addr := 0x500, ranks := [0], acked := true, present := [(0, 1)] }] }).modTime
         (fun m => { m with acc := BitVec.ofNat 96 (32760000 * 2 ^ 32) })))
     let c : Fin 64 := 0
     let y := s.t
     let x := y.ctx c
     s.running .T = true ∧ y.stewardRuns 1 = true ∧ x.phase = .prepared ∧ x.ackSent = false ∧ x.isHearth = false ∧ ftGe y.ft (x.ackDeadlineAt
         x.nodeDepth) = true) ∧
    (let s : State := onT (fun b => (((Block.up b).setCtx 0
         { ctx7 with phase := .prepared, start := 32768000, children := [{ level := 3, addr := 0x500, ranks := [0], acked := true, present := [(0, 1)] }] }).modTime
         (fun m => { m with acc := BitVec.ofNat 96 (32760000 * 2 ^ 32) })))
     let c : Fin 64 := 0
     let y := s.t
     let x := y.ctx c
     s.running .T = true ∧ y.stewardRuns 1 = true ∧ x.phase = .prepared ∧ x.isHearth = true ∧ ftGe y.ft (x.ackDeadlineAt 0) = true ∧ y.time.valid
         = false) ∧
    (let s : State := onT (fun b => (((Block.up b).setCtx 0
         { ctx7 with phase := .prepared, start := 32768000, children := [{ level := 3, addr := 0x500, ranks := [0], acked := true, present := [(0, 1)] }] }).modTime
         (fun m => { m with acc := BitVec.ofNat 96 (32760000 * 2 ^ 32) })).modTime (fun m => { m with valid := true }))
     let c : Fin 64 := 0
     let codes : Sparse Nat := (mergedAck [{ level := 3, addr := 0x500, ranks := [0], acked := true, present := [(0, 1)] }]).1
     let refused : Nat := (mergedAck [{ level := 3, addr := 0x500, ranks := [0], acked := true, present := [(0, 1)] }]).2.1
     let reasons : Nat := (mergedAck [{ level := 3, addr := 0x500, ranks := [0], acked := true, present := [(0, 1)] }]).2.2
     let y := s.t
     let x := y.ctx c
     let n := (codes.filter (fun e => e.2 == 1)).length
     s.running .T = true ∧ y.stewardRuns 1 = true ∧ x.phase = .prepared ∧ x.isHearth = true ∧ ftGe y.ft (x.ackDeadlineAt 0) = true ∧ y.time.valid
         = true ∧ mergedAck x.children = (codes, refused, reasons) ∧ n = x.ranks) ∧
    (let s : State := onT (fun b => (((Block.up b).setCtx 0
         { ctx7 with phase := .prepared, start := 32768000, children := [{ level := 3, addr := 0x500, ranks := [0], acked := true, present := [], refused := 1, reasons := 2 }] }).modTime
         (fun m => { m with acc := BitVec.ofNat 96 (32760000 * 2 ^ 32) })).modTime (fun m => { m with valid := true }))
     let c : Fin 64 := 0
     let codes : Sparse Nat := (mergedAck
         [{ level := 3, addr := 0x500, ranks := [0], acked := true, present := [], refused := 1, reasons := 2 }]).1
     let refused : Nat := (mergedAck [{ level := 3, addr := 0x500, ranks := [0], acked := true, present := [], refused := 1, reasons := 2 }]).2.1
     let reasons : Nat := (mergedAck [{ level := 3, addr := 0x500, ranks := [0], acked := true, present := [], refused := 1, reasons := 2 }]).2.2
     let y := s.t
     let x := y.ctx c
     let n := (codes.filter (fun e => e.2 == 1)).length
     s.running .T = true ∧ y.stewardRuns 1 = true ∧ x.phase = .prepared ∧ x.isHearth = true ∧ ftGe y.ft (x.ackDeadlineAt 0) = true ∧ y.time.valid
         = true ∧ mergedAck x.children = (codes, refused, reasons) ∧ n ≠ x.ranks ∧ bitOf x.policy 0 = false) ∧
    (let s : State := onD (fun b => ((b.setCtx 0 { ctx7 with phase := .prepared, start := 32768000 })).modTime (fun m =>
         { m with acc := BitVec.ofNat 96 (32760000 * 2 ^ 32) }))
     let b : Build := .D
     let c : Fin 64 := 0
     let z := (s.block b).ctx c
     s.running b = true ∧ z.phase = .prepared ∧ ftGe (s.block b).ft (z.start - BitVec.ofNat 64 32000) = true) ∧
    (let s : State := onD (fun b => ((b.setCtx 0 { ctx7 with phase := .armed, start := 32768000 }).modTime (fun m =>
         { m with acc := BitVec.ofNat 96 (32768000 * 2 ^ 32) })).modTime (fun m => { m with valid := true }))
     let b : Build := .D
     let c : Fin 64 := 0
     let z := (s.block b).ctx c
     s.running b = true ∧ z.phase = .armed ∧ (s.block b).time.valid = true ∧ ftGe (s.block b).ft z.start = true) := by
  refine ⟨?_, ?_, ?_, ?_, ?_, ?_, ?_⟩ <;> decide +kernel

theorem witness_MemberEvents :
    (let s : State := onD (fun b => (b.setFld Reg.MBR_CTL 0 0 1).modTime (fun m => { m with acc := BitVec.ofNat 96 (2000000 * 2 ^ 32) }))
     let b : Build := .D
     let x := s.block b
     s.running b = true ∧ ftGe x.ft x.periods.emberNext = true ∧ x.isSet Reg.MBR_CTL 0 = true ∧ x.build = .D) ∧
    (let s : State := onT (fun b => (b.setFld Reg.MBR_CTL 0 0 1).modTime (fun m => { m with acc := BitVec.ofNat 96 (2000000 * 2 ^ 32) }))
     let b : Build := .T
     let x := s.block b
     s.running b = true ∧ ftGe x.ft x.periods.emberNext = true ∧ x.isSet Reg.MBR_CTL 0 = true ∧ x.build = .T) ∧
    (let s : State := onD (fun b => (b.setFld Reg.MBR_CTL 0 0 0).modTime (fun m => { m with acc := BitVec.ofNat 96 (2000000 * 2 ^ 32) }))
     let b : Build := .D
     let x := s.block b
     s.running b = true ∧ ftGe x.ft x.periods.emberNext = true ∧ x.isSet Reg.MBR_CTL 0 = false ∧ x.build = .D) ∧
    (let s : State := onT (fun b => (b.setCtx 0 { ctx7 with members := [(0, ({} : Member))] }).modTime (fun m =>
         { m with acc := BitVec.ofNat 96 (2000000 * 2 ^ 32) }))
     let y := s.t
     s.running .T = true ∧ ftGe y.ft y.periods.checkNext = true) ∧
    (let s : State := onT (fun b => ({ (Block.up b) with periods := { (Block.up b).periods with auto := true, loss := 8 } } : Block).setRole 6
         { role := 2, missed := 60, index := 1 })
     let l : Fin 4 := 0
     let y := s.t
     let lv := l.val + 6
     let r := y.roleAt lv
     s.running .T = true ∧ y.periods.auto = true ∧ y.stewardRuns 1 = true ∧ r.role = 2 ∧ r.pending = false ∧ y.periods.loss + 2 * r.index ≤
         r.missed) ∧
    (let s : State := onD (fun b => (b.setCtx 0 { ctx7 with remaps := [{ rank := 0, addr := 0x700, window := 1 }] }).modTime (fun m =>
         { m with acc := BitVec.ofNat 96 (200000000 * 2 ^ 32) }))
     let b : Build := .D
     let c : Fin 64 := 0
     let x := s.block b
     s.running b = true ∧ x.build = .D ∧ (x.ctx c).isActive = true ∧ (x.ctx c).remaps.any (fun m => !m.done && ftGe x.ft (windowStart (x.ctx c).k
         x.ft m.window) && m.rank == (x.ctx c).rank && m.addr != x.da) = true) ∧
    (let s : State := onT (fun b => ((b.setCtx 0 { ctx7 with level := 6 }).setRole 6 { role := 2, pending := true, mark := 0 }))
     let l : Fin 4 := 0
     let y := s.t
     let lv := l.val + 6
     let r := y.roleAt lv
     s.running .T = true ∧ r.pending = true ∧ (y.takeUpDue lv).toTakeUp lv ≠ []) ∧
    (let s : State := onT (fun b => (b.setRole 6 { role := 2, pending := true, mark := 0 }))
     let l : Fin 4 := 0
     let y := s.t
     let lv := l.val + 6
     let r := y.roleAt lv
     s.running .T = true ∧ r.pending = true ∧ (y.takeUpDue lv).toTakeUp lv = []) ∧
    (let s : State := onT (fun b => (b.setRole 6 { role := 2, pending := true, mark := 0 }))
     let l : Fin 4 := 0
     let y := s.t
     let lv := l.val + 6
     let r := y.roleAt lv
     s.running .T = true ∧ r.pending = true ∧ r.desc = none ∧ y.toTakeUp lv = []) := by
  refine ⟨?_, ?_, ?_, ?_, ?_, ?_, ?_, ?_, ?_⟩ <;> decide +kernel

theorem witness_WindowEvents :
    (let s : State := onT (fun b => (b.setCtx 0 ctx7).modTime (fun m => { m with acc := BitVec.ofNat 96 (33000000 * 2 ^ 32) }))
     let c : Fin 64 := 0
     let y := s.t
     let x := y.ctx c
     let w := x.openWin
     s.running .T = true ∧ x.isActive = true ∧ ftGe y.ft (x.closeTime y.ft w) = true ∧ x.lastWin = none) ∧
    (let s : State := onT (fun b => (b.setCtx 0 { ctx7 with phase := .draining, openWin := 6, lastWin := some 5 }).modTime (fun m =>
         { m with acc := BitVec.ofNat 96 (200000000 * 2 ^ 32) }))
     let c : Fin 64 := 0
     let last := 5
     let y := s.t
     let x := y.ctx c
     let w := x.openWin
     s.running .T = true ∧ x.isActive = true ∧ ftGe y.ft (x.closeTime y.ft w) = true ∧ x.lastWin = some last ∧ 1 ≤ windowDiff w last) ∧
    (let s : State := on
     let c : Fin 64 := 0
     let y := s.t
     let x := y.ctx c
     x.skipped = []) ∧
    (let s : State := onD (fun b => b.modTime (fun m => { m with acc := BitVec.ofNat 96 (33000000 * 2 ^ 32) }))
     let b : Build := .D
     let p := (s.block b).ft.toNat / 16384000
     s.running b = true ∧ (s.block b).switchMark < p ∧ (s.block b).build = .D) ∧
    (let s : State := onT (fun b => b.modTime (fun m => { m with acc := BitVec.ofNat 96 (33000000 * 2 ^ 32) }))
     let b : Build := .T
     let p := (s.block b).ft.toNat / 16384000
     s.running b = true ∧ (s.block b).switchMark < p ∧ (s.block b).build = .T) ∧
    (let s : State := onT (fun b => b.setCtx 0 { ctx7 with catchup := true, settings := [(4, 5)] })
     let c : Fin 64 := 0
     let y := s.t
     let x := y.ctx c
     s.running .T = true ∧ x.catchup = true ∧ x.behind = 0) ∧
    (let s : State := onD (fun b => (b.setCtx 0 ctx7).modTime (fun m => { m with acc := BitVec.ofNat 96 (33000000 * 2 ^ 32) }))
     let dc : Fin 9 := 0
     let k : VoteKey := { group := 9, cmd := 5, records := [controlRecord 0x0301 (digestBody 0), controlRecord 0x0301 (digestBody 1)], last := 0 }
     let z := s.d.ctx dc
     s.running .D = true ∧ z.isActive = true ∧ 0 < windowDiff (windowOf z.k s.d.ft) z.openWin) ∧
    (let s : State :=
         { (onVote ({ voteCtx with openWin := 2, an := { keys := [{ group := 9, cmd := 5, records := [controlRecord 0x0301 (digestBody 0), controlRecord 0x0301 (digestBody 1)], last := 0 }], held := [controlRecord 0x0301 (digestBody 0)] } })) with t := ((onVote ({ voteCtx with openWin := 2, an := { keys := [{ group := 9, cmd := 5, records := [controlRecord 0x0301 (digestBody 0), controlRecord 0x0301 (digestBody 1)], last := 0 }], held := [controlRecord 0x0301 (digestBody 0)] } })).t.modTime (fun m => { m with acc := BitVec.ofNat 96 (200000000 * 2 ^ 32) })).setRole 6 { role := 1 } }
     let c : Fin 64 := 0
     let group : Fin 65536 := 9
     let cmd : BitVec 22 := 5
     let k : VoteKey := { group := 9, cmd := 5, records := [controlRecord 0x0301 (digestBody 0), controlRecord 0x0301 (digestBody 1)], last := 0 }
     let g : Replicas := { id := 9, channel := 2, alarm := false, members := [0, 1] }
     let y := s.t
     let x := y.ctx c
     s.running .T = true ∧ x.an.keys.find? (fun k => k.group == group.val && k.cmd == cmd.toNat) = some k ∧ groupById (y.ctxPlan c) group = some g
         ∧ x.isActive = true ∧ y.isSet Reg.PLN_STS 4 = false ∧ y.roleActs c (x.lastClosed y.ft) = true ∧ x.keyDue y.ft g k = true) ∧
    (let s : State :=
         { onVote ({ voteCtx with openWin := 2, an := { keys := [{ group := 9, cmd := 5, records := [controlRecord 0x0301 (digestBody 0), controlRecord 0x0301 (digestBody 1)], last := 0 }], held := [controlRecord 0x0301 (digestBody 0)] } }) with t := (onVote ({ voteCtx with openWin := 2, an := { keys := [{ group := 9, cmd := 5, records := [controlRecord 0x0301 (digestBody 0), controlRecord 0x0301 (digestBody 1)], last := 0 }], held := [controlRecord 0x0301 (digestBody 0)] } })).t.modTime (fun m => { m with acc := BitVec.ofNat 96 (200000000 * 2 ^ 32) }) }
     let c : Fin 64 := 0
     let g : Replicas := { id := 9, channel := 2, alarm := false, members := [0, 1] }
     let y := s.t
     let x := y.ctx c
     let kept := x.an.held.filter (fun r => match groupFor (y.ctxPlan c) (digRank r) (digChannel r) with | some g => !ftGe y.ft (x.holdEnd y.ft g r) | none => false)
     s.running .T = true ∧ x.an.held ≠ kept) := by
  refine ⟨?_, ?_, ?_, ?_, ?_, ?_, ?_, ?_, ?_⟩ <;> decide +kernel

theorem witness_MemberStates :
    let x : Member := { phase := .live }
    x.phase = .live := by
  decide +kernel

theorem witness_RowsRun :
    (let c : Instr := .mergeStep 0 12
     let s : State := onT (fun b => ((((b.setFld Reg.PLN_CTL 0 0 1).modPlane (fun u =>
         { u with scheds := [(0, patch (zeros 240) ([(4, [1]), (8, [1])] ++ ([(80, [10, 5, 1]), (97, [1]), (160, [2])])))], period := 2 })).modTime
         (fun m => { m with acc := BitVec.ofNat 96 (33000000 * 2 ^ 32) }))))
     let kind : Nat := 1
     let row : Fin 6400 := 0
     let col : Fin 32 := 12
     let errs : List (Nat × Nat) := []
     let img : Bytes := patch (zeros 240) ([(4, [1]), (8, [1])] ++ ([(80, [10, 5, 1]), (97, [1]), (160, [2])]))
     let arg : Nat := 0
     let e := schedStep img arg
     s.running .T = true ∧ stepRow c = some (kind, row, col, errs) ∧ s.t.entryDue row col 2 = some (img, arg) ∧ stepKind e = kind) ∧
    (let c : Instr := .mergeStep 0 13
     let s : State := onT (fun b => ((((b.setFld Reg.PLN_CTL 0 0 1).modPlane (fun u =>
         { u with scheds := [(0, patch (zeros 240) ([(4, [1]), (8, [1])] ++ ([(80, [10, 5, 1]), (97, [1]), (160, [2])])))], period := 2 })).modTime
         (fun m => { m with acc := BitVec.ofNat 96 (33000000 * 2 ^ 32) }))))
     let kind : Nat := 1
     let row : Fin 6400 := 0
     let col : Fin 32 := 13
     let errs : List (Nat × Nat) := []
     s.running .T = true ∧ stepRow c = some (kind, row, col, errs) ∧ s.t.entryDue row col 2 = none) ∧
    (let c : Instr := .sendStep 0 12
     let s : State := onT (fun b => ((((b.setFld Reg.PLN_CTL 0 0 1).modPlane (fun u =>
         { u with scheds := [(0, patch (zeros 240) ([(4, [1]), (8, [1])] ++ ([(80, [10, 5, 1]), (97, [1]), (160, [2])])))], period := 2 })).modTime
         (fun m => { m with acc := BitVec.ofNat 96 (33000000 * 2 ^ 32) }))))
     let kind : Nat := 9
     let row : Fin 6400 := 0
     let col : Fin 32 := 12
     let errs : List (Nat × Nat) := []
     let img : Bytes := patch (zeros 240) ([(4, [1]), (8, [1])] ++ ([(80, [10, 5, 1]), (97, [1]), (160, [2])]))
     let arg : Nat := 0
     let e := schedStep img arg
     s.running .T = true ∧ stepRow c = some (kind, row, col, errs) ∧ s.t.entryDue row col 2 = some (img, arg) ∧ stepKind e ≠ kind) ∧
    (let s : State := onT (fun b => ((((b.setFld Reg.PLN_CTL 0 0 1).modPlane (fun u =>
         { u with scheds := [(0, patch (zeros 240) ([(4, [1]), (8, [1])] ++ ([(80, [10, 5, 1]), (97, [1]), (160, [2])])))], period := 2 })).modTime
         (fun m => { m with acc := BitVec.ofNat 96 (33000000 * 2 ^ 32) }))))
     s.running .T = true) ∧
    (let s : State := onT (fun b => ((((b.setFld Reg.PLN_CTL 0 0 1).modPlane (fun u =>
         { u with scheds := [(0, patch (zeros 240) ([(4, [1]), (8, [1])] ++ ([(80, [10, 5, 1]), (112 + 120, [3])])))], period := 2 })).modTime
         (fun m => { m with acc := BitVec.ofNat 96 (33000000 * 2 ^ 32) })).modIngest 0 (fun x => { x with deferred := [5] })))
     let row : Fin 6400 := 0
     let img : Bytes := patch (zeros 240) ([(4, [1]), (8, [1])] ++ ([(80, [10, 5, 1]), (112 + 120, [3])]))
     let arg : Nat := 0
     s.running .T = true ∧ s.t.entryDue row 30 3 = some (img, arg)) ∧
    (let c : Instr := .mergeStep 0 12
     let s : State := onT (fun b => (((((Block.up b).setFld Reg.PLN_CTL 0 0 1).modPlane (fun u =>
         { u with scheds := [(0, patch (zeros 240) ([(4, [1]), (8, [1])] ++ ([(80, [10, 5, 1]), (112 + 124, [4])])))], period := 2 })).modTime
         (fun m => { m with acc := BitVec.ofNat 96 (33000000 * 2 ^ 32) })).modPlane (fun u =>
         { u with scans := [(0, { desc := 0, spec := [], start := 0, share := 1 })], sharers := [0] })))
     let row : Fin 6400 := 0
     let img : Bytes := patch (zeros 240) ([(4, [1]), (8, [1])] ++ ([(80, [10, 5, 1]), (112 + 124, [4])]))
     let arg : Nat := 0
     let k : Nat := 0
     let v := s.t.enterRow 31
     let behind := v.ctxIds.find? (fun c => (v.ctx c).catchup && decide (0 < (v.ctx c).behind))
     s.running .T = true ∧ s.t.entryDue row 31 4 = some (img, arg) ∧ (∀ n < 32, v.isSet Reg.IST_DEC_FAIL n = false) ∧ behind = none ∧
         v.tray.plane.sharers[arg % v.tray.plane.sharers.length]? = some k ∧ v.stewardRuns 2 = true ∧ v.shares k = true) ∧
    (let c : Instr := .mergeStep 0 12
     let s : State := onT (fun b => ((((b.setFld Reg.PLN_CTL 0 0 1).modPlane (fun u =>
         { u with scheds := [(0, patch (zeros 240) ([(4, [1]), (8, [1])] ++ ([(80, [10, 5, 1]), (112 + 124, [4])])))], period := 2 })).modTime
         (fun m => { m with acc := BitVec.ofNat 96 (33000000 * 2 ^ 32) })).setCtx 0 { ctx7 with catchup := true, behind := 1 }))
     let row : Fin 6400 := 0
     let img : Bytes := patch (zeros 240) ([(4, [1]), (8, [1])] ++ ([(80, [10, 5, 1]), (112 + 124, [4])]))
     let arg : Nat := 0
     let k : Nat := 0
     let v := s.t.enterRow 31
     let behind := v.ctxIds.find? (fun c => (v.ctx c).catchup && decide (0 < (v.ctx c).behind))
     s.running .T = true ∧ s.t.entryDue row 31 4 = some (img, arg) ∧ (∀ n < 32, v.isSet Reg.IST_DEC_FAIL n = false) ∧ behind = some k) ∧
    (let s : State := onT (fun b => ((((b.setFld Reg.PLN_CTL 0 0 1).modPlane (fun u =>
         { u with scheds := [(0, patch (zeros 240) ([(4, [1]), (8, [1])] ++ ([(80, [10, 5, 1]), (112 + 124, [4])])))], period := 2 })).modTime
         (fun m => { m with acc := BitVec.ofNat 96 (33000000 * 2 ^ 32) })).setReg Reg.IST_DEC_FAIL 0xFFFFFFFF))
     let row : Fin 6400 := 0
     let img : Bytes := patch (zeros 240) ([(4, [1]), (8, [1])] ++ ([(80, [10, 5, 1]), (112 + 124, [4])]))
     let arg : Nat := 0
     let v := s.t.enterRow 31
     s.running .T = true ∧ s.t.entryDue row 31 4 = some (img, arg) ∧ (∀ n < 32, v.isSet Reg.IST_DEC_FAIL n = true)) ∧
    (let s : State := onT (fun b => (((((Block.up b).setFld Reg.PLN_CTL 0 0 1).modPlane (fun u =>
         { u with scheds := [(0, patch (zeros 240) ([(4, [1]), (8, [1])] ++ ([(80, [10, 5, 1]), (112 + 0, [1])])))], period := 2 })).modTime (fun
         m => { m with acc := BitVec.ofNat 96 (33000000 * 2 ^ 32) })).setFld Reg.IST_CTL 0 0 1))
     let row : Fin 6400 := 0
     let col : Fin 32 := 0
     let img : Bytes := patch (zeros 240) ([(4, [1]), (8, [1])] ++ ([(80, [10, 5, 1]), (112 + 0, [1])]))
     let arg : Nat := 0
     let g : Nat := 0
     let u : TestUnit := (s.t.tray.test)
     let y := s.t.enterRow col
     s.running .T = true ∧ s.t.entryDue row col 1 = some (img, arg) ∧ y.isSet Reg.IST_CTL 0 = true ∧ y.stewardRuns 4 = true ∧ y.tray.test.pick col
         = (some g, u)) ∧
    (let s : State := onT (fun b => b.modTest (fun t => { t with failing := [(5, 0)] }))
     let img : Bytes := patch (zeros 240) ([(4, [1]), (8, [1])] ++ ([(80, [10, 5, 1]), (97, [1]), (160, [2])]))
     let arg : Nat := 0
     let k : Nat := 5
     let e := schedStep img arg
     s.running .T = true ∧ (s.t.tray.test.failing.filter (fun e => ftGe s.t.ft e.2)).map Prod.fst = [k] ∧ s.t.tray.test.descs.any (fun e => e.1 ==
         k) = false) := by
  refine ⟨?_, ?_, ?_, ?_, ?_, ?_, ?_, ?_, ?_, ?_⟩ <;> decide +kernel

theorem witness_IngestPath :
    (let s : State := on
     let p : Fin 32 := 3
     let ws : List Bytes := [[0xA5, 0x5A, 2, 0, 5, 0, 0, 0] ++ zeros 8, [0xA5, 0x5A, 2, 0, 6, 0, 0, 0] ++ zeros 8, [0xA5, 0x5A, 2, 0, 7, 0, 0, 0]
         ++ zeros 8]
     let i : Nat := 2
     let n : Nat := 7
     let y := s.t
     s.running .T = true ∧ (y.ingest p).up = true ∧ laneFound ws = some (i, n)) ∧
    (let s : State := on
     let p : Fin 32 := 3
     let words : Bytes := zeros 64
     let x : IngestPort := ((s.t.ingest p).wordTime words).1
     let y := s.t
     s.running .T = true ∧ y.power.phase < 2 ∧ (y.ingest p).up = true ∧ words.length = 64 ∧ (y.ingest p).wordTime words = (x, none)) ∧
    (let s : State := onT (fun b => b.modIngest 3 (fun x => { x with lanes := [⟨0, 0, 1, []⟩, ⟨1, 1, 1, []⟩, ⟨2, 2, 1, []⟩, ⟨3, 3, 1, []⟩] }))
     let p : Fin 32 := 3
     let words : Bytes := zeros 64
     let blk : Bytes := ((s.t.ingest p).wordTime words).2.getD []
     let x : IngestPort := ((s.t.ingest p).wordTime words).1
     let y := s.t
     s.running .T = true ∧ y.power.phase < 2 ∧ (y.ingest p).up = true ∧ words.length = 64 ∧ (y.ingest p).wordTime words = (x, some blk) ∧ x.loaf =
         [] ∧ x.searching = false ∧ slice blk 0 2 ≠ [0xB7, 0xE1] ∧ slice blk 0 2 ≠ [0xB7, 0x1F]) ∧
    (let s : State := onT (fun b => b.modIngest 3 (fun x => { x with lanes := [⟨0, 0, 1, []⟩, ⟨1, 1, 1, []⟩, ⟨2, 2, 1, []⟩, ⟨3, 3, 1, []⟩] }))
     let p : Fin 32 := 3
     let words : Bytes := (buildLoaf 0 0 1 0 true 0 (List.replicate 100 1)).take 64
     let blk : Bytes := ((s.t.ingest p).wordTime words).2.getD []
     let x : IngestPort := ((s.t.ingest p).wordTime words).1
     let y := s.t
     s.running .T = true ∧ y.power.phase < 2 ∧ (y.ingest p).up = true ∧ words.length = 64 ∧ (y.ingest p).wordTime words = (x, some blk) ∧ x.loaf =
         [] ∧ slice blk 0 2 = [0xB7, 0x1F] ∧ blk.length < loafSpan (fieldAt blk 7 3) ∧ (x.searching = false ∨ headerFits blk = true)) ∧
    (let s : State := onT (fun b => b.modIngest 3 (fun x =>
         { x with lanes := [⟨0, 0, 1, []⟩, ⟨1, 1, 1, []⟩, ⟨2, 2, 1, []⟩, ⟨3, 3, 1, []⟩], loaf := (buildLoaf 0 0 1 0 true 0 (List.replicate 200 1)).take 64 }))
     let p : Fin 32 := 3
     let words : Bytes := zeros 64
     let blk : Bytes := ((s.t.ingest p).wordTime words).2.getD []
     let x : IngestPort := ((s.t.ingest p).wordTime words).1
     let y := s.t
     s.running .T = true ∧ y.power.phase < 2 ∧ (y.ingest p).up = true ∧ words.length = 64 ∧ (y.ingest p).wordTime words = (x, some blk) ∧ x.loaf ≠
         [] ∧ (x.loaf ++ blk).length < loafSpan (fieldAt (x.loaf ++ blk) 7 3)) ∧
    (let s : State := onT (fun b => b.modIngest 3 (fun x =>
         { x with lanes := [⟨0, 0, 1, []⟩, ⟨1, 1, 1, []⟩, ⟨2, 2, 1, []⟩, ⟨3, 3, 1, []⟩], loaf := (buildLoaf 0 0 1 0 true 0 (List.replicate 100 1)).take 64 }))
     let p : Fin 32 := 3
     let words : Bytes := padTo 64 ((buildLoaf 0 0 1 0 true 0 (List.replicate 100 1)).drop 64)
     let blk : Bytes := ((s.t.ingest p).wordTime words).2.getD []
     let x : IngestPort := ((s.t.ingest p).wordTime words).1
     let y := s.t
     s.running .T = true ∧ y.power.phase < 2 ∧ (y.ingest p).up = true ∧ words.length = 64 ∧ (y.ingest p).wordTime words = (x, some blk) ∧ x.loaf ≠
         [] ∧ loafSpan (fieldAt (x.loaf ++ blk) 7 3) ≤ (x.loaf ++ blk).length) ∧
    (let s : State := onT (fun b => b.modIngest 3 (fun x => { x with decoding := some (padTo 64 (buildLoaf 0 0 1 0 true 0 [1, 2, 3, 4])) }))
     let p : Fin 32 := 3
     let raw : Bytes := padTo 64 (buildLoaf 0 0 1 0 true 0 [1, 2, 3, 4])
     let out : Loaf := (match decodeLoaf raw (2 ^ 24) with | .ok l => l | .error _ => ⟨0, 0, 0, 0, 0, []⟩)
     let y := s.t
     s.running .T = true ∧ (y.ingest p).decoding = some raw ∧ (decodeLoaf raw (2 ^ 24)).toOption = some out) ∧
    (let raw : Bytes := patch (padTo 64 (buildLoaf 0 0 1 0 true 0 [1, 2, 3, 4])) [(20, [99, 99])]
     let s : State := onT (fun b => b.modIngest 3 (fun x => { x with decoding := some raw }))
     let p : Fin 32 := 3
     let words : Bytes := zeros 64
     let x : IngestPort := ((s.t.ingest p).wordTime words).1
     let e : LoafFault := (match decodeLoaf raw (2 ^ 24) with | .ok _ => ⟨0, 0⟩ | .error e => e)
     let y := s.t
     s.running .T = true ∧ (y.ingest p).decoding = some raw ∧ (match decodeLoaf raw (2 ^ 24) with | .error x => some x | .ok _ => none) = some e) ∧
    (let s : State := onT (fun b => (b.setFld Reg.ANV_CTL 0 0 1).modIngest 3 (fun x =>
         { x with decoded := some (padTo 64 (buildLoaf 0 0 1 0 true 0 [1, 2, 3, 4])) }))
     let p : Fin 32 := 3
     let words : Bytes := zeros 64
     let x : IngestPort := ((s.t.ingest p).wordTime words).1
     let raw : Bytes := padTo 64 (buildLoaf 0 0 1 0 true 0 [1, 2, 3, 4])
     let y := s.t
     let y2 := y.modIngest p (fun x => { x with decoded := none })
     s.running .T = true ∧ (y.ingest p).decoded = some raw ∧ y2.anvilIdle p raw = none) ∧
    (let s : State := onT (fun b => (b.setFld Reg.ANV_CTL 0 0 0).modIngest 3 (fun x =>
         { x with decoded := some (padTo 64 (buildLoaf 0 0 1 0 true 0 [1, 2, 3, 4])) }))
     let p : Fin 32 := 3
     let words : Bytes := zeros 64
     let x : IngestPort := ((s.t.ingest p).wordTime words).1
     let raw : Bytes := padTo 64 (buildLoaf 0 0 1 0 true 0 [1, 2, 3, 4])
     let lost := false
     let y := s.t
     let y2 := y.modIngest p (fun x => { x with decoded := none })
     s.running .T = true ∧ (y.ingest p).decoded = some raw ∧ y2.anvilIdle p raw = some lost) ∧
    (let s : State := onT (fun b => b.modPlane (fun u => { u with trees := [(0, { phase := 1 })] }))
     let slot : Fin 16384 := 0
     let y := s.t
     let tree := slotIn y.tray.plane.trees slot
     s.running .T = true ∧ (tree.phase = 1 ∨ tree.phase = 2)) ∧
    (let s : State := onT (fun b => (b.setFld Reg.RUL_CTL 0 0 1).modPlane (fun u => { u with groups := [(0, { phase := 1, bytes := group })] }))
     let group : Fin 4096 := 0
     let entry : Fin 16384 := 0
     let y := s.t
     let g := slotIn y.tray.plane.groups group
     s.running .T = true ∧ y.isSet Reg.RUL_CTL 0 = true ∧ g.phase ≠ 0 ∧ entry.val < groupCount g.bytes) ∧
    (let s : State := onT (fun b => (b.setFld Reg.RUL_CTL 0 0 1).modPlane (fun u => { u with groups := [(0, { phase := 2, bytes := group })] }))
     let group : Fin 4096 := 0
     let entry : Fin 16384 := 0
     let y := s.t
     let g := slotIn y.tray.plane.groups group
     s.running .T = true ∧ y.isSet Reg.RUL_CTL 0 = true ∧ (g.phase = 1 ∨ g.phase = 2) ∧ entry.val < groupCount g.bytes) ∧
    (let s : State := on
     let y := s.t
     s.running .T = true ∧ y.isSet Reg.PLN_STS 4 = false) := by
  refine ⟨?_, ?_, ?_, ?_, ?_, ?_, ?_, ?_, ?_, ?_, ?_, ?_, ?_, ?_⟩ <;> decide +kernel

theorem witness_WindowedFrames :
    (let s : State := onT (fun b => (b.setCtx 0 { ctx7 with children := [{ level := 3, addr := 0x500, ranks := [0] }] }).modTime (fun m =>
         { m with acc := BitVec.ofNat 96 (5000 * 2 ^ 32) }))
     let link : Fin 64 := 5
     let raw : Bytes := frameBytes 2 7 (sourceWord 0 3 false false) 1 9 0 0 1 0 0x500 3 ([])
     let f : Frame := readFrame raw
     let b' : Block := ((s.block .T).rx 5 raw).2
     let c : Nat := 0
     let x := b'.ctx c
     let ahead := windowDiff f.window (windowOf x.k b'.ft)
     s.running .T = true ∧ (s.t.rx link raw).1 = some f ∧ b'.fromChild f = some c ∧ 2 ≤ f.cls ∧ f.cls ≤ 4 ∧ f.down = false ∧ 1 < ahead) ∧
    (let s : State := onT (fun b => (b.setCtx 0 { ctx7 with children := [{ level := 3, addr := 0x500, ranks := [0] }] }).modTime (fun m =>
         { m with acc := BitVec.ofNat 96 (5000 * 2 ^ 32) }))
     let link : Fin 64 := 5
     let raw : Bytes := frameBytes 2 7 (sourceWord 0 3 false false) 1 0 0 0 1 0 0x500 3 ([])
     let f : Frame := readFrame raw
     let b' : Block := ((s.block .T).rx 5 raw).2
     let c : Nat := 0
     let x := b'.ctx c
     let ahead := windowDiff f.window (windowOf x.k b'.ft)
     s.running .T = true ∧ (s.t.rx link raw).1 = some f ∧ b'.fromChild f = some c ∧ 2 ≤ f.cls ∧ f.cls ≤ 4 ∧ f.down = false ∧ ahead ≤ 1 ∧ ftGe
         b'.ft (x.closeTime b'.ft f.window) = false) ∧
    (let s : State := onT (fun b => ((b.setCtx 0 { ctx7 with children := [{ level := 3, addr := 0x500, ranks := [0] }] }).setFld Reg.FRM_CTL 0 0
         1).modTime (fun m => { m with acc := BitVec.ofNat 96 (20000000 * 2 ^ 32) }))
     let link : Fin 64 := 5
     let raw : Bytes := frameBytes 2 7 (sourceWord 0 3 false false) 1 0 0 0 1 0 0x500 3 ([])
     let f : Frame := readFrame raw
     let b' : Block := ((s.block .T).rx 5 raw).2
     let c : Nat := 0
     let x := b'.ctx c
     let ahead := windowDiff f.window (windowOf x.k b'.ft)
     let next := x.windowAfter f.window
     s.running .T = true ∧ (s.t.rx link raw).1 = some f ∧ b'.fromChild f = some c ∧ 2 ≤ f.cls ∧ f.cls ≤ 4 ∧ f.down = false ∧ ahead ≤ 1 ∧ ftGe
         b'.ft (x.closeTime b'.ft f.window) = true ∧ ftGe b'.ft (x.closeTime b'.ft next) = false ∧ b'.isSet Reg.FRM_CTL 0 = true) ∧
    (let s : State := onT (fun b => (b.setCtx 0 { ctx7 with children := [{ level := 3, addr := 0x500, ranks := [0] }] }).modTime (fun m =>
         { m with acc := BitVec.ofNat 96 (90000000 * 2 ^ 32) }))
     let link : Fin 64 := 5
     let raw : Bytes := frameBytes 2 7 (sourceWord 0 3 false false) 1 0 0 0 1 0 0x500 3 ([])
     let f : Frame := readFrame raw
     let b' : Block := ((s.block .T).rx 5 raw).2
     let c : Nat := 0
     let x := b'.ctx c
     let ahead := windowDiff f.window (windowOf x.k b'.ft)
     let next := x.windowAfter f.window
     s.running .T = true ∧ (s.t.rx link raw).1 = some f ∧ b'.fromChild f = some c ∧ 2 ≤ f.cls ∧ f.cls ≤ 4 ∧ f.down = false ∧ ahead ≤ 1 ∧ ftGe
         b'.ft (x.closeTime b'.ft f.window) = true ∧ (ftGe b'.ft (x.closeTime b'.ft next) = true ∨ b'.isSet Reg.FRM_CTL 0 = false)) ∧
    (let s : State := on
     let link : Fin 64 := 5
     let raw : Bytes := frameBytes 0 0 (sourceWord 0 3 true true) 1 0 0 0 1 0 0x500 0 (leBytes 2 0x0B01 ++ zeros 30)
     let f : Frame := readFrame raw
     let b' : Block := ((s.block .T).rx 5 raw).2
     let recs := alarmRecords f.payload
     s.running .T = true ∧ (s.t.rx link raw).1 = some f ∧ f.cls = 0 ∧ link.val < 32 ∧ b'.receiver f 0 = none ∧ recs.all (fun r => decide (fieldAt
         r 0 2 ∈ alarmCodes)) = true) ∧
    (let s : State := onT (fun b => b.setCtx 0 { ctx7 with children := [{ level := 3, addr := 0x500, ranks := [0] }] })
     let link : Fin 64 := 5
     let raw : Bytes := frameBytes 0 7 (sourceWord 0 3 false false) 1 0 0 0 1 0 0x500 3 (leBytes 2 0x0B01 ++ zeros 30)
     let f : Frame := readFrame raw
     let b' : Block := ((s.block .T).rx 5 raw).2
     let c : Nat := 0
     let recs := alarmRecords f.payload
     let top := b'.climb c
     s.running .T = true ∧ (s.t.rx link raw).1 = some f ∧ f.cls = 0 ∧ b'.receiver f 0 = some c ∧ recs.all (fun r => decide (fieldAt r 0 2 ∈
         alarmCodes)) = true ∧ (b'.ctx top).isHearth = true) ∧
    (let s : State := onT (fun b => b.setCtx 0 { ctx7 with children := [{ level := 3, addr := 0x500, ranks := [0] }], isHearth := false })
     let link : Fin 64 := 5
     let raw : Bytes := frameBytes 0 7 (sourceWord 0 3 false false) 1 0 0 0 1 0 0x500 3 (leBytes 2 0x0B01 ++ zeros 30)
     let f : Frame := readFrame raw
     let b' : Block := ((s.block .T).rx 5 raw).2
     let c : Nat := 0
     let recs := alarmRecords f.payload
     let top := b'.climb c
     s.running .T = true ∧ (s.t.rx link raw).1 = some f ∧ f.cls = 0 ∧ b'.receiver f 0 = some c ∧ recs.all (fun r => decide (fieldAt r 0 2 ∈
         alarmCodes)) = true ∧ (b'.ctx top).isHearth = false ∧ recs ≠ []) ∧
    (let s : State := onT (fun b => (b.setCtx 0 { ctx7 with children := [{ level := 3, addr := 0x500, ranks := [0] }] }).modTime (fun m =>
         { m with acc := BitVec.ofNat 96 (5000 * 2 ^ 32) }))
     let link : Fin 64 := 32
     let raw : Bytes := frameBytes 2 7 (sourceWord 0 6 false true) 1 0 0 0 2 0 0 3 ([])
     let f : Frame := readFrame raw
     let b' : Block := ((s.block .T).rx 32 raw).2
     let c : Nat := 0
     let key := f.dupKey ++ [f.cls, f.base]
     s.running .T = true ∧ (s.t.rx link raw).1 = some f ∧ f.cls = 2 ∧ f.down = true ∧ b'.topNode f.job = some c ∧ 2 ≤ f.parts ∧ b'.parts.any (fun
         s => s.key == key) = false) ∧
    (let s : State := on
     let b : Build := .T
     let link : Fin 64 := 5
     let raw : Bytes := frameBytes 7 0 (sourceWord 0 3 true true) 1 0 0 0 1 0 0x500 0 []
     let f : Frame := readFrame raw
     s.running b = true ∧ ((s.block b).rx link raw).1 = some f ∧ f.cls = 7) := by
  refine ⟨?_, ?_, ?_, ?_, ?_, ?_, ?_, ?_, ?_⟩ <;> decide +kernel

theorem witness_ShareFrames :
    (let s : State := onT (fun b => ((b.setReg Reg.HIS_GRP 0x80000001).modPeer 0 1 (fun p => { p with da := 0x4000 })).modHist (fun h =>
         { h with nextId := 7 }))
     let link : Fin 64 := 32
     let raw : Bytes := frameBytes 5 0 (sourceWord 0 5 true false) 1 0 0 0 1 0 0x4000 0 (padTo 8 (controlRecord 0x0501 ([0, 0, 0, 0] ++ leBytes 4
         5 ++ leBytes 4 0 ++ leBytes 4 4 ++ [1, 2, 3, 4])))
     let f : Frame := readFrame raw
     let r : Bytes := controlRecord 0x0501 ([0, 0, 0, 0] ++ leBytes 4 5 ++ leBytes 4 0 ++ leBytes 4 4 ++ [1, 2, 3, 4])
     let b' : Block := ((s.block .T).rx 32 raw).2.hearPeer 0x4000
     let m : Nat := 1
     let cls := byteAt r 8
     let n := fieldAt r 12 4
     let h := b'.tray.history
     let x : Staged := ⟨cls, m, n, fieldAt r 20 4, sput (fun _ => []) [] (fieldAt r 16 4) (r.drop 24), b'.ft⟩
     let u := { h with staging := h.staging ++ [x] }
     b'.shareFrom cls f.srcDa = some m ∧ s.running .T = true ∧ (s.t.rx link raw).1 = some f ∧ f.cls = 5 ∧ controlRecords 512 f.payload = [r] ∧
         ctypeOf r = 0x0501 ∧ h.staging.any (fun x => x.cls == cls && x.origin == m && x.n == n) = false ∧ b'.holderLost cls = false ∧
         h.staging.foldl (fun a y => a + y.len) 0 + fieldAt r 20 4 ≤ stagingSize ∧ (u.ready cls).length < 8) ∧
    (let s : State := onT (fun b => ((b.setReg Reg.HIS_GRP 0x80000001).modPeer 0 1 (fun p => { p with da := 0x4000 })).modHist (fun h =>
         { h with staging := [⟨0, 1, 4, 0x7FFFFFFFFFFFFFFF, [], 0⟩] }))
     let link : Fin 64 := 32
     let raw : Bytes := frameBytes 5 0 (sourceWord 0 5 true false) 1 0 0 0 1 0 0x4000 0 (padTo 8 (controlRecord 0x0501 ([0, 0, 0, 0] ++ leBytes 4
         5 ++ leBytes 4 0 ++ leBytes 4 0x10000000 ++ [1, 2, 3, 4])))
     let f : Frame := readFrame raw
     let r : Bytes := controlRecord 0x0501 ([0, 0, 0, 0] ++ leBytes 4 5 ++ leBytes 4 0 ++ leBytes 4 0x10000000 ++ [1, 2, 3, 4])
     let b' : Block := ((s.block .T).rx 32 raw).2.hearPeer 0x4000
     let m : Nat := 1
     let cls := byteAt r 8
     let n := fieldAt r 12 4
     let h := b'.tray.history
     b'.shareFrom cls f.srcDa = some m ∧ s.running .T = true ∧ (s.t.rx link raw).1 = some f ∧ f.cls = 5 ∧ controlRecords 512 f.payload = [r] ∧
         ctypeOf r = 0x0501 ∧ (b'.holderLost cls = true ∨ (h.staging.any (fun x => x.cls == cls && x.origin == m && x.n == n) = false ∧
         stagingSize < h.staging.foldl (fun a y => a + y.len) 0 + fieldAt r 20 4))) ∧
    (let s : State := onT (fun b => ((b.setReg Reg.HIS_GRP 0x80000001).modPeer 0 1 (fun p => { p with da := 0x4000 })).modHist (fun h =>
         { h with parity := [{ cls := 0, j := 1, assembler := 1, number := 5, len := 4 }] }))
     let link : Fin 64 := 32
     let raw : Bytes := frameBytes 5 0 (sourceWord 0 5 true false) 1 0 0 0 1 0 0x4000 0 (padTo 8 (controlRecord 0x0502 ([0, 1, 1, 0] ++ leBytes 4
         5 ++ leBytes 4 0 ++ leBytes 4 4 ++ [1, 2, 3, 4])))
     let f : Frame := readFrame raw
     let r : Bytes := controlRecord 0x0502 ([0, 1, 1, 0] ++ leBytes 4 5 ++ leBytes 4 0 ++ leBytes 4 4 ++ [1, 2, 3, 4])
     let b' : Block := ((s.block .T).rx 32 raw).2.hearPeer 0x4000
     let m : Nat := 1
     let cls := byteAt r 8
     let n := fieldAt r 12 4
     let h := b'.tray.history
     let is (x : Parity) : Bool := x.cls == cls && x.assembler == byteAt r 10 && x.number == n && x.j == byteAt r 9
     let p := h.parity.map (fun x => if is x then { x with pieces := sput (fun _ => []) x.pieces (fieldAt r 16 4) (r.drop 24) } else x)
     b'.shareFrom cls f.srcDa = some m ∧ s.running .T = true ∧ (s.t.rx link raw).1 = some f ∧ f.cls = 5 ∧ controlRecords 512 f.payload = [r] ∧
         ctypeOf r = 0x0502 ∧ h.parity.any is = true ∧ p.any (fun x => is x && decide (x.len ≤ piecesLen x.pieces)) = true) ∧
    (let s : State := onT (fun b => ((b.setReg Reg.HIS_GRP 0x80000001).modPeer 0 1 (fun p => { p with da := 0x4000 })).modHist (fun h =>
         { h with stripes := [{ cls := 0, number := 5, members := [1, 2], ns := [0, 0] }] }))
     let link : Fin 64 := 32
     let raw : Bytes := frameBytes 5 0 (sourceWord 0 5 true false) 1 0 0 0 1 0 0x4000 0 (padTo 8 (controlRecord 0x0503 ([0, 0, 0, 0] ++ leBytes 4
         5 ++ [])))
     let f : Frame := readFrame raw
     let r : Bytes := controlRecord 0x0503 ([0, 0, 0, 0] ++ leBytes 4 5 ++ [])
     let b' : Block := ((s.block .T).rx 32 raw).2.hearPeer 0x4000
     let m : Nat := 1
     let x := ({ cls := 0, number := 5, members := [1, 2], ns := [0, 0] } : Stripe)
     let cls := byteAt r 8
     let me := b'.groupIndex cls
     let n := fieldAt r 12 4
     let h := b'.tray.history
     b'.shareFrom cls f.srcDa = some m ∧ s.running .T = true ∧ (s.t.rx link raw).1 = some f ∧ f.cls = 5 ∧ controlRecords 512 f.payload = [r] ∧
         ctypeOf r = 0x0503 ∧ h.stripes.find? (fun x => x.cls == cls && x.number == n && byteAt r 10 == me) = some x ∧ x.coded = false ∧ m ∉
         x.acks ∧ (List.range (groupParity cls)).all (fun j => decide (1 ≤ j → (me + j) % groupSize cls ∈ x.acks ++ [m])) = true) ∧
    (let s : State := onT (fun b => ((b.setReg Reg.HIS_GRP 0x80000001).modPeer 0 1 (fun p => { p with da := 0x4000 })).modHist (fun h =>
         { h with segs := [{ id := 3, region := 1, n := some 9 }] }))
     let link : Fin 64 := 32
     let raw : Bytes := frameBytes 5 0 (sourceWord 0 5 true false) 1 0 0 0 1 0 0x4000 0 (padTo 8 (controlRecord 0x0504 ([0, 1, 0, 0] ++ leBytes 4
         5 ++ [0, 1, 2, 3, 4, 5, 6, 7] ++ leBytes 4 9 ++ zeros 28)))
     let f : Frame := readFrame raw
     let r : Bytes := controlRecord 0x0504 ([0, 1, 0, 0] ++ leBytes 4 5 ++ [0, 1, 2, 3, 4, 5, 6, 7] ++ leBytes 4 9 ++ zeros 28)
     let b' : Block := ((s.block .T).rx 32 raw).2.hearPeer 0x4000
     let m : Nat := 1
     let i := 0
     let g := ({ id := 3, region := 1, n := some 9 } : Segment)
     let cls := byteAt r 8
     let me := b'.groupIndex cls
     let n := fieldAt r 12 4
     let h := b'.tray.history
     b'.shareFrom cls f.srcDa = some m ∧ s.running .T = true ∧ (s.t.rx link raw).1 = some f ∧ f.cls = 5 ∧ controlRecords 512 f.payload = [r] ∧
         ctypeOf r = 0x0504 ∧ indexOf? (· == me) ((List.range 8).map (fun i => byteAt r (16 + i))) 0 = some i ∧ h.segs.find? (fun g => g.cls ==
         cls && g.n == some (fieldAt r (24 + 4 * i) 4) && !g.coded && g.stripe.isNone) = some g) ∧
    (let s : State := onT (fun b => ((b.setReg Reg.HIS_GRP 0x80000001).modPeer 0 1 (fun p => { p with da := 0x4000 })).modHist (fun h =>
         { h with parity := [{ cls := 0, j := 1, assembler := 9, number := 5, len := 4 }] }))
     let link : Fin 64 := 32
     let raw : Bytes := frameBytes 5 0 (sourceWord 0 5 true false) 1 0 0 0 1 0 0x4000 0 (padTo 8 (controlRecord 0x0505 ([0, 1, 9, 0] ++ leBytes 4
         5 ++ [])))
     let f : Frame := readFrame raw
     let r : Bytes := controlRecord 0x0505 ([0, 1, 9, 0] ++ leBytes 4 5 ++ [])
     let b' : Block := ((s.block .T).rx 32 raw).2.hearPeer 0x4000
     let m : Nat := 1
     let x := ({ cls := 0, j := 1, assembler := 9, number := 5, len := 4 } : Parity)
     let cls := byteAt r 8
     let n := fieldAt r 12 4
     let h := b'.tray.history
     let b1 := b'.modHist (fun h => { h with parity := h.parity.map (fun y => if y = x then { x with released := x.released ++ [m] } else y) })
     b'.shareFrom cls f.srcDa = some m ∧ s.running .T = true ∧ (s.t.rx link raw).1 = some f ∧ f.cls = 5 ∧ controlRecords 512 f.payload = [r] ∧
         ctypeOf r = 0x0505 ∧ byteAt r 9 = 1 ∧ h.parity.find? (fun x => x.cls == cls && x.assembler == byteAt r 10 && x.number == n) = some x ∧ m
         ∉ x.released ∧ (b1.parityMembers x).all (fun c => decide (c ∈ x.released ++ [m])) = false) ∧
    (let s : State := onT (fun b => ((b.setReg Reg.HIS_GRP 0x80000001).modPeer 0 1 (fun p => { p with da := 0x4000 })).modHist (fun h =>
         { h with segs := [{ id := 3, region := 1, stripe := some (9, 5) }] }))
     let link : Fin 64 := 32
     let raw : Bytes := frameBytes 5 0 (sourceWord 0 5 true false) 1 0 0 0 1 0 0x4000 0 (padTo 8 (controlRecord 0x0505 ([0, 2, 9, 0] ++ leBytes 4
         5 ++ [])))
     let f : Frame := readFrame raw
     let r : Bytes := controlRecord 0x0505 ([0, 2, 9, 0] ++ leBytes 4 5 ++ [])
     let b' : Block := ((s.block .T).rx 32 raw).2.hearPeer 0x4000
     let m : Nat := 1
     let cls := byteAt r 8
     b'.shareFrom cls f.srcDa = some m ∧ s.running .T = true ∧ (s.t.rx link raw).1 = some f ∧ f.cls = 5 ∧ controlRecords 512 f.payload = [r] ∧
         ctypeOf r = 0x0505 ∧ byteAt r 9 = 2) ∧
    (let s : State := onT (fun b => ((b.setReg Reg.HIS_GRP 0x80000001).modPeer 0 1 (fun p => { p with da := 0x4000 })).modHist (fun h =>
         { h with parity := [{ cls := 0, j := 1, assembler := 9, number := 5, len := 4, pieces := [(0, [1, 2, 3, 4])] }] }))
     let link : Fin 64 := 32
     let raw : Bytes := frameBytes 5 0 (sourceWord 0 5 true false) 1 0 0 0 1 0 0x4000 0 (padTo 8 (controlRecord 0x0506 ([0, 3, 9, 9] ++ leBytes 4
         5 ++ leBytes 4 0 ++ leBytes 4 2)))
     let f : Frame := readFrame raw
     let r : Bytes := controlRecord 0x0506 ([0, 3, 9, 9] ++ leBytes 4 5 ++ leBytes 4 0 ++ leBytes 4 2)
     let b' : Block := ((s.block .T).rx 32 raw).2.hearPeer 0x4000
     let m : Nat := 1
     let bs := [1, 2, 3, 4]
     let cls := byteAt r 8
     let n := fieldAt r 12 4
     b'.shareFrom cls f.srcDa = some m ∧ s.running .T = true ∧ (s.t.rx link raw).1 = some f ∧ f.cls = 5 ∧ controlRecords 512 f.payload = [r] ∧
         ctypeOf r = 0x0506 ∧ b'.columnBytes cls (byteAt r 10) n (byteAt r 11) = some bs ∧ 1 ≤ fieldAt r 20 4 ∧ fieldAt r 20 4 ≤ 4000 ∧ fieldAt r
         16 4 + fieldAt r 20 4 ≤ bs.length) ∧
    (let s : State := onT (fun b => ((b.setReg Reg.HIS_GRP 0x80000001).modPeer 0 1 (fun p => { p with da := 0x4000 })).modHist (fun h =>
         { h with reads := [{ cls := 0, member := 3, assembler := 9, number := 5, column := 0, len := 4, asked := [9, 8], segment := some 1 }] }))
     let link : Fin 64 := 32
     let raw : Bytes := frameBytes 5 0 (sourceWord 0 5 true false) 1 0 0 0 1 0 0x4000 0 (padTo 8 (controlRecord 0x0507 ([0, 3, 9, 9] ++ leBytes 4
         5 ++ leBytes 4 0 ++ leBytes 4 4 ++ [1, 2, 3, 4])))
     let f : Frame := readFrame raw
     let r : Bytes := controlRecord 0x0507 ([0, 3, 9, 9] ++ leBytes 4 5 ++ leBytes 4 0 ++ leBytes 4 4 ++ [1, 2, 3, 4])
     let b' : Block := ((s.block .T).rx 32 raw).2.hearPeer 0x4000
     let m : Nat := 1
     let x := ({ cls := 0, member := 3, assembler := 9, number := 5, column := 0, len := 4, asked := [9, 8], segment := some 1 } : DegradedRead)
     let cls := byteAt r 8
     let n := fieldAt r 12 4
     let h := b'.tray.history
     b'.shareFrom cls f.srcDa = some m ∧ s.running .T = true ∧ (s.t.rx link raw).1 = some f ∧ f.cls = 5 ∧ controlRecords 512 f.payload = [r] ∧
         ctypeOf r = 0x0507 ∧ h.reads.find? (fun x => x.cls == cls && x.assembler == byteAt r 10 && x.number == n && x.member == byteAt r 9 &&
         decide (byteAt r 11 ∈ x.asked)) = some x) := by
  refine ⟨?_, ?_, ?_, ?_, ?_, ?_, ?_, ?_, ?_⟩ <;> decide +kernel

theorem witness_HistoryEvents :
    (let s : State := onT (fun b => (b.modTime (fun m => { m with acc := BitVec.ofNat 96 (2000000000 * 2 ^ 32) })).modHist (fun h =>
         { h with staging := [⟨0, 1, 5, 4, [(0, [1, 2, 3, 4])], 0⟩] }))
     let cls : Fin 3 := 0
     let y := s.t
     let h := y.tray.history
     s.running .T = true ∧ (h.ready cls).any (fun x => ftGe y.ft (ftAdd x.came y.ecHold)) = true) ∧
    (let s : State := onT (fun b => b.modHist (fun h => { h with segs := [{ id := 3, region := 1 }] }))
     let id : Nat := 3
     let g : Segment := { id := 3, region := 1 }
     let y := s.t
     let h := y.tray.history
     s.running .T = true ∧ h.segs.find? (fun g => g.id == id && !g.faulted) = some g ∧ g.coded = false) ∧
    (let s : State := onT (fun b => ((Block.up b).setReg Reg.HIS_GRP 0x80020001).modPeer 0 1 (fun p => { p with da := 0x4000, missed := 99 }))
     let cls : Fin 3 := 0
     let m : Fin 16 := 1
     let y := s.t
     let p := y.peerOf cls m
     s.running .T = true ∧ y.groupOn cls = true ∧ m.val < groupSize cls ∧ m.val ≠ y.groupIndex cls ∧ p.phase ≠ 1 ∧ y.periods.loss ≤ p.missed ∧
         y.stewardRuns 0 = true ∧ y.heirOf cls m = y.groupIndex cls) ∧
    (let s : State := onT (fun b => (b.setReg Reg.HIS_GRP 0x80000001))
     let link : Fin 64 := 32
     let raw : Bytes := blockFrame 5 0 0x0B01 ([0, 3, 4, 0] ++ leBytes 2 1 ++ zeros 2 ++ zeros 8)
     let f : Frame := readFrame raw
     let r : Bytes := (controlRecord 0x0B01 ([0, 3, 4, 0] ++ leBytes 2 1 ++ zeros 2 ++ zeros 8))
     let b' : Block := ((s.block .T).rx 32 raw 0x0B01).2
     let cls : Fin 3 := 0
     s.running .T = true ∧ s.running .T = true ∧ ((s.block .T).rx link raw 0x0B01).1 = some f ∧ f.cls = 1 ∧ f.parts = 1 ∧ controlRecords 512
         f.payload = [r] ∧ ctypeOf r = 0x0B01 ∧ byteAt r 8 ≤ 2 ∧ b'.groupOn (byteAt r 8) = true ∧ byteAt r 9 < groupSize (byteAt r 8) ∧ fieldAt r
         12 2 = b'.fld (Reg.HIS_GRP + 4 * byteAt r 8) 15 0 ∧ (b'.peerOf (byteAt r 8) (byteAt r 9)).phase ≠ 1) ∧
    (let s : State := onT (fun b => ((Block.up b).setFld Reg.HIS_CTL 1 1 1).modHist (fun h => { h with heirOf := [1] }))
     let cls : Fin 3 := 0
     let m : Fin 16 := 1
     let y := s.t
     let h := y.tray.history
     let key := 16 * cls.val + m.val
     s.running .T = true ∧ y.isSet Reg.HIS_CTL 1 = true ∧ y.stewardRuns 0 = true ∧ key ∈ h.heirOf ∧ key ∉ h.rebuilt ∧ y.rebuildOver key = true) ∧
    (let s : State := on
     let v : Word := 7
     s.running .T = true ∧ v.getLsbD 31 = false) ∧
    (let s : State := onT (fun b => ((b.setReg Reg.HIS_GRP 0x80000001).modPeer 0 1 (fun p => { p with phase := 1 })).setReg Reg.HIS_GRP_SEL 1)
     let v : Word := 0x80000007
     let y := s.t
     let w := y.setReg Reg.HIS_GRP_CTL (v &&& 0xFFFF)
     let wc := w.fld Reg.HIS_GRP_SEL 5 4
     let wm := w.fld Reg.HIS_GRP_SEL 3 0
     s.running .T = true ∧ v.getLsbD 31 = true ∧ wc ≤ 2 ∧ w.groupOn wc = true ∧ wm < groupSize wc ∧ wm ≠ w.groupIndex wc ∧ (w.peerOf wc wm).phase
         = 1) ∧
    (let s : State := onT (fun b => (b.setReg Reg.HIS_GRP 0x80000001).modPeer 0 1 (fun p => { p with phase := 2 }))
     let cls : Fin 3 := 0
     let m : Fin 16 := 1
     let y := s.t
     let p := y.peerOf cls m
     s.running .T = true ∧ p.phase = 2) := by
  refine ⟨?_, ?_, ?_, ?_, ?_, ?_, ?_, ?_⟩ <;> decide +kernel

theorem witness_TapWords :
    (let c : Instr := .tapTxnOpen 0
     let w : TapWord := ⟨0x3020000000000000, 5, 9, false⟩
     let s : State := onD (fun b => (b.setReg Reg.TAP_EN_LO 1).modPort 0 (fun x => { x with queue := [w] }))
     let p : Fin 64 := 0
     let kinds : List Nat := [3]
     let rest : List TapWord := []
     let first : TapWord := ⟨0x1000000000000007, 5, 9, false⟩
     let word : BitVec 64 := 5
     let before := s.d.endRuns (fun q => decide (q < p.val))
     let x := before.tapPort p
     let y := before.modPort p (fun x => { x with queue := rest })
     let v := w.word
     s.running .D = true ∧ s.d.power.phase < 2 ∧ tapRow c = some (p, kinds) ∧ s.d.headKind p kinds = true ∧ x.queue = w :: rest ∧ x.first = none ∧
         wordKind v ∈ kinds ∧ y.portEnabled p = true ∧ wordForm p v = true ∧ y.wordRefused p v = false) ∧
    (let c : Instr := .tapCommandEnd 0
     let w : TapWord := ⟨0x2000000000000000, 5, 9, false⟩
     let s : State := onD (fun b => (b.setReg Reg.TAP_EN_LO 1).modPort 0 (fun x => { x with queue := [w] }))
     let p : Fin 64 := 0
     let kinds : List Nat := [2]
     let rest : List TapWord := []
     let first : TapWord := ⟨0x1000000000000007, 5, 9, false⟩
     let word : BitVec 64 := 5
     let before := s.d.endRuns (fun q => decide (q < p.val))
     let x := before.tapPort p
     let y := before.modPort p (fun x => { x with queue := rest })
     let v := w.word
     s.running .D = true ∧ s.d.power.phase < 2 ∧ tapRow c = some (p, kinds) ∧ s.d.headKind p kinds = true ∧ x.queue = w :: rest ∧ x.first = none ∧
         wordKind v ∈ kinds ∧ y.portEnabled p = true ∧ wordForm p v = true ∧ y.wordRefused p v = true) ∧
    (let c : Instr := .tapCount 0
     let w : TapWord := ⟨0x0003FFC000000000, 5, 9, false⟩
     let s : State := onD (fun b => (b.setReg Reg.TAP_EN_LO 1).modPort 0 (fun x => { x with queue := [w] }))
     let p : Fin 64 := 0
     let kinds : List Nat := [0, 7, 8, 9, 12, 13, 14, 15]
     let rest : List TapWord := []
     let first : TapWord := ⟨0x1000000000000007, 5, 9, false⟩
     let word : BitVec 64 := 5
     let before := s.d.endRuns (fun q => decide (q < p.val))
     let x := before.tapPort p
     let y := before.modPort p (fun x => { x with queue := rest })
     let v := w.word
     s.running .D = true ∧ s.d.power.phase < 2 ∧ tapRow c = some (p, kinds) ∧ s.d.headKind p kinds = true ∧ x.queue = w :: rest ∧ x.first = none ∧
         wordKind v ∈ kinds ∧ y.portEnabled p = true ∧ wordForm p v = false) ∧
    (let c : Instr := .tapCount 0
     let w : TapWord := ⟨0x0003FFC000000000, 5, 9, false⟩
     let s : State := onD (fun b => (b.setReg Reg.TAP_EN_LO 0).modPort 0 (fun x => { x with queue := [w] }))
     let p : Fin 64 := 0
     let kinds : List Nat := [0, 7, 8, 9, 12, 13, 14, 15]
     let rest : List TapWord := []
     let first : TapWord := ⟨0x1000000000000007, 5, 9, false⟩
     let word : BitVec 64 := 5
     let before := s.d.endRuns (fun q => decide (q < p.val))
     let x := before.tapPort p
     let y := before.modPort p (fun x => { x with queue := rest })
     let v := w.word
     s.running .D = true ∧ s.d.power.phase < 2 ∧ tapRow c = some (p, kinds) ∧ s.d.headKind p kinds = true ∧ x.queue = w :: rest ∧ x.first = none ∧
         wordKind v ∈ kinds ∧ y.portEnabled p = false ∧ wordForm p v = false) ∧
    (let c : Instr := .tapCount 0
     let w : TapWord := ⟨5, 5, 9, false⟩
     let s : State := onD (fun b => (b.setReg Reg.TAP_EN_LO 0).modPort 0 (fun x => { x with queue := [w] }))
     let p : Fin 64 := 0
     let kinds : List Nat := [0, 7, 8, 9, 12, 13, 14, 15]
     let rest : List TapWord := []
     let first : TapWord := ⟨0x1000000000000007, 5, 9, false⟩
     let word : BitVec 64 := 5
     let before := s.d.endRuns (fun q => decide (q < p.val))
     let x := before.tapPort p
     let y := before.modPort p (fun x => { x with queue := rest })
     let v := w.word
     let code := wordCode v
     s.running .D = true ∧ s.d.power.phase < 2 ∧ tapRow c = some (p, kinds) ∧ s.d.headKind p kinds = true ∧ x.queue = w :: rest ∧ x.first = none ∧
         wordKind v ∈ kinds ∧ y.portEnabled p = false ∧ wordForm p v = true ∧ ¬ (wordKind v = 0 ∧ 0xF00 ≤ code ∧ code < 0xF30)) ∧
    (let w : TapWord := ⟨0x1000000000000007, 5, 9, false⟩
     let rest : List TapWord := [⟨5, 5, 9, false⟩]
     let s : State := onD (fun b => (b.setReg Reg.TAP_EN_LO 1).modPort 0 (fun x => { x with queue := [w] ++ rest }))
     let p : Fin 64 := 0
     let first : TapWord := ⟨0x1000000000000007, 5, 9, false⟩
     let taken := s.d.portWord p
     s.running .D = true ∧ s.d.power.phase < 2 ∧ s.d.headKind p [1] = true ∧ taken.asleep = false ∧ (taken.tapPort p).first.isSome = true) ∧
    (let w : TapWord := ⟨5, 5, 9, false⟩
     let first : TapWord := ⟨0x1000000000000007, 5, 9, false⟩
     let s : State := onD (fun b => (b.setReg Reg.TAP_EN_LO 1).modPort 0 (fun x => { x with queue := [w], first := some (first, true) }))
     let p : Fin 64 := 0
     let rest : List TapWord := []
     let was := s.d.tapPort p
     let before := s.d.endRuns (fun q => decide (q < p.val))
     let x := before.tapPort p
     let y := before.modPort p (fun x => { x with queue := rest })
     s.running .D = true ∧ s.d.power.phase < 2 ∧ was.first.isSome = true ∧ x.queue = w :: rest ∧ x.first = some (first, true) ∧ y.portEnabled p =
         true) ∧
    (let w : TapWord := ⟨5, 5, 9, false⟩
     let first : TapWord := ⟨0x1000000000000007, 5, 9, false⟩
     let s : State := onD (fun b => (b.setReg Reg.TAP_EN_LO 0).modPort 0 (fun x => { x with queue := [w], first := some (first, true) }))
     let p : Fin 64 := 0
     let rest : List TapWord := []
     let acts := true
     let was := s.d.tapPort p
     let before := s.d.endRuns (fun q => decide (q < p.val))
     let x := before.tapPort p
     let y := before.modPort p (fun x => { x with queue := rest })
     s.running .D = true ∧ s.d.power.phase < 2 ∧ was.first.isSome = true ∧ x.queue = w :: rest ∧ x.first = some (first, acts) ∧ (acts = false ∨
         y.portEnabled p = false)) ∧
    (let s : State := onD (fun b => b.modTime (fun m => { m with cycles := 9 }))
     let p : Fin 64 := 0
     let word : BitVec 64 := 5
     let was := s.d.tapPort p
     s.running .D = true ∧ s.d.power.phase < 2 ∧ s.d.settled = true ∧ was.writeSecond = 0 ∧ wordKind word ≠ 1 ∧ was.queue.length < 16) ∧
    (let s : State := onD (fun b => b.modTime (fun m => { m with cycles := 9 }))
     let p : Fin 64 := 0
     let word : BitVec 64 := 0x1000000000000007
     let was := s.d.tapPort p
     s.running .D = true ∧ s.d.power.phase < 2 ∧ s.d.settled = true ∧ was.writeSecond = 0 ∧ wordKind word = 1 ∧ was.queue.length < 15) ∧
    (let s : State := onD (fun b => ((b.modTime (fun m => { m with cycles := 9 })).setReg Reg.TAP_EN_LO 1).modPort 0 (fun x =>
         { x with queue := List.replicate 16 ⟨5, 5, 9, false⟩ }))
     let p : Fin 64 := 0
     let word : BitVec 64 := 5
     let was := s.d.tapPort p
     s.running .D = true ∧ s.d.power.phase < 2 ∧ s.d.settled = true ∧ was.writeSecond = 0 ∧ wordKind word ≠ 1 ∧ 16 ≤ was.queue.length) := by
  refine ⟨?_, ?_, ?_, ?_, ?_, ?_, ?_, ?_, ?_, ?_, ?_⟩ <;> decide +kernel

theorem witness_RegionEvents :
    (let s : State := on
     let p : Fin 64 := 5
     let gray : BitVec 4 := 3
     let y := s.d
     let n := (grayValue gray + 16 - grayValue (y.region p).gray) % 16
     s.running .D = true ∧ y.asleep = false ∧ 1 ≤ n ∧ n ≤ 7) ∧
    (let s : State := on
     s.running .D = true) ∧
    (let s : State := onD (fun b => b.modRegion 5 (fun r => { r with stopAt := some 9 }))
     let p : Fin 64 := 5
     let rise : BitVec 64 := 9
     let y := s.d
     s.running .D = true ∧ (y.region p).stopAt = some rise) ∧
    (let s : State := onD (fun b => b.modTime (fun m => { m with cycles := 99999999 }))
     let y := s.d
     let i := y.time.cycles / 2 ^ (y.fld Reg.TIM_PAIR_CTL 3 0 + 8)
     s.running .D = true ∧ i ≠ y.die.pairCycle) ∧
    (let s : State := onD (fun b => b.addCounter 0 64 7)
     let v : Word := 0x80000001
     let y := s.d
     let done := y.endWords
     let bank := bitsOf v.toNat 30 28
     let group := bitsOf v.toNat 5 0
     s.running .D = true ∧ v.getLsbD 31 = true ∧ done.clearAllowed bank group = true ∧ (bank = 0 ∨ bank = 3)) ∧
    (let s : State := onD (fun b => b.setCtx 0 ctx7)
     let v : Word := 0x80000000
     let y := s.d
     let done := y.endWords
     let bank := bitsOf v.toNat 30 28
     let group := bitsOf v.toNat 5 0
     s.running .D = true ∧ v.getLsbD 31 = true ∧ done.clearAllowed bank group = false) := by
  refine ⟨?_, ?_, ?_, ?_, ?_, ?_⟩ <;> decide +kernel

theorem witness_TraceFeeds :
    (let s : State := onD (fun b => ((b.modTime (fun m => { m with cycles := 9 })).setReg Reg.TRC_EN_LO 1).modTraceRegion 0 (fun r =>
         { r with feed := [] }))
     let p : Fin 64 := 0
     let r := s.d.traceRegion p
     s.running .D = true ∧ s.d.settled = true ∧ s.d.power.phase < 2 ∧ r.feed.length < 16) ∧
    (let s : State := onD (fun b => ((b.modTime (fun m => { m with cycles := 9 })).setReg Reg.TRC_EN_LO 1).modTraceRegion 0 (fun r =>
         { r with feed := List.replicate 16 ⟨BitVec.ofNat 128 (7 * 2 ^ 80 + 0 * 2 ^ 77 + 0 * 2 ^ 64 + 0), 9⟩ }))
     let p : Fin 64 := 0
     let r := s.d.traceRegion p
     s.running .D = true ∧ s.d.settled = true ∧ s.d.power.phase < 2 ∧ 16 ≤ r.feed.length) ∧
    (let e : FeedEntry := ⟨BitVec.ofNat 128 (7 * 2 ^ 80 + 0 * 2 ^ 77 + 0 * 2 ^ 64 + (3 * 2 ^ 32 + 0x100)), 9⟩
     let s : State := onD (fun b => ((b.modTime (fun m => { m with cycles := 9 })).setReg Reg.TRC_EN_LO 1).modTraceRegion 0 (fun r =>
         { r with feed := [e] }))
     let p : Fin 64 := 0
     let rest : List FeedEntry := []
     let r := s.d.traceRegion p
     let y := s.d.modTraceRegion p (fun r => { r with feed := rest })
     let n := bitsOf e.payload 47 32
     s.running .D = true ∧ (decide (s.d.power.phase < 2 ∧ r.feed = e :: rest ∧ y.feedEnabled p = true ∧ r.down = false ∧
         s.d.die.trace.suppressed.getLsbD p = false)) = true ∧ e.kind = 0 ∧ e.attr = 0 ∧ 1 ≤ n ∧ bitsOf e.payload 63 48 = 0) ∧
    (let e : FeedEntry := ⟨BitVec.ofNat 128 (7 * 2 ^ 80 + 1 * 2 ^ 77 + 0 * 2 ^ 64 + 0x200), 9⟩
     let s : State := onD (fun b => ((b.modTime (fun m => { m with cycles := 9 })).setReg Reg.TRC_EN_LO 1).modTraceRegion 0 (fun r =>
         { r with feed := [e] }))
     let p : Fin 64 := 0
     let rest : List FeedEntry := []
     let r := s.d.traceRegion p
     let y := s.d.modTraceRegion p (fun r => { r with feed := rest })
     s.running .D = true ∧ (decide (s.d.power.phase < 2 ∧ r.feed = e :: rest ∧ y.feedEnabled p = true ∧ r.down = false ∧
         s.d.die.trace.suppressed.getLsbD p = false)) = true ∧ e.kind = 1 ∧ bitsOf e.payload 63 32 = 0) ∧
    (let e : FeedEntry := ⟨BitVec.ofNat 128 (7 * 2 ^ 80 + 2 * 2 ^ 77 + 5 * 2 ^ 64 + 0x12345678), 9⟩
     let s : State := onD (fun b => ((b.modTime (fun m => { m with cycles := 9 })).setReg Reg.TRC_EN_LO 1).modTraceRegion 0 (fun r =>
         { r with feed := [e] }))
     let p : Fin 64 := 0
     let rest : List FeedEntry := []
     let r := s.d.traceRegion p
     let y := s.d.modTraceRegion p (fun r => { r with feed := rest })
     let addr := bitsOf e.payload 47 0
     s.running .D = true ∧ (decide (s.d.power.phase < 2 ∧ r.feed = e :: rest ∧ y.feedEnabled p = true ∧ r.down = false ∧
         s.d.die.trace.suppressed.getLsbD p = false)) = true ∧ e.kind = 2 ∧ accessGood e = true ∧ y.addressPasses addr = true) ∧
    (let e : FeedEntry := ⟨BitVec.ofNat 128 (7 * 2 ^ 80 + 2 * 2 ^ 77 + 5 * 2 ^ 64 + 0x12345678), 9⟩
     let s : State := onD (fun b => (((b.setFld Reg.TRC_AF_CTL 0 0 1).modTime (fun m => { m with cycles := 9 })).setReg Reg.TRC_EN_LO
         1).modTraceRegion 0 (fun r => { r with feed := [e] }))
     let p : Fin 64 := 0
     let rest : List FeedEntry := []
     let r := s.d.traceRegion p
     let y := s.d.modTraceRegion p (fun r => { r with feed := rest })
     let addr := bitsOf e.payload 47 0
     s.running .D = true ∧ (decide (s.d.power.phase < 2 ∧ r.feed = e :: rest ∧ y.feedEnabled p = true ∧ r.down = false ∧
         s.d.die.trace.suppressed.getLsbD p = false)) = true ∧ e.kind = 2 ∧ accessGood e = true ∧ y.addressPasses addr = false) ∧
    (let e : FeedEntry := ⟨BitVec.ofNat 128 (7 * 2 ^ 80 + 3 * 2 ^ 77 + 5 * 2 ^ 64 + 0x12345678), 9⟩
     let s : State := onD (fun b => ((b.modTime (fun m => { m with cycles := 9 })).setReg Reg.TRC_EN_LO 1).modTraceRegion 0 (fun r =>
         { r with feed := [e] }))
     let p : Fin 64 := 0
     let rest : List FeedEntry := []
     let r := s.d.traceRegion p
     let y := s.d.modTraceRegion p (fun r => { r with feed := rest })
     let addr := bitsOf e.payload 47 0
     s.running .D = true ∧ (decide (s.d.power.phase < 2 ∧ r.feed = e :: rest ∧ y.feedEnabled p = true ∧ r.down = false ∧
         s.d.die.trace.suppressed.getLsbD p = false)) = true ∧ e.kind = 3 ∧ accessGood e = true ∧ y.addressPasses addr = true) ∧
    (let e : FeedEntry := ⟨BitVec.ofNat 128 (7 * 2 ^ 80 + 4 * 2 ^ 77 + 5 * 2 ^ 64 + 0x12345678), 9⟩
     let s : State := onD (fun b => ((b.modTime (fun m => { m with cycles := 9 })).setReg Reg.TRC_EN_LO 1).modTraceRegion 0 (fun r =>
         { r with feed := [e] }))
     let p : Fin 64 := 0
     let rest : List FeedEntry := []
     let r := s.d.traceRegion p
     let y := s.d.modTraceRegion p (fun r => { r with feed := rest })
     s.running .D = true ∧ (decide (s.d.power.phase < 2 ∧ r.feed = e :: rest ∧ y.feedEnabled p = true ∧ r.down = false ∧
         s.d.die.trace.suppressed.getLsbD p = false)) = true ∧ e.kind = 4 ∧ bitsOf e.attr 12 8 = 0 ∧ y.isSet Reg.TRC_DF 31 = false) ∧
    (let e : FeedEntry := ⟨BitVec.ofNat 128 (7 * 2 ^ 80 + 5 * 2 ^ 77 + 0 * 2 ^ 64 + 77), 9⟩
     let s : State := onD (fun b => ((b.modTime (fun m => { m with cycles := 9 })).setReg Reg.TRC_EN_LO 1).modTraceRegion 0 (fun r =>
         { r with feed := [e] }))
     let p : Fin 64 := 0
     let rest : List FeedEntry := []
     let r := s.d.traceRegion p
     let y := s.d.modTraceRegion p (fun r => { r with feed := rest })
     s.running .D = true ∧ (decide (s.d.power.phase < 2 ∧ r.feed = e :: rest ∧ y.feedEnabled p = true ∧ r.down = false ∧
         s.d.die.trace.suppressed.getLsbD p = false)) = true ∧ e.kind = 5 ∧ e.attr = 0 ∧ bitsOf e.payload 63 32 = 0) ∧
    (let e : FeedEntry := ⟨BitVec.ofNat 128 (7 * 2 ^ 80 + 6 * 2 ^ 77 + 0 * 2 ^ 64 + 0), 9⟩
     let s : State := onD (fun b => ((b.modTime (fun m => { m with cycles := 9 })).setReg Reg.TRC_EN_LO 1).modTraceRegion 0 (fun r =>
         { r with feed := [e] }))
     let p : Fin 64 := 0
     let rest : List FeedEntry := []
     let r := s.d.traceRegion p
     let y := s.d.modTraceRegion p (fun r => { r with feed := rest })
     s.running .D = true ∧ s.d.power.phase < 2 ∧ r.feed = e :: rest ∧ y.feedEnabled p = true ∧ (e.kind = 6 ∨ e.kind = 7)) := by
  refine ⟨?_, ?_, ?_, ?_, ?_, ?_, ?_, ?_, ?_, ?_⟩ <;> decide +kernel

theorem witness_TraceStates :
    (let s : State := on
     let v : Word := 0
     let y := s.d
     let t := y.die.trace
     s.running .D = true ∧ y.power.phase = 0 ∧ t.phase = 0 ∧ v.getLsbD 31 = false) ∧
    (let s : State := on
     let v : Word := 0x90000000
     let y := s.d
     let t := y.die.trace
     s.running .D = true ∧ y.power.phase = 0 ∧ t.phase = 0 ∧ v.getLsbD 31 = true ∧ v.getLsbD 28 = true) ∧
    (let s : State := on
     let v : Word := 0x80000000
     let y := s.d
     let t := y.die.trace
     s.running .D = true ∧ y.power.phase = 0 ∧ t.phase = 0 ∧ v.getLsbD 31 = true ∧ v.getLsbD 28 = false) ∧
    (let s : State := onD (fun b => (b).modTrace (fun t => { t with phase := 2 }))
     let v : Word := 0
     let y := s.d
     let t := y.die.trace
     s.running .D = true ∧ y.power.phase = 0 ∧ t.phase ≠ 0 ∧ v.getLsbD 31 = false) ∧
    (let s : State := onD (fun b => (b).modTrace (fun t => { t with phase := 2 }))
     let v : Word := 0x80000000
     let y := s.d
     let t := y.die.trace
     s.running .D = true ∧ y.power.phase = 0 ∧ t.phase ≠ 0 ∧ v.getLsbD 31 = true) ∧
    (let s : State := onD (fun b => ((b.setReg Reg.TRC_TRG 0x0E1F).modTime (fun m => { m with cycles := 9 })).modTrace (fun t =>
         { t with phase := 1, seenAt := 8, starts := 8 }))
     let start : Nat := 8
     let stop : Nat := 0
     let y := s.d
     let t := y.die.trace
     s.running .D = true ∧ y.triggerBits = (start, stop) ∧ y.traceMoved = false ∧ t.phase = 1 ∧ start ≠ 0 ∧ stop = 0) ∧
    (let s : State := onD (fun b => ((b.setReg Reg.TRC_TRG 0x0E1F).modTime (fun m => { m with cycles := 9 })).modTrace (fun t =>
         { t with phase := 1, seenAt := 8, starts := 8, stops := 8 }))
     let start : Nat := 8
     let stop : Nat := 8
     let y := s.d
     let t := y.die.trace
     s.running .D = true ∧ y.triggerBits = (start, stop) ∧ y.traceMoved = false ∧ t.phase = 1 ∧ start ≠ 0 ∧ stop ≠ 0) ∧
    (let s : State := onD (fun b => (((b.setReg Reg.TRC_TRG 0x0E1F).setFld Reg.TRC_CTL 28 28 1).modTime (fun m =>
         { m with cycles := 9 })).modTrace (fun t => { t with phase := 2, seenAt := 8, stops := 8 }))
     let start : Nat := 0
     let stop : Nat := 8
     let y := s.d
     let t := y.die.trace
     s.running .D = true ∧ y.triggerBits = (start, stop) ∧ y.traceMoved = false ∧ t.phase = 2 ∧ stop ≠ 0 ∧ y.isSet Reg.TRC_CTL 28 = true) ∧
    (let s : State := onD (fun b => (((b.setReg Reg.TRC_TRG 0x0E1F).setFld Reg.TRC_CTL 26 26 1).modTime (fun m =>
         { m with cycles := 9 })).modTrace (fun t => { t with phase := 3, seenAt := 8, starts := 8 }))
     let start : Nat := 8
     let stop : Nat := 0
     let y := s.d
     let t := y.die.trace
     s.running .D = true ∧ y.triggerBits = (start, stop) ∧ y.traceMoved = false ∧ t.phase = 3 ∧ start ≠ 0 ∧ y.isSet Reg.TRC_CTL 26 = true) ∧
    (let s : State := onD (fun b => (b.setFld Reg.TRC_CTL 27 27 1).modTrace (fun t => { t with phase := 4 }))
     let start : Nat := 0
     let stop : Nat := 0
     let y := s.d
     let t := y.die.trace
     s.running .D = true ∧ y.triggerBits = (start, stop) ∧ y.traceMoved = false ∧ t.phase = 4 ∧ y.isSet Reg.TRC_CTL 27 = true) ∧
    (let s : State := onD (fun b => (b.modTime (fun m => { m with cycles := 9 })).modTrace (fun t => { t with movedAt := some 9 }))
     let y := s.d
     s.running .D = true ∧ y.traceMoved = true) ∧
    (let s : State := onD (fun b => (b).modTrace (fun t => { t with phase := 3 }))
     let y := s.d
     let t := y.die.trace
     s.running .D = true ∧ t.phase = 3 ∧ y.traceMoved = false ∧ t.postMark + y.fld Reg.TRC_TRG 31 16 * 1024 ≤ y.time.cycles ∧ (y.triggerBits.1 = 0
         ∨ y.isSet Reg.TRC_CTL 26 = false)) ∧
    (let s : State := onD (fun b => (b).modTrace (fun t =>
         { t with phase := 2, loaf := some ({ seq := 5, blk := 1, rawOnly := false, effort := 1, startFt := 0, input := [1, 2, 3] }) }))
     let l : TraceLoaf := { seq := 5, blk := 1, rawOnly := false, effort := 1, startFt := 0, input := [1, 2, 3] }
     let y := s.d
     let t := y.die.trace
     s.running .D = true ∧ t.loaf = some l) ∧
    (let s : State := on
     let y := s.d
     let t := y.die.trace
     s.running .D = true ∧ t.loaf = none) ∧
    (let s : State := on
     s.running .D = true) ∧
    (let s : State := onD (fun b => ((b.setReg Reg.TRC_FLUSH 1).modTime (fun m => { m with acc := BitVec.ofNat 96 (20000 * 2 ^ 32) })).modTrace
         (fun t => { t with phase := 2, loaf := some ({ seq := 5, blk := 1, rawOnly := false, effort := 1, startFt := 0, input := [1, 2, 3] }) }))
     let l : TraceLoaf := { seq := 5, blk := 1, rawOnly := false, effort := 1, startFt := 0, input := [1, 2, 3] }
     let y := s.d
     let t := y.die.trace
     s.running .D = true ∧ t.loaf = some l ∧ y.fld Reg.TRC_FLUSH 15 0 ≠ 0 ∧ ftGe y.ft (ftAdd l.startFt (y.fld Reg.TRC_FLUSH 15 0 * 16000)) = true) ∧
    (let s : State := onD (fun b => (b).modTrace (fun t => { t with grants := [(0, some ⟨0, 3, 0⟩)] }))
     s.running .D = true) := by
  refine ⟨?_, ?_, ?_, ?_, ?_, ?_, ?_, ?_, ?_, ?_, ?_, ?_, ?_, ?_, ?_, ?_, ?_⟩ <;> decide +kernel

theorem witness_TraceFlow :
    (let s : State := onD (fun b => b.modTraceRegion 0 (fun r => { r with powerWait := [(0, 9)] }))
     let p : Fin 64 := 0
     let y := s.d
     let r := y.traceRegion p
     s.running .D = true ∧ r.powerWait ≠ [] ∧ r.feed = []) ∧
    (let s : State := onD (fun b => (b).modTrace (fun t => { t with phase := 2, dropping := true }))
     let y := s.d
     let d := y.drainStaging
     let t := d.die.trace
     s.running .D = true ∧ t.dropping = true ∧ t.staging = 0 ∧ d.resumeBytes ≤ t.bufferFree) ∧
    (let s : State := onD (fun b => ((b.setFld Reg.TRC_CTL 30 30 1).setFld Reg.TRC_STALL 9 0 1023).modTrace (fun t =>
         { t with phase := 2, loaf := some ({ seq := 5, blk := 1, rawOnly := false, effort := 1, startFt := 0, input := List.replicate 300 1 }) }))
     let y := s.d
     let d := y.drainStaging
     let t := d.die.trace
     s.running .D = true ∧ d.stallPermitted = true ∧ t.stall = 0 ∧ t.bufferFree < d.fld Reg.TRC_STALL 9 0 * 256 ∧ t.schedDebug = false) ∧
    (let s : State := onD (fun b => ((b.setFld Reg.TRC_CTL 30 30 1).setFld Reg.TRC_STALL 9 0 1023).modTrace (fun t =>
         { t with phase := 2, loaf := some ({ seq := 5, blk := 1, rawOnly := false, effort := 1, startFt := 0, input := List.replicate 300 1 }), schedDebug := true }))
     let y := s.d
     let d := y.drainStaging
     let t := d.die.trace
     s.running .D = true ∧ d.stallPermitted = true ∧ t.stall = 0 ∧ t.bufferFree < d.fld Reg.TRC_STALL 9 0 * 256 ∧ t.schedDebug = true) ∧
    (let s : State := onD (fun b => (b).modTrace (fun t => { t with phase := 2, stall := 1 }))
     let y := s.d
     let d := y.drainStaging
     let t := d.die.trace
     s.running .D = true ∧ t.stall ≠ 0 ∧ d.stallOff ≤ t.bufferFree) ∧
    (let s : State := on
     let level : Bool := true
     let y := s.d
     s.running .D = true ∧ (level = true ∨ y.die.trace.stall = 0)) ∧
    (let s : State := onD (fun b => (b).modTrace (fun t => { t with stall := 1 }))
     let y := s.d
     s.running .D = true ∧ y.die.trace.stall ≠ 0) ∧
    (let s : State := onD (fun b => (b).modTrace (fun t =>
         { t with ended := [{ seq := 5, blk := 1, rawOnly := false, effort := 1, startFt := 0, input := [1, 2, 3] }] }))
     let engine : Fin 4 := 1
     let l : TraceLoaf := { seq := 5, blk := 1, rawOnly := false, effort := 1, startFt := 0, input := [1, 2, 3] }
     let y := s.d
     let stored := buildLoaf l.flags l.blk 0 l.seq l.rawOnly l.effort l.input
     s.running .D = true ∧ y.asleep = false ∧ y.die.trace.ended.find? (fun l => l.stored.isNone && l.seq % 4 == engine.val) = some l) ∧
    (let s : State := onD (fun b => (b).modTrace (fun t =>
         { t with ended := [{ seq := 4, blk := 1, rawOnly := false, effort := 1, startFt := 0, input := [1, 2, 3], stored := some [9, 9] }], linkUp := true }))
     let l : TraceLoaf := { seq := 4, blk := 1, rawOnly := false, effort := 1, startFt := 0, input := [1, 2, 3], stored := some [9, 9] }
     let rest : List TraceLoaf := []
     let bytes : Bytes := [9, 9]
     let y := s.d
     let stored := buildLoaf l.flags l.blk 0 l.seq l.rawOnly l.effort l.input
     s.running .D = true ∧ y.die.trace.ended = l :: rest ∧ l.stored = some bytes ∧ y.tracePortUp = true ∧ y.portTime bytes = true) ∧
    (let s : State := on
     s.running .D = true) ∧
    (let s : State := on
     let y := s.d
     let a := y.fld Reg.ENS_TSTORE_ADDR 16 2
     s.running .D = true ∧ y.trigOn = false ∧ a % 512 ≠ 511) ∧
    (let s : State := onD (fun b => b.setFld Reg.ENS_TRG_CTL 31 31 1)
     let y := s.d
     s.running .D = true ∧ y.trigOn = true) ∧
    (let s : State := on
     let v : Word := 3
     s.running .D = true ∧ v.getLsbD 31 = false) ∧
    (let s : State := onD (fun b => b.setFld Reg.ENS_TRG_ENS 31 31 1)
     let v : Word := 0x80000000
     let y := s.d
     s.running .D = true ∧ v.getLsbD 31 = true ∧ y.trigReady = false) ∧
    (let s : State := on
     let v : Word := 0x80000000
     let y := s.d
     s.running .D = true ∧ v.getLsbD 31 = true ∧ y.trigReady = true ∧ y.trigOn = false) ∧
    (let s : State := onD (fun b => (b.setFld Reg.ENS_TRG_CTL 31 31 1).modTime (fun m => { m with cycles := 9999999 }))
     let y := s.d
     let i := (y.time.cycles - y.die.trig.start) / 2 ^ (y.fld Reg.ENS_TRG_CTL 3 0 + 8)
     s.running .D = true ∧ y.trigOn = true ∧ y.power.phase = 0 ∧ i ≠ y.die.trig.period) := by
  refine ⟨?_, ?_, ?_, ?_, ?_, ?_, ?_, ?_, ?_, ?_, ?_, ?_, ?_, ?_, ?_, ?_⟩ <;> decide +kernel

theorem witness_StewardEvents :
    (let s : State := onT (fun b => (Block.up b).modSteward 2 (fun x => { x with phase := 1 }))
     let i : Fin 6 := 2
     let y := s.t
     let x := y.steward i
     s.running .T = true ∧ x.phase = 1) ∧
    (let s : State := onT (fun b => (Block.up b).modSteward 2 (fun x => { x with phase := 1 }))
     let i : Fin 6 := 2
     let y := s.t
     let x := y.steward i
     s.running .T = true ∧ x.phase = 1 ∧ y.imageCause (y.activeSlot i) i ≠ 0 ∧ y.imageCause (1 - y.activeSlot i) i ≠ 0) ∧
    (let s : State := onT (fun b => (Block.up b).modSteward 2 (fun x => { x with phase := 3 }))
     let i : Fin 6 := 2
     let y := s.t
     let x := y.steward i
     s.running .T = true ∧ x.phase = 3) ∧
    (let s : State := onT (fun b => (Block.up b).modSteward 2 (fun x => { x with phase := 3 }))
     let i : Fin 6 := 2
     let y := s.t
     let x := y.steward i
     s.running .T = true ∧ x.phase = 3 ∧ y.imageCause (y.activeSlot i) i ≠ 0) ∧
    (let s : State := onT (fun b => Block.up b)
     s.running .T = true) ∧
    (let s : State := onT (fun b => Block.up b)
     let i : Fin 6 := 2
     let y := s.t
     s.running .T = true ∧ y.stewardRuns i = true) ∧
    (let s : State := onT (fun b => ((Block.up b).setReg Reg.STW_CTL 1).modTime (fun m => { m with cycles := 9999999 }))
     let i : Fin 6 := 2
     let y := s.t
     let x := y.steward i
     s.running .T = true ∧ y.stewardRuns i = true ∧ x.wdogStart + max 1 (y.fld Reg.STW_CTL 15 0) * 400000 ≤ y.time.cycles) ∧
    (let s : State := onT (fun b => (Block.up b).modSteward 2 (fun x => { x with dump := some [1, 2, 3, 4] }))
     s.running .T = true) ∧
    (let s : State := onT (fun b => (Block.up b).modSteward 0 (fun x => { x with dump := some [1, 2, 3, 4] }))
     s.running .T = true) := by
  refine ⟨?_, ?_, ?_, ?_, ?_, ?_, ?_, ?_, ?_⟩ <;> decide +kernel

theorem witness_FlashAndRecorder :
    (let s : State := onT (fun b => Block.up b)
     s.running .T = true) ∧
    (let s : State := onT (fun b => (Block.up b).modWindow (fun w => { w with buf := [(1, 7)] }))
     s.running .T = true) ∧
    (let s : State := onT (fun b => ((Block.up b).setReg Reg.STW_FL_ADDR 0x700000))
     let y := s.t
     let w := y.tray.window
     let a := y.fld Reg.STW_FL_ADDR 31 8 * 256
     s.running .T = true ∧ (decide (w.op = 0 ∧ y.flashClosed a = false ∧ y.activation = none ∧ y.stewardRuns 4 = true)) = true) ∧
    (let s : State := onT (fun b => Block.up b)
     let y := s.t
     let a := y.fld Reg.STW_FL_ADDR 31 8 * 256
     s.running .T = true ∧ y.flashClosed a = true) ∧
    (let s : State := onT (fun b => (Block.up b).modWindow (fun w => { w with op := 1 }))
     let y := s.t
     let w := y.tray.window
     s.running .T = true ∧ w.op = 1 ∧ y.stewardRuns 4 = true) ∧
    (let s : State := onT (fun b => (Block.up b).modWindow (fun w => { w with op := 2, data := List.replicate 256 0xFF, addr := 0x700000 }))
     let y := s.t
     let w := y.tray.window
     let data := sgetList bufByte w.buf 0 256
     let written := y.flashProgram w.addr w.data
     s.running .T = true ∧ w.op = 2 ∧ y.stewardRuns 4 = true ∧ written.flashRead w.addr 256 = w.data) ∧
    (let s : State := onT (fun b => (Block.up b).modWindow (fun w => { w with op := 2, addr := 0x700000 }))
     let y := s.t
     let w := y.tray.window
     let data := sgetList bufByte w.buf 0 256
     let written := y.flashProgram w.addr w.data
     s.running .T = true ∧ w.op = 2 ∧ y.stewardRuns 4 = true ∧ written.flashRead w.addr 256 ≠ w.data) ∧
    (let s : State := onT (fun b => (Block.up b).modWindow (fun w => { w with op := 3, addr := 0x700000 }))
     let y := s.t
     let w := y.tray.window
     s.running .T = true ∧ w.op = 3 ∧ y.stewardRuns 4 = true) ∧
    (let s : State :=
         { on with t := ((Block.up ({ on.t with tray := { on.t.tray with recordCopy := some 0 } } : Block)).flashProgram 0x20034 (leBytes 4 0xD00000 ++ leBytes 4 0x100000)).modRec (fun x => { x with queue := [zeros 32] }) }
     let c : Bytes := zeros 32
     let cs : List Bytes := []
     let y := s.t
     s.running .T = true ∧ y.logWrites = true ∧ y.power.phase ≠ 3 ∧ y.recorder.queue = c :: cs) ∧
    (let s : State := onT (fun b => ((Block.up b).modRec (fun x => { x with hours := 1000 })))
     let y := s.t
     s.running .T = true ∧ y.stewardRuns 4 = true ∧ max 1 (y.fld Reg.EVR_CTL 15 8) ≤ (y.recorder.hours + 2 ^ 32 - y.recorder.hoursWritten) % 2 ^
         32) ∧
    (let s : State := onT (fun b => Block.up b)
     let b : Build := .D
     s.running b = true) := by
  refine ⟨?_, ?_, ?_, ?_, ?_, ?_, ?_, ?_, ?_, ?_, ?_⟩ <;> decide +kernel

theorem witness_PresenceAndPower :
    (let s : State := onT (fun b => (Block.up b).modPres (fun p => { p with scanned := true, sealBroken := false, loopOpen := false }))
     let y := s.t
     let p := y.tray.presence
     s.running .T = true ∧ y.power.phase ≠ 3 ∧ p.loopOpen = false ∧ p.scanned = true ∧ p.sealBroken = false) ∧
    (let s : State := onT (fun b => (Block.up b).modPres (fun p => { p with scanned := false, loopOpen := false }))
     let y := s.t
     let p := y.tray.presence
     s.running .T = true ∧ y.power.phase ≠ 3 ∧ p.loopOpen = false ∧ (p.scanned = false ∨ p.sealBroken = true)) ∧
    (let s : State := onT (fun b => (Block.up b).modPres (fun p => { p with loopOpen := true }))
     let y := s.t
     let p := y.tray.presence
     s.running .T = true ∧ y.power.phase ≠ 3 ∧ p.loopOpen = true) ∧
    (let s : State := onT (fun b => (Block.up b).modPres (fun p => { p with loopOpen := true }))
     let fitted : Bool := true
     let y := s.t
     let p := y.tray.presence
     s.running .T = true ∧ y.power.phase ≠ 3 ∧ p.loopOpen = fitted) ∧
    (let s : State := onT (fun b => (Block.up b).modPres (fun p => { p with sealBroken := false }))
     let y := s.t
     let p := y.tray.presence
     let button (x : Bool) := y.modPres (fun p => { p with buttonIn := { p.buttonIn with level := x } })
     s.running .T = true ∧ y.power.phase ≠ 3 ∧ p.button = false ∧ p.sealBroken = false) ∧
    (let s : State :=
         { on with t := ((Block.up ({ on.t with tray := { on.t.tray with recordCopy := some 0 } } : Block)).flashProgram 0x20034 (leBytes 4 0xD00000 ++ leBytes 4 0x100000)).modPres (fun p => { p with jumper := true, sealBroken := true }) }
     let y := s.t
     let p := y.tray.presence
     let button (x : Bool) := y.modPres (fun p => { p with buttonIn := { p.buttonIn with level := x } })
     let press := ((button true).modPres (fun p => { p with button := true })).count Reg.SEC_PRESSES 1
     s.running .T = true ∧ y.power.phase ≠ 3 ∧ p.button = false ∧ p.sealBroken = true ∧ p.jumper = true ∧ p.loopOpen = false ∧ press.logWrites =
         true) ∧
    (let s : State := onT (fun b => (Block.up b).modPres (fun p => { p with sealBroken := true }))
     let y := s.t
     let p := y.tray.presence
     let button (x : Bool) := y.modPres (fun p => { p with buttonIn := { p.buttonIn with level := x } })
     s.running .T = true ∧ y.power.phase ≠ 3 ∧ p.button = false ∧ p.sealBroken = true ∧ (p.jumper = false ∨ p.loopOpen = true)) ∧
    (let s : State := onT (fun b => (Block.up b).modPres (fun p => { p with button := true }))
     let pressed : Bool := true
     let y := s.t
     let p := y.tray.presence
     let button (x : Bool) := y.modPres (fun p => { p with buttonIn := { p.buttonIn with level := x } })
     s.running .T = true ∧ y.power.phase ≠ 3 ∧ p.button = pressed) ∧
    (let s : State := onT (fun b => (Block.up b).modPres (fun p => { p with button := true }))
     let y := s.t
     let p := y.tray.presence
     let button (x : Bool) := y.modPres (fun p => { p with buttonIn := { p.buttonIn with level := x } })
     s.running .T = true ∧ y.power.phase ≠ 3 ∧ p.button = true) ∧
    (let s : State := onT (fun b => Block.up b)
     let y := s.t
     s.running .T = true ∧ y.power.phase ≠ 3) ∧
    (let s : State := onT (fun b => (Block.up b).modPres (fun p => { p with windowEnd := some 0 }))
     let y := s.t
     let p := y.tray.presence
     s.running .T = true ∧ p.windowEnd.isSome = true ∧ y.windowOpen = false) ∧
    (let s : State := onT (fun b => Block.up b)
     let v : Word := 1
     s.running .T = true ∧ v.getLsbD 0 = true) ∧
    (let s : State := onD (fun b => b.modPower (fun p => { p with target := some 1 }))
     let b : Build := .D
     let n : Nat := 1
     let x := s.block b
     s.running b = true ∧ x.power.target = some n ∧ ftGe x.ft x.power.time = true ∧ (x.build = .D ∨ x.stewardRuns 4 = true)) ∧
    (let s : State := on
     let b : Build := .D
     let x := s.block b
     s.running b = true ∧ x.power.phase < 2) := by
  refine ⟨?_, ?_, ?_, ?_, ?_, ?_, ?_, ?_, ?_, ?_, ?_, ?_, ?_, ?_⟩ <;> decide +kernel

theorem witness_HostInterface :
    (let s : State := onT (fun b => ((Block.up b).setReg Reg.HST_CMD_CFG 0x80080000))
     let i : Fin 16 := 0
     let v : Word := 3
     let y := s.t
     let h := y.tray.host
     let r := h.cmdRing i
     let size := ringSize (y.fld (cmdReg Reg.HST_CMD_CFG i) 20 16)
     let n := v.toNat % 2 ^ 16
     s.running .T = true ∧ y.isSet (cmdReg Reg.HST_CMD_CFG i) 31 = true ∧ n < size ∧ (r.tail + size - r.head) % size ≤ (n + size - r.head) % size) ∧
    (let s : State := onT (fun b => Block.up b)
     let i : Fin 16 := 0
     let v : Word := 3
     let y := s.t
     let size := ringSize (y.fld (cmdReg Reg.HST_CMD_CFG i) 20 16)
     let n := v.toNat % 2 ^ 16
     s.running .T = true ∧ (y.isSet (cmdReg Reg.HST_CMD_CFG i) 31 = false ∨ size ≤ n)) ∧
    (let s : State := onT (fun b => ((Block.up b).setReg Reg.HST_EVT_CFG 0x88000000).modHost (fun h =>
         { h with evt := { h.evt with tail := 5 } }))
     let v : Word := 3
     let y := s.t
     let h := y.tray.host
     let n := v.toNat % 2 ^ 16
     let ev := h.evt
     let evSize := ringSize (y.fld Reg.HST_EVT_CFG 28 24)
     s.running .T = true ∧ y.isSet Reg.HST_EVT_CFG 31 = true ∧ n < evSize ∧ (n + evSize - ev.head) % evSize ≤ (ev.tail + evSize - ev.head) %
         evSize) ∧
    (let s : State := onT (fun b => (Block.up b).modHost (fun h => { h with busMaster := true }))
     let y := s.t
     let h := y.tray.host
     s.running .T = true ∧ y.stewardRuns 5 = true ∧ h.busMaster = true) ∧
    (let s : State := onT (fun b => Block.up b)
     let y := s.t
     let h := y.tray.host
     s.running .T = true ∧ (h.owner = 0 ∨ (h.owner = 2 ∧ h.claimLatch = h.ownerId))) ∧
    (let s : State := onT (fun b => (Block.up b).modHost (fun h => { h with owner := 1 }))
     let y := s.t
     let h := y.tray.host
     s.running .T = true ∧ (h.owner = 1 ∨ (h.owner = 2 ∧ h.claimLatch ≠ h.ownerId))) ∧
    (let s : State := onT (fun b => (Block.up b).modHost (fun h => { h with owner := 1 }))
     let c := Instr.pcieFlr
     let y := s.t
     let h := y.tray.host
     s.running .T = true ∧ (c = .hstOwnRelease ∨ c = .pcieFlr ∨ c = .pcieHotReset ∨ c = .pcieLinkDown) ∧ h.owner = 1) ∧
    (let s : State := onT (fun b => (Block.up b).modHost (fun h => { h with owner := 2 }))
     let c := Instr.pcieFlr
     let y := s.t
     let h := y.tray.host
     s.running .T = true ∧ (c = .hstOwnRelease ∨ c = .pcieFlr ∨ c = .pcieHotReset ∨ c = .pcieLinkDown) ∧ h.owner = 2) ∧
    (let s : State := onT (fun b => Block.up b)
     let c := Instr.pcieFlr
     let y := s.t
     let h := y.tray.host
     s.running .T = true ∧ (c = .hstOwnRelease ∨ c = .pcieFlr ∨ c = .pcieHotReset ∨ c = .pcieLinkDown) ∧ h.owner = 0) ∧
    (let s : State := onT (fun b => (Block.up b).modHost (fun h => { h with owner := 2 }))
     let y := s.t
     let h := y.tray.host
     s.running .T = true ∧ h.owner = 2 ∧ h.transferEnd.toNat ≤ y.time.cycles) ∧
    (let s : State := onT (fun b => Block.up b)
     let v : Word := 3
     let d : Fin 37 := 16
     let y := s.t
     s.running .T = true ∧ y.ringOn d = false ∧ v.getLsbD 31 = false) ∧
    (let s : State := onT (fun b => (Block.up b).modHost (fun h => { h with owner := 1 }))
     let v : Word := 0x8A000000
     let d : Fin 37 := 32
     let y := s.t
     s.running .T = true ∧ y.ringOn d = false ∧ v.getLsbD 31 = true ∧ y.mayEnable d (v &&& cfgMask d) = true) ∧
    (let s : State := onT (fun b => Block.up b)
     let v : Word := 0x80080000
     let d : Fin 37 := 16
     let y := s.t
     s.running .T = true ∧ y.ringOn d = false ∧ v.getLsbD 31 = true ∧ y.mayEnable d (v &&& cfgMask d) = false) ∧
    (let s : State := onT (fun b => ((Block.up b).setReg Reg.HST_EVT_CFG 0x88000000))
     let v : Word := 0
     let d : Fin 37 := 32
     let y := s.t
     s.running .T = true ∧ y.ringOn d = true ∧ v.getLsbD 31 = false ∧ (d.val < 16 ∨ 32 ≤ d.val)) ∧
    (let s : State := onT (fun b => Block.up b)
     s.running .T = true) ∧
    (let s : State := onT (fun b => ((Block.up b).setReg Reg.HST_EVT_CFG 0x88000000).modHost (fun h =>
         { h with owner := 1, busMaster := true, lostEvents := 5 }))
     let y := s.t
     let h := y.tray.host
     s.running .T = true ∧ y.eventOpen = true ∧ h.alarmHold = [] ∧ h.fifo = [] ∧ 0 < h.lostEvents) ∧
    (let u : Bundle := ⟨5, false, 3, [padTo 64 (buildLoaf 0 0 1 0 true 0 [1, 2, 3, 4])]⟩
     let s : State := onT (fun b => (((Block.up b).setReg Reg.HST_EXP_CFG 0x88140000).modHost (fun h =>
         { h with owner := 1, busMaster := true })).modExp 0 (fun x => { x with hold := [u] }))
     let e : Fin 4 := 0
     let places : List (Nat × Bytes) := [(0, padTo 64 (buildLoaf 0 0 1 0 true 0 [1, 2, 3, 4]))]
     let off : Nat := 64
     let y := s.t
     let h := y.tray.host
     s.running .T = true ∧ y.exportOpen e = true ∧ (h.expRing e).gaps = [] ∧ (h.expRing e).hold = [u] ∧ y.bundlePlaces e u = some (places, off)) ∧
    (let s : State := onT (fun b => ((((Block.up b).setReg Reg.HST_EVT_CFG 0x88000001).modHost (fun h =>
         { h with evt := { h.evt with unsignalled := 3 } })).modTime (fun m => { m with acc := BitVec.ofNat 96 (9999999 * 2 ^ 32) })))
     let m : Fin 17 := 16
     let y := s.t
     let h := y.tray.host
     let mod := h.outRing (16 + m.val)
     let us := y.fld (ringCfg (16 + m.val)) 7 0
     s.running .T = true ∧ 0 < mod.unsignalled ∧ us ≠ 0 ∧ ftGe y.ft (ftAdd mod.firstUnsignalled (us * 16000)) = true) := by
  refine ⟨?_, ?_, ?_, ?_, ?_, ?_, ?_, ?_, ?_, ?_, ?_, ?_, ?_, ?_, ?_, ?_, ?_, ?_⟩ <;> decide +kernel

theorem witness_EgressPorts :
    (let s : State := onT (fun b => (b.modHost (fun h => { h with busMaster := true })).setPort 8 ((b.port 8).enqueue 64
         { dest := .host 0, bytes := zeros 64, whole := 0 }))
     let b : Build := .T
     let p : Fin 9 := 8
     let r : Nat := 64
     let port : Nat := 8
     let x := s.block b
     let y := x.port p
     s.running b = true ∧ p.val < portCount x.build ∧ y.grant = none ∧ x.build = .T ∧ x.pickTier p 0 = some r) ∧
    (let s : State := onT (fun b => (b.modHost (fun h => { h with busMaster := true })).setPort 8 ((b.port 8).enqueue 66
         { dest := .host 0, bytes := zeros 64, whole := 0 }))
     let b : Build := .T
     let p : Fin 9 := 8
     let r : Nat := 66
     let port : Nat := 8
     let x := s.block b
     let y := x.port p
     s.running b = true ∧ p.val < portCount x.build ∧ y.grant = none ∧ x.build = .T ∧ x.pickTier p 0 = none ∧ x.pickTier p 1 = some r) ∧
    (let s : State := onT (fun b => (b.modHost (fun h => { h with busMaster := true })).setPort 8 ((b.port 8).enqueue 68
         { dest := .host 0, bytes := zeros 64, whole := 0 }))
     let b : Build := .T
     let p : Fin 9 := 8
     let r : Nat := 68
     let port : Nat := 8
     let x := s.block b
     let y := x.port p
     s.running b = true ∧ p.val < portCount x.build ∧ y.grant = none ∧ x.build = .T ∧ x.pickTier p 0 = none ∧ x.pickTier p 1 = none ∧ x.pickTier p
         2 = some r) ∧
    (let s : State := on
     let b : Build := .T
     let p : Fin 9 := 8
     let port : Nat := 8
     let x := s.block b
     let y := x.port p
     s.running b = true ∧ p.val < portCount x.build ∧ y.grant = none ∧ x.build = .T ∧ x.pickTier p 0 = none ∧ x.pickTier p 1 = none ∧ x.pickTier p
         2 = none) ∧
    (let s : State := onT (fun b => b.setPort 8
         { (b.port 8).enqueue 66 { dest := .host 0, bytes := zeros 64, whole := 0 } with grant := some ⟨66, 0⟩ })
     let b : Build := .T
     let p : Fin 9 := 8
     let port : Nat := 8
     let g : Grant := ⟨66, 0⟩
     let x := s.block b
     let y := x.port p
     s.running b = true ∧ p.val < portCount x.build ∧ y.grant = some g) ∧
    (let s : State := on
     let b : Build := .T
     let p : Fin 9 := 8
     let x := s.block b
     s.running b = true ∧ p.val < portCount x.build) ∧
    (let s : State := on
     let b : Build := .T
     let r : Nat := 0
     let port : Nat := 0
     let x := s.block b
     s.running b = true ∧ x.egrSel = some (port, r)) ∧
    (let s : State := on
     s.running .D = true) := by
  refine ⟨?_, ?_, ?_, ?_, ?_, ?_, ?_, ?_⟩ <;> decide +kernel

theorem witness_NetworkTime :
    (let s : State := onT (fun b => b.setReg Reg.PTP_CTL 0x3C)
     let port : Fin 2 := 0
     let frame : Bytes := zeros 12 ++ [0x88, 0xF7] ++ [1, 2, 0, 44] ++ zeros 60
     let p : PtpPlace := ((ptpEvent frame).getD ⟨0, 0, 0, 0⟩)
     let y := s.t
     s.running .T = true ∧ ptpEvent frame = some p ∧ y.ptpEnabled port = true ∧ y.ptpActive port = true ∧ oneStepSync frame p = false) ∧
    (let s : State := onT (fun b => b.setReg Reg.PTP_CTL 0x3D)
     let port : Fin 2 := 0
     let frame : Bytes := zeros 12 ++ [0x88, 0xF7] ++ [1, 2, 0, 44] ++ zeros 60
     let p : PtpPlace := ((ptpEvent frame).getD ⟨0, 0, 0, 0⟩)
     let y := s.t
     s.running .T = true ∧ ptpEvent frame = some p ∧ y.ptpEnabled port = true ∧ y.ptpActive port = false ∧ oneStepSync frame p = false) ∧
    (let s : State := onT (fun b => b.setReg Reg.PTP_CTL 0x3C)
     let port : Fin 2 := 0
     let frame : Bytes := zeros 12 ++ [0x88, 0xF7] ++ [1, 2, 0, 44] ++ zeros 60
     let p : PtpPlace := ((ptpEvent frame).getD ⟨0, 0, 0, 0⟩)
     let y := s.t
     s.running .T = true ∧ ptpEvent frame = some p ∧ y.ptpEnabled port = true) ∧
    (let s : State := onT (fun b => b.setReg Reg.PTP_CTL 0x3C)
     let port : Fin 2 := 0
     let frame : Bytes := zeros 64
     let y := s.t
     s.running .T = true ∧ (y.ptpEnabled port = true ∧ y.heldBack port = false ∧ y.waitingFrames port = []) ∧ ptpEvent frame = none) ∧
    (let s : State := onT (fun b => b.setReg Reg.PTP_CTL 0x3C)
     let port : Fin 2 := 0
     let frame : Bytes := zeros 12 ++ [0x88, 0xF7] ++ [0, 2, 0, 44] ++ zeros 60
     let p : PtpPlace := ((ptpEvent frame).getD ⟨0, 0, 0, 0⟩)
     let y := s.t
     s.running .T = true ∧ (y.ptpEnabled port = true ∧ y.heldBack port = false ∧ y.waitingFrames port = []) ∧ ptpEvent frame = some p ∧ y.isSet
         Reg.PTP_CTL (4 + port.val) = true ∧ oneStepSync frame p = true ∧ p.transport = 0) ∧
    (let s : State := on
     let port : Fin 2 := 0
     let y := s.t
     s.running .T = true ∧ (y.ptpEnabled port = false ∨ y.heldBack port = true ∨ y.waitingFrames port ≠ [])) ∧
    (let s : State := onT (fun b => b.setReg Reg.PTP_CTL 0x3C)
     s.running .T = true) ∧
    (let s : State := onT (fun b => b.setReg Reg.PTP_CTL 0x3C)
     let port : Fin 2 := 0
     let v : Word := 0x00000040
     let y := s.t
     let n := if bitsOf v.toNat 11 0 = 0 then 2048 else bitsOf v.toNat 11 0
     s.running .T = true ∧ 64 ≤ n ∧ n ≤ 2048 ∧ y.launches port = []) ∧
    (let s : State := onT (fun b => b.setReg Reg.PTP_CTL 0x3C)
     let port : Fin 2 := 0
     let v : Word := 3
     let y := s.t
     let n := if bitsOf v.toNat 11 0 = 0 then 2048 else bitsOf v.toNat 11 0
     s.running .T = true ∧ (n < 64 ∨ 2048 < n ∨ 16 ≤ (y.launches port).length)) ∧
    (let s : State := onT (fun b => ((b.setReg Reg.PTP_CTL 0x3C).setLaunches 0
         [{ buf := 0, time := 32000, frame := zeros 64, due := some (32000, 0) }]).modTime (fun m =>
         { m with acc := BitVec.ofNat 96 (32000 * 2 ^ 32) }))
     let port : Fin 2 := 0
     let l : Launch := { buf := 0, time := 32000, frame := zeros 64, due := some (32000, 0) }
     let rest : List Launch := []
     let d : BitVec 64 × Nat := (32000, 0)
     let y := s.t
     s.running .T = true ∧ y.launches port = l :: rest ∧ l.due = some d ∧ y.ptpEnabled port = true ∧ l.late = false ∧ ftDiff y.ft d.1 ≤ y.fld
         (ptpReg Reg.PTP_TLQ_TOL port) 15 0) ∧
    (let s : State := onT (fun b => b.setReg Reg.PTP_CTL 0x3C)
     let frame : Bytes := zeros 12 ++ [0x88, 0xF7] ++ [1, 2, 0, 44] ++ zeros 60
     s.running .T = true ∧ (ptpPlace frame).isSome = true) ∧
    (let s : State := onT (fun b => b.setReg Reg.PTP_CTL 0x3C)
     let frame : Bytes := zeros 64
     s.running .T = true ∧ ptpPlace frame = none) := by
  refine ⟨?_, ?_, ?_, ?_, ?_, ?_, ?_, ?_, ?_, ?_, ?_, ?_⟩ <;> decide +kernel

end Sys2Proof.Tests
end

