-- ==== Sys2Proof/Tests/Images.lean ====
section
/-! SUPPORT. Witnesses for the loads whose images are large: the smallest tree, the smallest rule group and a schedule that holds one step
and no placed one. Their checks are shown by lemmas over the parts of an image, not by evaluation. -/

namespace Sys2Proof.Tests
open Sys2Proof.Machine

set_option Elab.async false
set_option maxRecDepth 100000

/-! ### Parts of an image -/

theorem slice_append_right (a b : Bytes) (o n : Nat) (h : a.length ≤ o) : slice (a ++ b) o n = slice b (o - a.length) n := by
  rw [slice, slice, List.drop_append, List.drop_eq_nil_of_le h, List.nil_append]

theorem slice_append_left (a b : Bytes) (o n : Nat) (h : o + n ≤ a.length) : slice (a ++ b) o n = slice a o n := by
  rw [slice, slice, List.drop_append_of_le_length (by omega), List.take_append_of_le_length (by simp; omega)]

theorem slice_zeros (m o n : Nat) : slice (zeros m) o n = zeros (min n (m - o)) := by
  simp [slice, zeros]

theorem leNat_zeros (n : Nat) : leNat (zeros n) = 0 := by
  induction n with
  | zero => rfl
  | succ n ih =>
    show (0 : Byte).toNat + 256 * leNat (zeros n) = 0
    rw [ih]; rfl

theorem fieldAt_zeros (m o n : Nat) : fieldAt (zeros m) o n = 0 := by rw [fieldAt, slice_zeros, leNat_zeros]

theorem fieldAt_tail (a : Bytes) (m o n : Nat) (h : a.length ≤ o) : fieldAt (a ++ zeros m) o n = 0 := by
  rw [fieldAt, slice_append_right _ _ _ _ h, slice_zeros, leNat_zeros]

theorem byteAt_tail (a : Bytes) (m o : Nat) (h : a.length ≤ o) : byteAt (a ++ zeros m) o = 0 := fieldAt_tail a m o 1 h

theorem zeroAt_zeros (m o n : Nat) : zeroAt (zeros m) o n = true := by
  rw [zeroAt, slice_zeros]; simp [zeros]

theorem zeroAt_tail (a : Bytes) (m o n : Nat) (h : a.length ≤ o) : zeroAt (a ++ zeros m) o n = true := by
  rw [zeroAt, slice_append_right _ _ _ _ h, slice_zeros]; simp [zeros]

theorem length_copies (x : Bytes) (n : Nat) : (List.replicate n x).flatten.length = x.length * n := by
  induction n with
  | zero => rfl
  | succ n ih => rw [List.replicate_succ, List.flatten_cons, List.length_append, ih, Nat.mul_succ, Nat.add_comm]

/-- Copy `i` of a table that repeats one entry. -/
theorem slice_copies (x : Bytes) : ∀ n i, i < n → slice (List.replicate n x).flatten (x.length * i) x.length = x := by
  intro n
  induction n with
  | zero => intro i h; omega
  | succ n ih =>
    intro i h
    rw [List.replicate_succ, List.flatten_cons]
    cases i with
    | zero => rw [slice_append_left _ _ _ _ (by omega)]; simp [slice]
    | succ i =>
      rw [slice_append_right _ _ _ _ (by rw [Nat.mul_succ]; omega), Nat.mul_succ, Nat.add_sub_cancel]
      exact ih i (by omega)

/-- A table of copies after a header and before the rest. -/
theorem field_table (a x c : Bytes) (n i : Nat) (h : i < n) (hx : x.length = 4) :
    fieldAt (a ++ ((List.replicate n x).flatten ++ c)) (a.length + 4 * i) 4 = leNat x := by
  have hl := length_copies x n
  have := slice_copies x n i h
  rw [hx] at hl this
  rw [fieldAt, slice_append_right _ _ _ _ (by omega), Nat.add_sub_cancel_left, slice_append_left _ _ _ _ (by omega), this]

/-! ### The smallest tree (R239, R241, R252) -/

theorem tree_eq : tree = [1, 1, 0, 0] ++ ((List.replicate 255 ([0, 0x40, 0, 0] : Bytes)).flatten ++ zeros 1024) := List.append_assoc _ _ _

theorem tree_length : tree.length = 2048 := by
  rw [tree_eq, List.length_append, List.length_append, length_copies, zeros, List.length_replicate]; rfl

theorem tree_byte (o : Nat) (h : o < 4) : byteAt tree o = byteAt [1, 1, 0, 0] o := by
  rw [tree_eq, byteAt, byteAt, fieldAt, fieldAt, slice_append_left _ _ _ _ (by show o + 1 ≤ 4; omega)]

theorem tree_node (i : Nat) (h : i < 255) : treeNode tree i = 0x4000 := by
  rw [treeNode, tree_eq]
  exact field_table [1, 1, 0, 0] [0, 0x40, 0, 0] (zeros 1024) 255 i h rfl

theorem tree_leaf (o : Nat) (h : 1024 ≤ o) : byteAt tree o = 0 := by
  have e : tree = ([1, 1, 0, 0] ++ (List.replicate 255 ([0, 0x40, 0, 0] : Bytes)).flatten) ++ zeros 1024 := rfl
  rw [e]
  apply byteAt_tail
  rw [List.length_append, length_copies]
  simpa using h

theorem tree_good : treeGood true tree = true := by
  have h0 : byteAt tree 0 = 1 := tree_byte 0 (by omega)
  have h1 : byteAt tree 1 = 1 := tree_byte 1 (by omega)
  simp only [treeGood, h0, h1, tree_length, Bool.and_eq_true, List.all_eq_true, List.mem_range]
  refine ⟨⟨by decide, ?_⟩, ?_⟩
  · intro i hi
    rw [tree_node i hi]
    split <;> decide
  · intro l _ o _
    rw [tree_leaf _ (by omega)]
    simp

theorem treeRef_length : treeRef.length = 6144 := by simp [treeRef, zeros]

theorem treeRef_field (o n : Nat) (h : 4 ≤ o) : fieldAt treeRef o n = 0 := fieldAt_tail [1, 1, 0, 0] 6140 o n h

theorem treeRef_zero (o n : Nat) (h : 4 ≤ o) : zeroAt treeRef o n = true := zeroAt_tail [1, 1, 0, 0] 6140 o n h

theorem tree_ref_good : refGood tree treeRef = true := by
  have hs : slice treeRef 0 4 = slice tree 0 4 := by
    rw [tree_eq, treeRef, slice_append_left _ _ _ _ (by decide), slice_append_left _ _ _ _ (by decide)]
  have hf : f32Finite 0 = true := by decide
  simp only [refGood, treeRef_length, hs, treeRef_zero 4 12 (by omega), treeRef_zero 1036 1012 (by omega), Bool.and_eq_true,
    List.all_eq_true, List.mem_range]
  refine ⟨⟨by simp, ?_⟩, ?_⟩
  · intro i _
    rw [treeRef_field _ _ (by omega)]
    split <;> simp [hf]
  · intro l _ o _
    rw [treeRef_field _ _ (by omega), hf]
    simp

/-! ### The smallest rule group (R271, R272) -/

def groupImage : Bytes := [1, 1, 0, 0, 1, 0, 0, 0] ++ zeros 4376

theorem group_length : groupImage.length = 4384 := by simp [groupImage, zeros]

theorem group_field (o n : Nat) (h : 8 ≤ o) : fieldAt groupImage o n = 0 := fieldAt_tail [1, 1, 0, 0, 1, 0, 0, 0] 4376 o n h

theorem group_byte (o : Nat) (h : 8 ≤ o) : byteAt groupImage o = 0 := group_field o 1 h

theorem group_zero (o n : Nat) (h : 8 ≤ o) : zeroAt groupImage o n = true := zeroAt_tail [1, 1, 0, 0, 1, 0, 0, 0] 4376 o n h

theorem group_head (o n : Nat) (h : o + n ≤ 8) : fieldAt groupImage o n = fieldAt [1, 1, 0, 0, 1, 0, 0, 0] o n := by
  rw [fieldAt, fieldAt, groupImage, slice_append_left _ _ _ _ h]

theorem group_count : groupCount groupImage = 1 := group_head 4 4 (by omega)

theorem group_good : groupGood groupImage = true := by
  have h0 : byteAt groupImage 0 = 1 := group_head 0 1 (by omega)
  have h1 : byteAt groupImage 1 = 1 := group_head 1 1 (by omega)
  have hf : f32Finite 0 = true := by decide
  have hk (k : Nat) : groupField groupImage k = (0, 0, false) := by
    rw [groupField, group_byte _ (by omega), group_byte _ (by omega)]; rfl
  simp only [groupGood, h0, h1, hk, group_count, group_length, group_zero 28 36 (by omega), group_zero 3904 192 (by omega), Bool.and_eq_true,
    List.all_eq_true, List.mem_range]
  refine ⟨⟨⟨by simp, ?_⟩, ?_⟩, ?_⟩
  · intro k _
    rw [group_byte _ (by omega), group_zero _ _ (by omega)]
    refine ⟨by decide, ?_⟩
    intro i _
    rw [groupThr, group_field _ _ (by omega)]
    simp
  · intro e _
    rw [groupValue, groupCare, group_field _ _ (by omega), group_field _ _ (by omega), group_zero _ _ (by omega)]
    refine ⟨⟨by decide, ?_⟩, ?_⟩
    · intro k _; simp [keyField]
    · intro o _
      rw [group_field _ _ (by omega), group_byte _ (by omega), hf]
      simp
  · intro o _
    rw [group_field _ _ (by omega), group_byte _ (by omega), hf]
    simp

/-! ### A schedule whose rows are idle (R320, R323, R345, R346) -/

theorem length_sha_block (h : Sha) (v : List Nat) (bs : Bytes) (hv : v.length = 8) : (h.block v bs).length = 8 := by
  have hr : ∀ (ks : List (Nat × Nat)) (v : List Nat), v.length = 8 → (ks.foldl h.round v).length = 8 := by
    intro ks
    induction ks with
    | nil => intro v hv; exact hv
    | cons k ks ih =>
      intro v hv
      rw [List.foldl_cons]
      apply ih
      unfold Sha.round
      split
      · rfl
      · exact hv
  simp only [Sha.block, List.length_map, List.length_zip, hv, hr _ v hv]
  rfl

theorem length_leBytes (n v : Nat) : (leBytes n v).length = n := by
  induction n generalizing v with
  | zero => rfl
  | succ n ih => rw [leBytes, List.length_cons, ih]

theorem length_digest16 (bs : Bytes) : (digest16 bs).length = 16 := by
  have hb : ∀ (h : Sha) (cs : List Bytes) (v : List Nat), v.length = 8 → (cs.foldl h.block v).length = 8 := by
    intro h cs
    induction cs with
    | nil => intro v hv; exact hv
    | cons c cs ih => intro v hv; rw [List.foldl_cons]; exact ih _ (length_sha_block h v c hv)
  have hw : ∀ ws : List Nat, ((ws.map (beBytes 4)).flatten).length = 4 * ws.length := by
    intro ws
    induction ws with
    | nil => rfl
    | cons w ws ih =>
      rw [List.map_cons, List.flatten_cons, List.length_append, ih, beBytes, List.length_reverse, length_leBytes, List.length_cons]
      omega
  have := hb ⟨4, (2, 13, 22), (6, 11, 25), (7, 18, 3), (17, 19, 10), sha256Consts⟩
  rw [digest16, List.length_take, sha256, Sha.digest, hw, List.length_take, this _ _ rfl]
  rfl

def schedHead : Bytes := [0xA9, 0x53, 0x01, 0, 1, 0, 0, 0, 1, 0, 0, 0, 0, 0, 0, 0]

/-- SIZE, the memory section's place, a binding to the plan whose digest is zero (K 10, level 5, CLOSE 1), a step of kind 10. -/
def schedTail : Bytes :=
  leBytes 8 1433712 ++ leBytes 4 819312 ++ leBytes 4 614400 ++ zeros 32 ++ [10, 5, 1, 0] ++ zeros 12 ++ [0, 10] ++ zeros 14

/-- Every slice count the reference schedule gives to REFRESH, INGEST and SHARE: 1. -/
def memEntry : Bytes := [0x11, 0, 0x10, 0]

/-- `r` bytes of rows and `m` memory entries. -/
def schedRest (r m : Nat) : Bytes := zeros r ++ (List.replicate m memEntry).flatten

def schedDigest (r m : Nat) : Bytes := digest16 (schedHead ++ zeros 16 ++ (schedTail ++ schedRest r m))

def schedImage (r m : Nat) : Bytes := schedHead ++ (schedDigest r m ++ (schedTail ++ schedRest r m))

theorem length_schedHead : schedHead.length = 16 := rfl
theorem length_schedTail : schedTail.length = 80 := by decide
theorem length_schedDigest (r m : Nat) : (schedDigest r m).length = 16 := length_digest16 _
theorem length_schedRest (r m : Nat) : (schedRest r m).length = r + 4 * m := by
  rw [schedRest, List.length_append, length_copies, zeros, List.length_replicate]; rfl

theorem length_schedImage (r m : Nat) : (schedImage r m).length = 112 + r + 4 * m := by
  rw [schedImage, List.length_append, List.length_append, List.length_append, length_schedHead, length_schedDigest, length_schedTail,
    length_schedRest]
  omega

theorem sched_head (r m o n : Nat) (h : o + n ≤ 16) : slice (schedImage r m) o n = slice schedHead o n :=
  slice_append_left _ _ _ _ h

theorem sched_after (r m o n : Nat) (h : 32 ≤ o) : slice (schedImage r m) o n = slice (schedTail ++ schedRest r m) (o - 32) n := by
  rw [schedImage, slice_append_right _ _ _ _ (by rw [length_schedHead]; omega), length_schedHead,
    slice_append_right _ _ _ _ (by rw [length_schedDigest]; omega), length_schedDigest, Nat.sub_sub]

theorem sched_tail (r m o n : Nat) (h : 32 ≤ o) (h2 : o + n ≤ 112) : slice (schedImage r m) o n = slice schedTail (o - 32) n := by
  rw [sched_after r m o n h, slice_append_left _ _ _ _ (by rw [length_schedTail]; omega)]

theorem sched_rest (r m o n : Nat) (h : 112 ≤ o) : slice (schedImage r m) o n = slice (schedRest r m) (o - 112) n := by
  rw [sched_after r m o n (by omega), slice_append_right _ _ _ _ (by rw [length_schedTail]; omega), length_schedTail, Nat.sub_sub]

theorem sched_rows (r m o n : Nat) (h : 112 ≤ o) (h2 : o + n ≤ 112 + r) : slice (schedImage r m) o n = zeros n := by
  rw [sched_rest r m o n h, schedRest, slice_append_left _ _ _ _ (by rw [zeros, List.length_replicate]; omega), slice_zeros,
    Nat.min_eq_left (by omega)]

theorem sched_memory (r m : Nat) : slice (schedImage r m) (112 + r) (4 * m) = (List.replicate m memEntry).flatten := by
  rw [sched_rest r m _ _ (by omega), schedRest, slice_append_right _ _ _ _ (by rw [zeros, List.length_replicate]; omega), zeros,
    List.length_replicate, slice, show 112 + r - 112 - r = 0 by omega, List.drop_zero]
  apply List.take_of_length_le
  rw [length_copies]
  exact Nat.le_refl _

theorem sched_digest_good (r m : Nat) : digestGood (schedImage r m) = true := by
  have hi : imageDigest (schedImage r m) = schedDigest r m := by
    rw [imageDigest, schedImage, slice_append_right _ _ _ _ (by have := length_schedHead; have := length_schedDigest r m; omega),
      slice_append_left _ _ _ _ (by have := length_schedHead; have := length_schedDigest r m; omega), slice, length_schedHead, Nat.sub_self, List.drop_zero]
    exact List.take_of_length_le (by have := length_schedHead; have := length_schedDigest r m; omega)
  have ht : (schedImage r m).take 16 = schedHead := by
    rw [schedImage, List.take_append_of_le_length (by have := length_schedHead; have := length_schedDigest r m; omega)]; rfl
  have hd : (schedImage r m).drop 32 = schedTail ++ schedRest r m := by
    rw [schedImage, ← List.append_assoc, List.drop_append, List.drop_eq_nil_of_le
      (by have := length_schedHead; have := length_schedDigest r m; rw [List.length_append]; omega), List.length_append, length_schedDigest, length_schedHead]
    rfl
  rw [digestGood, hi, ht, hd, schedDigest]
  exact beq_self_eq_true _

/-- The schedule image: 6400 idle rows and 6400 × 24 memory entries. -/
def schedule : Bytes := schedImage 819200 153600

theorem schedule_length : schedule.length = 1433712 := length_schedImage _ _

theorem schedule_head (o n : Nat) (h : o + n ≤ 16) : slice schedule o n = slice schedHead o n := sched_head _ _ o n h

theorem schedule_tail (o n : Nat) (h : 32 ≤ o) (h2 : o + n ≤ 112) : slice schedule o n = slice schedTail (o - 32) n := sched_tail _ _ o n h h2

theorem schedule_binds : schedBinds schedule = 1 := by rw [schedBinds, fieldAt, schedule_head _ _ (by omega)]; rfl
theorem schedule_steps : schedSteps schedule = 1 := by rw [schedSteps, fieldAt, schedule_head _ _ (by omega)]; rfl
theorem schedule_batches : schedBatches schedule = 0 := by rw [schedBatches, fieldAt, schedule_head _ _ (by omega)]; rfl
theorem schedule_rowsAt : schedRowsAt schedule = 112 := by rw [schedRowsAt, schedule_binds, schedule_steps, schedule_batches]

theorem schedule_bind : schedBind schedule 0 = zeros 16 ++ [10, 5, 1, 0] ++ zeros 12 := by
  rw [schedBind, schedule_tail _ _ (by omega) (by omega)]; decide

theorem schedule_step : schedStep schedule 0 = [0, 10] ++ zeros 14 := by
  rw [schedStep, schedule_binds, schedule_batches, schedule_tail _ _ (by omega) (by omega)]; decide

theorem schedule_entry (r j : Nat) (hr : r < 6400) (hj : j < 32) : schedEntry schedule r j = (0, 0) := by
  rw [schedEntry, schedule_rowsAt]
  simp only [byteAt, fieldAt]
  rw [schedule, sched_rows _ _ _ _ (by omega) (by omega), sched_rows _ _ _ _ (by omega) (by omega), leNat_zeros, leNat_zeros]

theorem schedule_places : schedPlaces schedule = [] := by
  rw [schedPlaces, List.flatten_eq_nil_iff]
  intro l hl
  obtain ⟨r, hr, rfl⟩ := List.mem_map.1 hl
  rw [List.flatten_eq_nil_iff]
  intro l hl
  obtain ⟨j, hj, rfl⟩ := List.mem_map.1 hl
  have := schedule_entry r j (List.mem_range.1 hr) (by have := List.mem_range.1 hj; omega)
  rw [this]
  rfl

theorem schedule_memory : slice schedule 819312 614400 = (List.replicate 153600 memEntry).flatten := sched_memory 819200 153600

/-- Starts 256 apart keep any gap of 240 or more, across the period boundary too. -/
theorem even_starts (n gap : Nat) (h : 240 ≤ gap) :
    (match (List.range (n + 1)).map (fun r => 256 * r) with
      | [] => false
      | a :: rest => ((a :: rest).zip (rest ++ [a + (n + 1) * 256])).all (fun p => decide (p.2 - p.1 ≤ 16 + gap))) = true := by
  have e : (List.range (n + 1)).map (fun r => 256 * r) = 0 :: (List.range n).map (fun r => 256 * (r + 1)) := by
    rw [List.range_succ_eq_map, List.map_cons, List.map_map]; rfl
  have e2 : (List.range n).map (fun r => 256 * (r + 1)) ++ [0 + (n + 1) * 256] = (List.range (n + 1)).map (fun r => 256 * (r + 1)) := by
    rw [List.range_succ, List.map_append, List.map_cons, List.map_nil, Nat.zero_add, Nat.mul_comm]
  rw [e]
  show ((0 :: (List.range n).map (fun r => 256 * (r + 1))).zip _).all _ = true
  rw [e2, ← e, List.zip_map', List.all_map, List.all_eq_true]
  intro r _
  simp only [Function.comp]
  exact decide_eq_true (by omega)

theorem schedule_memory_good (ec : Bool) (gap : Nat) (h : 240 ≤ gap) : memoryGood schedule ec gap = true := by
  have h40 : fieldAt schedule 40 4 = 819312 := by rw [fieldAt, schedule_tail _ _ (by omega) (by omega)]; decide
  have h44 : fieldAt schedule 44 4 = 614400 := by rw [fieldAt, schedule_tail _ _ (by omega) (by omega)]; decide
  have he (r s : Nat) (hr : r < 6400) (hs : s < 24) :
      fieldAt (List.replicate 153600 memEntry).flatten (4 * (24 * r + s)) 4 = 0x100011 := by
    have := slice_copies memEntry 153600 (24 * r + s) (by omega)
    rw [fieldAt, show (4 : Nat) = memEntry.length from rfl, this]; rfl
  have hl : (List.replicate 153600 memEntry).flatten.length = 614400 := length_copies memEntry 153600
  rw [memoryGood, h40, h44, schedule_memory]
  simp only [hl, Bool.and_eq_true, List.all_eq_true, List.mem_range]
  refine ⟨⟨by decide, ?_⟩, ?_⟩
  · intro r hr s hs
    simp only [he r s hr hs]
    cases ec <;> decide
  · intro s hs
    have hst : ((List.range 6400).map (fun r => (List.range (bitsOf (fieldAt (List.replicate 153600 memEntry).flatten (4 * (24 * r + s)) 4)
        (4 * 5 + 3) (4 * 5))).map (fun j => 256 * r + 16 * j))).flatten = (List.range 6400).map (fun r => 256 * r) := by
      have : (List.range 6400).map (fun r => (List.range (bitsOf (fieldAt (List.replicate 153600 memEntry).flatten (4 * (24 * r + s)) 4)
          (4 * 5 + 3) (4 * 5))).map (fun j => 256 * r + 16 * j)) = (List.range 6400).map (fun r => [256 * r]) := by
        apply List.map_congr_left
        intro r hr
        rw [he r s (List.mem_range.1 hr) hs]
        rfl
      rw [this]
      generalize List.range 6400 = l
      induction l with
      | nil => rfl
      | cons x l ih => simp only [List.map_cons, List.flatten_cons, ih]; rfl
    rw [hst]
    exact even_starts 6399 gap h

/-- A unit that holds a plan whose digest is zero takes the schedule. -/
theorem schedule_good (u : PlaneUnit) (hu : u.plans = [(0, { phase := 1, bytes := zeros 64 })]) (ec : Bool) (gap : Nat) (h : 240 ≤ gap) :
    u.schedGood schedule ec gap = true := by
  have h40 : fieldAt schedule 40 4 = 819312 := by rw [fieldAt, schedule_tail _ _ (by omega) (by omega)]; decide
  have h44 : fieldAt schedule 44 4 = 614400 := by rw [fieldAt, schedule_tail _ _ (by omega) (by omega)]; decide
  have h32 : fieldAt schedule 32 8 = 1433712 := by rw [fieldAt, schedule_tail _ _ (by omega) (by omega)]; decide
  have hm : slice schedule 0 3 = [0xA9, 0x53, 0x01] := by rw [schedule_head _ _ (by omega)]; decide
  have z3 : zeroAt schedule 3 1 = true := by rw [zeroAt, schedule_head _ _ (by omega)]; decide
  have z6 : zeroAt schedule 6 2 = true := by rw [zeroAt, schedule_head _ _ (by omega)]; decide
  have z14 : zeroAt schedule 14 2 = true := by rw [zeroAt, schedule_head _ _ (by omega)]; decide
  have z48 : zeroAt schedule 48 16 = true := by rw [zeroAt, schedule_tail _ _ (by omega) (by omega)]; decide
  have hb : u.bindGood schedule 0 = true := by
    rw [PlaneUnit.bindGood, schedule_bind, PlaneUnit.planOf, hu]; decide
  have hs : u.stepGood schedule (schedStep schedule 0) = true := by
    have hk : bindK (schedBind schedule 0) = 10 := by rw [schedule_bind]; decide
    have h0 : stepBind ([0, 10] ++ zeros 14) = 0 := by decide
    rw [PlaneUnit.stepGood, schedule_step, h0, hk, schedule_binds]
    have hn : ¬ ((10 : Nat) = 1 ∨ (10 : Nat) = 9) := by decide
    have hd : stepKind ([0, 10] ++ zeros 14) = 10 := by decide
    simp only [hd, kindBatched, if_neg hn, show stepLag ([0, 10] ++ zeros 14) = 0 by decide, show stepZeros ([0, 10] ++ zeros 14) = true by decide,
      show stepPhase ([0, 10] ++ zeros 14) = 0 by decide]
    rfl
  simp only [PlaneUnit.schedGood, hm, z3, z6, z14, z48, schedule_binds, schedule_steps, schedule_batches, schedule_places, schedule_length,
    schedule_rowsAt, h32, h40, h44, schedule_memory_good ec gap h, show digestGood schedule = true from sched_digest_good _ _,
    PlaneUnit.auditsGood, Bool.and_eq_true, List.all_eq_true, List.mem_range]
  refine ⟨⟨⟨⟨⟨⟨⟨⟨by decide, ?_⟩, ?_⟩, ?_⟩, ?_⟩, ?_⟩, ?_⟩, ?_⟩, trivial⟩
  · intro i hi
    rw [Nat.lt_one_iff.1 hi]; exact hb
  · intro i hi; exact absurd hi (Nat.not_lt_zero i)
  · intro i hi
    rw [Nat.lt_one_iff.1 hi]; exact hs
  · intro r hr j hj
    rw [entryGood, schedule_entry r j hr hj]; rfl
  · intro p hp; exact absurd hp List.not_mem_nil
  · intro p hp; exact absurd hp List.not_mem_nil
  · intro i hi; exact absurd hi (Nat.not_lt_zero i)

/-! ### The loads -/

/-- The input of a descriptor is what host memory holds from address 0, whatever the plane's unit is. -/
theorem input_plane (t : Taken) (f : PlaneUnit → PlaneUnit) (input : Bytes) (h : t.inAddr = 0) (hl : t.inLen = input.length)
    (hb : input.length ≤ 2 ^ 64) : ((onDesc t (fun b => b.modPlane f) input).begin t).descInput t.start = input := by
  have e : ((onDesc t (fun b => b.modPlane f) input).begin t).descInput t.start =
      ((onDesc t (fun b => b.modPlane f) input).begin t).tray.host.read 0 input.length := by
    have h1 : t.start.inAddr = 0 := h
    have h2 : t.start.inLen = input.length := hl
    rw [Block.descInput, h1, h2]
  rw [e]
  exact read_memoryFrom _ _ rfl hb

def treeTaken : Taken := desc 0x30 [(16, leBytes 4 8192), (32, leBytes 2 16383)]

theorem tree_input : ((onDesc treeTaken id (tree ++ treeRef)).begin treeTaken).descInput treeTaken.start = tree ++ treeRef := by
  have hl : (tree ++ treeRef).length = 8192 := by rw [List.length_append, tree_length, treeRef_length]
  exact input_of _ _ (by decide) (by rw [hl]; decide) (by rw [hl]; decide)

theorem witness_StoreSlots_treeLoad :
    let t : Taken := treeTaken
    let s : State := onDesc t id (tree ++ treeRef)
    let id : Nat := 0
    let b := s.begin t
    let d := t.start
    let u := b.tray.plane
    let img := b.descInput d
    let i := fieldAt t.bytes 32 2
    s.t.memoryReady = true ∧ s.descNext 0x30 1 id t ∧ i < 16384 ∧ (slotIn u.trees i).phase < 2 ∧ treeGood true (img.take 2048) = true ∧
      refGood (img.take 2048) (img.drop 2048) = true := by
  have ht : (tree ++ treeRef).take 2048 = tree := List.take_left' tree_length
  have hd : (tree ++ treeRef).drop 2048 = treeRef := List.drop_left' tree_length
  intro t s id b d u img i
  have hi : img = tree ++ treeRef := tree_input
  refine ⟨by decide +kernel, by decide +kernel, by decide +kernel, by decide +kernel, ?_, ?_⟩
  · rw [hi, ht]; exact tree_good
  · rw [hi, ht, hd]; exact tree_ref_good

def groupTaken : Taken := desc 0x32 [(16, leBytes 4 4384), (32, leBytes 2 4095), (34, [3]), (36, leBytes 2 16383)]

theorem witness_StoreSlots_groupLoad :
    let t : Taken := groupTaken
    let s : State := onDesc t id groupImage
    let id : Nat := 0
    let b := s.begin t
    let d := t.start
    let u := b.tray.plane
    let img := b.descInput d
    let i := fieldAt t.bytes 32 2
    s.t.memoryReady = true ∧ s.descNext 0x32 1 id t ∧ i < 4096 ∧ byteAt t.bytes 34 < 4 ∧ (slotIn u.groups i).phase < 2 ∧ groupGood img = true ∧
      fieldAt t.bytes 36 2 + groupCount img ≤ 16384 ∧ b.isSet Reg.RUL_STS (4 + byteAt t.bytes 34) = false ∧
      u.groupOverlap i (byteAt t.bytes 34) (fieldAt t.bytes 36 2) (groupCount img) = false ∧
      u.hasRoom (slotIn u.groups i).bytes.length img.length = true := by
  intro t s id b d u img i
  have hi : img = groupImage := input_of _ _ (by decide) (by rw [group_length]; decide) (by rw [group_length]; decide)
  refine ⟨by decide +kernel, by decide +kernel, by decide +kernel, by decide +kernel, by decide +kernel, ?_, ?_, by decide +kernel, ?_, ?_⟩
  · rw [hi]; exact group_good
  · rw [hi, group_count]; decide +kernel
  · rw [hi, group_count]; decide +kernel
  · rw [hi, group_length]; decide +kernel

def schedTaken : Taken := desc 0x38 [(16, leBytes 4 1433712), (32, [1])]

/-- One plan in its store, with a digest of zeros. -/
def zeroPlan (u : PlaneUnit) : PlaneUnit := { u with plans := [(0, { phase := 1, bytes := zeros 64 })] }

theorem witness_StoreSlots_schedLoad :
    let t : Taken := schedTaken
    let s : State := onDesc t (fun b => b.modPlane zeroPlan) schedule
    let id : Nat := 0
    let b := s.begin t
    let d := t.start
    let u := b.tray.plane
    let img := b.descInput d
    s.t.memoryReady = true ∧ s.descNext 0x38 1 id t ∧ byteAt t.bytes 32 < 2 ∧ b.leaseBlocks d (0x03000000 + byteAt t.bytes 32) = false ∧
      b.schedBusy (byteAt t.bytes 32) = false ∧ u.schedGood img (b.isSet Reg.HIS_CTL 0) (b.fld Reg.HIS_REF 15 0) = true ∧
      u.hasRoom (sget (fun _ => ([] : Bytes)) u.scheds (byteAt t.bytes 32)).length img.length = true := by
  intro t s id b d u img
  have hi : img = schedule := input_plane _ _ _ (by decide) (by rw [schedule_length]; decide) (by rw [schedule_length]; decide)
  have hg : 240 ≤ b.fld Reg.HIS_REF 15 0 := by decide +kernel
  refine ⟨by decide +kernel, by decide +kernel, by decide +kernel, by decide +kernel, by decide +kernel, ?_, ?_⟩
  · rw [hi]; exact schedule_good u rfl _ _ hg
  · rw [hi, schedule_length]; decide +kernel

end Sys2Proof.Tests
end

