-- ==== Sys2Proof/WellFormed.lean ====
section
/-! DEFINITION. Well-formed commands: the operands that the block's ports can carry. An ill-formed command is not refused by
the machine; a statement that needs the form says so. -/

namespace Sys2Proof

/-- What the protected channel can carry as one frame: a 64-byte header and a payload of at most 4,032 bytes, in whole 8-byte
units (R156). -/
def frameFits (frame : Bytes) : Bool := decide (64 ≤ frame.length) && decide (frame.length ≤ 4096) && frame.length % 8 == 0

/-- An offset at which a register can stand: a multiple of 4 in the 2 MiB of the map (R462). -/
def registerOffset (off : Nat) : Bool := off % 4 == 0 && decide (off < 2 ^ 21)

/-- The paths on which a build takes register accesses (R383, R462, R467). -/
def Path.serves : Path → Build → Bool
  | .host, .T | .steward, .T | .msix, .T | .tray, .D | .localPort, .D => true
  | .host, .D | .steward, .D | .msix, .D | .tray, .T | .localPort, .T => false

/-- The operands of a command are such as its port can carry; the operand types bound everything else. -/
def Instr.wf : Instr → Bool
  | .beaconReceive _ _ _ frame => frameFits frame
  | .temperReqReceive _ _ _ frame => frameFits frame
  | .temperRespReceive _ _ frame => frameFits frame
  | .temperSetReceive _ _ _ frame => frameFits frame
  | .temperAckReceive _ _ frame => frameFits frame
  | .dieWindowBoundary _ ports => decide ports.Nodup
  | .grantReceive _ frame => frameFits frame
  | .revokeReceive _ frame => frameFits frame
  | .windowedFrameReceive _ _ frame => frameFits frame
  | .alarmFrameReceive _ _ frame => frameFits frame
  | .jobStatsReceive _ _ frame => frameFits frame
  | .prepareReceive _ _ _ frame => frameFits frame
  | .ackReceive _ _ frame => frameFits frame
  | .commitReceive _ _ _ frame => frameFits frame
  | .abortReceive _ _ _ frame => frameFits frame
  | .lateCommitReceive _ _ frame => frameFits frame
  | .teardownReceive _ _ _ frame => frameFits frame
  | .releasedReceive _ _ frame => frameFits frame
  | .emberReceive _ _ frame => frameFits frame
  | .memberReceive _ _ frame => frameFits frame
  | .remapReceive _ _ _ frame => frameFits frame
  | .takeoverReceive _ _ frame => frameFits frame
  | .testEntry _ _ faulty => decide faulty.Nodup
  | .digestRecordReceive _ _ frame => frameFits frame
  | .voteReceive _ _ frame => frameFits frame
  | .cfgWriteReceive _ frame => frameFits frame
  | .cfgCommitReceive _ frame => frameFits frame
  | .cfgAbortReceive _ frame => frameFits frame
  | .cfgResultReceive _ _ frame => frameFits frame
  | .shareDataReceive _ _ frame => frameFits frame
  | .shareParityReceive _ _ frame => frameFits frame
  | .shareAckReceive _ _ frame => frameFits frame
  | .stripeReceive _ _ frame => frameFits frame
  | .releaseReceive _ _ frame => frameFits frame
  | .notCodedReceive _ _ frame => frameFits frame
  | .readReqReceive _ _ frame => frameFits frame
  | .readRespReceive _ _ frame => frameFits frame
  | .lossReceive _ _ frame => frameFits frame
  | .regReadReceive _ frame => frameFits frame
  | .regWriteReceive _ frame => frameFits frame
  | .regRespReceive _ _ frame => frameFits frame
  | .grantRespReceive _ _ frame => frameFits frame
  | .powerRecordReceive _ frame => frameFits frame
  | .powerRespReceive _ _ frame => frameFits frame
  | .crumbReceive _ _ frame => frameFits frame
  | .sensorRecordReceive _ frame => frameFits frame
  | .sensorSample _ samples => decide (samples.codes.length = 32)
  | .idDaPlaceWrite path _ => path.serves .D
  | .idCtlLockWrite path => path.serves .D
  | .idCtlLocalRoWrite path => path.serves .D
  | .rcFieldRead b path off _ => path.serves b && registerOffset off
  | .loReadLatch b path off => path.serves b && registerOffset off
  | .registerWrite b path off _ _ => path.serves b && registerOffset off
  | .testFrameReceive _ _ _ frame => frameFits frame
  | .timIncrFracWrite _ _ | .timIncrIntWrite _ _ | .ftStep _ _ | .timModeWrite _ _ | .beaconDue | .beaconLost _
  | .temperStart _ | .temperReplyTimeout | .timePulse _ | .regionStretch _ _ | .regionStopRise _ | .regionStopFall _ _
  | .pairSample | .ptpTxStamp _ _ _ | .ptpRxStamp _ _ _ | .onestepSyncEdit _ _ | .ptpTsMetaRead | .ptpTlqPush _ _ _
  | .timedLaunch _ | .ethFrameReceive _ _ _ | .tapEntryWrite _ _ _ | .tapCount _ | .tapCommandStart _ | .tapCommandEnd _
  | .tapTxnOpen _ | .tapTxnCommit _ | .tapTxnAbort _ | .tapPower _ | .tapDigestPart _ | .tapCancel _ | .cntClrWrite _
  | .txnAbortAll | .feedEntryWrite _ _ | .feedStep _ | .feedDivert _ | .feedLoad _ | .feedStore _ | .feedData _
  | .feedMark _ | .trcCtlEnWrite _ | .trcCmdFlush | .trcCmdStart | .trcCmdStop | .triggerTransition | .postCountExpire
  | .loafAgeExpire | .regionSecureChange _ _ | .grantExpire | .powerPacketPlace _ | .dropModeEnd | .traceStallAssert
  | .traceStallRelease | .schedDebugFall _ | .loafCompressed _ | .loafDeparted | .trcLinkUpChange _ | .laneLock _ _
  | .ingestLoafReceive _ _ | .decompressLoaf _ | .windowClose _ | .ackDeadline _ | .hearthDecisionDeadline _
  | .lateCommitDeadline _ _ | .contextStart _ _ | .switchBoundary _ | .emberDue _ | .checkPoint | .remapApply _ _
  | .hearthLossTimeout _ | .mergeStep _ _ | .featuriseStep _ _ | .scoreStep _ _ _ | .auditStep _ _ | .ruleStep _ _
  | .anvilStep _ _ | .witnessStep _ _ | .digestStep _ _ | .sendStep _ _ | .resultStep _ _ | .ckptStep _ _ | .ringEntry _
  | .searchEntry _ | .unitRetire | .anvilCompareLoaf _ | .witnessDigest _ _ _ _ | .voteDecide _ _ _ | .digestHoldExpire _
  | .triggerEval | .ensTstoreDataWrite _ | .ensTrgCtlWrite _ | .storeUe _ | .ruleScrub _ _ _ _ | .phaseError _
  | .plnTxnCommit _ | .plnTxnAbort _ | .cfgApply _ | .stripeHoldExpire _ | .memoryUe _ _ | .memberLossDeclare _ _
  | .rebuildDone _ _ | .hisRejoinWrite _ | .replacementRebuildDone _ _ | .commandDoorbell _ _ | .consumerDoorbell _ _
  | .descriptorTake | .nop _ | .cancel _ | .jobStart _ | .jobTeardown _ | .remap _ | .member _ | .takeover _ | .quench _
  | .restore _ | .replay _ | .grant _ | .revoke _ | .compress _ | .decompress _ | .search _ | .treeLoad _ | .treeFree _
  | .groupLoad _ | .groupFree _ | .imageLoad _ | .imageFree _ | .planLoad _ | .planFree _ | .schedLoad _ | .dieRegRead _
  | .dieRegWrite _ | .dieRegStage _ | .dieRegCommit _ | .dieRegAbort _ | .leaseAcquire _ | .leaseRelease _
  | .ownerTransfer _ | .logClear _ | .power _ | .fwActivate _ | .stwRestart _ | .testInject _ | .compressDone _
  | .decompressDone _ | .searchDone _ | .replayDone _ | .dieAnswerTimeout _ | .powerTransition _ | .hstOwnClaim
  | .hstOwnRelease | .pcieFlr | .pcieHotReset | .pcieLinkDown | .transferTimeout | .busMasterEnableChange _
  | .ringCfgWrite _ _ | .barMalformedAccess _ | .eventHoldDrain | .exportHoldDrain _ | .msixModExpire _
  | .egressDecision _ _ | .frameLastBeat _ _ | .egrFreezeWrite _ _ _ | .egrBktReconfig _ _ _ | .flashCrumbProgram
  | .hoursCrumbDue | .buttonPress _ | .jumperChange _ | .sealLoopOpen _ | .presenceWindowExpire | .secCloseWrite _
  | .stewardVerifyDone _ | .stwCmdRestart _ | .stewardRestartDone _ | .watchdogExpire _ _ | .stewardFault _ _ _
  | .stwWdogWrite _ | .stwDumpAckWrite _ | .stwDumpDataRead | .stwFlBufAccess _ _ | .flashErase | .flashProgram
  | .flashRead | .flashCmdDone | .evrRdDataRead _ | .borluDResetAssert | .borluDResetRelease _ _ | .borluTResetAssert _
  | .borluTResetRelease _ | .alignPulse | .stackReady _ _ | .holdAbsorbed _ | .alarmSlotArrival | .hearthActivation _
  | .catchupEnd _ => true

end Sys2Proof
end

