-- ==== Sys2Proof/Tests/Slice0.lean ====
section
/-! SUPPORT. The package's own tests: ill-formed commands that WellFormed refuses, and the worked examples of the spec, whose results
stand in the spec's text (each test names the file and the rules). -/

namespace Sys2Proof.Tests
open Sys2Proof.Machine

set_option Elab.async false
set_option maxRecDepth 100000

/-! ### Ill-formed commands -/

/-- Every command that carries a frame refuses one that the channel can not carry (R156). -/
theorem test_wf_refuses_frames :
    ([.beaconReceive .T 0 0 [], .temperReqReceive .T 0 0 [], .temperRespReceive 0 0 [], .temperSetReceive .T 0 0 [],
      .temperAckReceive 0 0 [], .grantReceive 0 [], .revokeReceive 0 [], .windowedFrameReceive 0 0 [], .alarmFrameReceive 0 0 [],
      .jobStatsReceive 0 0 [], .prepareReceive .T 0 0 [], .ackReceive 0 0 [], .commitReceive .T 0 0 [], .abortReceive .T 0 0 [],
      .lateCommitReceive 0 0 [], .teardownReceive .T 0 0 [], .releasedReceive 0 0 [], .emberReceive 0 0 [], .memberReceive 0 0 [],
      .remapReceive .T 0 0 [], .takeoverReceive 0 0 [], .digestRecordReceive 0 0 [], .voteReceive 0 0 [], .cfgWriteReceive 0 [],
      .cfgCommitReceive 0 [], .cfgAbortReceive 0 [], .cfgResultReceive 0 0 [], .shareDataReceive 0 0 [], .shareParityReceive 0 0 [],
      .shareAckReceive 0 0 [], .stripeReceive 0 0 [], .releaseReceive 0 0 [], .notCodedReceive 0 0 [], .readReqReceive 0 0 [],
      .readRespReceive 0 0 [], .lossReceive 0 0 [], .regReadReceive 0 [], .regWriteReceive 0 [], .regRespReceive 0 0 [],
      .grantRespReceive 0 0 [], .powerRecordReceive 0 [], .powerRespReceive 0 0 [], .crumbReceive 0 0 [], .sensorRecordReceive 0 [],
      .testFrameReceive .D 0 0 []] : List Instr).all (fun c => !c.wf) = true := by
  decide +kernel

/-- A frame below the header's 64 bytes, one above 4,096 bytes, and one that is no multiple of 8 bytes. -/
theorem test_wf_frame_bounds : frameFits (zeros 56) = false ∧ frameFits (zeros 4104) = false ∧ frameFits (zeros 68) = false ∧
    frameFits (zeros 64) = true ∧ frameFits (zeros 4096) = true := by
  decide +kernel

/-- Repeated ports, repeated units, a sample list of the wrong length, a path that the build does not have, an unaligned offset. -/
theorem test_wf_refuses_others :
    Instr.wf (.dieWindowBoundary 0 [3, 3]) = false ∧ Instr.wf (.testEntry 0 0 [1, 1]) = false ∧ Instr.wf (.sensorSample .T ⟨[], [], (0, 0)⟩) = false ∧
    Instr.wf (.idDaPlaceWrite .host 0) = false ∧ Instr.wf (.idCtlLockWrite .steward) = false ∧ Instr.wf (.idCtlLocalRoWrite .host) = false ∧
    Instr.wf (.rcFieldRead .T .tray 0 0) = false ∧ Instr.wf (.loReadLatch .D .tray 2) = false ∧
    Instr.wf (.registerWrite .T .host 0x200000 0 0) = false := by
  decide +kernel

/-! ### Fleet time (02_fleet_time.md, 03_network_time_ports.md) -/

/-- The tempering example (R51): RT 880 ticks, delay 440, offset −998,095. -/
theorem test_tempering_example :
    roundTrip 1000000 2345 2985 1001520 = 880 ∧
    clockOffset 1000000 2345 2985 1001520 = -998095 ∧
    ({ link := 7, count := 16, t1 := 0 : TemperRun }.exchange 880 (-998095)).delay = 440 := by
  decide +kernel

/-- A step of −592 ticks becomes a hold (R43); with 32 ticks of it left the cycle advances FT by 8. -/
theorem test_hold_example :
    (match execFtStep .T 0xFFFFFFFF (onT (fun b => b.modTime (fun t => { t with stepLo := 0xFFFFFDB0 }))) with
      | .next s => s.t.time.hold | _ => 0) = 592 * 2 ^ 32 ∧
    (on.t.modTime (fun t => { t with hold := 32 * 2 ^ 32 })).timeCycle.ft = 8 := by
  decide +kernel

/-- A release of the pair example: region 5 at plan cycle 2,000, stamped 16,052, has slip 52 (R58). -/
theorem test_slip_example :
    ((((on.d.setReg Reg.TIM_OPP 0x800000).modRegion 5 (fun r => { r with anchored := true, anchorStamp := 5000000 })).slipEvent 5
      ⟨0, 2000, 5016052, false⟩).reg (Reg.TIM_SLIP + 20)).toInt = 52 := by
  decide +kernel

/-- TIM_INCR_FRAC then TIM_INCR_INT put the slewed increment in force from the next cycle (R39, R43). -/
theorem test_slew_example :
    (match execTimIncrIntWrite .T 0x27 (onT (fun b => b.modTime (fun t => { t with fracStage := 0xFFFFE72B }))) with
      | .next s => s.t.timeCycle.incr | _ => 0) = 0x27FFFFE72B := by
  decide +kernel

/-! ### Loaves (06_loaf_compression.md) -/

/-- The loaf of the example: its five tags give 27 bytes (R138 to R143). -/
theorem test_loaf_example :
    let out : Bytes := [0x10, 6, 0x40, 0, 0x40, 0, 0x10, 6, 0x40, 0, 0x40, 0, 0x10, 6, 0x40, 0, 0x40, 0, 0xFF, 0x10, 6, 0x40, 0, 0x40, 0,
      0xFF, 0x10]
    decodeLoaf ([0xB7, 0x1F, 2, 0, 0x1B, 0, 0, 0x0F, 0, 0, 5, 0, 0, 0, 0, 0, 5, 0x10, 6, 0x40, 0, 0x40, 0, 0x89, 5, 0, 0, 0xFF, 0x68, 6,
      0xC0] ++ leBytes 4 (crc32c out).toNat ++ zeros 29) 27 = .ok ⟨2, 0, 5, 0, 15, out⟩ := by
  rfl

/-- The tags that an encoder writes for the matches of the example (R140, R143). -/
theorem test_match_tags : matchTags 12 6 0 = [0x89, 5, 0] ∧ matchTags 8 7 6 = [0x68, 6] ∧ (matchTags 8 7 7).head? = some 0xC1 := by
  decide +kernel

/-! ### Reduction (07_frames_and_reduction.md) -/

/-- The presence example (R180): both orders give 0b0101_0101 with N 4. -/
theorem test_presence_example :
    let a := leBytes 4 3 ++ leBytes 4 4096 ++ leBytes 4 4 ++ zeros 4 ++ padTo 8 [0x65]
    let b := leBytes 4 1 ++ leBytes 4 4096 ++ leBytes 4 4 ++ zeros 4 ++ padTo 8 [0xD8]
    byteAt (presenceMerge a b) 16 = 0x55 ∧ fieldAt (presenceMerge a b) 0 4 = 4 ∧ presenceMerge a b = presenceMerge b a := by
  decide +kernel

/-- The sieve bodies of the example: nibbles and carries of two ranks (R183, R184). -/
def sieve310 : Bytes := patch (leBytes 4 1 ++ [0, 1, 0, 0] ++ leBytes 4 1 ++ zeros 132 ++ [44, 0, 2, 0]) [(38, [0xB]), (46, [7]), (116, [0xF]),
  (143, [0x10])]
def sieve311 : Bytes := patch (leBytes 4 1 ++ [0, 2, 0, 0] ++ leBytes 4 0 ++ zeros 132 ++ [44, 0, 5, 0, 200, 0, 0xFF, 0xFF]) [(38, [9]), (46, [0xE]),
  (116, [3])]

/-- They merge to a WIDE body with one high entry, (200, 16), in both orders (R183, R185). -/
theorem test_sieve_example :
    let item (b : Bytes) : Item := { id := 1, op := 7, form := 0, sat := false, nan := false, late := false, body := b }
    let x := (mergeItems (item sieve310) (item sieve311)).1
    x.form = 1 ∧ x.n = 2 ∧ fieldAt x.body 6 2 = 1 ∧ fieldAt x.body 8 4 = 1 ∧ fieldAt x.body (16 + 88) 2 = 132 ∧
      fieldAt x.body (16 + 120) 2 = 21 ∧ fieldAt x.body (16 + 400) 2 = 2 ∧ fieldAt x.body (16 + 510) 2 = 1 ∧
      x.body.drop 528 = [200, 0, 16, 0] := by
  decide +kernel

/-- Its order statistics (09_features_and_quantisation.md, R227): the median is 49,152 ticks, and Q = 1 gives 56. -/
theorem test_quantile_example :
    let s : Sieve := { n := 2, ovf := 1, bins := [(44, 132), (60, 21), (200, 1048578), (255, 1)] }
    s.quantile 32768 = some 49152 ∧ s.quantile 1 = some 56 := by
  decide +kernel

/-! ### Features, ensembles, rules (09 to 11) -/

/-- The PEER_QUOT feature of the example. -/
def quotient : Feature :=
  { kind := 9, width := 0, cat := false, slot := 37, nedge := 14, srcA := 0, srcB := 0, peer1 := 0, peer2 := 0, const := 0, q := 0, lo := 0,
    hi := 0x41000000, edges := [0x3E800000, 0x3F000000, 0x3F200000, 0x3F400000, 0x3F600000, 0x3F800000, 0x3F900000, 0x3FA00000,
      0x3FC00000, 0x3FE00000, 0x40000000, 0x40200000, 0x40400000, 0x40800000], raw := [] }

/-- The codes and clamps of the table (R229, R230). -/
theorem test_code_example :
    [0x3F800000, 0x3F7FFFFF, 0x3FE00000, 0x40800000, 0x41100000, 0x7F800000, 0x7FC00000, 0x80000000, 1, 0x80000001].map
      (fun x => quotient.code x none 0) =
    [(6, false), (5, false), (10, false), (14, false), (14, true), (14, true), (15, false), (0, false), (0, false), (0, true)] := by
  decide +kernel

/-- The detector of the example: QUIET at 65,536, UP in window seven (R232). -/
theorem test_detector_example :
    let d : DetectorDef := { slot := 0, en := true, half := false, resetOn := false, crumb := false, target := 0x3F800000, slack := 0x4000,
                             limit := 0x10000 }
    let six := [0x3FC00000, 0x3FC00000, 0x3FA00000, 0x3FC00000, f32NaN, 0x3FC00000].foldl (fun x v => x.take d v) ({} : Detector)
    six.up = 65536 ∧ six.down = 0 ∧ six.output d.limit = 0 ∧ (six.take d 0x3FC00000).up = 81920 ∧ (six.take d 0x3FC00000).output d.limit = 1 := by
  decide +kernel

/-- The walk of the example reaches leaf 160, which holds +23 and −4 (R242, R243). -/
theorem test_tree_example :
    let nodes := [0x1925, 0x62050, 0x435, 0x6000, 0x1C25, 0x8160, 0x4000].map (leBytes 4)
    let img : Bytes := [1, 2, 0, 0] ++ nodes.flatten ++ (List.replicate 248 (leBytes 4 0x4000)).flatten ++ zeros 640 ++ [0x17, 0xFC] ++ zeros 382
    let halves : Feature := { quotient with width := 1, slot := 96 }
    let codes : Bytes := patch (zeros 128) [(18, [0xA0]), (26, [0xF0]), (48, [4])]
    leafIndex [halves] img codes = 160 ∧ treeLeaf img 160 0 = 23 ∧ treeLeaf img 160 1 = -4 := by
  decide +kernel

/-- The rule group of the example: the key of rank 611 matches entry 2 (R269, R270). -/
theorem test_rule_example :
    let entry (v c : List Nat) : Bytes := (v.map (leBytes 2)).flatten ++ zeros 122 ++ (c.map (leBytes 2)).flatten ++ zeros 154
    let img : Bytes := patch (zeros 4096) [(4, [4])] ++ entry [0x800, 0, 0] [0x4800, 0, 0] ++ entry [0x100, 0, 8] [0x4900, 0x7FFC, 0x4008] ++
      entry [0x100, 0, 0x4000] [0x4900, 0x7FFC, 0x4000] ++ entry [0, 0, 0] [0, 0, 0]
    ruleMatch img (0x3FF + 2 ^ 16 + 0x4000 * 2 ^ 32) = some 2 ∧ ruleMatch img (0x3FF + 2 ^ 16 + 0x3F * 2 ^ 32) = some 1 := by
  decide +kernel

/-! ### Recorder and registers (17, 21) -/

/-- The ALARM_LATE crumb of the example, byte by byte (R409, R413). -/
theorem test_crumb_example :
    crumbBytes 0x1301 true false false 0x20526000 3 455 418 (leBytes 4 0x30398 ++ leBytes 3 0x29 ++ zeros 1) 0 ++ [0xA4] =
    [1, 0x13, 0x82, 0, 0, 0x60, 0x52, 0x20, 3, 0, 0, 0, 0xC7, 1, 0, 0, 0xA2, 1, 0, 0, 0x98, 3, 3, 0, 0x29, 0, 0, 0, 0, 0, 0, 0xA4] := by
  decide +kernel

/-- Offsets of arrays, and a register with an RO field at reset (R463, R465). -/
theorem test_register_examples :
    Reg.TRC_FEED_LOSS + 4 * 9 = 0x60224 ∧ Reg.ENS_TRG_EDGE + 4 * (16 * 5 + 2) = 0xC2148 ∧ Reg.HST_CMD_CFG = 0x121008 ∧
      State.reset.t.view Reg.HST_CMD_CFG = 0x40060000 := by
  decide +kernel

/-- IDCODE reads 0x1425_4001 with jtag_mfr 0 (R487), captured on the way from Test-Logic-Reset into Shift-DR (R483). -/
theorem test_idcode_example :
    idcode 0 = 0x14254001 ∧
    ([false, true, false, false].foldl (fun t tms => t.clock true tms false false []) ({} : TestPort)).drPath =
      (List.range 32).map (fun i => (0x14254001 : BitVec 32).getLsbD i) := by
  decide +kernel

/-! ### Trace and anvil (05_trace_capture.md, 12_anvil_stragglers_and_search.md) -/

/-- Region 6 of the trace example as its sync describes it, TRC_TIME.TOL 16, operating point 0 with a period of 8 ticks. -/
def traceDie (e : List FeedEntry) : Block :=
  ((((on.d.setReg Reg.TIM_OPP 0x800000).setReg Reg.TRC_TIME 16).setReg Reg.TRC_EN_LO 0x40).modTrace
    (fun t => { t with phase := 2, loaf := some { seq := 0, blk := 3, rawOnly := false, effort := 0, startFt := 0 } })).modTraceRegion 6
    (fun r => { r with pc := 10000, a := 0x4200, d := 0x10000000, fta := 7000000, pca := 10000, feed := e })

/-- A feed entry (R107). -/
def entryOf (pc kind attr payload : Nat) (stamp : BitVec 64) : FeedEntry :=
  ⟨BitVec.ofNat 128 (pc * 2 ^ 80 + kind * 2 ^ 77 + attr * 2 ^ 64 + payload), stamp⟩

/-- The four entries of the example. -/
def traceEntries : List FeedEntry :=
  [entryOf 10064 0 0 (64 * 2 ^ 32 + 0x4200) 7000512, entryOf 10070 2 0x0E 0x10000400 7000600, entryOf 10072 1 3 0x5100 7000616,
    entryOf 10200 0 0 (128 * 2 ^ 32 + 0x5100) 7001650]

/-- The bytes of the example's packets. -/
def tracePackets : Bytes :=
  [0x10, 6, 0x40, 0, 0x40, 0, 0x14, 6, 6, 0, 0x58, 2, 0, 0, 0x20, 6, 0x0E, 0, 0, 0, 4, 0, 0, 0x11, 6, 2, 0, 3, 0, 0, 0x51, 0, 0,
    0x10, 6, 0x80, 0, 0x80, 0]

/-- The bytes of the example's sync. -/
def traceSync : Bytes :=
  [1, 6, 0, 0, 0x10, 0x27, 0, 0, 0, 0, 0, 0, 0, 0x10, 0, 0, 0, 0x42, 0, 0, 0xA2, 1, 0x80, 0, 0xC0, 0xCF, 0x6A, 0, 0, 0, 0, 0]

/-- FEED_STEP, FEED_LOAD, FEED_DIVERT, FEED_STEP place the packets of the example (R110 to R112). -/
theorem test_trace_example :
    (match execFeedStep 6 { on with d := traceDie traceEntries } with
      | .next s => match execFeedLoad 6 s with
        | .next s => match execFeedDivert 6 s with
          | .next s => match execFeedStep 6 s with | .next s => s.d.die.trace.loaf.map TraceLoaf.input | _ => Option.none
          | _ => Option.none
        | _ => Option.none
      | _ => Option.none) = some tracePackets ∧
    ((traceDie []).modPort 6 (fun p => { p with cmd := { p.cmd with tag := 0x1A2, opened := true } })).syncPacket 6 0 10000 0x4200 7000000 =
      traceSync := by
  decide +kernel

/-- The two blocks and the range of the anvil's example, for region 6. -/
def anvilImage : Bytes :=
  let block (start n g : Nat) (exit : Bytes) (div : Nat) (ts : List Nat) (rc : Nat) : Bytes :=
    leBytes 4 start ++ leBytes 2 n ++ leBytes 2 g ++ exit ++ leBytes 2 div ++ (ts.map (leBytes 4)).flatten ++ leBytes 2 0 ++ leBytes 2 rc
  let u := 0xFFFFFFFF
  patch (zeros 80) [(4, [1]), (8, [3]), (12, [1]), (64, [6]), (72, [3])] ++ block 0x4200 64 8 [1, 0] 3 [0x5100, 0x6000, u, u] 1 ++
    block 0x5100 128 0 [0, 0] 0 [0x5180, u, u, u] 0 ++ block 0x5180 1 0 [2, 0] 0 [u, u, u, u] 0 ++
    leBytes 6 0x10000000 ++ leBytes 6 0x1000FFFF ++ [1, 1, 0, 0]

/-- The example's loaf, with other bytes for its divert's target and its second run's DPC. -/
def anvilLoaf (target : Bytes) (dpc : Nat) : Bytes :=
  dieHead 2 ++ [0, 1] ++ zeros 20 ++ traceSync ++ patch tracePackets [(29, target), (35, [dpc])]

/-- What the comparison of a loaf says: deviations, region 6's DUE, its CYCLES and COST. -/
def anvilSays (out : Bytes) : List Dev × Int × Option (Nat × Int) :=
  let l := (compareLoaf anvilImage [] (fun _ => 0x800000) out).1
  (l.devs.map LoafDev.dev, (l.region 6).cmp.due, (l.region 6).cost (fun _ => 0x800000))

/-- No deviation and a cost of 40 ticks; a lost cycle gives SHIFT and DUE 10,202; the target 0x5200 gives DIVERT_TARGET, then
UNKNOWN (R284, R290). -/
theorem test_anvil_example :
    anvilSays (anvilLoaf [0, 0x51] 0x80) = ([], 10201, some (200, 40)) ∧
    anvilSays (anvilLoaf [0, 0x51] 0x81) = ([(0, 10073, 10074)], 10202, some (201, 40)) ∧
    ((anvilSays (anvilLoaf [0, 0x52] 0x80)).1).take 2 = [(3, 0x5100, 0x5200), (8, 0, 0x5200)] := by
  decide +kernel

/-! ### Taps and slag (04_die_taps_and_counters.md) -/

/-- The counters of the slag example: groups 5 (transactional) and 6 with their selectors, ports 12 and 13 enabled. -/
def slagDie : Block :=
  [(Reg.TAP_EN_LO, 0x3000), (Reg.CNT_GRP_CTL + 20, 0x90000FFF), (Reg.CNT_GRP_CTL + 24, 0x80000FFF),
    (Reg.CNT_SEL + 4 * 320, 0xA0000210), (Reg.CNT_SEL + 4 * 321, 0xA0000211), (Reg.CNT_SEL + 4 * 384, 0xA0000220),
    (Reg.CNT_SEL + 4 * 385, 0xE0200000), (Reg.CNT_SEL + 4 * 386, 0xE0280000)].foldl (fun b e => b.setReg e.1 (BitVec.ofNat 32 e.2)) on.d

/-- A tap word: kind, region, TX, slot, code, INC, CMD (R83), with its port. -/
def tapWord (kind region tx slot code inc cmd : Nat) : Nat × TapWord :=
  (region, ⟨BitVec.ofNat 64 (kind * 2 ^ 60 + region * 2 ^ 54 + tx * 2 ^ 53 + slot * 2 ^ 50 + code * 2 ^ 38 + inc * 2 ^ 22 + cmd), 0, 0, false⟩)

/-- The first three words of a step of the example. -/
def slagWords : List (Nat × TapWord) :=
  [tapWord 3 12 1 2 1 0 0xA3, tapWord 0 12 1 2 0x210 4 0, tapWord 0 12 1 2 0x211 16384 0]

/-- What the example reads: counters 320, 321, 384, 385, 386, slag 0 and 1. -/
def slagSays (b : Block) : List Nat :=
  [(b.counter 0 320).v, (b.counter 0 321).v, (b.counter 0 384).v, (b.counter 0 385).v, (b.counter 0 386).v, (b.counter 3 0).v,
    (b.counter 3 1).v]

/-- One step of the example sends its tokens to slag, with one abort and one emitted token; a CANCEL of the request does so
without an abort word (R88, R91, R98, R101). -/
theorem test_slag_example :
    slagSays ((slagWords ++ [tapWord 5 13 1 2 0 0 0, tapWord 0 13 0 0 0x220 1 0]).foldl (fun b w => b.processWord w.1 w.2) slagDie) =
      [0, 0, 1, 0, 1, 4, 16384] ∧
    (let b := (slagWords ++ [tapWord 11 0 0 0 0 0 0xA3, tapWord 5 13 1 2 0 0 0]).foldl (fun b w => b.processWord w.1 w.2)
      (slagDie.setReg Reg.TAP_EN_LO 0x3001)
     slagSays b = [0, 0, 0, 0, 0, 4, 16384] ∧ b.reg Reg.TAP_ERR = 1) := by
  decide +kernel

/-! ### Votes, stragglers, search (12_anvil_stragglers_and_search.md) -/

/-- Group 0x0011: ranks 40, 41, 42 on channel 2; equal digests of 40 and 42 AGREE, 41 DISSENTs (R303); TEMP 1,042 with shift 4 enters
bin 48 (R182). -/
theorem test_vote_example :
    let rec_ (rank d : Nat) : Bytes := leBytes 8 0x380301 ++ leBytes 4 rank ++ [2, 0, 0, 0] ++ leBytes 4 0xB07 ++ zeros 8 ++ List.replicate 16 (BitVec.ofNat 8 d) ++
      leBytes 2 0x412 ++ zeros 10
    let rs := [rec_ 40 7, rec_ 41 9, rec_ 42 7]
    [40, 41, 42].map (outcomeOf rs) = [0, 1, 0] ∧ majority rs = some (List.replicate 16 7) ∧
      (({ shift := 4, n := 1 : Sieve }.enter 0x412).bins) = [(48, 1)] := by
  decide +kernel

/-- The straggler table of the example: barrier 0 is marker 0xB001 on region 3. -/
def slowTable : Stragglers := { late := 32000, persist := 6, topk := 9, swapPer := 64, swapOfs := 3, again := 1, bars := [⟨0xB001, 3, 8⟩] }

/-- The statistic of the example: M is 1,000,000. -/
def slowStat : Item :=
  { id := 8, op := 2, form := 0, sat := false, nan := false, late := false, body := leBytes 4 2 ++ zeros 4 ++ leBytes 8 1000000 }

/-- Ranks 7,305 and 2,118 of the example at the pass of window 500,001. -/
def slowTray : Block :=
  let x : Ctx := { ctx7 with
    an := { ({} : Analysis) with
      wins := [{ w := 500000, cover := [(2118, { marks := [(0, 0, 1150000)] }), (7305, { marks := [(0, 0, 1096000)] })] }],
      ranks := [(7305, { mask := 0x2D9 })] } }
  on.t.setCtx 0 x

/-- Rank 7,305 scores 96,000 with MASK 0x05B3 and VALUE 0x8001_7700, rank 2,118 scores 150,000 with VALUE 0x0002_49F0; the swap window
of a job hearth of height 4 in window 500,002 is 500,035 (R295 to R297). -/
theorem test_straggler_example :
    (let b := slowTray.stragglerScore 0 500001 500000 7305 slowTable [slowStat]
     ((b.ctx 0).an.rank 7305).mask = 0x5B3 ∧ sget (fun _ => (0 : Nat)) (b.win 0 500001).scores 7305 = 0x80017700) ∧
    (let b := slowTray.stragglerScore 0 500001 500000 2118 slowTable [slowStat]
     ((b.ctx 0).an.rank 2118).mask = 1 ∧ sget (fun _ => (0 : Nat)) (b.win 0 500001).scores 2118 = 0x249F0) ∧
    ({ ctx7 with hop := 8, height := 4 } : Ctx).swapWindow slowTable (windowEnd 10 (BitVec.ofNat 64 (500001 * 16384000)) 500001 + 1000000) = 500035 := by
  decide +kernel

/-- The search example: 490 windows of exponent 10, 811,857 to 812,346, meet the range (R309). -/
theorem test_search_range_example :
    let spec := patch (zeros 128) [(4, [1]), (8, leBytes 8 13301479264000), (16, leBytes 8 13309479264001)]
    ((List.range 500).map (· + 811850)).filter (fun w => windowIn spec 10 (BitVec.ofNat 64 13400000000000) w) = (List.range 490).map (· + 811857) := by
  decide +kernel

/-! ### Broadcast, scores, tests, rings (08, 10, 15, 20) -/

/-- The ACK deadlines of the example, H 3, HOP 8: S less 48, 56, 64 and 72 µs (R196). -/
theorem test_deadline_example :
    let x : Ctx := { ctx7 with hop := 8, height := 3, start := 16384000 }
    (List.range 4).map (fun h => (x.start - x.ackDeadlineAt h).toNat / 16000) = [48, 56, 64, 72] := by
  decide +kernel

/-- Lane 17 of quad 2 mismatches at two entries: IST_LAST tells it, and the retirement sends logical lane 17 to lane 32 (R261, R459). -/
theorem test_lane_example :
    let b := ((on.t.testStep 2 [17]).testStep 2 [17])
    b.reg Reg.IST_LAST = BitVec.ofNat 32 (2 * 2 ^ 26 + 17) ∧ b.isSet Reg.IST_STS 1 = true ∧
      (let r := b.retire (unitKey 0 2 17)
       r.laneOf 2 17 = 32 ∧ r.laneFailed 2 17 = true) := by
  decide +kernel

/-- The completion entry of the duplicate TREE_LOAD in the ring example (R384). -/
theorem test_completion_example :
    completionBytes { desc 0x30 [(4, leBytes 8 0x7A10)] with ring := 2 } 1 0 (leBytes 1 0) ++ zeros 0 =
      [0x10, 0x7A, 0, 0, 1, 0x30, 2, 0] ++ zeros 23 ++ [0] := by
  decide +kernel

end Sys2Proof.Tests
end

/-! The shape of every command: which block it writes, what it leaves of the state, and that the queue drains (R2). -/

namespace Sys2Proof.Machine

/-! ### The block that a command writes -/

/-- A block that is stored leaves the other block as it is. -/
theorem State.setBlock_sameBlock_other (s : State) (b : Build) (x : Block) : s.sameBlock (s.setBlock b x) b.other := by
  cases b
  case D => exact ⟨rfl, rfl, rfl⟩
  case T => exact ⟨rfl, rfl⟩

/-- What a command can do that is neither a reset nor a level: it stores its own block while that block runs, and changes nothing while it is
stopped (R484, R485). -/
theorem exec_eq_ite_running (c : Instr) (s : State) (hr : c.isReset = false) (hl : c.isLevel = false) :
    ∃ x, exec c s = .next (if s.running c.target then s.setBlock c.target x else s) := by
  cases c
  case borluDResetAssert | borluDResetRelease | borluTResetAssert | borluTResetRelease | alignPulse => cases hr
  case regionStretch | trcLinkUpChange | regionSecureChange | schedDebugFall | busMasterEnableChange => cases hl
  all_goals exact ⟨_, rfl⟩

/-- A command that brings the level of an input stores its own block, in a reset as well (R366, R476). -/
theorem exec_of_isLevel (c : Instr) (s : State) (hl : c.isLevel = true) : ∃ x, exec c s = .next (s.setBlock c.target x) := by
  cases c
  case regionStretch | trcLinkUpChange | regionSecureChange | schedDebugFall | busMasterEnableChange => exact ⟨_, rfl⟩
  all_goals cases hl

/-- A command that is not a reset stores its own block and changes nothing else. -/
theorem exec_of_not_isReset (c : Instr) (s : State) (hr : c.isReset = false) :
    ∃ x, exec c s = .next (s.setBlock c.target x) := by
  cases hl : c.isLevel with
  | true => exact exec_of_isLevel c s hl
  | false =>
    obtain ⟨x, hx⟩ := exec_eq_ite_running c s hr hl
    cases hrun : s.running c.target with
    | true => exact ⟨x, by rw [hx, hrun, if_pos rfl]⟩
    | false => exact ⟨s.block c.target, by rw [hx, hrun, if_neg Bool.false_ne_true, State.setBlock_same]⟩

/-! ### What a command leaves -/

/-- What a command of block `b` leaves of the state: the queue, the other block, its reset and its alignment. -/
def State.confinedTo (s : State) (b : Build) (t : State) : Prop := t.pending = s.pending ∧ s.sameBlock t b.other

theorem State.confinedTo_refl (s : State) (b : Build) : s.confinedTo b s := by
  cases b
  case D => exact ⟨rfl, rfl, rfl, rfl⟩
  case T => exact ⟨rfl, rfl, rfl⟩

theorem State.setBlock_confinedTo (s : State) (b : Build) (x : Block) : s.confinedTo b (s.setBlock b x) :=
  ⟨s.setBlock_pending b x, s.setBlock_sameBlock_other b x⟩

/-- An event that acts under a condition, and changes nothing otherwise, is confined where its act is. -/
theorem State.confinedTo_ite (s : State) (b : Build) (t : State) (p : Prop) [Decidable p] (h : s.confinedTo b t) :
    s.confinedTo b (if p then t else s) := by
  split
  · exact h
  · exact s.confinedTo_refl b

/-- The reset lines and the alignment pulse are a block's own (R484, R485). -/
theorem exec_confined_of_isReset (c : Instr) (s : State) (hr : c.isReset = true) :
    ∃ t, exec c s = .next t ∧ s.confinedTo c.target t := by
  cases c
  case borluDResetAssert => exact ⟨_, rfl, rfl, rfl, rfl, rfl⟩
  case borluTResetAssert => exact ⟨_, rfl, rfl, rfl, rfl⟩
  case borluDResetRelease => exact ⟨_, rfl, s.confinedTo_ite .D _ _ ⟨rfl, rfl, rfl, rfl⟩⟩
  case borluTResetRelease => exact ⟨_, rfl, s.confinedTo_ite .T _ _ ⟨rfl, rfl, rfl⟩⟩
  case alignPulse => exact ⟨_, rfl, s.confinedTo_ite .T _ _ ⟨rfl, rfl, rfl⟩⟩
  all_goals cases hr

/-- Every command answers a next state, and is confined to the block it is given to (R2). -/
theorem exec_confined (c : Instr) (s : State) : ∃ t, exec c s = .next t ∧ s.confinedTo c.target t := by
  cases hr : c.isReset with
  | true => exact exec_confined_of_isReset c s hr
  | false =>
    obtain ⟨x, hx⟩ := exec_of_not_isReset c s hr
    exact ⟨_, hx, s.setBlock_confinedTo c.target x⟩

/-! ### The queue -/

/-- A step on a waiting command answers a next state, with the queue's rest. -/
theorem step_of_pending_cons (s : State) (c : Instr) (rest : List Instr) (h : s.pending = c :: rest) :
    ∃ t, step s = .next t ∧ t.pending = rest := by
  obtain ⟨t, ht, hq, -⟩ := exec_confined c { s with pending := rest }
  exact ⟨t, by simp only [step, h, ht], hq⟩

theorem State.drain_succ (s t : State) (n : Nat) (h : step s = .next t) : s.drain (n + 1) = t.drain n := by
  simp only [State.drain, h]

/-- Where `q` waits, as many steps as `q` is long leave the queue empty. -/
theorem State.drain_of_pending (q : List Instr) (s : State) (h : s.pending = q) :
    ∃ t, s.drain q.length = some t ∧ t.pending = [] := by
  induction q generalizing s with
  | nil => exact ⟨s, rfl, h⟩
  | cons c rest ih =>
    obtain ⟨u, hstep, hu⟩ := step_of_pending_cons s c rest h
    obtain ⟨t, hdrain, ht⟩ := ih u hu
    exact ⟨t, (s.drain_succ u rest.length hstep).trans hdrain, ht⟩

/-- Settles O2: every command is confined to its block by the shape of its meaning, and the queue drains by induction on it. -/
theorem commandsTouchOneBlock : Obligations.CommandsTouchOneBlock := by
  unfold Obligations.CommandsTouchOneBlock
  exact ⟨exec_confined, fun s => s.drain_of_pending s.pending rfl⟩

end Sys2Proof.Machine

/-! Egress ports: what the arbiter decides, what the last beat, a write of FREEZE or of a bucket and an alarm slot do (R27, R396 to R403). -/

namespace Sys2Proof.Machine

/-! ### The arbiter's decision -/

/-- The decision of a port of Borlu-T falls on the lowest tier that has an eligible requester (R400). -/
theorem Block.decision_of_lowest_tier (b : Block) (p t r : Nat) (hT : b.build = .T) (ht : t < 3)
    (hlower : ∀ u < t, b.pickTier p u = none) (hpick : b.pickTier p t = some r) : b.decision p = b.grantTo p t r := by
  match t, ht with
  | 0, _ => simp only [Block.decision, hT, List.filterMap_cons, hpick, Option.map_some, List.head?_cons]
  | 1, _ =>
    have h0 := hlower 0 (by decide)
    simp only [Block.decision, hT, List.filterMap_cons, h0, hpick, Option.map_none, Option.map_some, List.head?_cons]
  | 2, _ =>
    have h0 := hlower 0 (by decide)
    have h1 := hlower 1 (by decide)
    simp only [Block.decision, hT, List.filterMap_cons, h0, h1, hpick, Option.map_none, Option.map_some, List.head?_cons]

/-- A port of Borlu-T without an eligible requester grants nothing. -/
theorem Block.decision_of_no_tier (b : Block) (p : Nat) (hT : b.build = .T) (hnone : ∀ u < 3, b.pickTier p u = none) :
    b.decision p = b := by
  have h0 := hnone 0 (by decide)
  have h1 := hnone 1 (by decide)
  have h2 := hnone 2 (by decide)
  simp only [Block.decision, hT, List.filterMap_cons, List.filterMap_nil, h0, h1, h2, Option.map_none, List.head?_nil]

/-- EGRESS_DECISION on a port of a running block that has no running grant is the arbiter's decision. -/
theorem exec_egressDecision (s : State) (b : Build) (p : Fin 9) (hrun : s.running b = true)
    (hp : p.val < portCount (s.block b).build) (hfree : ((s.block b).port p).grant = none) :
    exec (.egressDecision b p) s = .next (s.setBlock b ((s.block b).decision p)) := by
  change execEgressDecision b p s = _
  simp only [execEgressDecision, onBlock_running b _ s hrun, decide_eq_true hp, hfree, Option.isNone_none, Bool.and_self,
    Block.when_true]

theorem exec_egressDecision_of_lowest_tier (s : State) (b : Build) (p : Fin 9) (t r : Nat) (hrun : s.running b = true)
    (hp : p.val < portCount (s.block b).build) (hfree : ((s.block b).port p).grant = none) (hT : (s.block b).build = .T) (ht : t < 3)
    (hlower : ∀ u < t, (s.block b).pickTier p u = none) (hpick : (s.block b).pickTier p t = some r) :
    exec (.egressDecision b p) s = .next (s.setBlock b ((s.block b).grantTo p t r)) := by
  rw [exec_egressDecision s b p hrun hp hfree, Block.decision_of_lowest_tier _ _ t r hT ht hlower hpick]

theorem exec_egressDecision_of_no_tier (s : State) (b : Build) (p : Fin 9) (hrun : s.running b = true)
    (hp : p.val < portCount (s.block b).build) (hfree : ((s.block b).port p).grant = none) (hT : (s.block b).build = .T)
    (hnone : ∀ u < 3, (s.block b).pickTier p u = none) : exec (.egressDecision b p) s = .next s := by
  rw [exec_egressDecision s b p hrun hp hfree, Block.decision_of_no_tier _ _ hT hnone, State.setBlock_same]

/-! ### The last beat and FREEZE -/

theorem exec_frameLastBeat (s : State) (b : Build) (p : Fin 9) (g : Grant) (hrun : s.running b = true)
    (hp : p.val < portCount (s.block b).build) (hg : ((s.block b).port p).grant = some g) :
    exec (.frameLastBeat b p) s = .next (s.setBlock b ((s.block b).lastBeat p g)) := by
  change execFrameLastBeat b p s = _
  simp only [execFrameLastBeat, onBlock_running b _ s hrun, decide_eq_true hp, hg, Block.when_true]

theorem exec_egrFreezeWrite (s : State) (b : Build) (p : Fin 9) (v : Word) (hrun : s.running b = true)
    (hp : p.val < portCount (s.block b).build) :
    exec (.egrFreezeWrite b p v) s = .next (s.setBlock b ((s.block b).writeFreeze p v)) := by
  change execEgrFreezeWrite b p v s = _
  simp only [execEgrFreezeWrite, onBlock_running b _ s hrun, decide_eq_true hp, Block.when_true]

/-! ### The buckets -/

/-- The register that EGR_BKT_RECONFIG writes (R403). -/
def bucketReg (which : Fin 3) : Nat := match which with | 0 => Reg.EGR_BKT_RATE | 1 => Reg.EGR_BKT_BURST | _ => Reg.EGR_BKT_CFG

theorem bucketReg_zero : bucketReg 0 = Reg.EGR_BKT_RATE := rfl
theorem bucketReg_one : bucketReg 1 = Reg.EGR_BKT_BURST := rfl
theorem bucketReg_two : bucketReg 2 = Reg.EGR_BKT_CFG := rfl

theorem burstReg_ne_rateReg : Reg.EGR_BKT_BURST ≠ Reg.EGR_BKT_RATE := by decide
theorem cfgReg_ne_rateReg : Reg.EGR_BKT_CFG ≠ Reg.EGR_BKT_RATE := by decide
theorem cfgReg_ne_burstReg : Reg.EGR_BKT_CFG ≠ Reg.EGR_BKT_BURST := by decide

section
variable (b : Block) (p r : Nat) (v : Word) (hsel : b.egrSel = some (p, r))
include hsel

/-- A write of RATE stores its 24 bits in the selected bucket and marks it (R403). -/
theorem Block.writeBucket_rate : b.writeBucket Reg.EGR_BKT_RATE v = b.setPort p
    ({ b.port p with rate := sput (fun _ => (0x100 : Word)) (b.port p).rate r (v &&& 0xFFFFFF) }.reconfigure r) := by
  simp only [Block.writeBucket, hsel, if_true]

/-- A write of BURST stores its 24 bits in the selected bucket and marks it (R403). -/
theorem Block.writeBucket_burst : b.writeBucket Reg.EGR_BKT_BURST v = b.setPort p
    ({ b.port p with burst := sput (fun _ => (0x1000 : Word)) (b.port p).burst r (v &&& 0xFFFFFF) }.reconfigure r) := by
  simp only [Block.writeBucket, hsel, if_neg burstReg_ne_rateReg, if_true]

/-- A write of CFG stores its fields in the selected bucket and marks it (R403). -/
theorem Block.writeBucket_cfg : b.writeBucket Reg.EGR_BKT_CFG v = b.setPort p
    ({ b.port p with cfg := sput (fun _ => (0x80001000 : Word)) (b.port p).cfg r (v &&& 0x80FF7FFF) }.reconfigure r) := by
  simp only [Block.writeBucket, hsel, if_neg cfgReg_ne_rateReg, if_neg cfgReg_ne_burstReg]

end

theorem exec_egrBktReconfig (s : State) (b : Build) (which : Fin 3) (v : Word) (hrun : s.running b = true) :
    exec (.egrBktReconfig b which v) s = .next (s.setBlock b ((s.block b).writeBucket (bucketReg which) v)) :=
  onBlock_running b (fun x => x.writeBucket (bucketReg which) v) s hrun

/-! ### The alarm slots -/

theorem exec_alarmSlotArrival (s : State) (hrun : s.running .D = true) : exec .alarmSlotArrival s =
    .next (s.setBlock .D ((((s.d.measureSlot.modBeats (fun _ => [])).slotFrame).slotFrame).modBeats slotBeats)) := by
  change execAlarmSlotArrival s = _
  rw [execAlarmSlotArrival, onDie_running _ s hrun]

/-- Settles O52: the arbiter by the lowest tier that has an eligible requester, each other command by what it does to its running block. -/
theorem egressPorts : Obligations.EgressPorts := by
  unfold Obligations.EgressPorts
  intro s b p v r port g
  refine ⟨fun hrun hp hfree hT => ⟨fun h0 => ?tier0, fun h0 h1 => ?tier1, fun h0 h1 h2 => ?tier2, fun h0 h1 h2 => ?noTier⟩,
    exec_frameLastBeat s b p g, exec_egrFreezeWrite s b p v, fun hrun hsel => ⟨?rate, ?burst, ?cfg⟩, exec_alarmSlotArrival s⟩
  case tier0 => exact exec_egressDecision_of_lowest_tier s b p 0 r hrun hp hfree hT (by decide) (fun _ hu => absurd hu (Nat.not_lt_zero _)) h0
  case tier1 => exact exec_egressDecision_of_lowest_tier s b p 1 r hrun hp hfree hT (by decide) (fun | 0, _ => h0) h1
  case tier2 =>
    exact exec_egressDecision_of_lowest_tier s b p 2 r hrun hp hfree hT (by decide)
      (fun | 0, _ => h0 | 1, _ => h1) h2
  case noTier =>
    exact exec_egressDecision_of_no_tier s b p hrun hp hfree hT (fun | 0, _ => h0 | 1, _ => h1 | 2, _ => h2)
  case rate => rw [exec_egrBktReconfig s b 0 v hrun, bucketReg_zero, Block.writeBucket_rate _ _ _ v hsel]
  case burst => rw [exec_egrBktReconfig s b 1 v hrun, bucketReg_one, Block.writeBucket_burst _ _ _ v hsel]
  case cfg => rw [exec_egrBktReconfig s b 2 v hrun, bucketReg_two, Block.writeBucket_cfg _ _ _ v hsel]

end Sys2Proof.Machine

/-! One cycle of a block's clock: it moves the time unit by the increment and the balance of a hold, and by nothing else (R38, R43). -/

namespace Sys2Proof.Machine

/-! ### The clock state: what a cycle moves fleet time by -/

/-- What a cycle moves fleet time by: the time unit, and the registers that hold the increment (R38, R39). -/
def Block.clockState (b : Block) : TimeUnit × Word × Word := (b.time, b.reg Reg.TIM_INCR_INT, b.reg Reg.TIM_INCR_FRAC)

theorem Block.time_of_clockState {x b : Block} (h : x.clockState = b.clockState) : x.time = b.time := congrArg Prod.fst h

theorem Block.incr_of_clockState {x b : Block} (h : x.clockState = b.clockState) : x.incr = b.incr := by
  simp only [Block.clockState, Prod.mk.injEq] at h
  obtain ⟨htime, hint, hfrac⟩ := h
  simp only [Block.incr, Block.fld, htime, hint, hfrac]

/-! #### Registers, counters and flags -/

/-- The register at this offset holds no part of the increment (R39). -/
abbrev notIncrReg (off : Nat) : Prop := off ≠ Reg.TIM_INCR_INT ∧ off ≠ Reg.TIM_INCR_FRAC

section
variable (b : Block)

@[simp] theorem Block.setReg_clockState (off : Nat) (v : Word) (h : notIncrReg off) : (b.setReg off v).clockState = b.clockState := by
  simp only [Block.clockState, Block.setReg_time, Block.setReg_reg_other b off _ v h.1.symm, Block.setReg_reg_other b off _ v h.2.symm]

@[simp] theorem Block.setFld_clockState (off hi lo v : Nat) (h : notIncrReg off) : (b.setFld off hi lo v).clockState = b.clockState :=
  b.setReg_clockState off _ h

@[simp] theorem Block.flag_clockState (off i : Nat) (h : notIncrReg off) : (b.flag off i).clockState = b.clockState :=
  b.setReg_clockState off _ h

@[simp] theorem Block.putBit_clockState (off i : Nat) (v : Bool) (h : notIncrReg off) : (b.putBit off i v).clockState = b.clockState :=
  b.setFld_clockState off i i _ h

/-- A branch keeps the clock state where both arms do. -/
@[simp] theorem Block.ite_clockState (p : Prop) [Decidable p] (x y : Block) :
    (if p then x else y).clockState = if p then x.clockState else y.clockState := apply_ite ..

@[simp] theorem Block.countF_clockState (off hi lo n : Nat) (h : notIncrReg off) : (b.countF off hi lo n).clockState = b.clockState := by
  simp only [Block.countF, Block.ite_clockState, Block.setFld_clockState b off _ _ _ h, ite_self]

@[simp] theorem Block.count_clockState (off n : Nat) (h : notIncrReg off) : (b.count off n).clockState = b.clockState :=
  b.countF_clockState off 31 0 n h

@[simp] theorem Block.raiseF_clockState (off hi lo v : Nat) (h : notIncrReg off) : (b.raiseF off hi lo v).clockState = b.clockState := by
  simp only [Block.raiseF, Block.ite_clockState, Block.setFld_clockState b off _ _ _ h, ite_self]

/-- No bank's flag in CNT_STS stands in the increment. -/
@[simp] theorem Block.addCounter_clockState (bank i v : Nat) : (b.addCounter bank i v).clockState = b.clockState := by
  rcases b.addCounter_cases bank i v with ⟨-, h⟩ | ⟨-, _, -, h | h⟩
  · rw [h]
  · rw [h]; rfl
  · rw [h, Block.flag_clockState _ _ _ (by decide)]; rfl

@[simp] theorem Block.lightAdd_clockState (n v : Nat) : (b.lightAdd n v).clockState = b.clockState := b.addCounter_clockState 1 n v

/-! #### Updates of the other units -/

@[simp] theorem Block.setPort_clockState (p : Nat) (x : EgPort) : (b.setPort p x).clockState = b.clockState := rfl
@[simp] theorem Block.modCtx_clockState (c : Nat) (f : Ctx → Ctx) : (b.modCtx c f).clockState = b.clockState := rfl
@[simp] theorem Block.modRec_clockState (f : Recorder → Recorder) : (b.modRec f).clockState = b.clockState := rfl
@[simp] theorem Block.modTaps_clockState (f : TapUnit → TapUnit) : (b.modTaps f).clockState = b.clockState := rfl
@[simp] theorem Block.modTrace_clockState (f : TraceUnit → TraceUnit) : (b.modTrace f).clockState = b.clockState := rfl
@[simp] theorem Block.modTraceRegion_clockState (p : Nat) (f : TraceRegion → TraceRegion) :
    (b.modTraceRegion p f).clockState = b.clockState := rfl
@[simp] theorem Block.modRegion_clockState (p : Nat) (f : Region → Region) : (b.modRegion p f).clockState = b.clockState := rfl
@[simp] theorem Block.modHost_clockState (f : HostUnit → HostUnit) : (b.modHost f).clockState = b.clockState := rfl
@[simp] theorem Block.modPres_clockState (f : Presence → Presence) : (b.modPres f).clockState = b.clockState := rfl
@[simp] theorem Block.modPtp_clockState (f : PtpUnit → PtpUnit) : (b.modPtp f).clockState = b.clockState := rfl
@[simp] theorem Block.update_die_clockState (x : DieUnit) : ({ b with die := x } : Block).clockState = b.clockState := rfl
@[simp] theorem Block.update_tray_clockState (x : TrayUnit) : ({ b with tray := x } : Block).clockState = b.clockState := rfl
@[simp] theorem Block.update_recorder_clockState (x : Recorder) : ({ b with recorder := x } : Block).clockState = b.clockState := rfl
@[simp] theorem Block.update_blockSeq_clockState (n : Nat) : ({ b with blockSeq := n } : Block).clockState = b.clockState := rfl

/-! #### Folds -/

theorem Block.forEach_clockState {α : Type} (xs : List α) (f : Block → α → Block)
    (h : ∀ x a, (f x a).clockState = x.clockState) : (b.forEach xs f).clockState = b.clockState :=
  Block.forEach_keeps (fun x => x.clockState = b.clockState) f xs b rfl (fun x a hx => (h x a).trans hx)

/-- A fold that numbers its steps. -/
theorem foldl_fst_clockState {α : Type} (xs : List α) (f : Block × Nat → α → Block × Nat)
    (h : ∀ x a, (f x a).1.clockState = x.1.clockState) (x : Block × Nat) : (xs.foldl f x).1.clockState = x.1.clockState := by
  induction xs generalizing x with
  | nil => rfl
  | cons a xs ih => exact (ih (f x a)).trans (h x a)

theorem Block.when_clockState (c : Bool) (f : Block → Block) (h : ∀ x, (f x).clockState = x.clockState) :
    (b.when c f).clockState = b.clockState := by
  cases c
  · rfl
  · exact h b

/-! #### Sending -/

@[simp] theorem Block.queueItem_clockState (c cls : Nat) (d : Dest) (bytes : Bytes) :
    (b.queueItem c cls d bytes).clockState = b.clockState := by
  simp [Block.queueItem]

@[simp] theorem Block.seqNext_clockState (c : Option Nat) : (b.seqNext c).clockState = b.clockState := by
  cases c <;> rfl

@[simp] theorem Block.frameSent_clockState : b.frameSent.clockState = b.clockState := by
  unfold Block.frameSent
  cases b.asleep
  · cases hb : b.build <;> simp (disch := decide) [hb]
  · rfl

@[simp] theorem Block.sendOutput_clockState (w : Send) (ps : List Bytes) : (b.sendOutput w ps).clockState = b.clockState :=
  foldl_fst_clockState ps _ (fun x p => by simp) (b, 0)

@[simp] theorem Block.sendControl_clockState (c : Option Nat) (d : Dest) (ctype : Nat) (body : Bytes) (l : Option Nat) (i : Bool) :
    (b.sendControl c d ctype body l i).clockState = b.clockState :=
  Block.sendOutput_clockState _ _ _

@[simp] theorem Block.placeAlarm_clockState (p c : Nat) (d : Dest) (bytes : Bytes) :
    (b.placeAlarm p c d bytes).clockState = b.clockState := by simp [Block.placeAlarm]

@[simp] theorem Block.coalesceAlarms_clockState (p c : Nat) (d : Dest) (rs : List Bytes) :
    (b.coalesceAlarms p c d rs).clockState = b.clockState := by simp (disch := decide) [Block.coalesceAlarms]

@[simp] theorem Block.alarmsSent_clockState (rs : List Bytes) : (b.alarmsSent rs).clockState = b.clockState := by
  unfold Block.alarmsSent
  split <;> simp

@[simp] theorem Block.sendAlarm_clockState (c via : Option Nat) (d : Dest) (w : Nat) (rs : List Bytes) :
    (b.sendAlarm c via d w rs).clockState = b.clockState := by simp [Block.sendAlarm]

/-! #### The host's rings -/

@[simp] theorem Block.modOut_clockState (d : Nat) (f : OutRing → OutRing) : (b.modOut d f).clockState = b.clockState := by
  simp [Block.modOut, Block.modExp]

@[simp] theorem Block.queueEntry_clockState (d req : Nat) (e : Bytes) (x : Option Nat) :
    (b.queueEntry d req e x).clockState = b.clockState := by simp [Block.queueEntry]

@[simp] theorem Block.writeEvent_clockState (req etype eflags job : Nat) (body : Bytes) :
    (b.writeEvent req etype eflags job body).clockState = b.clockState := by simp [Block.writeEvent]

@[simp] theorem Block.pushEvent_clockState (etype job : Nat) (body : Bytes) : (b.pushEvent etype job body).clockState = b.clockState := by
  simp (disch := decide) [Block.pushEvent]

@[simp] theorem Block.holdAlarm_clockState (job : Nat) (r : Bytes) : (b.holdAlarm job r).clockState = b.clockState := by
  simp (disch := decide) [Block.holdAlarm]

@[simp] theorem Block.pushAlarm_clockState (c job : Nat) (r : Bytes) : (b.pushAlarm c job r).clockState = b.clockState := by
  simp (disch := decide) [Block.pushAlarm]

@[simp] theorem Block.flushCpl_clockState (i n : Nat) : (b.flushCpl i n).clockState = b.clockState := by
  induction n generalizing b with
  | zero => rfl
  | succ n ih =>
    simp only [Block.flushCpl]
    split
    · rfl
    · split
      · simp [ih]
      · rfl

@[simp] theorem Block.countStatus_clockState (status : Nat) : (b.countStatus status).clockState = b.clockState := by
  simp (disch := decide) [Block.countStatus]

@[simp] theorem Block.complete_clockState (t : Taken) (status len : Nat) (result : Bytes) :
    (b.complete t status len result).clockState = b.clockState := by simp [Block.complete, Block.writeCompletion]

/-! #### Crumbs and alarms -/

@[simp] theorem Block.crumbCounted_clockState (lost : Bool) : (b.crumbCounted lost).clockState = b.clockState := by
  simp (disch := decide) [Block.crumbCounted]

@[simp] theorem Block.ringCrumb_clockState (body : Bytes) : (b.ringCrumb body).clockState = b.clockState := by simp [Block.ringCrumb]

@[simp] theorem Block.flashCrumb_clockState (body : Bytes) : (b.flashCrumb body).clockState = b.clockState := by
  simp (disch := decide) [Block.flashCrumb]

@[simp] theorem Block.storeHealth_clockState (body : Bytes) : (b.storeHealth body).clockState = b.clockState := by
  simp [Block.storeHealth]

@[simp] theorem Block.healthCrumb_clockState (code p0 p1 p2 : Nat) (pinned : Bool) :
    (b.healthCrumb code p0 p1 p2 pinned).clockState = b.clockState := by
  unfold Block.healthCrumb
  split <;> simp

@[simp] theorem Block.raiseAlarm_clockState (c code unit : Nat) (rank : Option Nat) (w param : Nat) :
    (b.raiseAlarm c code unit rank w param).clockState = b.clockState := by
  unfold Block.raiseAlarm
  split <;> simp


/-! #### Sensor samples -/

theorem notIncrReg_sensorVal (ch : Nat) : notIncrReg (Reg.PWR_SNS_VAL + 4 * ch) := by
  constructor <;> simp only [Reg.PWR_SNS_VAL, Reg.TIM_INCR_INT, Reg.TIM_INCR_FRAC] <;> omega

@[simp] theorem Block.thermalAlarm_clockState (param : Nat) : (b.thermalAlarm param).clockState = b.clockState := by
  unfold Block.thermalAlarm
  split
  · exact b.forEach_clockState _ _ (fun x c => by simp (disch := decide))
  · dsimp only
    split <;> simp (disch := decide)

@[simp] theorem Block.thermal_clockState (ch code : Nat) : (b.thermal ch code).clockState = b.clockState := by
  have hflag (x : Block) := x.flag_clockState _ 30 (notIncrReg_sensorVal ch)
  have hput (x : Block) := x.putBit_clockState _ 30 false (notIncrReg_sensorVal ch)
  simp (disch := decide) [Block.thermal, hflag, hput]

@[simp] theorem Block.sampleChannel_clockState (ch : Nat) (x : Option (BitVec 16)) :
    (b.sampleChannel ch x).clockState = b.clockState := by
  have hput (y : Block) (v : Bool) := y.putBit_clockState _ 31 v (notIncrReg_sensorVal ch)
  have hset (y : Block) (v : Nat) := y.setFld_clockState _ 15 0 v (notIncrReg_sensorVal ch)
  unfold Block.sampleChannel
  dsimp only
  split
  · rfl
  split
  · exact hput b false
  split
  · split <;> simp (disch := decide) [hput]
  · simp [hput, hset]

@[simp] theorem Block.sampleAll_clockState : b.sampleAll.clockState = b.clockState :=
  b.forEach_clockState _ _ (fun x ch => x.sampleChannel_clockState ch _)

/-! #### The trace unit -/

@[simp] theorem Block.drainStaging_clockState : b.drainStaging.clockState = b.clockState := by
  simp (disch := decide) [Block.drainStaging]

@[simp] theorem Block.endLoaf_clockState (flushed final : Bool) : (b.endLoaf flushed final).clockState = b.clockState := rfl
@[simp] theorem Block.appendTrace_clockState (bytes : Bytes) : (b.appendTrace bytes).clockState = b.clockState := rfl
@[simp] theorem Block.stallEnds_clockState (p : Nat) : (b.stallEnds p).clockState = b.clockState := rfl
@[simp] theorem Block.traceLost_clockState (n e : Nat) (r : Option Nat) : (b.traceLost n e r).clockState = b.clockState := rfl

@[simp] theorem Block.dropBytes_clockState (n : Nat) : (b.dropBytes n).clockState = b.clockState := by
  simp (disch := decide) [Block.dropBytes]

@[simp] theorem Block.dropMode_clockState (n : Nat) : (b.dropMode n).clockState = b.clockState := by
  simp (disch := decide) [Block.dropMode]

@[simp] theorem Block.putPacket_clockState (pkt : Bytes) : (b.putPacket pkt).clockState = b.clockState := by simp [Block.putPacket]

@[simp] theorem Block.stateSync_clockState (p : Nat) : (b.stateSync p).clockState = b.clockState := by simp [Block.stateSync]

@[simp] theorem Block.startLoaf_clockState (afterDrop : Bool) : (b.startLoaf afterDrop).clockState = b.clockState := by
  simp [Block.startLoaf, Block.forEach_clockState]

@[simp] theorem Block.place_clockState (pkt : Bytes) : (b.place pkt).clockState = b.clockState := by simp [Block.place]

@[simp] theorem Block.placeFor_clockState (p : Nat) (pkt : Bytes) : (b.placeFor p pkt).clockState = b.clockState := by
  simp [Block.placeFor]

@[simp] theorem Block.makeRoom_clockState (p n : Nat) : (b.makeRoom p n).clockState = b.clockState := by simp [Block.makeRoom]

@[simp] theorem Block.traceEnd_clockState : b.traceEnd.clockState = b.clockState := by simp [Block.traceEnd]

@[simp] theorem Block.entrySync_clockState (p cause c : Nat) (s : BitVec 64) (a : Option Nat) :
    (b.entrySync p cause c s a).clockState = b.clockState := by simp [Block.entrySync]

@[simp] theorem Block.placeStalled_clockState (p : Nat) : (b.placeStalled p).clockState = b.clockState := by
  unfold Block.placeStalled
  split <;> simp

@[simp] theorem Block.placeBefore_clockState (p : Nat) (s : BitVec 64) : (b.placeBefore p s).clockState = b.clockState := by
  unfold Block.placeBefore
  split
  · rfl
  · dsimp only
    split <;> simp

@[simp] theorem Block.placePrefix_clockState (p c : Nat) (s : BitVec 64) (a : Option Nat) (timed : Bool) :
    (b.placePrefix p c s a timed).clockState = b.clockState := by
  unfold Block.placePrefix
  dsimp only
  split
  · simp
  · split <;> simp

@[simp] theorem Block.placeEntryOf_clockState (p c : Nat) (s : BitVec 64) (a : Option Nat) (timed : Bool)
    (pkt : Nat → TraceRegion → Bytes) (upd : TraceRegion → TraceRegion) :
    (b.placeEntryOf p c s a timed pkt upd).clockState = b.clockState := by simp [Block.placeEntryOf]

@[simp] theorem Block.traceEvent_clockState (p : Nat) (word : BitVec 64) (pc : Option Nat) (s : BitVec 64) (discarded : Bool) :
    (b.traceEvent p word pc s discarded).clockState = b.clockState := by simp [Block.traceEvent]

@[simp] theorem Block.updateGate_clockState (p : Nat) : (b.updateGate p).clockState = b.clockState := by simp [Block.updateGate]

@[simp] theorem Block.cycleGates_clockState : b.cycleGates.clockState = b.clockState := by
  simp [Block.cycleGates, Block.forEach_clockState]

@[simp] theorem Block.updateExclusion_clockState (p : Nat) : (b.updateExclusion p).clockState = b.clockState := by
  simp [Block.updateExclusion]

@[simp] theorem Block.dropGrants_clockState (f : TraceGrant → Bool) : (b.dropGrants f).clockState = b.clockState := by
  simp [Block.dropGrants, Block.updateExclusions, Block.forEach_clockState]

/-! #### The words of a cycle -/

@[simp] theorem Block.countGeneral_clockState (kind region code inc : Nat) :
    (b.countGeneral kind region code inc).clockState = b.clockState :=
  b.forEach_clockState _ _ (fun x n => x.addCounter_clockState 0 n _)

@[simp] theorem Block.countScoped_clockState (p kind code inc cmd : Nat) :
    (b.countScoped p kind code inc cmd).clockState = b.clockState := by
  simp [Block.countScoped, Block.forEach_clockState]

@[simp] theorem Block.insertWord_clockState (p : Nat) (word stamp : BitVec 64) : (b.insertWord p word stamp).clockState = b.clockState := by
  simp [Block.insertWord]

@[simp] theorem Block.endStretchRun_clockState (p : Nat) : (b.endStretchRun p).clockState = b.clockState := by
  simp [Block.endStretchRun]

@[simp] theorem Block.loadTick_clockState : b.loadTick.clockState = b.clockState := by simp [Block.loadTick]

@[simp] theorem Block.presentDigest_clockState (c p cmd digest : Nat) (tap : Bool) (stamp : BitVec 64) (invalid : Bool) :
    (b.presentDigest c p cmd digest tap stamp invalid).clockState = b.clockState := by
  simp (disch := decide) [Block.presentDigest]

@[simp] theorem Block.sendEvents_clockState (c w : Nat) (lossy invalid : Bool) (rs : List Bytes) :
    (b.sendEvents c w lossy invalid rs).clockState = b.clockState := by simp [Block.sendEvents]

@[simp] theorem Block.endClosing_clockState (k : Closing) : (b.endClosing k).clockState = b.clockState := by
  simp [Block.endClosing, Block.queueRelease]

@[simp] theorem Block.endWords_clockState : b.endWords.clockState = b.clockState := by
  simp [Block.endWords, Block.endDigests, Block.endRuns, Block.forEach_clockState]

@[simp] theorem Block.dieEnd_clockState : b.dieEnd.clockState = b.clockState := by simp [Block.dieEnd]

/-! #### Hours, light counters, pairs and buckets -/

@[simp] theorem Block.hoursCycle_clockState : b.hoursCycle.clockState = b.clockState := by simp [Block.hoursCycle]

@[simp] theorem Block.lightCycle_clockState : b.lightCycle.clockState = b.clockState := by
  simp (disch := decide) [Block.lightCycle]

@[simp] theorem Block.inactivePairs_clockState (old : BitVec 64) : (b.inactivePairs old).clockState = b.clockState := by
  simp [Block.inactivePairs]

@[simp] theorem Block.sendCoalesced_clockState (p k : Nat) (es : List CoalEntry) : (b.sendCoalesced p k es).clockState = b.clockState := by
  cases es
  · rfl
  · simp [Block.sendCoalesced]

@[simp] theorem Block.drainCoal_clockState (p n : Nat) : (b.drainCoal p n).clockState = b.clockState := by
  induction n generalizing b with
  | zero => rfl
  | succ n ih =>
    simp only [Block.drainCoal]
    split
    · rfl
    · simp [ih]

@[simp] theorem Block.refillPorts_clockState : b.refillPorts.clockState = b.clockState :=
  b.forEach_clockState _ _ (fun x p => by simp [Block.drainPort])

/-! #### The network time ports, rows and presence inputs of Borlu-T -/

@[simp] theorem Block.fifoEnd_clockState (i : Nat) : (b.fifoEnd i).clockState = b.clockState :=
  b.when_clockState _ _ (fun _ => rfl)

@[simp] theorem Block.portsEnd_clockState : b.portsEnd.clockState = b.clockState := by
  rw [Block.portsEnd, Block.modPtp_clockState]
  exact b.forEach_clockState (List.range 4) Block.fifoEnd Block.fifoEnd_clockState

@[simp] theorem Block.toMac_clockState (port : Nat) (f : Bytes) : (b.toMac port f).clockState = b.clockState := by
  unfold Block.toMac
  dsimp only
  split
  · rfl
  · split
    · rfl
    · exact (Block.when_clockState _ _ _ (fun x => by simp (disch := decide))).trans rfl

@[simp] theorem Block.releaseFrame_clockState (port : Nat) : (b.releaseFrame port).clockState = b.clockState := by
  unfold Block.releaseFrame
  split
  · rfl
  · exact b.when_clockState _ _ (fun x => by simp [Block.setWaiting])

@[simp] theorem Block.portsStart_clockState : b.portsStart.clockState = b.clockState :=
  b.forEach_clockState [0, 1] _ (fun x port => by simp [Block.setLaunches])

@[simp] theorem Block.nextRow_clockState : b.nextRow.clockState = b.clockState := by simp [Block.nextRow, Block.startRow]

@[simp] theorem Block.sealCrumb_clockState : b.sealCrumb.clockState = b.clockState := by simp [Block.sealCrumb]

@[simp] theorem Block.endTestModes_clockState : b.endTestModes.clockState = b.clockState :=
  Block.forEach_clockState _ _ _ (fun x e => by split <;> simp)

@[simp] theorem Block.latchSeal_clockState : b.latchSeal.clockState = b.clockState := by
  simp [Block.latchSeal, Block.sendRevoke, Block.closeWindow, Block.forEach_clockState]

@[simp] theorem Block.takeLoop_clockState (isOpen : Bool) : (b.takeLoop isOpen).clockState = b.clockState :=
  b.when_clockState _ _ (fun x => by simp)

@[simp] theorem Block.press_clockState : b.press.clockState = b.clockState := by
  simp (disch := decide) [Block.press, Block.openWindow]

@[simp] theorem Block.takeButton_clockState (pressed : Bool) : (b.takeButton pressed).clockState = b.clockState :=
  b.when_clockState _ _ (fun x => by simp)

@[simp] theorem Block.takeJumper_clockState (fitted : Bool) : (b.takeJumper fitted).clockState = b.clockState :=
  b.when_clockState _ _ (fun _ => rfl)

@[simp] theorem Block.debounce_clockState : b.debounce.clockState = b.clockState := by simp [Block.debounce]

end

/-! ### One cycle -/

theorem Block.dieCycle_clockState (b : Block) (f : Block → Block) :
    ∃ x : Block, x.clockState = b.clockState ∧ (b.dieCycle f).clockState = (f x).clockState := by
  unfold Block.dieCycle
  cases h : b.dieEnd.asleep
  · exact ⟨b.dieEnd.hoursCycle.lightCycle, by simp, by simp [h]⟩
  · exact ⟨b.dieEnd.hoursCycle, by simp, by simp [h]⟩

theorem Block.trayCycle_clockState (b : Block) (f : Block → Block) :
    ∃ x : Block, x.clockState = b.clockState ∧ (b.trayCycle f).clockState = (f x).clockState :=
  ⟨b.portsEnd.hoursCycle, by simp, by simp [Block.trayCycle]⟩

/-- A cycle of a block's clock moves its time as the cycle's own `f` moves that of a block with the same clock state: the rest of the cycle leaves the
time unit and the increment. -/
theorem Block.clock_clockState (b : Block) (f : Block → Block) :
    ∃ x : Block, x.clockState = b.clockState ∧ (b.clock f).clockState = (f x).clockState := by
  unfold Block.clock
  dsimp only
  split
  · exact Block.dieCycle_clockState { b with access := {} } f
  · exact Block.trayCycle_clockState { b with access := {} } f

/-- A cycle in which a balance takes `n` of the increment's units adds what it leaves of the increment. -/
theorem ofNat_add_ofInt_neg (a : BitVec 96) (inc n : Nat) (h : n ≤ inc) :
    a + BitVec.ofNat 96 inc + BitVec.ofInt 96 (-(n : Int)) = a + BitVec.ofNat 96 (inc - n) := by
  have hsub : ((inc - n : Nat) : Int) = inc + -(n : Int) := by omega
  rw [BitVec.add_assoc, ← BitVec.ofInt_natCast, ← BitVec.ofInt_add, ← hsub, BitVec.ofInt_natCast]

/-- A cycle without a step adds to the accumulator what the balance leaves of the increment (R38, R43). -/
theorem Block.flow_acc (b : Block) : b.flow.time.acc = b.time.acc + BitVec.ofNat 96 (b.incr - b.time.hold) := by
  by_cases h0 : b.time.hold = 0
  · simp only [Block.flow, if_pos h0]
    rw [h0]
    exact BitVec.add_zero _
  by_cases h : b.incr ≤ b.time.hold
  · simp only [Block.flow, if_neg h0, if_pos h]
    rw [Nat.sub_eq_zero_of_le h, ← Nat.sub_self b.incr]
    exact ofNat_add_ofInt_neg b.time.acc b.incr b.incr (Nat.le_refl _)
  · simp only [Block.flow, if_neg h0, if_neg h]
    exact ofNat_add_ofInt_neg b.time.acc b.incr b.time.hold (Nat.le_of_not_le h)

/-- A cycle without a step takes the increment from the balance, as far as it goes (R43). -/
theorem Block.flow_hold (b : Block) : b.flow.time.hold = b.time.hold - b.incr := by
  by_cases h0 : b.time.hold = 0
  · simp only [Block.flow, if_pos h0]
    rw [h0, Nat.zero_sub]
    exact h0
  by_cases h : b.incr ≤ b.time.hold
  · simp only [Block.flow, if_neg h0, if_pos h]
    rfl
  · simp only [Block.flow, if_neg h0, if_neg h]
    exact (Nat.sub_eq_zero_of_le (Nat.le_of_not_le h)).symm

/-- A cycle of an awake block moves its time as `flow` does (R38, R43). -/
theorem Block.tick_time (b : Block) (h : b.asleep = false) : ∃ x : Block, x.clockState = b.clockState ∧ b.tick.time = x.flow.time := by
  obtain ⟨x, hx, hclock⟩ := b.clock_clockState Block.flow
  refine ⟨x, hx, ?_⟩
  unfold Block.tick
  split
  · rw [h]
    exact Block.time_of_clockState hclock
  · exact Block.time_of_clockState ((Block.debounce_clockState _).trans hclock)

theorem cycle_block (s : State) (b : Build) (h : s.running b = true) : (cycle s).block b = (s.block b).tick := by
  cases b
  case D => simp only [cycle, State.block, h, if_true]
  case T => simp only [cycle, State.block, h, if_true]

theorem step_of_pending_nil (s : State) (h : s.pending = []) : step s = .next (cycle s.takePin) := by
  simp only [step, h, tick]

/-- Settles O8: a cycle moves time by `flow` of the block's clock state, which adds what the balance leaves of the increment. -/
theorem cycleAdvancesTime : Obligations.CycleAdvancesTime := by
  unfold Obligations.CycleAdvancesTime
  refine ⟨step_of_pending_nil, fun s b hrun hphase => ?_⟩
  have hawake : (s.block b).asleep = false := by simp only [Block.asleep, decide_eq_false_iff_not]; omega
  obtain ⟨x, hx, htick⟩ := (s.block b).tick_time hawake
  have hacc : ((cycle s).block b).time.acc =
      (s.block b).time.acc + BitVec.ofNat 96 ((s.block b).incr - (s.block b).time.hold) := by
    rw [cycle_block s b hrun, htick, x.flow_acc, Block.time_of_clockState hx, Block.incr_of_clockState hx]
  have hhold : ((cycle s).block b).time.hold = (s.block b).time.hold - (s.block b).incr := by
    rw [cycle_block s b hrun, htick, x.flow_hold, Block.time_of_clockState hx, Block.incr_of_clockState hx]
  refine ⟨fun hnone => ?noHold, fun _ hle => ?standsStill, fun hlt => ⟨hacc, hhold.trans (Nat.sub_eq_zero_of_le (Nat.le_of_lt hlt))⟩⟩
  case noHold =>
    rw [hnone, Nat.sub_zero] at hacc
    rw [hnone, Nat.zero_sub] at hhold
    exact ⟨hacc, hhold⟩
  case standsStill =>
    rw [Nat.sub_eq_zero_of_le hle] at hacc
    exact ⟨hacc.trans (BitVec.add_zero _), hhold⟩

end Sys2Proof.Machine

/-! Fleet time after a reset, and the writes of the increment and of the mode (R36, R39, R48). -/

namespace Sys2Proof.Machine

/-! ### After reset (R36) -/

theorem regReset_timCtl (b : Build) : bitsOf (regReset b Reg.TIM_CTL).toNat 1 0 = 0 := by cases b <;> decide
theorem regReset_incrInt_die : bitsOf (regReset .D Reg.TIM_INCR_INT).toNat 7 0 = 16 := by decide
theorem regReset_incrInt_tray : bitsOf (regReset .T Reg.TIM_INCR_INT).toNat 7 0 = 40 := by decide
theorem regReset_incrFrac (b : Build) : bitsOf (regReset b Reg.TIM_INCR_FRAC).toNat 31 0 = 0 := by cases b <;> decide

/-- A register that nothing has written reads its reset value. -/
theorem Block.fld_of_regs_nil (b : Block) (off hi lo : Nat) (h : b.regs = []) :
    b.fld off hi lo = bitsOf (regReset b.build off).toNat hi lo := by
  simp only [Block.fld, Block.reg, h, sget_nil]

/-- After reset the accumulator counts on the reset value of the increment (R36). -/
theorem Block.incr_of_reset (b : Block) (hregs : b.regs = []) (hheld : b.time.incrHeld = none) :
    b.incr = bitsOf (regReset b.build Reg.TIM_INCR_INT).toNat 7 0 * 2 ^ 32 := by
  rw [Block.incr, hheld, Option.getD_none, b.fld_of_regs_nil _ _ _ hregs, b.fld_of_regs_nil _ _ _ hregs, regReset_incrFrac, Nat.add_zero]

/-- Settles O6: both resets leave the time unit at its start and no register written. -/
theorem timeAfterReset : Obligations.TimeAfterReset := by
  unfold Obligations.TimeAfterReset
  intro s t u hd ht
  cases hd
  cases ht
  refine ⟨rfl, ?modeD, rfl, ?incrD, rfl, ?modeT, rfl, ?incrT⟩
  case modeD => exact (Block.fld_of_regs_nil _ _ _ _ rfl).trans (regReset_timCtl .D)
  case incrD => exact (Block.incr_of_reset _ rfl rfl).trans (congrArg (· * 2 ^ 32) regReset_incrInt_die)
  case modeT => exact (Block.fld_of_regs_nil _ _ _ _ rfl).trans (regReset_timCtl .T)
  case incrT => exact (Block.incr_of_reset _ rfl rfl).trans (congrArg (· * 2 ^ 32) regReset_incrInt_tray)

/-! ### Writes of the increment (R39) -/

/-- The field of all 32 bits is the word. -/
theorem bitsOf_word (w : Word) : bitsOf w.toNat 31 0 = w.toNat := by
  have := w.isLt
  simp only [bitsOf]
  omega

/-- A field that has been written reads as what was written. -/
theorem bitsOf_wordPut_low (w : Word) (hi v : Nat) (hhi : hi < 32) (hv : v < 2 ^ (hi + 1)) : bitsOf (wordPut w hi 0 v).toNat hi 0 = v := by
  have hw := w.isLt
  have hpow : 2 ^ 32 = 2 ^ (hi + 1) * 2 ^ (31 - hi) := by rw [← Nat.pow_add]; congr 1; omega
  simp only [bitsOf, wordPut, Nat.pow_zero, Nat.div_one, Nat.mul_one, Nat.sub_zero, BitVec.toNat_ofNat, Nat.mod_eq_of_lt hv]
  rw [hpow, Nat.mod_mul_right_mod]
  have hdiv := Nat.div_add_mod w.toNat (2 ^ (hi + 1))
  rw [show w.toNat - w.toNat % 2 ^ (hi + 1) = 2 ^ (hi + 1) * (w.toNat / 2 ^ (hi + 1)) by omega, Nat.mul_add_mod, Nat.mod_eq_of_lt hv]

/-- A command of a running block stores what its function makes of the block. -/
theorem onBlock_eq_of (s : State) (b : Build) (f : Block → Block) (y : Block) (hrun : s.running b = true) (h : f (s.block b) = y) :
    onBlock b f s = .next (s.setBlock b y) := h ▸ onBlock_running b f s hrun

section
variable (b : Block) (v : Word)

theorem Block.writeIncrInt_zero (hint : v.toNat % 256 = 0) (hfrac : b.time.fracStage = 0) : b.writeIncrInt v = b.flag Reg.TIM_STS 5 := by
  simp only [Block.writeIncrInt, hint, hfrac, and_self, if_true]

section
variable (h : ¬ (v.toNat % 256 = 0 ∧ b.time.fracStage = 0))
include h

theorem Block.writeIncrInt_time : (b.writeIncrInt v).time = { b.time with incrHeld := some b.incr } := by
  simp only [Block.writeIncrInt, h, if_false]
  rfl

theorem Block.writeIncrInt_reg_other (off : Nat) (hint : off ≠ Reg.TIM_INCR_INT) (hfrac : off ≠ Reg.TIM_INCR_FRAC) :
    (b.writeIncrInt v).reg off = b.reg off := by
  simp only [Block.writeIncrInt, h, if_false, Block.setReg_reg_other _ _ _ _ hfrac, Block.setFld_reg_other _ _ _ _ _ _ hint]
  rfl

theorem Block.writeIncrInt_incrInt : (b.writeIncrInt v).fld Reg.TIM_INCR_INT 7 0 = v.toNat % 256 := by
  simp only [Block.writeIncrInt, h, if_false, Block.fld]
  rw [Block.setReg_reg_other _ _ _ _ (by decide), Block.setFld, Block.setReg_reg]
  exact bitsOf_wordPut_low _ 7 _ (by decide) (Nat.mod_lt _ (by decide))

theorem Block.writeIncrInt_incrFrac : (b.writeIncrInt v).fld Reg.TIM_INCR_FRAC 31 0 = b.time.fracStage.toNat := by
  simp only [Block.writeIncrInt, h, if_false, Block.fld, Block.setReg_reg, bitsOf_word]

end

/-- The cycle of the write still counts on the old increment (R39). -/
theorem Block.incr_of_incrHeld (n : Nat) (h : b.time.incrHeld = some n) : b.incr = n := by rw [Block.incr, h, Option.getD_some]

/-- From the next cycle on the increment is the registers' (R39). -/
theorem Block.flow_incr : b.flow.incr = b.fld Reg.TIM_INCR_INT 7 0 * 2 ^ 32 + b.fld Reg.TIM_INCR_FRAC 31 0 := by
  simp only [Block.flow]
  split
  · rfl
  · split <;> rfl

theorem Block.timeCycle_incr : b.timeCycle.incr = b.fld Reg.TIM_INCR_INT 7 0 * 2 ^ 32 + b.fld Reg.TIM_INCR_FRAC 31 0 := by
  obtain ⟨x, hx, hclock⟩ := b.clock_clockState Block.flow
  rw [Block.timeCycle, Block.incr_of_clockState hclock, x.flow_incr]
  simp only [Block.clockState, Prod.mk.injEq] at hx
  obtain ⟨-, hint, hfrac⟩ := hx
  simp only [Block.fld, hint, hfrac]

end

/-! ### Writes of the mode (R48) -/

section
variable (b : Block)

theorem Block.writeMode_reserved : b.writeMode 3 = b := rfl

theorem Block.writeMode_same (m : Nat) (hm : m < 3) (h : b.time.modeNow = m) :
    b.writeMode m = (b.setFld Reg.TIM_CTL 1 0 m).modTime (fun t => { t with modeNext := none }) := by
  simp only [Block.writeMode, Nat.not_le.mpr hm, h, if_false, if_true]

theorem Block.writeMode_off_counted (h : b.time.modeNow = 0) (hT : b.build = .T) (hsrc : b.isSet Reg.TIM_CTL 8 = false) :
    b.writeMode 2 = (b.setFld Reg.TIM_CTL 1 0 2).modTime (fun t => { t with modeNow := 2, modeNext := none }) := by
  simp only [Block.writeMode, h, hT, hsrc]
  rfl

theorem Block.writeMode_off_counted_refused (h : b.time.modeNow = 0) (hsrc : b.build = .D ∨ b.isSet Reg.TIM_CTL 8 = true) :
    b.writeMode 2 = b.flag Reg.TIM_STS 5 := by
  have hno : ¬ (b.build = .T ∧ (!b.isSet Reg.TIM_CTL 8) = true) := by
    rintro ⟨hT, hfree⟩
    rcases hsrc with hD | hset
    · rw [hT] at hD; cases hD
    · rw [hset] at hfree; cases hfree
  simp only [Block.writeMode, h, hno]
  rfl

theorem Block.writeMode_to_off_refused (h : b.time.modeNow = 1 ∨ b.time.modeNow = 2) (hactive : b.anyActive = true) :
    b.writeMode 0 = b.flag Reg.TIM_STS 5 := by
  rcases h with h | h
  · simp only [Block.writeMode, h, hactive]; rfl
  · simp only [Block.writeMode, h, hactive]; rfl

theorem Block.writeMode_beacon_counted (h : b.time.modeNow = 1) :
    b.writeMode 2 = (b.setFld Reg.TIM_CTL 1 0 2).modTime (fun t => { t with modeNext := some 2 }) := by
  simp only [Block.writeMode, h]
  rfl

end

/-- Settles O9: each write by its case; the increment in force from the next cycle by what a cycle leaves of its registers. -/
theorem timeControlWrites : Obligations.TimeControlWrites := by
  unfold Obligations.TimeControlWrites
  intro s b v hrun x
  have hint (y : Block) := onBlock_eq_of s b (fun x => x.writeIncrInt v) y hrun
  have hmode (m : BitVec 2) (y : Block) := onBlock_eq_of s b (fun x => x.writeMode m.toNat) y hrun
  refine ⟨onBlock_running b (fun x => x.writeIncrFrac v) s hrun, fun h => ?commit, fun hzero hfrac => ?zero, ?reserved,
    fun m hm hnow => ?same, fun hnow _ hT hsrc => ?counted, fun hnow hsrc => ?countedRefused, fun hnow hactive => ?offRefused,
    fun hnow => ?beaconCounted⟩
  case commit =>
    refine ⟨_, hint _ rfl, ?_⟩
    rw [State.setBlock_block]
    refine ⟨?_, x.writeIncrInt_time v h, ?_, x.writeIncrInt_reg_other v h, s.setBlock_sameBlock_other b _⟩
    · exact Block.incr_of_incrHeld _ _ (by rw [Block.writeIncrInt_time _ v h])
    · rw [Block.timeCycle_incr, Block.writeIncrInt_incrInt _ v h, Block.writeIncrInt_incrFrac _ v h]
  case zero =>
    exact ⟨hint _ (x.writeIncrInt_zero v hzero hfrac), Block.incr_of_clockState (x.flag_clockState _ _ (by decide)),
      x.flag_isSet _ _ (by decide)⟩
  case reserved => exact (hmode 3 x x.writeMode_reserved).trans (congrArg Host.Outcome.next (s.setBlock_same b))
  case same => exact hmode m _ (x.writeMode_same m.toNat (by bv_omega) hnow)
  case counted => exact hmode 2 _ (x.writeMode_off_counted hnow hT hsrc)
  case countedRefused => exact hmode 2 _ (x.writeMode_off_counted_refused hnow hsrc)
  case offRefused => exact hmode 0 _ (x.writeMode_to_off_refused hnow hactive)
  case beaconCounted => exact hmode 2 _ (x.writeMode_beacon_counted hnow)

end Sys2Proof.Machine

/-! The timed events of the time unit (R45, R47, R50, R52, R63). -/

namespace Sys2Proof.Machine

theorem exec_beaconDue (s : State) (hrun : s.running .T = true) (htx : s.t.isSet Reg.TIM_CTL 9 = true)
    (hdue : ftGe s.t.ft s.t.time.beaconNext = true) : exec .beaconDue s = .next (s.setBlock .T s.t.remarkBeacon.sendBeacons) := by
  change execBeaconDue s = _
  rw [execBeaconDue, onTray_running _ s hrun, htx, hdue, Bool.and_self, Block.when_true]

/-- LOSS periods of the beacon have passed since the mark, counted by the increment (R47). -/
theorem Block.beaconLost_of_mark (b : Block) (mark : Nat) (hmark : b.time.beaconMark = some mark) (htakes : b.takesBeacons = true)
    (hmode : b.time.modeNow ≠ 0)
    (hloss : b.fld Reg.TIM_BCN 15 8 * b.beaconTicks * 2 ^ 32 ≤ (b.time.cycles - mark) * b.incr) :
    b.beaconLost = ((b.modTime (fun m => { m with beaconMark := none })).flag Reg.TIM_STS 3).healthCrumb 0x0106 b.sourceLink 0 0 := by
  simp only [Block.beaconLost, hmark, htakes, bne_iff_ne.mpr hmode, decide_eq_true hloss, Bool.and_self, Block.when_true]

@[simp] theorem Block.setFld_stewardRuns (b : Block) (off hi lo v i : Nat) : (b.setFld off hi lo v).stewardRuns i = b.stewardRuns i := rfl
@[simp] theorem Block.setFld_ft (b : Block) (off hi lo v : Nat) : (b.setFld off hi lo v).ft = b.ft := rfl

section
variable (b : Block) (v : Word)

/-- What a write of TIM_TEMPER stores (R50): COUNT. -/
def Block.storeTemperCount : Block := b.setFld Reg.TIM_TEMPER 15 8 (bitsOf v.toNat 15 8)

/-- What a write of TIM_TEMPER stores where its link exists (R50): COUNT and LINK. -/
def Block.storeTemper : Block := (b.storeTemperCount v).setFld Reg.TIM_TEMPER 5 0 (bitsOf v.toNat 5 0)

/-- The run that a START begins: at least 16 exchanges, the first of them now (R50). -/
def Block.temperRunOf : TemperRun := { link := bitsOf v.toNat 5 0, count := max 16 (bitsOf v.toNat 15 8), t1 := b.ft }

/-- No run begins without START, or while the time steward does not run (R437). -/
theorem Block.noTemperStart_iff : (v.getLsbD 31 = false ∨ b.stewardRuns 3 = false) ↔ ((!v.getLsbD 31) = true ∨ (!b.stewardRuns 3) = true) := by
  rw [Bool.not_eq_true', Bool.not_eq_true']

/-- A START acts while the time steward runs (R437). -/
theorem Block.temperStarts (hstart : v.getLsbD 31 = true) (hruns : b.stewardRuns 3 = true) :
    ¬ ((!v.getLsbD 31) = true ∨ (!b.stewardRuns 3) = true) := by
  rw [hstart, hruns]
  decide

theorem Block.writeTemper_start (hstart : v.getLsbD 31 = true) (hruns : b.stewardRuns 3 = true) (hlink : bitsOf v.toNat 5 0 < 40) :
    b.writeTemper v = (((b.storeTemper v).setFld Reg.TIM_TEMPER_RES 29 28 0).modTime
      (fun m => { m with temper := some (b.temperRunOf v) })).sendTemperReq (bitsOf v.toNat 5 0) 0 := by
  simp only [Block.writeTemper, if_pos hlink, Block.setFld_stewardRuns, if_neg (b.temperStarts v hstart hruns), if_neg (Nat.not_le.mpr hlink)]
  rfl

theorem Block.writeTemper_stored (h : v.getLsbD 31 = false ∨ b.stewardRuns 3 = false) (hlink : bitsOf v.toNat 5 0 < 40) :
    b.writeTemper v = b.storeTemper v := by
  simp only [Block.writeTemper, if_pos hlink, Block.setFld_stewardRuns, if_pos ((b.noTemperStart_iff v).mp h)]
  rfl

theorem Block.writeTemper_reserved (h : v.getLsbD 31 = false ∨ b.stewardRuns 3 = false) (hlink : 40 ≤ bitsOf v.toNat 5 0) :
    b.writeTemper v = b.storeTemperCount v := by
  simp only [Block.writeTemper, if_neg (Nat.not_lt.mpr hlink), Block.setFld_stewardRuns, if_pos ((b.noTemperStart_iff v).mp h)]
  rfl

theorem Block.writeTemper_reserved_start (hstart : v.getLsbD 31 = true) (hruns : b.stewardRuns 3 = true) (hlink : 40 ≤ bitsOf v.toNat 5 0) :
    b.writeTemper v = (b.storeTemperCount v).flag Reg.TIM_STS 5 := by
  simp only [Block.writeTemper, if_neg (Nat.not_lt.mpr hlink), Block.setFld_stewardRuns, if_neg (b.temperStarts v hstart hruns), if_pos hlink]
  rfl

/-- A reply is missing 64 µs after its request (R52). -/
theorem Block.temperTimeout_of_missing (t : TemperRun) (ht : b.time.temper = some t) (hlate : ftGe b.ft (ftAdd t.t1 1024000) = true) :
    b.temperTimeout =
      ((b.modTime (fun m => { m with temper := none })).setFld Reg.TIM_TEMPER_RES 29 28 3).flag Reg.TIM_TEMPER_RES 31 := by
  have hlate' : ftGe b.ft (ftAdd t.t1 (64 * ticksPerUs)) = true := hlate
  simp only [Block.temperTimeout, ht, hlate', Block.when_true]

end

theorem exec_timePulse (s : State) (b : Build) (hrun : s.running b = true) (hen : (s.block b).isSet Reg.TIM_CTL 11 = true) :
    exec (.timePulse b) s = .next (s.setBlock b ((s.block b).modTime (fun t => { t with pulse := (s.block b).ft }))) := by
  change execTimePulse b s = _
  rw [execTimePulse, onBlock_running _ _ s hrun, hen, Block.when_true]

/-- Settles O32: each event by what it does to its running block. -/
theorem timeEvents : Obligations.TimeEvents := by
  unfold Obligations.TimeEvents
  intro s b v t mark x y count link y1 run
  have hstart (y : Block) (hrun : s.running .T = true) := onBlock_eq_of s .T (fun b => b.writeTemper v) y hrun
  refine ⟨exec_beaconDue s, fun hrun hmark htakes hmode hloss => ?lost, fun hrun hset hruns hlink => ?start, fun hrun h hlink => ?stored,
    fun hrun h hlink => ?reserved, fun hrun hset hruns hlink => ?reservedStart, fun hrun ht hlate => ?timeout, exec_timePulse s b⟩
  case lost => exact onBlock_eq_of s b Block.beaconLost _ hrun (x.beaconLost_of_mark mark hmark htakes hmode hloss)
  case start => exact hstart _ hrun (y.writeTemper_start v hset hruns hlink)
  case stored => exact hstart _ hrun (y.writeTemper_stored v h hlink)
  case reserved => exact hstart _ hrun (y.writeTemper_reserved v h hlink)
  case reservedStart => exact hstart _ hrun (y.writeTemper_reserved_start v hset hruns hlink)
  case timeout => exact onBlock_eq_of s .T Block.temperTimeout _ hrun (y.temperTimeout_of_missing t ht hlate)

end Sys2Proof.Machine

/-! The records of tempering (R50 to R54). -/

namespace Sys2Proof.Machine

/-! ### A record that a block hears (R158, R191) -/

/-- A block that hears a control record acts on it, after the checks of its frame (R158, R191). -/
theorem Block.receiveControl_of_hears (b : Block) (link : Fin 64) (raw : Bytes) (ctype : Nat) (f : Frame) (r : Bytes) (b' : Block)
    (act : Block → Frame → Bytes → Block) (h : b.hears link raw ctype f r b') : b.receiveControl link raw ctype act = act b' f r := by
  obtain ⟨hrx, hcls, hparts, hrecords, htype, hheeds⟩ := h
  exact b.receiveControl_one link raw ctype act f b' r hrx hcls hparts hrecords htype hheeds

theorem onBlock_receiveControl (s : State) (b : Build) (link : Fin 64) (raw : Bytes) (ctype : Nat) (f : Frame) (r : Bytes) (b' : Block)
    (act : Block → Frame → Bytes → Block) (h : s.hears b link raw ctype f r b') :
    onBlock b (fun x => x.receiveControl link raw ctype act) s = .next (s.setBlock b (act b' f r)) :=
  onBlock_eq_of s b _ _ h.1 ((s.block b).receiveControl_of_hears link raw ctype f r b' act h.2)

/-! ### The exchanges of a run (R51, R52) -/

/-- What an exchange makes of a run (R51): its offset is kept; the smallest round trip, the earliest on a tie, gives the delay. -/
theorem TemperRun.exchange_eq (t : TemperRun) (rt offset : Int) : t.exchange rt offset =
    { t with
      offsets := t.offsets ++ [offset]
      done := t.done + 1
      minRt := some (match t.minRt with | none => rt | some m => min m rt)
      maxRt := match t.minRt with | none => rt | some m => if rt < m then t.maxRt else max t.maxRt rt
      delay := match t.minRt with | none => halfDown rt | some m => if rt < m then halfDown rt else t.delay } := by
  simp only [TemperRun.exchange]
  cases h : t.minRt with
  | none => rfl
  | some m =>
    by_cases hlt : rt < m
    · simp only [if_pos hlt, Int.min_eq_right (Int.le_of_lt hlt)]
    · simp only [if_neg hlt, Int.min_eq_left (Int.not_lt.mp hlt)]

/-- Half of a round trip is rounded down (R51). -/
theorem halfDown_bounds (v : Int) : 2 * halfDown v ≤ v ∧ v ≤ 2 * halfDown v + 1 := by
  unfold halfDown
  omega

/-- A response of the open exchange (R50, R51): the run goes on with the next request, or ends. -/
theorem Block.temperResp_of_open (b : Block) (port link : Nat) (f : Frame) (r : Bytes) (t : TemperRun) (ht : b.time.temper = some t)
    (hlink : b.linkEntry port link = t.link) (ht1 : fieldAt r 8 8 = t.t1.toNat) (hdone : fieldAt r 16 2 = t.done) :
    let t2 := BitVec.ofNat 64 (fieldAt r 24 8)
    let t3 := BitVec.ofNat 64 (fieldAt r 32 8)
    let u := t.exchange (roundTrip t.t1 t2 t3 b.ft) (clockOffset t.t1 t2 t3 b.ft)
    Block.temperResp port link b f r = if u.done = u.count then b.temperDone u
      else (b.modTime (fun m => { m with temper := some { u with t1 := b.ft } })).sendTemperReq t.link u.done := by
  simp only [Block.temperResp, ht, hlink, ht1, hdone, ne_eq, not_true, or_self, if_false]

section
variable (b : Block) (t : TemperRun)

/-- What the end of a run reports beside its outcome (R52). -/
def Block.reportTemper : Block :=
  (((b.modTime (fun m => { m with temper := none })).setFld Reg.TIM_TEMPER_RES 27 16
    (satTo 4095 (t.maxRt - t.minRt.getD 0).toNat)).setFld Reg.TIM_TEMPER_RES 15 0 (BitVec.ofInt 16 t.delay).toNat).flag Reg.TIM_TEMPER_RES 31

/-- The report leaves the limit of the spread. -/
theorem Block.reportTemper_limit : (b.reportTemper t).fld Reg.TIM_TEMPER_LIM 15 0 = b.fld Reg.TIM_TEMPER_LIM 15 0 := by
  unfold Block.reportTemper Block.fld
  rw [Block.flag_reg_other _ _ _ _ (by decide), Block.setFld_reg_other _ _ _ _ _ _ (by decide),
    Block.setFld_reg_other _ _ _ _ _ _ (by decide)]
  rfl

theorem Block.temperDone_ok (h : (t.maxRt - t.minRt.getD 0).toNat ≤ b.fld Reg.TIM_TEMPER_LIM 15 0) : b.temperDone t =
    (((b.reportTemper t).setFld Reg.TIM_TEMPER_RES 29 28 1).setReg (linkDelayReg t.link)
      (BitVec.ofNat 32 (2 ^ 31 + 2 ^ 30 + (BitVec.ofInt 16 t.delay).toNat))).sendControl none (temperDest t.link) 0x0A04
        (leBytes 2 (BitVec.ofInt 16 t.delay).toNat ++ zeros 6) := by
  rw [← b.reportTemper_limit t] at h
  exact if_pos h

theorem Block.temperDone_fail (h : b.fld Reg.TIM_TEMPER_LIM 15 0 < (t.maxRt - t.minRt.getD 0).toNat) :
    b.temperDone t = (b.reportTemper t).setFld Reg.TIM_TEMPER_RES 29 28 2 := by
  rw [← b.reportTemper_limit t] at h
  exact if_neg (Nat.not_le.mpr h)

end

/-- Settles O29: each record by what a block that hears it does, a response by what its exchange makes of the run. -/
theorem temperRecords : Obligations.TemperRecords := by
  unfold Obligations.TemperRecords
  intro s b port link raw f r b' t
  refine ⟨fun h => ?request, fun h ht hlink ht1 hdone => ?response, fun h => ?set, fun h hstatus => ?ack⟩
  case request => exact onBlock_receiveControl s b link raw _ f r b' (Block.temperReq port link) h
  case set => exact onBlock_receiveControl s b link raw _ f r b' (Block.temperSet port link) h
  case ack =>
    exact (onBlock_receiveControl s .T link raw _ f r b' Block.temperAck h).trans
      (congrArg (fun y => Host.Outcome.next (s.setBlock .T y)) (if_pos hstatus))
  case response =>
    intro t2 t3 rt u
    have hresp : exec (.temperRespReceive port link raw) s = .next (s.setBlock .T (if u.done = u.count then b'.temperDone u
        else (b'.modTime (fun m => { m with temper := some { u with t1 := b'.ft } })).sendTemperReq t.link u.done)) :=
      (onBlock_receiveControl s .T link raw _ f r b' (Block.temperResp port link) h).trans
        (congrArg (fun y => Host.Outcome.next (s.setBlock .T y)) (b'.temperResp_of_open port link f r t ht hlink ht1 hdone))
    obtain ⟨hlow, hhigh⟩ := halfDown_bounds rt
    have hu := t.exchange_eq rt (clockOffset t.t1 t2 t3 b'.ft)
    have hulink : u.link = t.link := (congrArg TemperRun.link hu :)
    refine ⟨hresp, congrArg TemperRun.done hu, congrArg TemperRun.offsets hu, congrArg TemperRun.minRt hu, congrArg TemperRun.delay hu,
      hlow, hhigh, fun hend => ?_⟩
    rw [if_pos hend] at hresp
    refine ⟨fun hok => ?ok, fun hfail => ?fail⟩
    case ok => rw [hresp, b'.temperDone_ok u hok, hulink]; rfl
    case fail => rw [hresp, b'.temperDone_fail u hfail]; rfl

end Sys2Proof.Machine

/-! A beacon that is measured and loaded (R43, R44, R46 to R49). -/

namespace Sys2Proof.Machine

/-! ### A step of time (R43) -/

@[simp] theorem Block.skippedWindows_clockState (b : Block) (old : BitVec 64) : (b.skippedWindows old).clockState = b.clockState :=
  b.forEach_clockState _ _ (fun x c => by dsimp only; split <;> simp)

/-- A cycle that moves the accumulator by an amount beside the increment, of a block with the same clock state. -/
theorem Block.clock_advance_time (b : Block) (e : Int) : (b.clock (fun b => b.advance e)).time = (b.advance e).time := by
  obtain ⟨x, hx, hclock⟩ := b.clock_clockState (fun b => b.advance e)
  rw [Block.time_of_clockState hclock]
  simp only [Block.advance, Block.modTime_time, Block.time_of_clockState hx, Block.incr_of_clockState hx]

/-- A sum that is not negative moves the time at once, and no balance is left (R43). -/
theorem Block.moveTime_at_once (b : Block) (eff whole d : Int) (h : 0 ≤ eff) :
    ∃ y : Block, b.moveTime eff whole d = (true, y) ∧ y.time = { (b.advance whole).time with hold := 0 } := by
  refine ⟨_, if_pos h, ?_⟩
  rw [Block.time_of_clockState (Block.skippedWindows_clockState _ _), Block.modTime_time, b.clock_advance_time]

/-- A sum that is negative by no more than TIM_HOLD_MAX becomes the balance (R43). -/
theorem Block.moveTime_to_hold (b : Block) (eff whole d : Int) (h : eff < 0) (hmax : -(b.fld Reg.TIM_HOLD_MAX 15 0 * 2 ^ 32 : Int) ≤ eff) :
    ∃ y : Block, b.moveTime eff whole d = (true, y) ∧ y.time = { (b.advance 0).time with hold := eff.natAbs } := by
  have hnat : (-eff).toNat = eff.natAbs := by omega
  refine ⟨_, (if_neg (Int.not_le.mpr h)).trans (if_pos hmax), ?_⟩
  rw [Block.modTime_time, b.clock_advance_time, hnat]

/-- A signed difference of fleet times in units of 2^-32 tick has the bits of the difference above the fraction's. -/
theorem ofInt_toInt_mul_toNat (d : BitVec 64) : (BitVec.ofInt 96 (d.toInt * 2 ^ 32)).toNat = d.toNat * 2 ^ 32 := by
  have hd := d.isLt
  rw [BitVec.toNat_ofInt, BitVec.toInt_eq_toNat_cond]
  split <;> omega

/-- An accumulator to which the difference of `v` and its own FT is added shows FT `v`. -/
theorem ft_of_add_ftDiff (a : BitVec 96) (v : BitVec 64) :
    ((a + BitVec.ofInt 96 (ftDiff v ((a >>> 32).setWidth 64) * 2 ^ 32)) >>> 32).setWidth 64 = v := by
  apply BitVec.eq_of_toNat_eq
  have ha := a.isLt
  have hv := v.isLt
  rw [BitVec.toNat_setWidth, BitVec.toNat_ushiftRight, BitVec.toNat_add, ftDiff, ofInt_toInt_mul_toNat, BitVec.toNat_sub,
    BitVec.toNat_setWidth, BitVec.toNat_ushiftRight, Nat.shiftRight_eq_div_pow, Nat.shiftRight_eq_div_pow]
  omega

theorem Block.ft_of_acc {x b : Block} (h : x.time.acc = b.time.acc) : x.ft = b.ft := by rw [Block.ft, Block.ft, h]

/-- A cycle that adds the difference of `v` and the FT that it would leave shows FT `v`, whatever the fraction (R43, R47). -/
theorem Block.advance_ftDiff_ft (b : Block) (v : BitVec 64) : (b.advance (ftDiff v (b.advance 0).ft * 2 ^ 32)).ft = v := by
  have hplain : (b.advance 0).ft = ((b.time.acc + BitVec.ofNat 96 b.incr) >>> 32).setWidth 64 :=
    congrArg (fun a : BitVec 96 => (a >>> 32).setWidth 64) (BitVec.add_zero (b.time.acc + BitVec.ofNat 96 b.incr))
  rw [hplain]
  exact ft_of_add_ftDiff (b.time.acc + BitVec.ofNat 96 b.incr) v

/-! ### What is noted beside the time -/

/-- VALID set: the rest of the time unit stays but for the conditions of R495. -/
theorem Block.setValid_time (b : Block) (v : Bool) : ∃ seen, (b.setValid v).time = { b.time with valid := v, healthSeen := seen } := by
  unfold Block.setValid
  split
  · next h => exact ⟨b.time.healthSeen, by rw [← h]⟩
  · exact ⟨[], rfl⟩

/-- A health crumb under R495 leaves the time unit but for the conditions that it notes. -/
theorem Block.healthOnce_time (b : Block) (cond : List Nat) (code p0 p1 p2 : Nat) :
    ∃ span seen, (b.healthOnce cond code p0 p1 p2).time = { b.time with healthSpan := span, healthSeen := seen } := by
  simp only [Block.healthOnce]
  generalize (if b.time.healthSpan = b.healthSpanNow then b.time.healthSeen else []) = seen
  split
  · exact ⟨_, _, rfl⟩
  · exact ⟨_, _, (Block.time_of_clockState (Block.healthCrumb_clockState _ _ _ _ _ _)).trans rfl⟩

theorem Block.beaconCrumb_time (b : Block) (e : Int) (link : Nat) :
    ∃ span seen, (b.beaconCrumb e link).time = { b.time with healthSpan := span, healthSeen := seen } := by
  unfold Block.beaconCrumb
  split
  · exact b.healthOnce_time _ _ _ _ _
  · exact ⟨_, _, rfl⟩

/-- What a load that is applied makes of the time unit (R47, R48): VALID is set, and a pending switch takes effect. -/
theorem Block.loadBeacon_time (b y : Block) (v : BitVec 64)
    (h : b.moveTime (ftDiff v b.flow.ft * 2 ^ 32 - b.time.hold) (ftDiff v (b.advance 0).ft * 2 ^ 32) (ftDiff v b.flow.ft) = (true, y)) :
    ∃ seen, (b.loadBeacon v).time =
      { y.time with modeNow := y.time.modeNext.getD y.time.modeNow, modeNext := none, valid := true, healthSeen := seen } := by
  simp only [Block.loadBeacon, h, if_true]
  exact Block.setValid_time _ _

/-! ### The measurement (R46) -/

@[simp] theorem Block.measureBeacon_clockState (b : Block) (v : BitVec 64) : (b.measureBeacon v).clockState = b.clockState := by
  simp (disch := decide) [Block.measureBeacon]

theorem Block.raiseF_build (b : Block) (off hi lo v : Nat) : (b.raiseF off hi lo v).build = b.build := by
  unfold Block.raiseF
  split <;> rfl

theorem Block.raiseF_reg_other (b : Block) (off hi lo v o : Nat) (h : o ≠ off) : (b.raiseF off hi lo v).reg o = b.reg o := by
  unfold Block.raiseF
  split
  · exact b.setFld_reg_other _ _ _ _ _ h
  · rfl

theorem Block.measureBeacon_build (b : Block) (v : BitVec 64) : (b.measureBeacon v).build = b.build := by
  unfold Block.measureBeacon
  dsimp only
  split <;> exact Block.raiseF_build _ _ _ _ _

/-- The measurement writes its own registers alone (R46). -/
theorem Block.measureBeacon_reg_other (b : Block) (v : BitVec 64) (off : Nat)
    (h : off ≠ Reg.TIM_BCN_ERR ∧ off ≠ Reg.TIM_BCN_ERR_MAX ∧ off ≠ Reg.TIM_STS) : (b.measureBeacon v).reg off = b.reg off := by
  obtain ⟨herr, hmax, hsts⟩ := h
  have hmeasured := ((b.setReg Reg.TIM_BCN_ERR (BitVec.ofInt 32 (sat32 (ftDiff v b.ft)))).raiseF_reg_other _ 31 0
    (sat32 (ftDiff v b.ft)).natAbs off hmax).trans (b.setReg_reg_other _ _ _ herr)
  unfold Block.measureBeacon
  dsimp only
  split
  · exact (Block.flag_reg_other _ _ _ _ hsts).trans hmeasured
  · exact hmeasured

/-- The mark of a beacon and its measurement, before it is loaded (R46, R47). -/
def Block.takeBeacon (b : Block) (v : BitVec 64) : Block := (b.modTime (fun t => { t with beaconMark := some t.cycles })).measureBeacon v

theorem Block.takeBeacon_time (b : Block) (v : BitVec 64) : (b.takeBeacon v).time = { b.time with beaconMark := some b.time.cycles } :=
  Block.time_of_clockState (Block.measureBeacon_clockState _ v)

theorem Block.takeBeacon_incr (b : Block) (v : BitVec 64) : (b.takeBeacon v).incr = b.incr :=
  (Block.incr_of_clockState (Block.measureBeacon_clockState _ v)).trans rfl

theorem Block.takeBeacon_build (b : Block) (v : BitVec 64) : (b.takeBeacon v).build = b.build := Block.measureBeacon_build _ v

theorem Block.takeBeacon_reg_other (b : Block) (v : BitVec 64) (off : Nat)
    (h : off ≠ Reg.TIM_BCN_ERR ∧ off ≠ Reg.TIM_BCN_ERR_MAX ∧ off ≠ Reg.TIM_STS) : (b.takeBeacon v).reg off = b.reg off :=
  Block.measureBeacon_reg_other _ v off h

theorem Block.takeBeacon_linkTempered (b : Block) (v : BitVec 64) (link : Nat) :
    (b.takeBeacon v).linkTempered link = b.linkTempered link := by
  have hoff : linkDelayReg link ≠ Reg.TIM_BCN_ERR ∧ linkDelayReg link ≠ Reg.TIM_BCN_ERR_MAX ∧ linkDelayReg link ≠ Reg.TIM_STS := by
    simp only [linkDelayReg, Reg.TIM_LINK_DELAY, Reg.TIM_BCN_ERR, Reg.TIM_BCN_ERR_MAX, Reg.TIM_STS]
    omega
  simp only [Block.linkTempered, Block.isSet, b.takeBeacon_reg_other v _ hoff]

theorem Block.takeBeacon_takesBeacons (b : Block) (v : BitVec 64) : (b.takeBeacon v).takesBeacons = b.takesBeacons := by
  simp only [Block.takesBeacons, Block.isSet, b.takeBeacon_build v, b.takeBeacon_reg_other v Reg.TIM_CTL (by decide)]

theorem Block.takeBeacon_advance_acc (b : Block) (v : BitVec 64) (e : Int) : ((b.takeBeacon v).advance e).time.acc = (b.advance e).time.acc := by
  simp only [Block.advance, Block.modTime_time, b.takeBeacon_time v, b.takeBeacon_incr v]

theorem Block.takeBeacon_flow_ft (b : Block) (v : BitVec 64) : (b.takeBeacon v).flow.ft = b.flow.ft := by
  apply Block.ft_of_acc
  rw [Block.flow_acc, Block.flow_acc, b.takeBeacon_time v, b.takeBeacon_incr v]

/-! ### The load (R47 to R49) -/

/-- A beacon that is heard on its link, in beacon mode or with a switch pending, is measured and loaded (R46 to R49). -/
theorem Block.beaconRecord_loads (b : Block) (port link : Nat) (f : Frame) (r : Bytes)
    (hlink : b.build = .D ∨ (32 ≤ link ∧ port = b.fld Reg.TIM_CTL 15 12)) (hmode : b.time.modeNow = 1 ∨ b.time.modeNext.isSome = true)
    (htempered : b.linkTempered (b.linkEntry port link) = true) (htakes : b.takesBeacons = true) :
    let v := b.beaconValue (fieldAt r 8 8) (byteAt r 16) (b.linkEntry port link)
    Block.beaconRecord port link b f r =
      ((b.takeBeacon v).loadBeacon v).beaconCrumb (sat32 (ftDiff v (b.takeBeacon v).ft)) (b.linkEntry port link) := by
  intro v
  have hheard : ¬ (b.build = .T ∧ (link < 32 ∨ port ≠ b.fld Reg.TIM_CTL 15 12)) := by
    rintro ⟨hT, hother⟩
    rcases hlink with hD | ⟨htree, hport⟩
    · rw [hT] at hD; cases hD
    · rcases hother with hlow | hne
      · omega
      · exact hne hport
  have hload : ((b.takeBeacon v).time.modeNow = 1 ∨ (b.takeBeacon v).time.modeNext.isSome = true) ∧
      (b.takeBeacon v).linkTempered (b.linkEntry port link) = true ∧ (b.takeBeacon v).takesBeacons = true := by
    rw [b.takeBeacon_time, b.takeBeacon_linkTempered, b.takeBeacon_takesBeacons]
    exact ⟨hmode, htempered, htakes⟩
  rw [Block.beaconRecord, if_neg hheard]
  exact congrArg (fun y : Block => y.beaconCrumb _ _) (if_pos hload)

/-- What a load leaves, where its step moves the time by `w` beside the increment and leaves the balance `n`. -/
theorem Block.loadBeacon_of_move (b y : Block) (v : BitVec 64) (w e : Int) (n link : Nat)
    (hmove : (b.takeBeacon v).moveTime (ftDiff v b.flow.ft * 2 ^ 32 - b.time.hold) (ftDiff v (b.advance 0).ft * 2 ^ 32) (ftDiff v b.flow.ft) =
      (true, y))
    (hy : y.time = { ((b.takeBeacon v).advance w).time with hold := n }) :
    let z := ((b.takeBeacon v).loadBeacon v).beaconCrumb e link
    z.ft = (b.advance w).ft ∧ z.time.hold = n ∧ z.time.valid = true ∧ z.time.modeNow = b.time.modeNext.getD b.time.modeNow := by
  intro z
  have hmove' : (b.takeBeacon v).moveTime (ftDiff v (b.takeBeacon v).flow.ft * 2 ^ 32 - (b.takeBeacon v).time.hold)
      (ftDiff v ((b.takeBeacon v).advance 0).ft * 2 ^ 32) (ftDiff v (b.takeBeacon v).flow.ft) = (true, y) := by
    rw [b.takeBeacon_flow_ft v, Block.ft_of_acc (b.takeBeacon_advance_acc v 0), b.takeBeacon_time v]
    exact hmove
  obtain ⟨seen, hload⟩ := (b.takeBeacon v).loadBeacon_time y v hmove'
  obtain ⟨span, seen', hz⟩ := ((b.takeBeacon v).loadBeacon v).beaconCrumb_time e link
  have hacc : z.time.acc = (b.advance w).time.acc := by rw [hz, hload, hy, ← b.takeBeacon_advance_acc v w]
  refine ⟨Block.ft_of_acc hacc, by rw [hz, hload, hy], by rw [hz, hload], ?_⟩
  rw [hz, hload, hy, Block.advance, Block.modTime_time, b.takeBeacon_time v]

theorem exec_beaconReceive (s : State) (b : Build) (port : Fin 8) (link : Fin 64) (raw : Bytes) (f : Frame) (r : Bytes) (b' : Block)
    (h : s.hears b link raw 0x0A01 f r b') (hawake : (s.block b).asleep = false) :
    exec (.beaconReceive b port link raw) s = .next (s.setBlock b (Block.beaconRecord port link b' f r)) := by
  have hasleep : ¬ (s.block b).asleep = true := by rw [hawake]; exact Bool.false_ne_true
  exact onBlock_eq_of s b (fun x => if x.asleep then x else x.receiveControl link raw 0x0A01 (Block.beaconRecord port link)) _ h.1
    ((if_neg hasleep).trans ((s.block b).receiveControl_of_hears link raw _ f r b' _ h.2))

/-- Settles O30: the load by the two cases of the sum, each by what it moves the time of the measured block. -/
theorem beaconLoads : Obligations.BeaconLoads := by
  unfold Obligations.BeaconLoads
  intro s b port link raw f r b' hhears hawake hlink hmode htempered htakes v sum
  have hexec := exec_beaconReceive s b port link raw f r b' hhears hawake
  rw [b'.beaconRecord_loads port link f r hlink hmode htempered htakes] at hexec
  refine ⟨_, hexec, ?_⟩
  rw [State.setBlock_block]
  refine ⟨fun hsum => ?atOnce, fun hneg hmax => ?held⟩
  case atOnce =>
    obtain ⟨y, hmove, hy⟩ := (b'.takeBeacon v).moveTime_at_once sum (ftDiff v (b'.advance 0).ft * 2 ^ 32) (ftDiff v b'.flow.ft) hsum
    obtain ⟨hft, hhold, hvalid, hnow⟩ := b'.loadBeacon_of_move y v _ _ 0 _ hmove hy
    exact ⟨hft.trans (b'.advance_ftDiff_ft v), hhold, hvalid, hnow, s.setBlock_sameBlock_other b _⟩
  case held =>
    have hlimit : (b'.takeBeacon v).fld Reg.TIM_HOLD_MAX 15 0 = b'.fld Reg.TIM_HOLD_MAX 15 0 := by
      simp only [Block.fld, b'.takeBeacon_reg_other v Reg.TIM_HOLD_MAX (by decide)]
    rw [← hlimit] at hmax
    obtain ⟨y, hmove, hy⟩ := (b'.takeBeacon v).moveTime_to_hold sum (ftDiff v (b'.advance 0).ft * 2 ^ 32) (ftDiff v b'.flow.ft) hneg hmax
    obtain ⟨hft, hhold, hvalid, hnow⟩ := b'.loadBeacon_of_move y v _ _ _ _ hmove hy
    exact ⟨hft, hhold, hvalid, hnow, s.setBlock_sameBlock_other b _⟩

end Sys2Proof.Machine

/-! Network time (R64 to R75): what stamps, the one-step Sync, launches and frames of the Ethernet ports do to Borlu-T. -/

namespace Sys2Proof.Machine

/-! ### Stamps (R65, R66, R68) -/

section
variable (b : Block) (port phase : Nat) (f : Bytes) (p : PtpPlace)

/-- An event message on its way out that no prediction waits for is stamped; PTP_STS says when its port is not the active one (R66). -/
theorem Block.txStamp_of_event (hev : ptpEvent f = some p) (hen : b.ptpEnabled port = true) (hsync : oneStepSync f p = false) :
    b.txStamp port phase f = (if b.ptpActive port then b else b.flag Reg.PTP_STS port).pushStamp (2 * port + 1) (b.stampRec port phase f p true) := by
  simp only [Block.txStamp, hev, hsync, Bool.false_eq_true, if_false, hen, Block.when_true, Block.oneStepCheck]

theorem Block.rxStamp_of_event (hev : ptpEvent f = some p) (hen : b.ptpEnabled port = true) :
    b.rxStamp port phase f = b.pushStamp (2 * port) (b.stampRec port phase f p false) := by
  simp only [Block.rxStamp, hev, hen, Block.when_true]

end

/-! ### Frames on their way to the MAC (R72) -/

section
variable (b : Block) (port : Nat) (f : Bytes) (p : PtpPlace)

theorem Block.toMac_of_no_event (hev : ptpEvent f = none) : b.toMac port f = b.modPtp (fun q => { q with sent := q.sent ++ [(port, f)] }) := by
  simp only [Block.toMac, hev]

/-- Only an IPv6 message owes two octets to a checksum. -/
theorem noTrailer_of_layer2 (h2 : p.transport = 0) : noTrailer f p = false := by
  rw [noTrailer, h2]
  rfl

/-- Under one-step insertion a Sync over Layer 2 gets its time and no change of a checksum. -/
theorem Block.edited_of_layer2 (s : BitVec 64) (hins : b.isSet Reg.PTP_CTL (4 + port) = true) (h2 : p.transport = 0) :
    b.edited port f p s = (true, b.syncEdit f p s) := by
  simp [Block.edited, hins, noTrailer_of_layer2 f p h2, h2]

/-- A one-step Sync over Layer 2 enters the MAC with its time, and is on its way to the stamp that it predicts. -/
theorem Block.toMac_of_sync_layer2 (hev : ptpEvent f = some p) (hins : b.isSet Reg.PTP_CTL (4 + port) = true) (hsync : oneStepSync f p = true)
    (h2 : p.transport = 0) :
    b.toMac port f = (b.modPtp (fun q => { q with sent := q.sent ++ [(port, b.syncEdit f p (b.ft + b.txDelay port))] })).modPtp (fun q =>
      { q with predicted := smodify (fun _ => []) q.predicted port
                 (· ++ [⟨byteAt f (p.off + 4), netAt f (p.off + 30) 2, some (b.ft + b.txDelay port)⟩]) }) := by
  simp only [Block.toMac, hev, hsync, Bool.not_true, Bool.false_eq_true, if_false, b.edited_of_layer2 port f p _ hins h2, if_true,
    noTrailer_of_layer2 f p h2, Bool.and_false, Block.when_false]

/-- A frame enters the MAC at once where stamping is enabled, no launch holds it back and no frame waits before it. -/
theorem Block.oneStep_of_open (hopen : b.ptpEnabled port = true ∧ b.heldBack port = false ∧ b.waitingFrames port = []) :
    b.oneStep port f = b.toMac port f := by
  obtain ⟨hen, hheld, hwait⟩ := hopen
  simp only [Block.oneStep, hen, hheld, hwait, Bool.not_false, List.isEmpty_nil, Bool.and_self, if_true]

/-- A frame of a port without EN, of one that holds frames back or of one where frames wait goes behind those that wait (R75, R78, log 38). -/
theorem Block.oneStep_waits (h : b.ptpEnabled port = false ∨ b.heldBack port = true ∨ b.waitingFrames port ≠ []) :
    b.oneStep port f = b.setWaiting port (b.waitingFrames port ++ [f]) := by
  have hclosed : ¬ (b.ptpEnabled port && !b.heldBack port && (b.waitingFrames port).isEmpty) = true := by
    rcases h with hen | hheld | hwait
    · simp [hen]
    · simp [hheld]
    · simp [hwait]
  rw [Block.oneStep, if_neg hclosed]

end

/-! ### Launches (R74, R75) -/

/-- The LEN field of a write to PTP_TLQ_PUSH, in which 0 means the whole buffer (R74). -/
def pushLen (v : Word) : Nat := if bitsOf v.toNat 11 0 = 0 then 2048 else bitsOf v.toNat 11 0

section
variable (b : Block) (port : Nat) (v : Word)

/-- A push of an accepted length into an empty queue is compared with no entry (log 38): it becomes the head. -/
theorem Block.pushLaunch_of_empty (hlo : 64 ≤ pushLen v) (hhi : pushLen v ≤ 2048) (hempty : b.launches port = []) :
    b.pushLaunch port v = b.setLaunches port (b.newHead [b.markDue port
      { buf := bitsOf v.toNat 31 28,
        time := BitVec.ofNat 64 (b.fld (ptpReg Reg.PTP_TLQ_TIME_LO port) 31 0 + b.fld (ptpReg Reg.PTP_TLQ_TIME_HI port) 31 0 * 2 ^ 32),
        frame := (b.launchBuf port (bitsOf v.toNat 31 28)).take (pushLen v) }]) := by
  have hshort : ¬ pushLen v < 64 := Nat.not_lt.mpr hlo
  have hlong : ¬ 2048 < pushLen v := Nat.not_lt.mpr hhi
  rw [pushLen] at hshort hlong
  simp [Block.pushLaunch, hempty, hshort, hlong, pushLen]

/-- A push of a length outside 64 to 2048, or into a queue of 16, is refused and counted (R74). -/
theorem Block.pushLaunch_refused (h : pushLen v < 64 ∨ 2048 < pushLen v ∨ 16 ≤ (b.launches port).length) :
    b.pushLaunch port v = b.countF (ptpReg Reg.PTP_TLQ_STS port) 15 8 1 :=
  if_pos (h.imp_right (Or.imp_right Or.inl))

/-- Placing a frame in a buffer leaves the launch queues. -/
theorem Block.placeBuf_launches (buf : Nat) (f : Bytes) (q : Nat) : (b.placeBuf port buf f).launches q = b.launches q := rfl

/-- The head entry enters the MAC where its hand-over cycle has come and it is not late by more than PTP_TLQ_TOL (R75). -/
theorem Block.launch_of_due (l : Launch) (rest : List Launch) (d : BitVec 64 × Nat) (hq : b.launches port = l :: rest) (hdue : l.due = some d)
    (hen : b.ptpEnabled port = true) (hlate : l.late = false) (htol : ftDiff b.ft d.1 ≤ b.fld (ptpReg Reg.PTP_TLQ_TOL port) 15 0) :
    b.launch port = (b.setLaunches port (b.newHead rest)).toMac port l.frame := by
  have hintime : decide ((b.fld (ptpReg Reg.PTP_TLQ_TOL port) 15 0 : Int) < ftDiff b.ft d.1) = false := decide_eq_false (Int.not_lt.mpr htol)
  simp only [Block.launch, hq, hdue, hen, hlate, hintime, Block.when_true, Bool.or_self, Bool.false_and, Bool.false_eq_true, if_false]

end

/-! ### Received frames (R65, R480) -/

section
variable (b : Block) (port : Nat) (f : Bytes)

theorem Block.ethReceive_of_place (q : PtpPlace) (h : ptpPlace f = some q) :
    b.ethReceive port f false = b.modPtp (fun p => { p with toTime := p.toTime ++ [(port, f)] }) := by
  simp only [Block.ethReceive, Bool.false_eq_true, if_false, h]

theorem Block.ethReceive_of_no_place (h : ptpPlace f = none) :
    b.ethReceive port f false = b.modPtp (fun p => { p with toHost := p.toHost ++ [(port, f)] }) := by
  simp only [Block.ethReceive, Bool.false_eq_true, if_false, h]

end

/-- A frame with an error on its last beat leaves the state as it is. -/
theorem exec_ethFrameReceive_error (s : State) (port : Fin 2) (f : Bytes) (hrun : s.running .T = true) :
    exec (.ethFrameReceive port f true) s = .next s :=
  (onBlock_eq_of s .T (fun b => b.ethReceive port f true) s.t hrun rfl).trans (congrArg _ (s.setBlock_same .T))

/-- Settles O53: each command by what its function makes of the running Borlu-T. -/
theorem networkTime : Obligations.NetworkTime := by
  unfold Obligations.NetworkTime
  intro s port phase frame v p l rest d hrun y record q edited ahead open' n time buf placed entry
  have hexec (f : Block → Block) {z : Block} (h : f s.t = z) := onBlock_eq_of s .T f z hrun h
  have hstep (z : Block) (h : y.oneStep port frame = z) := hexec (fun b => b.oneStep port frame) h
  have hpush (z : Block) (h : placed.pushLaunch port v = z) := hexec (fun b => (b.placeBuf port buf frame).pushLaunch port v) h
  have hreceive (z : Block) (h : y.ethReceive port frame false = z) := hexec (fun b => b.ethReceive port frame false) h
  refine ⟨fun hev hen hact hsync => ?txActive, fun hev hen hact hsync => ?txPassive, fun hev hen => ?rx, fun hopen hev => ?plain,
    fun hopen hev hins hsync h2 => ?sync, fun h => ?waits, ?readMeta, fun hlo hhi hempty => ?queued, fun h => ?refused,
    fun hq hdue hen hlate htol => ?launched, fun r hr => ?toTime, fun hr => ?toHost, exec_ethFrameReceive_error s port frame hrun⟩
  case txActive =>
    exact hexec (fun b => b.txStamp port phase frame) ((y.txStamp_of_event port phase frame p hev hen hsync).trans (by rw [if_pos hact]))
  case txPassive =>
    exact hexec (fun b => b.txStamp port phase frame)
      ((y.txStamp_of_event port phase frame p hev hen hsync).trans (by rw [hact, if_neg Bool.false_ne_true]))
  case rx => exact hexec (fun b => b.rxStamp port phase frame) (y.rxStamp_of_event port phase frame p hev hen)
  case plain => exact hstep _ ((y.oneStep_of_open port frame hopen).trans (y.toMac_of_no_event port frame hev))
  case sync => exact hstep _ ((y.oneStep_of_open port frame hopen).trans (y.toMac_of_sync_layer2 port frame p hev hins hsync h2))
  case waits => exact hstep _ (y.oneStep_waits port frame h)
  case readMeta => exact hexec Block.readMeta rfl
  case queued => exact hpush _ (placed.pushLaunch_of_empty port v hlo hhi ((y.placeBuf_launches port buf frame port).trans hempty))
  case refused => exact hpush _ (placed.pushLaunch_refused port v (by rwa [y.placeBuf_launches port buf frame port]))
  case launched => exact hexec (fun b => b.launch port) (y.launch_of_due port l rest d hq hdue hen hlate htol)
  case toTime => exact hreceive _ (y.ethReceive_of_place port frame r hr)
  case toHost => exact hreceive _ (y.ethReceive_of_no_place port frame hr)

end Sys2Proof.Machine

/-! Words of the tap ports (R79 to R84, R96, R102): what the head word of a port does by its kind, what the second word of a COMMAND_START
opens, and where an entry that a region writes goes. -/

namespace Sys2Proof.Machine

/-! ### The tap ports -/

section
variable (b : Block) (p : Nat)

@[simp] theorem Block.modPort_tapPort (f : TapPort → TapPort) : (b.modPort p f).tapPort p = f (b.tapPort p) :=
  sget_smodify_same ..

@[simp] theorem Block.modPort_portEnabled (q : Nat) (f : TapPort → TapPort) : (b.modPort p f).portEnabled q = b.portEnabled q := rfl

theorem Block.tapPort_of_ports {x b : Block} (h : x.die.taps.ports = b.die.taps.ports) (p : Nat) : x.tapPort p = b.tapPort p :=
  congrArg (sget (fun _ => ({} : TapPort)) · p) h

/-! ### A closing command record leaves the ports (R96, R104) -/

@[simp] theorem Block.addCounter_ports (bank i v : Nat) : (b.addCounter bank i v).die.taps.ports = b.die.taps.ports := by
  rcases b.addCounter_cases bank i v with ⟨-, h⟩ | ⟨-, _, -, h | h⟩
  · rw [h]
  · rw [h]
  · rw [h]; rfl

@[simp] theorem Block.frameSent_ports : b.frameSent.die.taps.ports = b.die.taps.ports := by
  unfold Block.frameSent
  cases b.asleep
  · cases hb : b.build <;> simp [hb, Block.lightAdd]
  · rfl

@[simp] theorem Block.queueItem_ports (c cls : Nat) (d : Dest) (bytes : Bytes) :
    (b.queueItem c cls d bytes).die.taps.ports = b.die.taps.ports := by
  unfold Block.queueItem
  dsimp only
  split <;> rfl

@[simp] theorem Block.seqNext_ports (c : Option Nat) : (b.seqNext c).die.taps.ports = b.die.taps.ports := by
  cases c <;> rfl

/-- By induction on the payloads: each frame of an output leaves the ports. -/
@[simp] theorem Block.sendOutput_ports (w : Send) (payloads : List Bytes) :
    (b.sendOutput w payloads).die.taps.ports = b.die.taps.ports :=
  List.foldlRecOn (motive := fun a : Block × Nat => a.1.die.taps.ports = b.die.taps.ports) payloads _ rfl
    (fun a ha x _ => by simp [ha])

@[simp] theorem Block.sendEvents_ports (c w : Nat) (lossy invalid : Bool) (rs : List Bytes) :
    (b.sendEvents c w lossy invalid rs).die.taps.ports = b.die.taps.ports := by
  unfold Block.sendEvents
  split
  · rfl
  · exact b.sendOutput_ports _ _

/-- A class 3 record is dropped, joins the closing window, waits, or waits behind the frame that it does not fit. -/
@[simp] theorem Block.addEvent_ports (c : Nat) (r : Bytes) (invalid : Bool) :
    (b.addEvent c r invalid).die.taps.ports = b.die.taps.ports := by
  unfold Block.addEvent
  dsimp only
  split
  · rfl
  split
  · rfl
  split
  · rfl
  · exact b.sendEvents_ports _ _ _ _ _

@[simp] theorem Block.closeRecord_ports (status : Nat) (endFt : BitVec 64) (invalid : Bool) (endPc : Nat) :
    (b.closeRecord p status endFt invalid endPc).die.taps.ports = b.die.taps.ports :=
  Block.addEvent_ports _ _ _ _

/-! ### The second word of a COMMAND_START (R81, R96) -/

/-- The command that the two words of a COMMAND_START open (R81, R83, R96). -/
def openedCmd (first : TapWord) (v : BitVec 64) : Cmd :=
  { opened := true, tag := wordCmd first.word, layer := bitsOf v.toNat 63 48, operator := bitsOf v.toNat 47 32,
    model := bitsOf v.toNat 31 12, request := bitsOf v.toNat 11 0, startFt := first.stamp, startInvalid := first.invalid,
    startPc := first.pc.toNat }

/-- The second word leaves the port with no first word that waits, its queue, and the new command, whether or not it closes an open one. -/
theorem Block.secondWord_tapPort (first : TapWord) (v : BitVec 64) (hon : b.portEnabled p = true) :
    (b.secondWord p first true v).tapPort p = { b.tapPort p with first := none, cmd := openedCmd first v } := by
  unfold Block.secondWord
  simp only [Bool.not_true, Bool.false_eq_true, Block.modPort_portEnabled, hon, or_self, if_false, Block.modCmd, Block.modPort_tapPort]
  refine congrArg (fun x : TapPort => { x with cmd := openedCmd first v })
    ((Block.tapPort_of_ports ?_ p).trans (b.modPort_tapPort p (fun x => { x with first := none })))
  dsimp only [Block.modTaps]
  split
  · exact Block.closeRecord_ports _ _ _ _ _ _
  · rfl

/-- Behind a discarded first word, or on a disabled port, it only ends the wait for it (R82). -/
theorem Block.secondWord_of_no_act (first : TapWord) (acts : Bool) (v : BitVec 64) (h : acts = false ∨ b.portEnabled p = false) :
    b.secondWord p first acts v = b.modPort p (fun x => { x with first := none }) := by
  have hno : (!acts) = true ∨ (!(b.modPort p (fun x => { x with first := none })).portEnabled p) = true := by simpa using h
  exact if_pos hno

end

/-! ### A word by its kind (R82, R83, R119, R120) -/

section
variable (b : Block) (p : Nat) (w : TapWord)

/-- On a disabled port a word that breaks its row is counted (R82). -/
theorem Block.processWord_off_of_not_form (hoff : b.portEnabled p = false) (hform : wordForm p w.word = false) :
    b.processWord p w = b.tapError := by
  simp only [Block.processWord, hoff, hform, Bool.not_false, if_true]

/-- On a disabled port a word in its row does nothing, unless it counts in the light set (R82). -/
theorem Block.processWord_off_of_form (hoff : b.portEnabled p = false) (hform : wordForm p w.word = true)
    (hlight : ¬ (wordKind w.word = 0 ∧ 0xF00 ≤ wordCode w.word ∧ wordCode w.word < 0xF30)) : b.processWord p w = b := by
  simp only [Block.processWord, hoff, hform, Bool.not_false, Bool.not_true, Bool.false_eq_true, if_true, if_false, if_neg hlight]

variable (hon : b.portEnabled p = true)
include hon

/-- On an enabled port a word that breaks its row is discarded (R83). -/
theorem Block.processWord_of_not_form (hform : wordForm p w.word = false) : b.processWord p w =
    ((b.triggerSeen (2 * bit (b.eventMatch 0 (wordKind w.word) (wordCode w.word)))
      (2 * bit (b.eventMatch 1 (wordKind w.word) (wordCode w.word)))).tapError).traceEvent p w.word (some w.pc.toNat) w.stamp true := by
  simp only [Block.processWord, hon, hform, Bool.not_true, Bool.not_false, Bool.false_eq_true, if_true, if_false, Bool.true_or]

/-- On an enabled port a word that the state of its region or slot refuses is discarded (R86, R96, R98). -/
theorem Block.processWord_of_refused (hform : wordForm p w.word = true) (hrefused : b.wordRefused p w.word = true) : b.processWord p w =
    (((b.triggerSeen (2 * bit (b.eventMatch 0 (wordKind w.word) (wordCode w.word)))
      (2 * bit (b.eventMatch 1 (wordKind w.word) (wordCode w.word)))).refuseWord p w.word).tapError).traceEvent p w.word
        (some w.pc.toNat) w.stamp true := by
  simp only [Block.processWord, hon, hform, hrefused, Bool.not_true, Bool.false_eq_true, if_true, if_false, Bool.and_self, Bool.or_true]

/-- On an enabled port every other word acts by its kind (R83). -/
theorem Block.processWord_of_acts (hform : wordForm p w.word = true) (hrefused : b.wordRefused p w.word = false) : b.processWord p w =
    ((((b.triggerSeen (2 * bit (b.eventMatch 0 (wordKind w.word) (wordCode w.word)))
      (2 * bit (b.eventMatch 1 (wordKind w.word) (wordCode w.word)))).modPort p (fun x => { x with latestPc := w.pc.toNat })).slipEvent
        p w).wordEffect p w).traceEvent p w.word (some w.pc.toNat) w.stamp false := by
  simp only [Block.processWord, hon, hform, hrefused, Bool.not_true, Bool.false_eq_true, if_false, Bool.and_false, Bool.or_self]

end

/-! ### The head of a port (R79, R81, R102) -/

section
variable (b : Block) (p : Nat)

theorem Block.dequeueWord_eq_processWord {w : TapWord} {rest : List TapWord} (hq : (b.tapPort p).queue = w :: rest)
    (hfirst : (b.tapPort p).first = none) (hkind : wordKind w.word ≠ 1) :
    b.dequeueWord p = (b.modPort p (fun x => { x with queue := rest })).processWord p w := by
  simp only [Block.dequeueWord, hq, Block.modPort_tapPort, hfirst, if_neg hkind]

theorem Block.dequeueWord_eq_secondWord {w first : TapWord} {rest : List TapWord} {acts : Bool} (hq : (b.tapPort p).queue = w :: rest)
    (hfirst : (b.tapPort p).first = some (first, acts)) :
    b.dequeueWord p = (b.modPort p (fun x => { x with queue := rest })).secondWord p first acts w.word := by
  simp only [Block.dequeueWord, hq, Block.modPort_tapPort, hfirst]

/-- A word of one of the kinds at the head of an awake port is taken. -/
theorem Block.onTap_of_headKind (kinds : List Nat) (hhead : b.headKind p kinds = true) (hawake : b.asleep = false) :
    b.onTap p kinds = b.portWord p := by
  simp only [Block.onTap, hhead, hawake, Bool.not_false, Bool.and_self, Block.when_true]

/-- While a first word waits, the next word of its port is a second word and has no kind (R81). -/
theorem Block.headKind_of_first (kinds : List Nat) (hfirst : (b.tapPort p).first.isSome = true) : b.headKind p kinds = false := by
  have hnone : (b.tapPort p).first.isNone = false := by rw [← Option.not_isSome, hfirst]; rfl
  unfold Block.headKind
  split
  · rfl
  · rw [hnone, Bool.false_and]

theorem Block.onTap_of_first (kinds : List Nat) (hfirst : (b.tapPort p).first.isSome = true) : b.onTap p kinds = b := by
  simp only [Block.onTap, b.headKind_of_first p kinds hfirst, Bool.false_and, Block.when_false]

end

/-! ### The commands of the taps -/

/-- A block outside RETAIN and OFF is awake (R451). -/
theorem Block.asleep_of_phase_lt (b : Block) (h : b.power.phase < 2) : b.asleep = false :=
  decide_eq_false (Nat.not_le_of_lt h)

/-- A command of `tapRow` takes the head word of its port when that is of one of its kinds, a first word never among them (R83). -/
theorem exec_of_tapRow {c : Instr} {p : Fin 64} {kinds : List Nat} (hrow : tapRow c = some (p, kinds)) :
    1 ∉ kinds ∧ ∀ s : State, s.running .D = true → exec c s = .next (s.setBlock .D (s.d.onTap p kinds)) := by
  unfold tapRow at hrow
  split at hrow
  case h_9 => cases hrow
  all_goals
    cases hrow
    exact ⟨by decide, fun s hrun => onDie_running _ s hrun⟩

section
variable (s : State) (p : Fin 64) (hrun : s.running .D = true)
include hrun

/-- Where a first word is at the head, TAP_COMMAND_START takes it and its second word (R81). -/
theorem exec_tapCommandStart_both (hhead : s.d.headKind p [1] = true) (hawake : s.d.asleep = false)
    (hawake' : (s.d.portWord p).asleep = false) (hfirst : ((s.d.portWord p).tapPort p).first.isSome = true) :
    exec (.tapCommandStart p) s = .next (s.setBlock .D ((s.d.portWord p).portWord p)) := by
  change execTapCommandStart p s = _
  simp only [execTapCommandStart, onDie_running _ s hrun, s.d.onTap_of_headKind p [1] hhead hawake, hfirst, hawake', Bool.not_false,
    Bool.and_self, Block.when_true]

/-- Where a first word waits, TAP_COMMAND_START takes the second word (R81). -/
theorem exec_tapCommandStart_second (hawake : s.d.asleep = false) (hfirst : (s.d.tapPort p).first.isSome = true) :
    exec (.tapCommandStart p) s = .next (s.setBlock .D (s.d.portWord p)) := by
  change execTapCommandStart p s = _
  simp only [execTapCommandStart, onDie_running _ s hrun, s.d.onTap_of_first p [1] hfirst, hfirst, hawake, Bool.not_false,
    Bool.and_self, Block.when_true]

theorem exec_tapEntryWrite (word : BitVec 64) (pc : BitVec 48) :
    exec (.tapEntryWrite p word pc) s = .next (s.setBlock .D (s.d.tapWrite p word pc)) :=
  onDie_running (fun b => b.tapWrite p word pc) s hrun

end

/-! ### The queue of a port (R79 to R81) -/

section
variable (b : Block) (p : Nat) (word : BitVec 64) (pc : BitVec 48) (hsettled : b.settled = true) (hawake : b.asleep = false)
  (hany : (b.tapPort p).writeSecond = 0)
include hsettled hawake hany

/-- An entry that is no first word enters a queue with room. -/
theorem Block.tapWrite_word (hkind : wordKind word ≠ 1) (hroom : (b.tapPort p).queue.length < 16) :
    b.tapWrite p word pc = b.tapPut p ⟨word, pc, b.arrivalStamp p, !b.time.valid⟩ 0 := by
  simp only [Block.tapWrite, hsettled, hawake, hany, Bool.not_true, Bool.or_self, Bool.false_eq_true, if_false, if_neg hkind, if_pos hroom]

/-- A first word enters a queue with room for both words, and the second one's entry is reserved (R81). -/
theorem Block.tapWrite_first (hkind : wordKind word = 1) (hroom : (b.tapPort p).queue.length < 15) :
    b.tapWrite p word pc = b.tapPut p ⟨word, pc, b.arrivalStamp p, !b.time.valid⟩ 1 := by
  have hboth : (b.tapPort p).queue.length + 2 ≤ 16 := by omega
  simp only [Block.tapWrite, hsettled, hawake, hany, Bool.not_true, Bool.or_self, Bool.false_eq_true, if_false, if_pos hkind, if_pos hboth]

/-- An entry that is no first word is lost in a full queue (R80). -/
theorem Block.tapWrite_full (hkind : wordKind word ≠ 1) (hfull : 16 ≤ (b.tapPort p).queue.length) :
    b.tapWrite p word pc = b.tapLost p 1 := by
  simp only [Block.tapWrite, hsettled, hawake, hany, Bool.not_true, Bool.or_self, Bool.false_eq_true, if_false, if_neg hkind,
    if_neg (Nat.not_lt_of_le hfull)]

end

/-- Settles O43: each command takes its port's head word; the word then acts, is discarded or opens a command as its lemma says, and an entry
enters the queue or is lost. -/
theorem tapWords : Obligations.TapWords := by
  unfold Obligations.TapWords
  intro c s p kinds w rest first word pc hrun hphase was before x y after v code z seen entry
  have hawake : s.d.asleep = false := s.d.asleep_of_phase_lt hphase
  refine ⟨fun hrow hhead hq hfirst hkind => ?word, fun hhead => exec_tapCommandStart_both s p hrun hhead hawake,
    fun hwait hq hfirst hon => ?opens, fun acts hwait hq hfirst hno => ?noEffect, fun hset hany hkind hroom => ?entersWord,
    fun hset hany hkind hroom => ?entersFirst, fun hset hany hkind hfull => ?lost⟩
  case word =>
    obtain ⟨hone, htakes⟩ := exec_of_tapRow hrow
    have hne : wordKind w.word ≠ 1 := fun h => hone (h ▸ hkind)
    have hexec : exec c s = .next (s.setBlock .D (after (y.processWord p w))) := by
      rw [htakes s hrun, s.d.onTap_of_headKind p kinds hhead hawake, Block.portWord,
        before.dequeueWord_eq_processWord p hq hfirst hne]
    refine ⟨fun hon => ⟨fun hform hacts => ?_, fun hform hrefused => ?_, fun hform => ?_⟩,
      fun hoff => ⟨fun hform => ?_, fun hform hlight => ?_⟩⟩
    · rw [hexec, y.processWord_of_acts p w hon hform hacts]
    · rw [hexec, y.processWord_of_refused p w hon hform hrefused]
    · rw [hexec, y.processWord_of_not_form p w hon hform]
    · rw [hexec, y.processWord_off_of_not_form p w hoff hform]
    · rw [hexec, y.processWord_off_of_form p w hoff hform hlight]
  case opens =>
    have hport := y.secondWord_tapPort p first v hon
    have hqueue : (y.tapPort p).queue = rest := congrArg TapPort.queue (before.modPort_tapPort p _)
    refine ⟨?_, congrArg TapPort.first hport, (congrArg TapPort.queue hport).trans hqueue, congrArg TapPort.cmd hport⟩
    rw [exec_tapCommandStart_second s p hrun hawake hwait, Block.portWord, before.dequeueWord_eq_secondWord p hq hfirst]
  case noEffect =>
    rw [exec_tapCommandStart_second s p hrun hawake hwait, Block.portWord, before.dequeueWord_eq_secondWord p hq hfirst,
      Block.secondWord_of_no_act _ _ _ _ _ hno]
  case entersWord => rw [exec_tapEntryWrite s p hrun, s.d.tapWrite_word p word pc hset hawake hany hkind hroom]
  case entersFirst => rw [exec_tapEntryWrite s p hrun, s.d.tapWrite_first p word pc hset hawake hany hkind hroom]
  case lost => rw [exec_tapEntryWrite s p hrun, s.d.tapWrite_full p word pc hset hawake hany hkind hfull]

end Sys2Proof.Machine

/-! Grants of a die (R123, R124, R429, R430): what a GRANT and a REVOKE record do to a die that hears them. -/

namespace Sys2Proof.Machine

section
variable (b : Block) (f : Frame) (r : Bytes) (c : Nat)

/-- The fleet time at which a GRANT ends (R123). -/
def grantExpiry (r : Bytes) : BitVec 64 := BitVec.ofNat 64 (fieldAt r 8 8)

/-- Some range of a GRANT holds the rank (R123). -/
def grantNames (r : Bytes) (rank : Nat) : Bool :=
  (chunks 8 (byteAt r 24) (r.drop 32)).any (fun e =>
    decide (bitsOf (fieldAt e 0 4) 17 0 ≤ rank) && decide (rank ≤ bitsOf (fieldAt e 4 4) 17 0))

/-- A GRANT keeps every condition at a die that holds its job in context `c` (R123). -/
def Block.grantGood : Prop :=
  (b.ctx c).isActive = true ∧ grantNames r (b.ctx c).rank = true ∧ b.time.valid = true ∧ 0 < ftDiff (grantExpiry r) b.ft ∧
    ftDiff (grantExpiry r) b.ft ≤ 57600000000000

/-- The die stores a grant in a slot (R123). -/
def Block.storeGrant (g : Nat) (x : TraceGrant) : Block :=
  b.modTrace (fun t => { t with grants := sput (fun _ => none) t.grants g (some x) })

/-- A GRANT is refused (R123, R429). -/
def Block.refuseGrant (c : Option Nat) : Block :=
  (b.flag Reg.TRC_STS 5).sendControl c .tray 0x0803 (leBytes 1 0x09 ++ leBytes 1 0xFF ++ zeros 6)

/-- Without a context of its job a GRANT is refused. -/
theorem Block.grantRecord_of_no_ctx (hnone : b.ctxOfJob f.job = none) : b.grantRecord f r = b.refuseGrant none := by
  simp only [Block.grantRecord, hnone]
  rfl

variable (hheld : b.ctxOfJob f.job = some c)
include hheld

/-- A GRANT that keeps every condition enters the free slot, and the answer names it (R123, R429). -/
theorem Block.grantRecord_of_good (g : Nat) (hgood : b.grantGood r c) (hfree : b.freeGrantSlot = some g) : b.grantRecord f r =
    (b.storeGrant g ⟨c, BitVec.ofNat 64 (fieldAt r 16 8), grantExpiry r⟩).updateExclusions.sendControl (some c) .tray 0x0803
      (leBytes 1 0 ++ leBytes 1 g ++ zeros 6) := by
  obtain ⟨hactive, hrange, hvalid, hahead, hlimit⟩ := hgood
  simp only [grantNames] at hrange
  simp only [grantExpiry] at hahead hlimit
  simp only [Block.grantRecord, hheld, hactive, hrange, hvalid, decide_eq_true hahead, decide_eq_true hlimit, Bool.and_self, hfree]
  rfl

/-- A GRANT that breaks a condition, or finds no free slot, is refused (R123, R429). -/
theorem Block.grantRecord_refused (hbad : ¬ b.grantGood r c ∨ b.freeGrantSlot = none) : b.grantRecord f r = b.refuseGrant (some c) := by
  simp only [Block.grantRecord, hheld]
  split
  next g hgood hfree =>
    simp only [Bool.and_eq_true, decide_eq_true_eq] at hgood
    obtain ⟨⟨⟨⟨hactive, hrange⟩, hvalid⟩, hahead⟩, hlimit⟩ := hgood
    rcases hbad with hbad | hnone
    · exact absurd ⟨hactive, hrange, hvalid, hahead, hlimit⟩ hbad
    · exact absurd (hfree.symm.trans hnone) (Option.some_ne_none g)
  next => rfl

/-- A REVOKE of a job that the die holds clears mask bits of its context's grants (R124, R430). -/
theorem Block.revokeRecord_of_ctx : b.revokeRecord f r = b.revokeGrants c (BitVec.ofNat 64 (fieldAt r 8 8)) := by
  simp only [Block.revokeRecord, hheld]

end

/-- A die that hears a GRANT record. -/
theorem exec_grantReceive (s : State) (link : Fin 64) (raw : Bytes) (f : Frame) (r : Bytes) (b' : Block)
    (hhears : s.hears .D link raw 0x0801 f r b') : exec (.grantReceive link raw) s = .next (s.setBlock .D (b'.grantRecord f r)) :=
  onBlock_receiveControl s .D link raw 0x0801 f r b' Block.grantRecord hhears

/-- A die that hears a REVOKE record. -/
theorem exec_revokeReceive (s : State) (link : Fin 64) (raw : Bytes) (f : Frame) (r : Bytes) (b' : Block)
    (hhears : s.hears .D link raw 0x0802 f r b') : exec (.revokeReceive link raw) s = .next (s.setBlock .D (b'.revokeRecord f r)) :=
  onBlock_receiveControl s .D link raw 0x0802 f r b' Block.revokeRecord hhears

/-- Settles O27: a GRANT by whether the die holds its job, keeps its conditions and has a free slot; a REVOKE by the context of its job. -/
theorem grantRecords : Obligations.GrantRecords := by
  unfold Obligations.GrantRecords
  intro s link raw f r b' c g held x expiry inRange good grant
  refine ⟨fun hhears hheld hgood hfree => ?granted, fun hhears hnone => ?noContext, fun hhears hheld hbad => ?refused,
    fun hhears hheld => ?revoked⟩
  case granted => exact (exec_grantReceive s link raw f r b' hhears).trans (by rw [b'.grantRecord_of_good f r c hheld g hgood hfree]; rfl)
  case noContext => exact (exec_grantReceive s link raw f r b' hhears).trans (by rw [b'.grantRecord_of_no_ctx f r hnone]; rfl)
  case refused => exact (exec_grantReceive s link raw f r b' hhears).trans (by rw [b'.grantRecord_refused f r c hheld hbad]; rfl)
  case revoked => rw [exec_revokeReceive s link raw f r b' hhears, b'.revokeRecord_of_ctx f r c hheld]

end Sys2Proof.Machine

/-! Trace feeds (R106 to R112, R118): where an entry of a region goes, when the head entry of a feed acts, and what it places by its kind. -/

namespace Sys2Proof.Machine

/-! ### The trace state of a region -/

section
variable (b : Block) (p : Nat)

@[simp] theorem Block.modTraceRegion_traceRegion (f : TraceRegion → TraceRegion) :
    (b.modTraceRegion p f).traceRegion p = f (b.traceRegion p) :=
  sget_smodify_same ..

/-- Feed `p` without its head entry. -/
def Block.dequeueFeed (rest : List FeedEntry) : Block := b.modTraceRegion p (fun r => { r with feed := rest })

@[simp] theorem Block.dequeueFeed_down (rest : List FeedEntry) : ((b.dequeueFeed p rest).traceRegion p).down = (b.traceRegion p).down := by
  simp only [Block.dequeueFeed, Block.modTraceRegion_traceRegion]

@[simp] theorem Block.dequeueFeed_suppressed (rest : List FeedEntry) :
    (b.dequeueFeed p rest).die.trace.suppressed = b.die.trace.suppressed := rfl

/-! ### The head entry of a feed (R106, R107, R122, R125) -/

/-- The head entry `e` of a feed that is enabled in a die that is awake: the die dequeues it (R106, R451). -/
structure Block.FeedHead (e : FeedEntry) (rest : List FeedEntry) : Prop where
  awake : b.asleep = false
  head : (b.traceRegion p).feed = e :: rest
  enabled : (b.dequeueFeed p rest).feedEnabled p = true

variable {b p} {e : FeedEntry} {rest : List FeedEntry}

/-- What the head entry does: it is discarded and counted, frozen out, or acts (R107, R122, R125). -/
theorem Block.FeedHead.onFeed_eq (h : b.FeedHead p e rest) {kinds : List Nat} (hkind : e.kind ∈ kinds) (good : FeedEntry → Bool)
    (act : Block → FeedEntry → Block) : b.onFeed p kinds good act =
      if (!good e) = true ∨ (b.traceRegion p).down = true then (b.dequeueFeed p rest).feedBad
      else if b.die.trace.suppressed.getLsbD p then b.dequeueFeed p rest else act (b.dequeueFeed p rest) e := by
  have hen := h.enabled
  rw [Block.dequeueFeed] at hen
  rw [← b.dequeueFeed_down p rest, ← b.dequeueFeed_suppressed p rest]
  simp only [Block.onFeed, h.head, h.awake, hkind, hen, not_true, Bool.not_true, Bool.false_eq_true, or_self, if_false]
  rfl

/-- An entry that stands in its row acts, where its region is neither powered down nor suppressed. -/
theorem Block.FeedHead.onFeed_acts (h : b.FeedHead p e rest) (hup : (b.traceRegion p).down = false)
    (hseen : b.die.trace.suppressed.getLsbD p = false) {kinds : List Nat} {good : FeedEntry → Bool} {act : Block → FeedEntry → Block}
    (hkind : e.kind ∈ kinds) (hgood : good e = true) : b.onFeed p kinds good act = act (b.dequeueFeed p rest) e := by
  simp only [h.onFeed_eq hkind, hgood, hup, hseen, Bool.not_true, Bool.false_eq_true, or_self, if_false]

/-- An entry that breaks its row is discarded and counted. -/
theorem Block.FeedHead.onFeed_bad (h : b.FeedHead p e rest) {kinds : List Nat} {good : FeedEntry → Bool} {act : Block → FeedEntry → Block}
    (hkind : e.kind ∈ kinds) (hbad : good e = false) : b.onFeed p kinds good act = (b.dequeueFeed p rest).feedBad := by
  simp only [h.onFeed_eq hkind, hbad, Bool.not_false, true_or, if_true]

end

/-! ### A LOAD or STORE by the address filter (R118) -/

section
variable (b : Block) (p delta full : Nat) (e : FeedEntry)

theorem Block.feedAccess_of_passes (h : b.addressPasses (bitsOf e.payload 47 0) = true) : b.feedAccess p delta full e =
    b.placeEntryOf p e.pc e.stamp none true (fun dpc r => accessPacket delta full p (e.attr % 256) (bitsOf e.payload 47 0) dpc r)
      (fun r => { r with d := bitsOf e.payload 47 0 }) := by
  simp only [Block.feedAccess, h, Bool.not_true, Bool.false_eq_true, if_false]

theorem Block.feedAccess_of_filtered (h : b.addressPasses (bitsOf e.payload 47 0) = false) :
    b.feedAccess p delta full e = b.filtered p e.pc := by
  simp only [Block.feedAccess, h, Bool.not_false, if_true]

end

/-! ### The commands of the feeds -/

/-- A command of the feeds takes the head entry of its feed where that is of one of its kinds, and stands in its row. -/
theorem Block.FeedHead.onDie_acts {s : State} {p : Nat} {e : FeedEntry} {rest : List FeedEntry} (h : s.d.FeedHead p e rest)
    (hrun : s.running .D = true) (hup : (s.d.traceRegion p).down = false) (hseen : s.d.die.trace.suppressed.getLsbD p = false)
    {kinds : List Nat} {good : FeedEntry → Bool} {act : Block → FeedEntry → Block} (hkind : e.kind ∈ kinds) (hgood : good e = true) :
    onDie (fun b => b.onFeed p kinds good act) s = .next (s.setBlock .D (act (s.d.dequeueFeed p rest) e)) := by
  rw [onDie_running _ s hrun, h.onFeed_acts hup hseen hkind hgood]

/-- A command of the feeds discards a head entry that breaks its row. -/
theorem Block.FeedHead.onDie_bad {s : State} {p : Nat} {e : FeedEntry} {rest : List FeedEntry} (h : s.d.FeedHead p e rest)
    (hrun : s.running .D = true) {kinds : List Nat} {good : FeedEntry → Bool} {act : Block → FeedEntry → Block} (hkind : e.kind ∈ kinds)
    (hbad : good e = false) :
    onDie (fun b => b.onFeed p kinds good act) s = .next (s.setBlock .D (s.d.dequeueFeed p rest).feedBad) := by
  rw [onDie_running _ s hrun, h.onFeed_bad hkind hbad]

section
variable (s : State) (p : Fin 64) (hrun : s.running .D = true)
include hrun

/-- An entry that a region writes enters a feed with room, with its stamp (R56, R106). -/
theorem exec_feedEntryWrite_enters (entry : BitVec 128) (hset : s.d.settled = true) (hawake : s.d.asleep = false)
    (hroom : (s.d.traceRegion p).feed.length < 16) : exec (.feedEntryWrite p entry) s =
      .next (s.setBlock .D (s.d.modTraceRegion p (fun r => { r with feed := r.feed ++ [⟨entry, s.d.arrivalStamp p⟩] }))) := by
  change execFeedEntryWrite p entry s = _
  simp only [execFeedEntryWrite, onDie_running _ s hrun, hset, hawake, if_neg (Nat.not_le_of_lt hroom), Bool.not_true, Bool.or_self,
    Bool.false_eq_true, if_false]

/-- An entry is lost in a full feed (R108). -/
theorem exec_feedEntryWrite_full (entry : BitVec 128) (hset : s.d.settled = true) (hawake : s.d.asleep = false)
    (hfull : 16 ≤ (s.d.traceRegion p).feed.length) : exec (.feedEntryWrite p entry) s = .next (s.setBlock .D (s.d.feedLoss p)) := by
  change execFeedEntryWrite p entry s = _
  simp only [execFeedEntryWrite, onDie_running _ s hrun, hset, hawake, if_pos hfull, Bool.not_true, Bool.or_self, Bool.false_eq_true, if_false]

variable {e : FeedEntry} {rest : List FeedEntry} (hhead : s.d.FeedHead p e rest)
include hhead

/-- An entry of a reserved kind is discarded and counted (R107). -/
theorem exec_feedStep_reserved (hkind : e.kind = 6 ∨ e.kind = 7) :
    exec (.feedStep p) s = .next (s.setBlock .D (s.d.dequeueFeed p rest).feedBad) := by
  refine hhead.onDie_bad hrun ?taken ?breaks
  case taken => rcases hkind with h | h <;> simp [h]
  case breaks => rcases hkind with h | h <;> simp [h]

variable (hup : (s.d.traceRegion p).down = false) (hseen : s.d.die.trace.suppressed.getLsbD p = false)
include hup hseen

theorem exec_feedStep (hkind : e.kind = 0) (hattr : e.attr = 0) (hlen : 1 ≤ bitsOf e.payload 47 32) (hzero : bitsOf e.payload 63 48 = 0) :
    exec (.feedStep p) s = .next (s.setBlock .D ((s.d.dequeueFeed p rest).placeEntryOf p e.pc e.stamp (some (bitsOf e.payload 31 0)) true
      (fun dpc _ => pktHead 0x10 p ++ leBytes 2 dpc ++ leBytes 2 (bitsOf e.payload 47 32))
      (fun r => { r with a := (bitsOf e.payload 31 0 + bitsOf e.payload 47 32) % 2 ^ 32 }))) :=
  hhead.onDie_acts hrun hup hseen (by simp [hkind]) (by simp [hkind, hattr, hlen, hzero])

theorem exec_feedDivert (hkind : e.kind = 1) (hzero : bitsOf e.payload 63 32 = 0) :
    exec (.feedDivert p) s = .next (s.setBlock .D ((s.d.dequeueFeed p rest).placeEntryOf p e.pc e.stamp none true
      (fun dpc _ => pktHead 0x11 p ++ leBytes 2 dpc ++ leBytes 2 e.attr ++ leBytes 4 (bitsOf e.payload 31 0))
      (fun r => { r with a := bitsOf e.payload 31 0 }))) :=
  hhead.onDie_acts hrun hup hseen (by simp [hkind]) (by simp [hzero])

theorem exec_feedLoad (hkind : e.kind = 2) (hgood : accessGood e = true) :
    exec (.feedLoad p) s = .next (s.setBlock .D ((s.d.dequeueFeed p rest).feedAccess p 0x20 0x22 e)) :=
  hhead.onDie_acts hrun hup hseen (by simp [hkind]) hgood

theorem exec_feedStore (hkind : e.kind = 3) (hgood : accessGood e = true) :
    exec (.feedStore p) s = .next (s.setBlock .D ((s.d.dequeueFeed p rest).feedAccess p 0x21 0x23 e)) :=
  hhead.onDie_acts hrun hup hseen (by simp [hkind]) hgood

/-- DATA is placed while the tag filter is off (R118). -/
theorem exec_feedData_unfiltered (hkind : e.kind = 4) (htag : bitsOf e.attr 12 8 = 0)
    (hoff : (s.d.dequeueFeed p rest).isSet Reg.TRC_DF 31 = false) : exec (.feedData p) s =
      .next (s.setBlock .D ((s.d.dequeueFeed p rest).placeEntryOf p e.pc e.stamp none true
        (fun dpc _ => pktHead 0x28 p ++ leBytes 1 (e.attr % 256) ++ leBytes 2 dpc ++ leBytes 8 e.payload) (fun r => r))) := by
  refine (hhead.onDie_acts hrun hup hseen (by simp [hkind]) (by simp [htag])).trans ?_
  simp only [hoff, Bool.false_eq_true, false_and, if_false]

/-- A MARK is compared with the trigger marks, and placed (R120). -/
theorem exec_feedMark (hkind : e.kind = 5) (hattr : e.attr = 0) (hzero : bitsOf e.payload 63 32 = 0) : exec (.feedMark p) s =
      .next (s.setBlock .D (((s.d.dequeueFeed p rest).triggerSeen
        (4 * bit (bitsOf e.payload 31 0 == (s.d.dequeueFeed p rest).fld Reg.TRC_TRG_MARK 31 0))
        (4 * bit (bitsOf e.payload 31 0 == (s.d.dequeueFeed p rest).fld (Reg.TRC_TRG_MARK + 4) 31 0))).placeEntryOf p e.pc e.stamp none true
          (fun dpc _ => pktHead 0x30 p ++ leBytes 2 dpc ++ leBytes 4 (bitsOf e.payload 31 0)) (fun r => r))) :=
  hhead.onDie_acts hrun hup hseen (by simp [hkind]) (by simp [hattr, hzero])

end

/-- Settles O45: an entry by the room of its feed; the head entry, once it acts, by its kind and, where it has one, its filter. -/
theorem traceFeeds : Obligations.TraceFeeds := by
  unfold Obligations.TraceFeeds
  intro s p entry e rest hrun r y ok low n addr tag
  have headOf : ok → s.d.FeedHead p e rest := fun ⟨hphase, hfeed, hen, _, _⟩ => ⟨s.d.asleep_of_phase_lt hphase, hfeed, hen⟩
  refine ⟨fun hset hphase => exec_feedEntryWrite_enters s p hrun entry hset (s.d.asleep_of_phase_lt hphase),
    fun hset hphase => exec_feedEntryWrite_full s p hrun entry hset (s.d.asleep_of_phase_lt hphase),
    fun hok => ?step, fun hok => ?divert, fun hok hkind hgood hpass => ?load, fun hok hkind hgood hfilter => ?loadFiltered,
    fun hok hkind hgood hpass => ?store, fun hok => ?data, fun hok => ?mark, fun hphase hfeed hen => ?reserved⟩
  case reserved => exact exec_feedStep_reserved s p hrun ⟨s.d.asleep_of_phase_lt hphase, hfeed, hen⟩
  all_goals
    have hhead := headOf hok
    obtain ⟨-, -, -, hup, hseen⟩ := hok
  case step => exact exec_feedStep s p hrun hhead hup hseen
  case divert => exact exec_feedDivert s p hrun hhead hup hseen
  case load =>
    rw [exec_feedLoad s p hrun hhead hup hseen hkind hgood, (s.d.dequeueFeed p rest).feedAccess_of_passes p _ _ e hpass]
    rfl
  case loadFiltered =>
    rw [exec_feedLoad s p hrun hhead hup hseen hkind hgood, (s.d.dequeueFeed p rest).feedAccess_of_filtered p _ _ e hfilter]
    rfl
  case store =>
    rw [exec_feedStore s p hrun hhead hup hseen hkind hgood, (s.d.dequeueFeed p rest).feedAccess_of_passes p _ _ e hpass]
    rfl
  case data => exact exec_feedData_unfiltered s p hrun hhead hup hseen
  case mark => exact exec_feedMark s p hrun hhead hup hseen

end Sys2Proof.Machine

/-! States of the trace unit (R115, R116, R120 to R124): writes of TRC_CTL and TRC_CMD, the trigger state machine, the end of POST and of an
old loaf. -/

namespace Sys2Proof.Machine

/-- A level that a running die takes acts (R476). -/
theorem onDieLevel_running (keep f : Block → Block) (s : State) (hrun : s.running .D = true) :
    onDieLevel keep f s = .next (s.setBlock .D (f s.d)) := by
  simp only [onDieLevel, hrun, if_true]

/-! ### Writes of TRC_CTL (R121) -/

section
variable (b : Block) (v : Word)

/-- A write of TRC_CTL in OFF is stored, and the regions' exclusion follows it. -/
def Block.storeTrcCtl : Block := (b.writeFields Reg.TRC_CTL v).updateExclusions

/-- EN starts the unit: the gates are set, and no trigger has been seen (R117, R121). -/
def Block.armTrace : Block := b.setGates.modTrace (fun t => { t with starts := 0, stops := 0, pastStarts := 0, pastStops := 0 })

/-- With MODE 1 the unit waits in ARMED; with MODE 0 a loaf starts in RUN. -/
def Block.beginTrace (triggered : Bool) : Block :=
  if triggered then b.armTrace.tracePhase 1 else (b.armTrace.tracePhase 2).startLoaf false

variable (hphase : b.power.phase = 0)
include hphase

theorem Block.writeTrcCtl_of_off (hoff : b.die.trace.phase = 0) :
    b.writeTrcCtl v = if v.getLsbD 31 then (b.storeTrcCtl v).beginTrace (v.getLsbD 28) else b.storeTrcCtl v := by
  cases hen : v.getLsbD 31 <;>
    simp only [Block.writeTrcCtl, hphase, hoff, hen, ne_eq, not_true, Bool.not_true, Bool.not_false, Bool.false_eq_true, if_true, if_false] <;> rfl

/-- Outside OFF, EN = 0 alone acts (log 42). -/
theorem Block.writeTrcCtl_of_on (hon : b.die.trace.phase ≠ 0) : b.writeTrcCtl v =
    if v.getLsbD 31 then b.flag Reg.TRC_STS 6 else ((b.setFld Reg.TRC_CTL 31 31 0).stopPlacing).tracePhase 0 := by
  cases hen : v.getLsbD 31 <;>
    simp only [Block.writeTrcCtl, hphase, hon, hen, ne_eq, not_true, Bool.not_true, Bool.not_false, Bool.false_eq_true, if_true, if_false]

end

/-! ### Writes of TRC_CMD (R115, R120) -/

section
variable (b : Block)

theorem Block.flushLoaf_of_open (l : TraceLoaf) (h : b.die.trace.loaf = some l) : b.flushLoaf = (b.endLoaf true false).startLoaf false := by
  simp only [Block.flushLoaf, h, Option.isSome_some, if_true]

theorem Block.flushLoaf_of_none (h : b.die.trace.loaf = none) : b.flushLoaf = b := by
  simp only [Block.flushLoaf, h, Option.isSome_none, Bool.false_eq_true, if_false]

theorem Block.writeTrcCmd_flush : b.writeTrcCmd 4 = b.flushLoaf := rfl
theorem Block.writeTrcCmd_start : b.writeTrcCmd 1 = b.triggerSeen 8 0 := rfl
theorem Block.writeTrcCmd_stop : b.writeTrcCmd 2 = b.triggerSeen 0 8 := rfl

/-! ### The trigger state machine (R116, R121) -/

/-- There is at most one transition in a cycle (R116). -/
theorem Block.triggerTransition_of_moved (h : b.traceMoved = true) : b.triggerTransition = b := by
  simp only [Block.triggerTransition, h, if_true]

section
variable {b} (hmoved : b.traceMoved = false)
include hmoved

section
variable {start stop : Nat} (hbits : b.triggerBits = (start, stop))
include hbits

/-- In ARMED a start begins RUN, and POST where a stop comes with it. -/
theorem Block.triggerTransition_armed (hphase : b.die.trace.phase = 1) : b.triggerTransition =
    if start ≠ 0 ∧ stop ≠ 0 then (b.enterPost.startLoaf false).placeTrigger 1 3 (start ||| stop)
    else if start ≠ 0 then ((b.tracePhase 2).startLoaf false).placeTrigger 1 2 start else b := by
  simp only [Block.triggerTransition, hmoved, hbits, hphase, Bool.false_eq_true, if_false]

/-- In RUN a stop begins POST, with MODE 1. -/
theorem Block.triggerTransition_run (hphase : b.die.trace.phase = 2) : b.triggerTransition =
    if stop ≠ 0 ∧ b.isSet Reg.TRC_CTL 28 then b.enterPost.placeTrigger 2 3 stop else b := by
  simp only [Block.triggerTransition, hmoved, hbits, hphase, Bool.false_eq_true, if_false]

/-- In POST a start with RESTART goes back to RUN. -/
theorem Block.triggerTransition_post (hphase : b.die.trace.phase = 3) : b.triggerTransition =
    if start ≠ 0 ∧ b.isSet Reg.TRC_CTL 26 then (b.tracePhase 2).placeTrigger 3 2 start else b := by
  simp only [Block.triggerTransition, hmoved, hbits, hphase, Bool.false_eq_true, if_false]

end

/-- In DONE, REARM goes back to ARMED. -/
theorem Block.triggerTransition_done (hphase : b.die.trace.phase = 4) :
    b.triggerTransition = if b.isSet Reg.TRC_CTL 27 then b.tracePhase 1 else b := by
  simp only [Block.triggerTransition, hmoved, hphase, Bool.false_eq_true, if_false]

end

/-- POST ends in DONE where no start with RESTART comes first (R121). -/
theorem Block.postEnds_done (h : b.triggerBits.1 = 0 ∨ b.isSet Reg.TRC_CTL 26 = false) :
    b.postEnds = ((b.placeTrigger 3 4 0).stopPlacing.tracePhase 4).flag Reg.TRC_STS 0 := by
  refine if_neg fun ⟨hstart, hrestart⟩ => ?_
  rcases h with h | h
  · exact hstart h
  · exact Bool.false_ne_true (h.symm.trans hrestart)

end

/-! ### The commands of the trace unit -/

/-- The level of region_secure[p] is taken (R122). -/
def Block.setSecure (b : Block) (p : Nat) (level : Bool) : Block :=
  b.modTrace (fun t => { t with secure := if level then setB t.secure p else clearB t.secure p })

section
variable (s : State) (hrun : s.running .D = true)
include hrun

theorem exec_trcCtlEnWrite (v : Word) : exec (.trcCtlEnWrite v) s = .next (s.setBlock .D (s.d.writeTrcCtl v)) :=
  onDie_running (fun b => b.writeTrcCtl v) s hrun

theorem exec_triggerTransition : exec .triggerTransition s = .next (s.setBlock .D s.d.triggerTransition) :=
  onDie_running Block.triggerTransition s hrun

/-- POST has lasted its count (R121). -/
theorem exec_postCountExpire (hphase : s.d.die.trace.phase = 3) (hmoved : s.d.traceMoved = false)
    (hcount : s.d.die.trace.postMark + s.d.fld Reg.TRC_TRG 31 16 * 1024 ≤ s.d.time.cycles) :
    exec .postCountExpire s = .next (s.setBlock .D s.d.postEnds) := by
  change execPostCountExpire s = _
  simp only [execPostCountExpire, onDie_running _ s hrun, hphase, hmoved, decide_eq_true hcount, beq_self_eq_true, Bool.not_false, Bool.and_self,
    Block.when_true]

theorem exec_trcCmdFlush : exec .trcCmdFlush s = .next (s.setBlock .D s.d.flushLoaf) :=
  onBlock_eq_of s .D (fun b => b.writeTrcCmd 4) _ hrun s.d.writeTrcCmd_flush

theorem exec_trcCmdStart : exec .trcCmdStart s = .next (s.setBlock .D (s.d.triggerSeen 8 0)) :=
  onBlock_eq_of s .D (fun b => b.writeTrcCmd 1) _ hrun s.d.writeTrcCmd_start

theorem exec_trcCmdStop : exec .trcCmdStop s = .next (s.setBlock .D (s.d.triggerSeen 0 8)) :=
  onBlock_eq_of s .D (fun b => b.writeTrcCmd 2) _ hrun s.d.writeTrcCmd_stop

/-- The open loaf is AGE µs old (R115). -/
theorem exec_loafAgeExpire (l : TraceLoaf) (hopen : s.d.die.trace.loaf = some l) (hage : s.d.fld Reg.TRC_FLUSH 15 0 ≠ 0)
    (hold : ftGe s.d.ft (ftAdd l.startFt (s.d.fld Reg.TRC_FLUSH 15 0 * 16000)) = true) :
    exec .loafAgeExpire s = .next (s.setBlock .D s.d.flushLoaf) := by
  change execLoafAgeExpire s = _
  simp only [execLoafAgeExpire, onDie_running _ s hrun, hopen, ticksPerUs, hold, bne_iff_ne.mpr hage, Bool.and_self, Block.when_true]

theorem exec_grantExpire : exec .grantExpire s = .next (s.setBlock .D (s.d.dropGrants (fun g => ftGe s.d.ft g.expiry))) :=
  onDie_running (fun b => b.dropGrants (fun g => ftGe b.ft g.expiry)) s hrun

theorem exec_regionSecureChange (p : Fin 64) (level : Bool) :
    exec (.regionSecureChange p level) s = .next (s.setBlock .D ((s.d.setSecure p level).updateExclusion p)) :=
  onDieLevel_running (fun b => b.setSecure p level) (fun b => (b.setSecure p level).updateExclusion p) s hrun

end

/-- Settles O46: a write of TRC_CTL by the unit's state and EN, a transition by its row of the state machine, a flush by the open loaf, and each
other command by what it does to the running die. -/
theorem traceStates : Obligations.TraceStates := by
  unfold Obligations.TraceStates
  intro s v p level start stop l hrun y t stored armed
  refine ⟨fun hphase hoff hen => ?stored, fun hphase hoff hen hmode => ?arms, fun hphase hoff hen hmode => ?runs,
    fun hphase hon hen => ?stops, fun hphase hon hen => ?refused, fun hbits hmoved => ?transition, fun hmoved => ?moved,
    fun hphase hmoved hcount hno => ?posts, fun hopen => ?flushes, fun hnone => ?noLoaf,
    ⟨exec_trcCmdStart s hrun, exec_trcCmdStop s hrun⟩, fun hopen hage hold => ?aged, exec_regionSecureChange s hrun p level,
    exec_grantExpire s hrun⟩
  case stored => rw [exec_trcCtlEnWrite s hrun, s.d.writeTrcCtl_of_off v hphase hoff, hen, if_neg Bool.false_ne_true]; rfl
  case arms => rw [exec_trcCtlEnWrite s hrun, s.d.writeTrcCtl_of_off v hphase hoff, hen, hmode, if_pos rfl]; rfl
  case runs => rw [exec_trcCtlEnWrite s hrun, s.d.writeTrcCtl_of_off v hphase hoff, hen, hmode, if_pos rfl]; rfl
  case stops => rw [exec_trcCtlEnWrite s hrun, s.d.writeTrcCtl_of_on v hphase hon, hen, if_neg Bool.false_ne_true]
  case refused => rw [exec_trcCtlEnWrite s hrun, s.d.writeTrcCtl_of_on v hphase hon, hen, if_pos rfl]
  case transition =>
    rw [exec_triggerTransition s hrun]
    refine ⟨fun hphase hstart hstop => ?_, fun hphase hstart hstop => ?_, fun hphase hstop hmode => ?_, fun hphase hstart hrestart => ?_,
      fun hphase hrearm => ?_⟩
    · rw [Block.triggerTransition_armed hmoved hbits hphase, if_neg (fun h => h.2 hstop), if_pos hstart]
    · rw [Block.triggerTransition_armed hmoved hbits hphase, if_pos ⟨hstart, hstop⟩]
    · rw [Block.triggerTransition_run hmoved hbits hphase, if_pos ⟨hstop, hmode⟩]
    · rw [Block.triggerTransition_post hmoved hbits hphase, if_pos ⟨hstart, hrestart⟩]
    · rw [Block.triggerTransition_done hmoved hphase, if_pos hrearm]
  case moved => rw [exec_triggerTransition s hrun, s.d.triggerTransition_of_moved hmoved]; exact congrArg _ (s.setBlock_same .D)
  case posts => rw [exec_postCountExpire s hrun hphase hmoved hcount, s.d.postEnds_done hno]
  case flushes => rw [exec_trcCmdFlush s hrun, s.d.flushLoaf_of_open l hopen]
  case noLoaf => rw [exec_trcCmdFlush s hrun, s.d.flushLoaf_of_none hnone]; exact congrArg _ (s.setBlock_same .D)
  case aged => rw [exec_loafAgeExpire s hrun l hopen hage hold, s.d.flushLoaf_of_open l hopen]

end Sys2Proof.Machine

/-! The flow of trace (R125, R127 to R131, R148, R149) and the trigger engine of a die (R264, R265): what each command does where its trigger
holds. -/

namespace Sys2Proof.Machine

/-! ### Power packets, drop mode and stall (R125, R127 to R130) -/

section
variable (b : Block)

/-- The POWER packets that region `p` owes are placed, and it is down (R125). -/
def Block.placeDown (p : Nat) : Block :=
  (b.forEach (b.traceRegion p).powerWait (fun b e => b.placePower p e.1 e.2)).modTraceRegion p
    (fun r => { r with down := true, powerWait := [] })

/-- The enabled regions that can stall: neither suppressed nor powered down (R129). -/
def Block.stallMask : BitVec 64 :=
  b.tracedRegions.foldl (fun (m : BitVec 64) p =>
    if b.die.trace.suppressed.getLsbD p || (b.traceRegion p).down then m else setB m p) 0

/-- Stall mode is permitted, no region is stalled, and the free space is below ON (R129). -/
structure Block.StallDue : Prop where
  permitted : b.stallPermitted = true
  free : b.die.trace.stall = 0
  low : b.die.trace.bufferFree < b.fld Reg.TRC_STALL 9 0 * 256

end

section
variable (s : State) (hrun : s.running .D = true)
include hrun

theorem exec_powerPacketPlace (p : Fin 64) (hwait : (s.d.traceRegion p).powerWait ≠ []) (hempty : (s.d.traceRegion p).feed = []) :
    exec (.powerPacketPlace p) s = .next (s.setBlock .D (s.d.placeDown p)) := by
  change execPowerPacketPlace p s = _
  simp only [execPowerPacketPlace, onDie_running _ s hrun, hempty, List.isEmpty_eq_false_iff.mpr hwait, List.isEmpty_nil, Bool.not_false,
    Bool.and_self, Block.when_true]
  rfl

theorem exec_dropModeEnd (hdrop : s.d.drainStaging.die.trace.dropping = true) (hempty : s.d.drainStaging.die.trace.staging = 0)
    (hroom : s.d.drainStaging.resumeBytes ≤ s.d.drainStaging.die.trace.bufferFree) : exec .dropModeEnd s =
      .next (s.setBlock .D ((s.d.drainStaging.modTrace (fun t => { t with dropping := false })).startLoaf true)) := by
  change execDropModeEnd s = _
  simp only [execDropModeEnd, onDie_running _ s hrun, hdrop, hempty, decide_eq_true hroom, beq_self_eq_true, Bool.and_self, Block.when_true]

/-- A stall that is due is asserted while sched_debug is, and denied without it (R129, R130). -/
theorem exec_traceStallAssert (hdue : s.d.drainStaging.StallDue) : exec .traceStallAssert s = .next (s.setBlock .D
    (if s.d.drainStaging.die.trace.schedDebug then s.d.drainStaging.modTrace (fun t =>
      { t with stall := s.d.drainStaging.stallMask, stallMark := s.d.drainStaging.time.cycles })
    else s.d.drainStaging.flag Reg.TRC_STS 4)) := by
  obtain ⟨hpermitted, hfree, hlow⟩ := hdue
  change execTraceStallAssert s = _
  simp only [execTraceStallAssert, onDie_running _ s hrun, hpermitted, hfree, decide_eq_true hlow, beq_self_eq_true, Bool.and_self,
    Block.when_true]
  cases s.d.drainStaging.die.trace.schedDebug <;> rfl

theorem exec_traceStallRelease (hstall : s.d.drainStaging.die.trace.stall ≠ 0)
    (hroom : s.d.drainStaging.stallOff ≤ s.d.drainStaging.die.trace.bufferFree) :
    exec .traceStallRelease s = .next (s.setBlock .D s.d.drainStaging.releaseStall) := by
  change execTraceStallRelease s = _
  simp only [execTraceStallRelease, onDie_running _ s hrun, bne_iff_ne.mpr hstall, decide_eq_true hroom, Bool.and_self, Block.when_true]

/-- A fall of sched_debug during a stall releases it and sets STALL_DENIED; every other level is taken alone (R130). -/
theorem exec_schedDebugFall (level : Bool) : exec (.schedDebugFall level) s = .next (s.setBlock .D
    ((s.d.modTrace (fun t => { t with schedDebug := level })).when (!level && s.d.die.trace.stall != 0)
      (fun b => b.releaseStall.flag Reg.TRC_STS 4))) := by
  change execSchedDebugFall level s = _
  simp only [execSchedDebugFall, onDieLevel_running _ _ s hrun]

theorem exec_schedDebugFall_taken (level : Bool) (h : level = true ∨ s.d.die.trace.stall = 0) : exec (.schedDebugFall level) s =
    .next (s.setBlock .D (s.d.modTrace (fun t => { t with schedDebug := level }))) := by
  have hno : (!level && s.d.die.trace.stall != 0) = false := by rcases h with h | h <;> simp [h]
  rw [exec_schedDebugFall s hrun, hno, Block.when_false]

theorem exec_schedDebugFall_denied (hstall : s.d.die.trace.stall ≠ 0) : exec (.schedDebugFall false) s =
    .next (s.setBlock .D ((s.d.modTrace (fun t => { t with schedDebug := false })).releaseStall.flag Reg.TRC_STS 4)) := by
  rw [exec_schedDebugFall s hrun, bne_iff_ne.mpr hstall, Bool.not_false, Bool.and_self, Block.when_true]

end

/-! ### Engines and the trace port (R131, R148, R149) -/

/-- The stored form that an engine makes of a loaf (R148). -/
def TraceLoaf.build (l : TraceLoaf) : Bytes := buildLoaf l.flags l.blk 0 l.seq l.rawOnly l.effort l.input

/-- A loaf has been compressed: its stored form waits, and its input is counted (R148). -/
def Block.storeLoaf (b : Block) (l : TraceLoaf) : Block :=
  (b.modTrace (fun t => { t with ended := t.ended.map (fun x =>
    if x.seq = l.seq then { x with stored := some l.build } else x) })).countWide Reg.LOF_IN_LO l.input.length

/-- The oldest loaf has left by its port, and its buffer space is free (R149). -/
def Block.loafGone (b : Block) (rest : List TraceLoaf) (bytes : Bytes) : Block :=
  (((b.drainStaging.sendSuper bytes).modTrace (fun t => { t with ended := rest, sent := t.sent ++ [bytes] })).count
    Reg.TRC_LOAVES 1).countWide Reg.LOF_OUT_LO bytes.length

/-- The link of the trace port comes up or falls, and the counts of the port restart (R131). -/
def Block.setTraceLink (b : Block) (level : Bool) : Block := b.modTrace (fun t => { t with linkUp := level, superCount := 0, wire := [] })

section
variable (s : State) (hrun : s.running .D = true)
include hrun

theorem exec_loafCompressed (engine : Fin 4) (l : TraceLoaf) (hawake : s.d.asleep = false)
    (holdest : s.d.die.trace.ended.find? (fun l => l.stored.isNone && l.seq % 4 == engine.val) = some l) : exec (.loafCompressed engine) s =
      .next (s.setBlock .D (if loafIsRaw l.build then ((s.d.storeLoaf l).count Reg.LOF_RAW 1).flag Reg.LOF_STS 1 else s.d.storeLoaf l)) := by
  change execLoafCompressed engine s = _
  simp only [execLoafCompressed, onDie_running _ s hrun, holdest, hawake, Bool.not_false, Block.when_true]
  rfl

theorem exec_loafDeparted (l : TraceLoaf) (rest : List TraceLoaf) (bytes : Bytes) (hended : s.d.die.trace.ended = l :: rest)
    (hstored : l.stored = some bytes) (hup : s.d.tracePortUp = true) (htime : s.d.portTime bytes = true) :
    exec .loafDeparted s = .next (s.setBlock .D (s.d.loafGone rest bytes)) := by
  change execLoafDeparted s = _
  simp only [execLoafDeparted, onDie_running _ s hrun, hended, hstored, hup, htime, Bool.and_self, Block.when_true]
  rfl

theorem exec_trcLinkUpChange (level : Bool) : exec (.trcLinkUpChange level) s = .next (s.setBlock .D (s.d.setTraceLink level)) :=
  onDieLevel_running (fun b => b.setTraceLink level) (fun b => b.setTraceLink level) s hrun

end

/-! ### The tree store of the trigger engine (R264, R265) -/

section
variable (b : Block) (v : Word)

theorem Block.writeTstoreData_refused (hon : b.trigOn = true) : b.writeTstoreData v = b.flag Reg.ENS_TRG_STS 3 := by
  simp only [Block.writeTstoreData, hon, if_true]
  rfl

/-- A word that does not end its tree is stored, its tree is not valid, and the address moves on (R264). -/
theorem Block.writeTstoreData_inside (hoff : b.trigOn = false) (hinside : b.fld Reg.ENS_TSTORE_ADDR 16 2 % 512 ≠ 511) :
    b.writeTstoreData v = ((b.modTrig (fun u =>
      { u with store := sput (fun _ => (0 : Word)) u.store (b.fld Reg.ENS_TSTORE_ADDR 16 2) v })).putTrigValid
        (b.fld Reg.ENS_TSTORE_ADDR 16 2 / 512) false).setFld Reg.ENS_TSTORE_ADDR 16 2 (b.fld Reg.ENS_TSTORE_ADDR 16 2 + 1) := by
  simp only [Block.writeTstoreData, hoff, Bool.false_eq_true, if_false, if_pos hinside]

/-! ### Enabling and evaluation of the trigger engine (R265) -/

/-- PER of a write of ENS_TRG_CTL: a reserved value keeps the old one (R10). -/
def Block.trigPer : Nat := if 9 ≤ bitsOf v.toNat 3 0 then b.fld Reg.ENS_TRG_CTL 3 0 else bitsOf v.toNat 3 0

/-- What a write of ENS_TRG_CTL stores beside EN. -/
def Block.trigCtlWord : Nat := bitsOf v.toNat 10 8 * 2 ^ 8 + b.trigPer v

theorem Block.writeTrgCtl_off (hen : v.getLsbD 31 = false) :
    b.writeTrgCtl v = b.setReg Reg.ENS_TRG_CTL (BitVec.ofNat 32 (b.trigCtlWord v)) := by
  simp only [Block.writeTrgCtl, hen, Bool.not_false, if_true]
  rfl

variable (hen : v.getLsbD 31 = true)
include hen

theorem Block.writeTrgCtl_refused (hready : b.trigReady = false) : b.writeTrgCtl v = b.flag Reg.ENS_TRG_STS 3 := by
  simp only [Block.writeTrgCtl, hen, hready, Bool.not_true, Bool.not_false, Bool.false_eq_true, if_true, if_false]
  rfl

/-- EN is taken, and the engine begins anew. -/
theorem Block.writeTrgCtl_begins (hready : b.trigReady = true) (hoff : b.trigOn = false) : b.writeTrgCtl v =
    (b.setReg Reg.ENS_TRG_CTL (BitVec.ofNat 32 (b.trigCtlWord v + 2 ^ 31))).modTrig (fun u =>
      { u with start := b.time.cycles, period := 0, evaluated := [], first := true, losses := [] }) := by
  simp only [Block.writeTrgCtl, hen, hready, hoff, Bool.not_true, Bool.not_false, Bool.false_eq_true, if_true, if_false]
  rfl

end

/-- The period of evaluations in which the die is, counted from the cycle of the write of EN (R265). -/
def Block.trigPeriod (b : Block) : Nat := (b.time.cycles - b.die.trig.start) / 2 ^ (b.fld Reg.ENS_TRG_CTL 3 0 + 8)

section
variable (s : State) (hrun : s.running .D = true)
include hrun

theorem exec_ensTstoreDataWrite (v : Word) : exec (.ensTstoreDataWrite v) s = .next (s.setBlock .D (s.d.writeTstoreData v)) :=
  onDie_running (fun b => b.writeTstoreData v) s hrun

theorem exec_ensTrgCtlWrite (v : Word) : exec (.ensTrgCtlWrite v) s = .next (s.setBlock .D (s.d.writeTrgCtl v)) :=
  onDie_running (fun b => b.writeTrgCtl v) s hrun

/-- An evaluation comes in a period that has had none (R265, R451). -/
theorem exec_triggerEval (hon : s.d.trigOn = true) (hphase : s.d.power.phase = 0) (hnew : s.d.trigPeriod ≠ s.d.die.trig.period) :
    exec .triggerEval s = .next (s.setBlock .D (s.d.trigEval.modTrig (fun u => { u with period := s.d.trigPeriod }))) := by
  change execTriggerEval s = _
  simp only [Block.trigPeriod, ← bne_iff_ne] at hnew
  simp only [Block.trigPeriod, execTriggerEval, onDie_running _ s hrun, hon, hphase, hnew, beq_self_eq_true, Bool.and_self, Block.when_true]

end

/-- Settles O47: each command by the trigger that its clause names, a write of the trigger engine by its state and EN. -/
theorem traceFlow : Obligations.TraceFlow := by
  unfold Obligations.TraceFlow
  intro s p engine level v l rest bytes hrun y r d t mask stored counted a per w i
  refine ⟨exec_powerPacketPlace s hrun p, exec_dropModeEnd s hrun,
    fun hpermitted hfree hlow hdebug => ?denied, fun hpermitted hfree hlow hdebug => ?asserted, exec_traceStallRelease s hrun,
    exec_schedDebugFall_taken s hrun level, exec_schedDebugFall_denied s hrun, exec_loafCompressed s hrun engine l,
    exec_loafDeparted s hrun l rest bytes, exec_trcLinkUpChange s hrun level, fun hoff hinside => ?storeWord, fun hon => ?storeRefused,
    fun hen => ?disabled, fun hen hready => ?enRefused, fun hen hready hoff => ?begins, exec_triggerEval s hrun⟩
  case denied =>
    have hd : s.d.drainStaging.die.trace.schedDebug = false := hdebug
    rw [exec_traceStallAssert s hrun ⟨hpermitted, hfree, hlow⟩, hd, if_neg Bool.false_ne_true]
  case asserted =>
    have hd : s.d.drainStaging.die.trace.schedDebug = true := hdebug
    rw [exec_traceStallAssert s hrun ⟨hpermitted, hfree, hlow⟩, hd, if_pos rfl]
    rfl
  case storeWord => rw [exec_ensTstoreDataWrite s hrun, s.d.writeTstoreData_inside v hoff hinside]
  case storeRefused => rw [exec_ensTstoreDataWrite s hrun, s.d.writeTstoreData_refused v hon]
  case disabled => rw [exec_ensTrgCtlWrite s hrun, s.d.writeTrgCtl_off v hen]; rfl
  case enRefused => rw [exec_ensTrgCtlWrite s hrun, s.d.writeTrgCtl_refused v hen hready]
  case begins => rw [exec_ensTrgCtlWrite s hrun, s.d.writeTrgCtl_begins v hen hready hoff]; rfl

end Sys2Proof.Machine

/-! The way of a loaf from the trace port to the anvil (R132, R150, R151, R284, R288, R348), and the errors of the stores and of the clocks
(R260, R277, R316). -/

namespace Sys2Proof.Machine

/-! ### The ingest ports -/

section
variable (b : Block) (p : Nat) (f : IngestPort → IngestPort)

@[simp] theorem Block.modIngest_ingest : (b.modIngest p f).ingest p = f (b.ingest p) := sget_smodify_same ..
@[simp] theorem Block.modIngest_ingest_other (q : Nat) (h : q ≠ p) : (b.modIngest p f).ingest q = b.ingest q := sget_smodify_other _ _ _ _ _ h
@[simp] theorem Block.modIngest_regs : (b.modIngest p f).regs = b.regs := rfl
@[simp] theorem Block.modIngest_ctxs : (b.modIngest p f).ctxs = b.ctxs := rfl

end

/-! ### A lane locks (R132) -/

/-- What a lane is when it has locked. -/
def lockedLane (lane i n : Nat) : IngestLane := { lane := lane, index := i, head := 4096 * n + 1 }

section
variable (x : IngestPort) (lane : Nat) {ws : List Bytes} {i n : Nat} (hfound : laneFound ws = some (i, n))
include hfound

theorem IngestPort.lock_lanes : (x.lock lane ws).lanes = x.lanes.filter (fun l => l.lane != lane) ++ [lockedLane lane i n] := by
  simp only [IngestPort.lock, hfound]
  rfl

theorem IngestPort.lockedLane_mem_lock : lockedLane lane i n ∈ (x.lock lane ws).lanes := by
  simp only [x.lock_lanes lane hfound, List.mem_append, List.mem_singleton, or_true]

/-- The lane that has locked is the only one of its place. -/
theorem IngestPort.lock_lane_iff {l : IngestLane} (hl : l ∈ (x.lock lane ws).lanes) : l.lane = lane ↔ l = lockedLane lane i n := by
  refine ⟨fun hlane => ?_, fun h => h ▸ rfl⟩
  rw [x.lock_lanes lane hfound, List.mem_append, List.mem_filter, List.mem_singleton] at hl
  rcases hl with ⟨-, hother⟩ | hnew
  · exact absurd hlane (bne_iff_ne.mp hother)
  · exact hnew

end

theorem exec_laneLock (s : State) (p : Fin 32) (lane : Fin 4) (ws : List Bytes) (hrun : s.running .T = true) (hup : (s.t.ingest p).up = true) :
    exec (.laneLock p ⟨lane, ws⟩) s = .next (s.setBlock .T (s.t.modIngest p (fun x => x.lock lane ws))) := by
  change execLaneLock p ⟨lane, ws⟩ s = _
  simp only [execLaneLock, onTray_running _ s hrun, hup, Block.when_true]

/-! ### A super-block by its place (R132) -/

section
variable (x : IngestPort) (blk : Bytes)

/-- Between loaves a super-block that is neither idle nor the start of a loaf is a framing error. -/
theorem IngestPort.boundary_of_error (hsearch : x.searching = false) (hidle : slice blk 0 2 ≠ [0xB7, 0xE1])
    (hstart : slice blk 0 2 ≠ [0xB7, 0x1F]) : x.boundary blk = { x with framing := x.framing + 1, searching := true } := by
  simp only [IngestPort.boundary, if_neg hidle, if_pos hstart, hsearch, Bool.false_eq_true, if_false]

/-- Between loaves the start of a loaf is kept, by a receiver that searches where its header fits. -/
theorem IngestPort.boundary_of_start (hstart : slice blk 0 2 = [0xB7, 0x1F]) (hfits : x.searching = false ∨ headerFits blk = true) :
    x.boundary blk = { x with loaf := blk, searching := false } := by
  have hidle : slice blk 0 2 ≠ [0xB7, 0xE1] := by rw [hstart]; decide
  have hno : ¬ (x.searching = true ∧ (!headerFits blk) = true) := by rcases hfits with h | h <;> simp [h]
  rw [IngestPort.boundary, if_neg hidle, if_neg (fun hother => hother hstart), if_neg hno]

end

section
variable (b : Block) (p : Nat) (blk : Bytes)

/-- Between loaves a super-block that leaves the port without a whole loaf is kept, or counted. -/
theorem Block.superBlock_of_boundary (hidle : (b.ingest p).loaf = [])
    (hpart : ((b.ingest p).boundary blk).loaf = [] ∨
      ((b.ingest p).boundary blk).loaf.length < loafSpan (fieldAt ((b.ingest p).boundary blk).loaf 7 3)) :
    b.superBlock p blk = b.modIngest p (fun _ => (b.ingest p).boundary blk) := by
  simp only [Block.superBlock, hidle, List.isEmpty_nil, if_true, List.isEmpty_iff, if_pos hpart]

variable {got : Bytes} (hgot : (b.ingest p).loaf ++ blk = got) (hopen : (b.ingest p).loaf ≠ [])
include hgot hopen

/-- A super-block of a loaf that has begun is kept. -/
theorem Block.superBlock_of_part (hpart : got.length < loafSpan (fieldAt got 7 3)) :
    b.superBlock p blk = b.modIngest p (fun _ => { b.ingest p with loaf := got }) := by
  simp only [Block.superBlock, List.isEmpty_eq_false_iff.mpr hopen, Bool.false_eq_true, if_false, hgot, if_pos (Or.inr hpart)]

/-- The last super-block of a loaf gives the whole loaf. -/
theorem Block.superBlock_of_last (hwhole : loafSpan (fieldAt got 7 3) ≤ got.length) :
    b.superBlock p blk = (b.modIngest p (fun _ => { b.ingest p with loaf := [] })).wholeLoaf p got := by
  have hne : got ≠ [] := fun h => hopen (List.append_eq_nil_iff.mp (hgot.trans h)).1
  simp only [Block.superBlock, List.isEmpty_eq_false_iff.mpr hopen, List.isEmpty_eq_false_iff.mpr hne, Bool.false_eq_true, if_false, hgot,
    false_or, if_neg (Nat.not_lt_of_le hwhole)]

end

/-! ### A word of each lane (R132, R488) -/

/-- Bytes that fill one chunk are that chunk. -/
theorem chunks_one {n : Nat} {bs : Bytes} (hlen : bs.length ≤ n) (hne : bs ≠ []) : chunks n 1 bs = [bs] := by
  cases bs with
  | nil => exact absurd rfl hne
  | cons x xs => exact congrArg (· :: []) (List.take_of_length_le hlen)

/-- A port takes one word of each lane while its link is up, outside RETAIN and OFF (R451). -/
theorem exec_ingestLoafReceive (s : State) (p : Fin 32) (words : Bytes) (hrun : s.running .T = true) (hphase : s.t.power.phase < 2)
    (hup : (s.t.ingest p).up = true) (hlen : words.length = 64) :
    exec (.ingestLoafReceive p words) s = .next (s.setBlock .T (s.t.ingestWords p words)) := by
  have hone : words.length / 64 = 1 := by omega
  change execIngestLoafReceive p words s = _
  simp only [execIngestLoafReceive, onTray_running _ s hrun, decide_eq_true hphase, hup, Bool.and_self, Block.when_true, hone,
    chunks_one (Nat.le_of_eq hlen) (by rintro rfl; cases hlen), Block.forEach_cons, Block.forEach_nil]

section
variable (b : Block) (p : Nat) (words : Bytes) {x : IngestPort}

/-- A word time that delivers no super-block. -/
theorem Block.ingestWords_of_none (h : (b.ingest p).wordTime words = (x, none)) : b.ingestWords p words = b.modIngest p (fun _ => x) := by
  simp only [Block.ingestWords, h]

/-- A word time that delivers a super-block. -/
theorem Block.ingestWords_of_some {blk : Bytes} (h : (b.ingest p).wordTime words = (x, some blk)) :
    b.ingestWords p words = (b.modIngest p (fun _ => x)).superBlock p blk := by
  simp only [Block.ingestWords, h]

end

/-! ### The decompressor and the anvil (R150, R151, R284, R292) -/

/-- The anvil of a port takes the loaf that its decompressor has decoded. -/
def Block.takeDecoded (b : Block) (p : Nat) : Block := b.modIngest p (fun x => { x with decoded := none })

section
variable (s : State) (p : Fin 32) (raw : Bytes) (hrun : s.running .T = true)
include hrun

theorem exec_decompressLoaf_ok (out : Loaf) (hraw : (s.t.ingest p).decoding = some raw) (hout : decodeLoaf raw (2 ^ 24) = .ok out) :
    exec (.decompressLoaf p) s = .next (s.setBlock .T ((s.t.modIngest p (fun x => { x with decoding := none })).modIngest p (fun x =>
      { x with decoded := some raw }))) := by
  change execDecompressLoaf p s = _
  simp only [execDecompressLoaf, onTray_running _ s hrun, hraw, hout]

theorem exec_decompressLoaf_fault (e : LoafFault) (hraw : (s.t.ingest p).decoding = some raw) (hfault : decodeLoaf raw (2 ^ 24) = .error e) :
    exec (.decompressLoaf p) s = .next (s.setBlock .T ((s.t.modIngest p (fun x => { x with decoding := none })).anvilFault p raw e)) := by
  change execDecompressLoaf p s = _
  simp only [execDecompressLoaf, onTray_running _ s hrun, hraw, hfault]

variable (hraw : (s.t.ingest p).decoded = some raw)
include hraw

theorem exec_anvilCompareLoaf_compares (hidle : (s.t.takeDecoded p).anvilIdle p raw = none) :
    exec (.anvilCompareLoaf p) s = .next (s.setBlock .T ((s.t.takeDecoded p).compare p raw false)) := by
  rw [Block.takeDecoded] at hidle ⊢
  change execAnvilCompareLoaf p s = _
  simp only [execAnvilCompareLoaf, onTray_running _ s hrun, hraw, hidle]

theorem exec_anvilCompareLoaf_skips (lost : Bool) (hidle : (s.t.takeDecoded p).anvilIdle p raw = some lost) :
    exec (.anvilCompareLoaf p) s = .next (s.setBlock .T ((s.t.takeDecoded p).skipLoaf p raw lost)) := by
  rw [Block.takeDecoded] at hidle ⊢
  change execAnvilCompareLoaf p s = _
  simp only [execAnvilCompareLoaf, onTray_running _ s hrun, hraw, hidle]

end

/-! ### Errors of the stores and of the clocks (R260, R277, R316) -/

section
variable (b : Block)

/-- An uncorrected error in the tree of a slot (R260). -/
def Block.treeBad (slot : Nat) : Block :=
  ((b.modPlane (fun u => { u with trees := putSlot u.trees slot { slotIn b.tray.plane.trees slot with phase := 3 } })).flag
    Reg.ENS_STS 5).healthCrumb 0x0C04 slot 0 0

/-- A scrub counts the entry that it reads, and the leaf error that it corrects (R277). -/
def Block.countScrub (fixed : Bool) : Block :=
  if fixed then (b.count Reg.RUL_SCRUBBED 1).count Reg.RUL_CE 1 else b.count Reg.RUL_SCRUBBED 1

/-- A usable group that is read with an error becomes BAD (R277). -/
theorem Block.groupFault_of_usable (i : Nat) (h : (slotIn b.tray.plane.groups i).phase = 1 ∨ (slotIn b.tray.plane.groups i).phase = 2) :
    b.groupFault i = ((b.modPlane (fun u => { u with groups := putSlot u.groups i { slotIn b.tray.plane.groups i with phase := 3 } })).flag
      Reg.RUL_STS 2).healthCrumb 0x0D01 i (slotIn b.tray.plane.groups i).bank 0 := by
  have husable : ¬ ((slotIn b.tray.plane.groups i).phase = 0 ∨ (slotIn b.tray.plane.groups i).phase = 3) := by omega
  simp only [Block.groupFault, Block.groupBad, if_neg husable]

end

section
variable (s : State) (hrun : s.running .T = true)
include hrun

theorem exec_storeUe (slot : Fin 16384) (h : (slotIn s.t.tray.plane.trees slot).phase = 1 ∨ (slotIn s.t.tray.plane.trees slot).phase = 2) :
    exec (.storeUe slot) s = .next (s.setBlock .T (s.t.treeBad slot)) := by
  have husable : ((slotIn s.t.tray.plane.trees slot).phase == 1 || (slotIn s.t.tray.plane.trees slot).phase == 2) = true := by simpa using h
  change execStoreUe slot s = _
  simp only [execStoreUe, onTray_running _ s hrun, husable, Block.when_true]
  rfl

/-- An idle slot of an enabled scrubber reads and counts one entry of a group that is loaded (R277). -/
theorem exec_ruleScrub (group : Fin 4096) (entry : Fin 16384) (bad fixed : Bool) (hen : s.t.isSet Reg.RUL_CTL 0 = true)
    (hloaded : (slotIn s.t.tray.plane.groups group).phase ≠ 0) (hentry : entry.val < groupCount (slotIn s.t.tray.plane.groups group).bytes) :
    exec (.ruleScrub group entry bad fixed) s =
      .next (s.setBlock .T (if bad then (s.t.countScrub fixed).groupFault group else s.t.countScrub fixed)) := by
  change execRuleScrub group entry bad fixed s = _
  simp only [execRuleScrub, onTray_running _ s hrun, hen, bne_iff_ne.mpr hloaded, decide_eq_true hentry, Bool.and_self, Block.when_true]
  rfl

/-- A domain is found out of phase, where the plane has not halted (R316). -/
theorem exec_phaseError (d : Fin 5) (h : s.t.isSet Reg.PLN_STS 4 = false) : exec (.phaseError d) s = .next (s.setBlock .T
    ((((s.t.flag Reg.PLN_STS 3).flag Reg.PLN_STS 4).setFld Reg.PLN_PHASE 2 0 d.val).healthCrumb 0x1001 d.val 0 0)) := by
  change execPhaseError d s = _
  simp only [execPhaseError, onTray_running _ s hrun, h, Bool.not_false, Block.when_true]

end

/-- Settles O39: a word of the lanes by the super-block that it delivers and the loaf that has begun, a loaf by what its decompressor and its anvil
make of it, each error by what it marks. -/
theorem ingestPath : Obligations.IngestPath := by
  unfold Obligations.IngestPath
  intro s p lane ws i n words blk x raw out e slot group entry d hrun y y1 y2 tree g scrubbed
  refine ⟨fun hup hfound => ?locks, fun hphase hup hlen hword => ?noBlock, fun hphase hup hlen hword => ?block, fun hraw hout => ?decodes,
    exec_decompressLoaf_fault s p raw hrun e, exec_anvilCompareLoaf_compares s p raw hrun,
    fun lost hraw hidle => exec_anvilCompareLoaf_skips s p raw hrun hraw lost hidle, exec_storeUe s hrun slot,
    exec_ruleScrub s hrun group entry false false, exec_ruleScrub s hrun group entry false true, fun hen hphase hentry => ?scrubBad,
    exec_phaseError s hrun d⟩
  case locks =>
    have hport := s.t.modIngest_ingest p (fun z => z.lock lane ws)
    have hlanes := congrArg IngestPort.lanes hport
    refine ⟨_, exec_laneLock s p lane ws hrun hup, fun l hl => ?only, ?new, fun q hq => s.t.modIngest_ingest_other p _ q hq, rfl,
      s.setBlock_sameBlock_other .T _⟩
    case only => exact (s.t.ingest p).lock_lane_iff lane hfound (hlanes ▸ hl)
    case new => exact hlanes ▸ (s.t.ingest p).lockedLane_mem_lock lane hfound
  case noBlock => rw [exec_ingestLoafReceive s p words hrun hphase hup hlen, s.t.ingestWords_of_none p words hword]
  case block =>
    have hport : y1.ingest p = x := s.t.modIngest_ingest p _
    rw [exec_ingestLoafReceive s p words hrun hphase hup hlen, s.t.ingestWords_of_some p words hword]
    refine ⟨fun hidle hsearch hnoIdle hnoStart => ?error, fun hidle hstart hpart hfits => ?start, fun hopen hpart => ?part,
      fun hopen hwhole => ?last⟩
    case error =>
      have hbound := x.boundary_of_error blk hsearch hnoIdle hnoStart
      rw [y1.superBlock_of_boundary p blk (hport ▸ hidle) (.inl (by rw [hport, hbound, hidle])), hport, hbound]
    case start =>
      have hbound := x.boundary_of_start blk hstart hfits
      rw [y1.superBlock_of_boundary p blk (hport ▸ hidle) (.inr (by rw [hport, hbound]; exact hpart)), hport, hbound]
    case part => rw [y1.superBlock_of_part p blk (by rw [hport]) (hport ▸ hopen) hpart, hport]
    case last => rw [y1.superBlock_of_last p blk (by rw [hport]) (hport ▸ hopen) hwhole, hport]
  case decodes =>
    refine ⟨_, exec_decompressLoaf_ok s p raw hrun out hraw hout, ?port, fun q hq => ?others, rfl, rfl, s.setBlock_sameBlock_other .T _⟩
    case port => exact (Block.modIngest_ingest _ p _).trans (by rw [Block.modIngest_ingest])
    case others => exact (Block.modIngest_ingest_other _ p _ q hq).trans (s.t.modIngest_ingest_other p _ q hq)
  case scrubBad =>
    have hgroups : scrubbed.tray = y.tray := s.t.count_tray _ 1
    have hloaded : g.phase ≠ 0 := by omega
    rw [exec_ruleScrub s hrun group entry true false hen hloaded hentry]
    change Host.Outcome.next (s.setBlock .T (scrubbed.groupFault group)) = _
    rw [scrubbed.groupFault_of_usable group (by rw [hgroups]; exact hphase), hgroups]

end Sys2Proof.Machine

/-! Loaves (R135 to R146): what a match copies, how the decoder reads the fields and the tags that an encoder writes, and the jobs of the host that
compress and decompress (R152, R153, R459). -/

namespace Sys2Proof.Machine

/-! ### The copy of a match (R140) -/

/-- The output before a match stays: the copy stands after it (the output is in reverse). -/
theorem suffix_copyMatch (d n : Nat) (rev : Bytes) : rev <:+ copyMatch d n rev := by
  induction n generalizing rev with
  | zero => exact List.suffix_refl rev
  | succ n ih => exact (List.suffix_cons _ rev).trans (ih _)

theorem length_copyMatch (d n : Nat) (rev : Bytes) : (copyMatch d n rev).length = rev.length + n := by
  induction n generalizing rev with
  | zero => rfl
  | succ n ih => rw [copyMatch, ih, List.length_cons]; omega

/-- The output before a match reads, in forward order, as before. -/
theorem getElem?_copyMatch_of_lt (d n : Nat) (rev : Bytes) {i : Nat} (hi : i < rev.length) :
    (copyMatch d n rev).reverse[i]? = rev.reverse[i]? := by
  obtain ⟨added, h⟩ := suffix_copyMatch d n rev
  rw [← h, List.reverse_append, List.getElem?_append_left (by rwa [List.length_reverse])]

/-- The byte that a match copies next, in forward order. -/
theorem getElem?_reverse_at_distance {d : Nat} {rev : Bytes} (hd : 1 ≤ d) (hle : d ≤ rev.length) :
    rev.reverse[rev.length - d]? = some (rev.getD (d - 1) 0) := by
  rw [List.getElem?_reverse (by omega), show rev.length - 1 - (rev.length - d) = d - 1 by omega, List.getD_eq_getElem?_getD,
    List.getElem?_eq_getElem (by omega), Option.getD_some]

/-- Byte `j` of a copy is the output byte `d` before it, which the copy itself may have written. -/
theorem getElem?_copyMatch {d : Nat} (n : Nat) {rev : Bytes} (hd : 1 ≤ d) (hle : d ≤ rev.length) {j : Nat} (hj : j < n) :
    (copyMatch d n rev).reverse[rev.length + j]? = (copyMatch d n rev).reverse[rev.length - d + j]? := by
  induction n generalizing rev j with
  | zero => cases hj
  | succ n ih =>
    let x := rev.getD (d - 1) 0
    have hlen : (x :: rev).length = rev.length + 1 := rfl
    cases j with
    | zero =>
      calc (copyMatch d n (x :: rev)).reverse[rev.length]?
        _ = (x :: rev).reverse[rev.length]? := getElem?_copyMatch_of_lt d n (x :: rev) (by omega)
        _ = some x := by simp
        _ = rev.reverse[rev.length - d]? := (getElem?_reverse_at_distance hd hle).symm
        _ = (copyMatch d (n + 1) rev).reverse[rev.length - d]? := (getElem?_copyMatch_of_lt d (n + 1) rev (by omega)).symm
    | succ j =>
      have h := ih (rev := x :: rev) (j := j) (by omega) (by omega)
      rwa [hlen, show rev.length + 1 + j = rev.length + (j + 1) by omega,
        show rev.length + 1 - d + j = rev.length - d + (j + 1) by omega] at h

/-- A copy at distance 1 repeats the last byte of the output. -/
theorem getElem?_copyMatch_one (n : Nat) {rev : Bytes} (hne : 1 ≤ rev.length) {j : Nat} (hj : j < n) :
    (copyMatch 1 n rev).reverse[rev.length + j]? = rev.reverse[rev.length - 1]? := by
  rw [getElem?_copyMatch n (Nat.le_refl 1) hne hj]
  induction j with
  | zero => exact getElem?_copyMatch_of_lt 1 n rev (by omega)
  | succ j ih =>
    rw [show rev.length - 1 + (j + 1) = rev.length + j by omega, getElem?_copyMatch n (Nat.le_refl 1) hne (by omega)]
    exact ih (by omega)

/-- Settles O57: the copy, byte by byte, by induction on its length. -/
theorem matchCopies : Obligations.MatchCopies := by
  unfold Obligations.MatchCopies
  intro d n out hd hle p res
  have hlen : out.reverse.length = p := List.length_reverse
  have hle' : d ≤ out.reverse.length := hlen ▸ hle
  refine ⟨?length, fun i hi => ?before, fun j hj => ?copied, fun hone j hj => ?repeated⟩
  case length => rw [List.length_reverse, length_copyMatch, hlen]
  case before => rw [getElem?_copyMatch_of_lt d n _ (hlen ▸ hi), List.reverse_reverse]
  case copied =>
    have h := getElem?_copyMatch n hd hle' hj
    rwa [hlen] at h
  case repeated =>
    subst hone
    have h := getElem?_copyMatch_one n hle' hj
    rwa [hlen, List.reverse_reverse] at h

/-! ### Little-endian fields (R5) -/

@[simp] theorem leBytes_length (n v : Nat) : (leBytes n v).length = n := by
  induction n generalizing v with
  | zero => rfl
  | succ n ih => rw [leBytes, List.length_cons, ih]

/-- `n` bytes hold a number modulo 256^n. -/
theorem leNat_leBytes (n v : Nat) : leNat (leBytes n v) = v % 256 ^ n := by
  induction n generalizing v with
  | zero => exact (Nat.mod_one v).symm
  | succ n ih => rw [leBytes, leNat, ih, BitVec.toNat_ofNat, (Nat.pow_succ' : 256 ^ (n + 1) = 256 * 256 ^ n), Nat.mod_mul]

theorem leNat_leBytes_of_lt {n v : Nat} (h : v < 256 ^ n) : leNat (leBytes n v) = v := by
  rw [leNat_leBytes, Nat.mod_eq_of_lt h]

/-- The field at the front of a byte string. -/
theorem fieldAt_leBytes_append {n v : Nat} (h : v < 256 ^ n) (rest : Bytes) : fieldAt (leBytes n v ++ rest) 0 n = v := by
  rw [fieldAt, slice, List.drop_zero, List.take_left' (leBytes_length n v), leNat_leBytes_of_lt h]

/-! ### How the decoder reads one tag (R138 to R141) -/

section
variable {inputLen fuel i len last : Nat} {tb : Byte} {ops rev : Bytes} (rest : Bytes) (hk : ops.length = tagOperands tb.toNat)
include hk

/-- A literal tag adds its run. -/
theorem decodeBody_lit {run : Bytes} (htag : tagOf tb.toNat (leNat ops) last = .lit run.length) (ht : tb.toNat < 0x40 ∨ tb.toNat = 0xC2)
    (hfit : len + run.length ≤ inputLen) :
    decodeBody inputLen (fuel + 1) i (tb :: (ops ++ (run ++ rest))) rev len last =
      decodeBody inputLen fuel (i + 1 + ops.length + run.length) rest (run.reverse ++ rev) (len + run.length) last := by
  have hend : tb.toNat ≠ 0xC0 := by omega
  have hcode : ¬ (0xC3 ≤ tb.toNat ∨ (tb.toNat = 0xC1 ∧ last = 0)) := by omega
  have hops : ¬ (ops ++ (run ++ rest)).length < ops.length := by simp
  have hrun : ¬ (ops ++ (run ++ rest)).length < ops.length + run.length := by simp
  have htake : (ops ++ (run ++ rest)).take ops.length = ops := List.take_left
  have hdrop : (ops ++ (run ++ rest)).drop ops.length = run ++ rest := List.drop_left
  have hdrop' : (ops ++ (run ++ rest)).drop (ops.length + run.length) = rest := by rw [← List.drop_drop, hdrop, List.drop_left]
  simp only [decodeBody, ← hk, if_neg hend, if_neg hcode, if_neg hops, htake, htag, if_neg (Nat.not_lt.mpr hfit), if_neg hrun, hdrop,
    hdrop', List.take_left]

/-- A match tag copies, and its distance is the last one from then on. -/
theorem decodeBody_copy {n d : Nat} (htag : tagOf tb.toNat (leNat ops) last = .copy n d)
    (ht : (0x40 ≤ tb.toNat ∧ tb.toNat < 0xC0) ∨ (tb.toNat = 0xC1 ∧ last = d)) (hd : 1 ≤ d) (hle : d ≤ len) (hfit : len + n ≤ inputLen) :
    decodeBody inputLen (fuel + 1) i (tb :: (ops ++ rest)) rev len last =
      decodeBody inputLen fuel (i + 1 + ops.length) rest (copyMatch d n rev) (len + n) d := by
  have hend : tb.toNat ≠ 0xC0 := by omega
  have hcode : ¬ (0xC3 ≤ tb.toNat ∨ (tb.toNat = 0xC1 ∧ last = 0)) := by omega
  have hops : ¬ (ops ++ rest).length < ops.length := by simp
  have hlast : (if tb.toNat = 0xC1 then last else d) = d := by split <;> omega
  simp only [decodeBody, ← hk, if_neg hend, if_neg hcode, if_neg hops, List.take_left, htag, if_neg (Nat.not_lt.mpr hle),
    if_neg (Nat.not_lt.mpr hfit), List.drop_left, hlast]

end

/-- The end tag after the whole of the output ends the body. -/
theorem decodeBody_end (inputLen fuel i last : Nat) (rev : Bytes) :
    decodeBody inputLen (fuel + 1) i (leBytes 1 0xC0) rev inputLen last = .ok rev.reverse := by
  change decodeBody inputLen (fuel + 1) i [0xC0] rev inputLen last = _
  simp [decodeBody]

/-! ### What a piece of a tag stream decodes to -/

/-- A piece of a tag stream of `input` takes the decoder from the output's first `p` bytes and last distance `l` to its first `q` and `m`, with
what follows the piece still to read. -/
def Decodes (input tags : Bytes) (p l q m : Nat) : Prop :=
  ∀ (fuel i : Nat) (rest : Bytes), (tags ++ rest).length < fuel → ∃ fuel' i', rest.length < fuel' ∧
    decodeBody input.length fuel i (tags ++ rest) (input.take p).reverse p l =
      decodeBody input.length fuel' i' rest (input.take q).reverse q m

theorem Decodes.nil (input : Bytes) (p l : Nat) : Decodes input [] p l p l := fun fuel i _ hfuel => ⟨fuel, i, hfuel, rfl⟩

theorem Decodes.append {input a b : Bytes} {p l q m r n : Nat} (ha : Decodes input a p l q m) (hb : Decodes input b q m r n) :
    Decodes input (a ++ b) p l r n := by
  intro fuel i rest hfuel
  rw [List.append_assoc] at hfuel ⊢
  obtain ⟨fuel₁, i₁, hfuel₁, h₁⟩ := ha fuel i (b ++ rest) hfuel
  obtain ⟨fuel₂, i₂, hfuel₂, h₂⟩ := hb fuel₁ i₁ rest hfuel₁
  exact ⟨fuel₂, i₂, hfuel₂, h₁.trans h₂⟩

/-- A literal tag with its run, which stands in the input at the decoder's place. -/
theorem Decodes.lit {input run ops : Bytes} {tb : Byte} {p l : Nat} (hk : ops.length = tagOperands tb.toNat)
    (htag : tagOf tb.toNat (leNat ops) l = .lit run.length) (ht : tb.toNat < 0x40 ∨ tb.toNat = 0xC2) (hrun : slice input p run.length = run)
    (hfit : p + run.length ≤ input.length) : Decodes input (tb :: (ops ++ run)) p l (p + run.length) l := by
  intro fuel i rest hfuel
  obtain ⟨fuel, rfl⟩ := Nat.exists_eq_add_of_lt (Nat.zero_lt_of_lt hfuel)
  rw [Nat.zero_add] at hfuel ⊢
  refine ⟨fuel, i + 1 + ops.length + run.length, ?fuel, ?decodes⟩
  case fuel => simp only [List.cons_append, List.length_cons, List.length_append] at hfuel; omega
  case decodes =>
    have hout : run.reverse ++ (input.take p).reverse = (input.take (p + run.length)).reverse := by
      rw [← List.reverse_append, List.take_add, ← slice, hrun]
    rw [List.cons_append, List.append_assoc, decodeBody_lit rest hk htag ht hfit, hout]

/-! ### Literal runs and matches of the input (R143) -/

theorem toNat_ofNat_byte {v : Nat} (h : v < 256) : (BitVec.ofNat 8 v).toNat = v := Nat.mod_eq_of_lt h

/-- The literal tag of a run that stands in the input at the decoder's place; no run has no tag. -/
theorem decodes_literalTag {input run : Bytes} {p : Nat} (l : Nat) (hrun : slice input p run.length = run)
    (hfit : p + run.length ≤ input.length) (hmax : input.length ≤ 65536) : Decodes input (literalTag run) p l (p + run.length) l := by
  rw [literalTag]
  split
  next hempty =>
    rw [List.isEmpty_iff.mp hempty]
    exact .nil input p l
  next hne =>
    have hpos : 0 < run.length := List.length_pos_iff.mpr fun h => hne (List.isEmpty_iff.mpr h)
    split
    next hshort =>
      have hb : (BitVec.ofNat 8 (run.length - 1)).toNat = run.length - 1 := toNat_ofNat_byte (by omega)
      have hcode : run.length - 1 < 0x40 := by omega
      refine Decodes.lit (ops := []) ?_ ?_ (.inl (by rwa [hb])) hrun hfit
      · rw [hb, tagOperands, if_pos hcode]; rfl
      · rw [hb, tagOf, if_pos hcode, Nat.sub_add_cancel hpos]
    next hlong =>
      have hops : leNat (leBytes 2 (run.length - 1)) = run.length - 1 := leNat_leBytes_of_lt (by omega)
      rw [List.append_assoc]
      refine Decodes.lit (ops := leBytes 2 (run.length - 1)) rfl ?_ (.inr rfl) hrun hfit
      rw [hops]
      exact congrArg Tag.lit (Nat.sub_add_cancel hpos)

/-- The `n` bytes of the input at `p` are those at distance `d` before it (R140). -/
structure MatchAt (input : Bytes) (p n d : Nat) : Prop where
  distance_pos : 1 ≤ d
  distance_le : d ≤ p
  fits : p + n ≤ input.length
  same : ∀ j < n, input[p + j]? = input[p + j - d]?

theorem matchAt_of_matchValid {input : Bytes} {p n d : Nat} (h : matchValid input p n d = true) :
    MatchAt input p n d ∧ 3 ≤ n ∧ d ≤ 65536 := by
  simp only [matchValid, Bool.and_eq_true, decide_eq_true_eq, beq_iff_eq] at h
  obtain ⟨⟨⟨⟨⟨hmin, hfits⟩, hpos⟩, hle⟩, hmax⟩, hsame⟩ := h
  refine ⟨⟨hpos, hle, hfits, fun j hj => ?_⟩, hmin, hmax⟩
  have hbyte := congrArg (fun bs : Bytes => bs[j]?) hsame
  simp only [slice, List.getElem?_take_of_lt hj, List.getElem?_drop] at hbyte
  rw [hbyte]
  congr 1
  omega

section
variable {input : Bytes} {p n d : Nat}

theorem MatchAt.take {m : Nat} (h : MatchAt input p n d) (hm : m ≤ n) : MatchAt input p m d :=
  ⟨h.distance_pos, h.distance_le, by have := h.fits; omega, fun j hj => h.same j (by omega)⟩

theorem MatchAt.drop {m : Nat} (h : MatchAt input p n d) (hm : m ≤ n) : MatchAt input (p + m) (n - m) d := by
  refine ⟨h.distance_pos, Nat.le_trans h.distance_le (Nat.le_add_right p m), by have := h.fits; omega, fun j hj => ?_⟩
  rw [Nat.add_assoc]
  exact h.same (m + j) (by omega)

/-- A copy from the output so far is the next part of the input. -/
theorem MatchAt.copyMatch_eq (h : MatchAt input p n d) : copyMatch d n (input.take p).reverse = (input.take (p + n)).reverse := by
  induction n generalizing p with
  | zero => rfl
  | succ n ih =>
    have hfits := h.fits
    have hlen : (input.take p).reverse.length = p := by rw [List.length_reverse, List.length_take]; omega
    have hbyte : input[p]? = some ((input.take p).reverse.getD (d - 1) 0) := by
      have hd := h.distance_pos
      have hle := h.distance_le
      rw [← getElem?_reverse_at_distance hd (hlen.symm ▸ hle), hlen, List.reverse_reverse, List.getElem?_take_of_lt (by omega)]
      exact h.same 0 (Nat.zero_lt_succ n)
    have hnext : (input.take p).reverse.getD (d - 1) 0 :: (input.take p).reverse = (input.take (p + 1)).reverse := by
      rw [List.take_add_one, hbyte, List.reverse_append]
      rfl
    rw [copyMatch, hnext, ih (h.drop (Nat.le_add_left 1 n)), Nat.add_assoc, Nat.add_comm 1 n]

/-- A match tag at its place in the input. -/
theorem Decodes.copy {tb : Byte} {ops : Bytes} {l : Nat} (hk : ops.length = tagOperands tb.toNat)
    (htag : tagOf tb.toNat (leNat ops) l = .copy n d) (ht : (0x40 ≤ tb.toNat ∧ tb.toNat < 0xC0) ∨ (tb.toNat = 0xC1 ∧ l = d))
    (h : MatchAt input p n d) : Decodes input (tb :: ops) p l (p + n) d := by
  intro fuel i rest hfuel
  obtain ⟨fuel, rfl⟩ := Nat.exists_eq_add_of_lt (Nat.zero_lt_of_lt hfuel)
  rw [Nat.zero_add] at hfuel ⊢
  refine ⟨fuel, i + 1 + ops.length, ?fuel, ?decodes⟩
  case fuel => simp only [List.cons_append, List.length_cons, List.length_append] at hfuel; omega
  case decodes => rw [List.cons_append, decodeBody_copy rest hk htag ht h.distance_pos h.distance_le h.fits, h.copyMatch_eq]

/-! ### The forms of a match (R138, R143) -/

/-- The form of a match at the last distance. -/
theorem MatchAt.decodes_repeat (h : MatchAt input p n d) (hmin : 3 ≤ n) (hmax : n ≤ 258) :
    Decodes input (leBytes 1 0xC1 ++ leBytes 1 (n - 3)) p d (p + n) d := by
  have hops : leNat (leBytes 1 (n - 3)) = n - 3 := leNat_leBytes_of_lt (by omega)
  refine Decodes.copy (ops := leBytes 1 (n - 3)) rfl ?_ (.inr ⟨rfl, rfl⟩) h
  rw [hops]
  exact congrArg (Tag.copy · d) (Nat.sub_add_cancel hmin)

/-- The form of a short match near by. -/
theorem MatchAt.decodes_near (h : MatchAt input p n d) (l : Nat) (hmin : 3 ≤ n) (hmax : n ≤ 10) (hnear : d ≤ 2048) :
    Decodes input (leBytes 1 (0x40 + (n - 3) * 8 + (d - 1) / 256) ++ leBytes 1 ((d - 1) % 256)) p l (p + n) d := by
  have hd := h.distance_pos
  have hb := toNat_ofNat_byte (v := 0x40 + (n - 3) * 8 + (d - 1) / 256) (by omega)
  have hops : leNat (leBytes 1 ((d - 1) % 256)) = (d - 1) % 256 := leNat_leBytes_of_lt (by omega)
  refine Decodes.copy (ops := leBytes 1 ((d - 1) % 256)) ?_ ?_ (.inl (by omega)) h
  · rw [hb, tagOperands, if_neg (by omega), if_pos (by omega), leBytes_length]
  · rw [hb, hops, tagOf, if_neg (by omega), if_pos (by omega), Tag.copy.injEq]
    omega

/-- The form of any other match. -/
theorem MatchAt.decodes_far (h : MatchAt input p n d) (l : Nat) (hmin : 3 ≤ n) (hmax : n ≤ 66) (hfar : d ≤ 65536) :
    Decodes input (leBytes 1 (0x80 + (n - 3)) ++ leBytes 2 (d - 1)) p l (p + n) d := by
  have hd := h.distance_pos
  have hb := toNat_ofNat_byte (v := 0x80 + (n - 3)) (by omega)
  have hops : leNat (leBytes 2 (d - 1)) = d - 1 := leNat_leBytes_of_lt (by omega)
  refine Decodes.copy (ops := leBytes 2 (d - 1)) ?_ ?_ (.inl (by omega)) h
  · rw [hb, tagOperands, if_neg (by omega), if_neg (by omega), if_pos (by omega), leBytes_length]
  · rw [hb, hops, tagOf, if_neg (by omega), if_neg (by omega), if_pos (by omega), Tag.copy.injEq]
    omega

/-- A piece of a match leaves nothing or a match (R143). -/
theorem pieceLen_bounds {m n : Nat} (hm : 6 ≤ m) (hmin : 3 ≤ n) :
    3 ≤ pieceLen m n ∧ pieceLen m n ≤ m ∧ pieceLen m n ≤ n ∧ (n - pieceLen m n = 0 ∨ 3 ≤ n - pieceLen m n) := by
  rw [pieceLen]
  split <;> omega

/-- The pieces at the last distance, with fuel for their number. -/
theorem MatchAt.decodes_repeatPieces {fuel : Nat} (h : MatchAt input p n d) (hmin : n = 0 ∨ 3 ≤ n) (hfuel : n ≤ fuel) :
    Decodes input (repeatPieces fuel n) p d (p + n) d := by
  induction fuel generalizing p n with
  | zero =>
    obtain rfl : n = 0 := Nat.le_zero.mp hfuel
    exact .nil input p d
  | succ fuel ih =>
    cases n with
    | zero => exact .nil input p d
    | succ n =>
      obtain ⟨hthree, hmax, hle, hleft⟩ := pieceLen_bounds (m := 258) (by omega) (hmin.resolve_left (Nat.succ_ne_zero n))
      have hpiece := (h.take hle).decodes_repeat hthree hmax
      have hrest := ih (h.drop hle) hleft (by omega)
      rw [Nat.add_assoc, Nat.add_sub_cancel' hle] at hrest
      exact hpiece.append hrest

/-- The tags of a match. -/
theorem MatchAt.decodes_matchTags (h : MatchAt input p n d) (l : Nat) (hmin : 3 ≤ n) (hmax : d ≤ 65536) :
    Decodes input (matchTags n d l) p l (p + n) d := by
  rw [matchTags]
  split
  next hlast => exact hlast ▸ h.decodes_repeatPieces (.inr hmin) (Nat.le_refl n)
  next =>
    split
    next hnear => exact h.decodes_near l hmin hnear.1 hnear.2
    next =>
      obtain ⟨hthree, hsixty, hle, hleft⟩ := pieceLen_bounds (m := 66) (by omega) hmin
      have hpiece := (h.take hle).decodes_far l hthree hsixty hmax
      have hrest := (h.drop hle).decodes_repeatPieces hleft (Nat.sub_le n _)
      rw [Nat.add_assoc, Nat.add_sub_cancel' hle] at hrest
      exact hpiece.append hrest

end

/-! ### The tag stream of a loaf (R143) -/

/-- The tags of a parse from `i` on, after a run of literals that ends there, decode to the rest of the input. -/
theorem decodes_emitTags (effort : Nat) {input : Bytes} (hmax : input.length ≤ 65536) (fuel : Nat) {i p : Nat} {run : Bytes} (last : Nat)
    (hfuel : input.length < i + fuel) (hi : p + run.length = i) (hle : i ≤ input.length)
    (hrun : slice input p run.length = run.reverse) :
    ∃ m, Decodes input (emitTags (parseInput effort input fuel i) run last) p last input.length m := by
  induction fuel generalizing i p run last with
  | zero => omega
  | succ fuel ih =>
    have hpending : Decodes input (literalTag run.reverse) p last i last := by
      have h := decodes_literalTag (run := run.reverse) last (by rwa [List.length_reverse]) (by rw [List.length_reverse]; omega) hmax
      rwa [List.length_reverse, hi] at h
    rw [parseInput]
    split
    next hend =>
      obtain rfl : i = input.length := Nat.le_antisymm hle (List.drop_eq_nil_iff.mp hend)
      exact ⟨last, hpending⟩
    next x xs hcons =>
      have hlt : i < input.length := by
        have := congrArg List.length hcons
        rw [List.length_drop, List.length_cons] at this
        omega
      dsimp only
      split
      next hvalid =>
        obtain ⟨hmatch, hmin, hfar⟩ := matchAt_of_matchValid hvalid
        have hfits := hmatch.fits
        obtain ⟨m, hrest⟩ := ih (p := i + (Config.encoderMatch effort input i).1) (run := []) (Config.encoderMatch effort input i).2
          (by omega) rfl hfits rfl
        exact ⟨m, (hpending.append (hmatch.decodes_matchTags last hmin hfar)).append hrest⟩
      next =>
        have hrun' : slice input p (x :: run).length = (x :: run).reverse := by
          have hx : (input.drop p)[run.length]? = some x := by
            rw [List.getElem?_drop, hi, ← Nat.add_zero i, ← List.getElem?_drop, hcons]
            rfl
          rw [slice] at hrun ⊢
          rw [List.length_cons, List.take_add_one, hrun, hx, List.reverse_cons]
          rfl
        exact ih (run := x :: run) last (by omega) (by rw [List.length_cons]; omega) hlt hrun'

/-- The body loop reads the tag stream of an input as that input (R141, R143). -/
theorem decodeBody_tagStream (effort : Nat) {input : Bytes} (hmax : input.length ≤ 65536) (i : Nat) :
    decodeBody input.length ((tagStream effort input).length + 1) i (tagStream effort input) [] 0 0 = .ok input := by
  obtain ⟨m, htags⟩ := decodes_emitTags effort hmax (input.length + 1) (i := 0) (p := 0) (run := []) 0 (by omega) rfl (Nat.zero_le _) rfl
  obtain ⟨fuel, i', hfuel, hbody⟩ := htags ((tagStream effort input).length + 1) i (leBytes 1 0xC0) (Nat.lt_succ_self _)
  obtain ⟨fuel, rfl⟩ := Nat.exists_eq_add_of_lt (Nat.zero_lt_of_lt hfuel)
  rw [Nat.zero_add, decodeBody_end, List.take_length, List.reverse_reverse] at hbody
  exact hbody

/-! ### The body of a loaf (R144) -/

section
variable (rawOnly : Bool) (effort : Nat) {input : Bytes}

/-- A RAW body is the input; any other is the input's tag stream, and shorter. -/
theorem storedBody_cases : storedBody rawOnly effort input = (true, input) ∨
    (storedBody rawOnly effort input = (false, tagStream effort input) ∧ (tagStream effort input).length < input.length) := by
  rw [storedBody]
  split
  next => exact .inl rfl
  next h => exact .inr ⟨rfl, Nat.lt_of_not_le fun hle => h (.inr hle)⟩

theorem length_tagStream_pos : 1 ≤ (tagStream effort input).length := by
  rw [tagStream, List.length_append, leBytes_length]
  omega

theorem length_storedBody (hne : 1 ≤ input.length) : 1 ≤ (storedBody rawOnly effort input).2.length ∧
    (storedBody rawOnly effort input).2.length ≤ input.length ∧
    ((storedBody rawOnly effort input).1 = true → (storedBody rawOnly effort input).2.length = input.length) := by
  rcases storedBody_cases rawOnly effort (input := input) with h | ⟨h, hlt⟩
  · rw [h]
    exact ⟨hne, Nat.le_refl _, fun _ => rfl⟩
  · rw [h]
    exact ⟨length_tagStream_pos effort, Nat.le_of_lt hlt, nofun⟩

/-- The decoder's bytes of a body. -/
theorem decode_storedBody (hmax : input.length ≤ 65536) :
    (if (storedBody rawOnly effort input).1 = true then .ok (storedBody rawOnly effort input).2
      else decodeBody input.length ((storedBody rawOnly effort input).2.length + 1) 16 (storedBody rawOnly effort input).2 [] 0 0 :
      Except LoafFault Bytes) = .ok input := by
  rcases storedBody_cases rawOnly effort (input := input) with h | ⟨h, -⟩
  · rw [h, if_pos rfl]
  · rw [h, if_neg Bool.false_ne_true, decodeBody_tagStream effort hmax]

end

/-! ### The fields of a loaf (R135, R136) -/

/-- The bytes of a loaf by its fields: header, body, trailer. -/
def loafBytes (flags blk inputLen stream seq : Nat) (body : Bytes) (crc : Nat) : Bytes :=
  leBytes 1 0xB7 ++ (leBytes 1 0x1F ++ (leBytes 1 flags ++ (leBytes 1 blk ++ (leBytes 3 inputLen ++ (leBytes 3 body.length ++
    (leBytes 2 stream ++ (leBytes 4 seq ++ (body ++ leBytes 4 crc))))))))

theorem buildLoaf_eq_loafBytes (flags blk stream seq : Nat) (rawOnly : Bool) (effort : Nat) (input : Bytes) :
    buildLoaf flags blk stream seq rawOnly effort input =
      loafBytes (flags + bit (storedBody rawOnly effort input).1) blk input.length stream seq (storedBody rawOnly effort input).2
        (crc32c input).toNat := by
  simp only [buildLoaf, loafBytes, List.append_assoc]

section
variable {flags blk inputLen stream seq : Nat} {body : Bytes} {crc : Nat}

theorem length_loafBytes : (loafBytes flags blk inputLen stream seq body crc).length = 20 + body.length := by
  simp only [loafBytes, List.length_append, leBytes_length]
  omega

theorem drop_loafBytes : (loafBytes flags blk inputLen stream seq body crc).drop 16 = body ++ leBytes 4 crc := rfl

/-- The fields of the header, where each fits. -/
theorem fieldAt_loafBytes (hflags : flags < 256) (hblk : blk < 256) (hin : inputLen < 2 ^ 24) (hbody : body.length < 2 ^ 24)
    (hstream : stream < 2 ^ 16) (hseq : seq < 2 ^ 32) (hcrc : crc < 2 ^ 32) :
    let buf := loafBytes flags blk inputLen stream seq body crc
    byteAt buf 0 = 0xB7 ∧ byteAt buf 1 = 0x1F ∧ byteAt buf 2 = flags ∧ byteAt buf 3 = blk ∧ fieldAt buf 4 3 = inputLen ∧
      fieldAt buf 7 3 = body.length ∧ fieldAt buf 10 2 = stream ∧ fieldAt buf 12 4 = seq ∧ slice buf 16 body.length = body ∧
      fieldAt buf (16 + body.length) 4 = crc := by
  intro buf
  refine ⟨rfl, rfl, fieldAt_leBytes_append hflags _, fieldAt_leBytes_append hblk _, fieldAt_leBytes_append hin _,
    fieldAt_leBytes_append hbody _, fieldAt_leBytes_append hstream _, fieldAt_leBytes_append hseq _, ?body, ?crc⟩
  case body => rw [slice, drop_loafBytes, List.take_left]
  case crc =>
    rw [fieldAt, slice, ← List.drop_drop, drop_loafBytes, List.drop_left, List.take_of_length_le (Nat.le_of_eq (leBytes_length 4 crc))]
    exact leNat_leBytes_of_lt hcrc

end

theorem blkSize_le {blk : Nat} (h : blk ≤ 4) : blkSize blk ≤ 65536 := by
  have hpow : 2 ^ blk ≤ 2 ^ 4 := Nat.pow_le_pow_right (by decide) h
  rw [blkSize]
  omega

/-- A loaf whose fields are in range is decoded as its body is. -/
theorem decodeLoaf_loafBytes {flags blk stream seq : Nat} {body input : Bytes} {room : Nat} (hflags : flags < 16) (hblk : blk ≤ 4)
    (hstream : stream < 2 ^ 16) (hseq : seq < 2 ^ 32) (hne : 1 ≤ input.length) (hmax : input.length ≤ blkSize blk)
    (hbody : 1 ≤ body.length) (hle : body.length ≤ input.length) (hraw : bitOf flags 0 = true → body.length = input.length)
    (hroom : input.length ≤ room)
    (hdecode : (if bitOf flags 0 = true then .ok body else decodeBody input.length (body.length + 1) 16 body [] 0 0 :
      Except LoafFault Bytes) = .ok input) :
    decodeLoaf (loafBytes flags blk input.length stream seq body (crc32c input).toNat) room =
      .ok { flags := flags, blk := blk, stream := stream, seq := seq, storedLen := body.length, out := input } := by
  have hblk4 := blkSize_le hblk
  obtain ⟨h0, h1, h2, h3, hin, hstored, hstr, hsq, hslice, hcrc⟩ := fieldAt_loafBytes (flags := flags) (blk := blk) (stream := stream)
    (seq := seq) (body := body) (inputLen := input.length) (crc := (crc32c input).toNat) (by omega) (by omega) (by omega) (by omega) hstream hseq
    (crc32c input).isLt
  have hstoredLen : ¬ (body.length = 0 ∨ input.length < body.length) := by omega
  have hinputLen : ¬ (input.length = 0 ∨ blkSize blk < input.length) := by omega
  have hrawLen : ¬ (bitOf flags 0 = true ∧ body.length ≠ input.length) := fun h => h.2 (hraw h.1)
  have havail : ¬ 20 + body.length < 16 := by omega
  simp only [decodeLoaf, h0, h1, h2, h3, hin, hstored, hstr, hsq, hslice, hcrc, length_loafBytes, if_neg havail, if_neg (Nat.not_le.mpr hflags),
    if_neg (Nat.not_lt.mpr hblk), if_neg hinputLen, if_neg hstoredLen, if_neg hrawLen, if_neg (Nat.lt_irrefl _), if_neg (Nat.not_lt.mpr hroom),
    hdecode, ne_eq, not_true_eq_false, or_self, if_false]

/-- The flags of a built loaf: RAW is bit 0, which the flags given leave clear (R135). -/
theorem flags_add_bit {flags : Nat} (raw : Bool) (hlt : flags < 16) (heven : flags % 2 = 0) :
    flags + bit raw < 16 ∧ bitOf (flags + bit raw) 0 = raw := by
  cases raw
  case false => simp [bit, bitOf, hlt, heven]
  case true =>
    have hodd : (flags + 1) % 2 = 1 := by omega
    simp only [bit, bitOf, if_true, Nat.pow_zero, Nat.div_one, hodd, beq_self_eq_true, and_true]
    omega

/-- Settles O58: the header by its fields, the tag stream by induction on the encoder's parse. -/
theorem loafRoundTrip : Obligations.LoafRoundTrip := by
  unfold Obligations.LoafRoundTrip
  intro flags blk stream seq effort room rawOnly input hflags heven hblk hstream hseq hne hmax hroom
  obtain ⟨hlt, hraw⟩ := flags_add_bit (storedBody rawOnly effort input).1 hflags heven
  obtain ⟨hpos, hle, hrawLen⟩ := length_storedBody rawOnly effort hne
  have hbody := decode_storedBody rawOnly effort (Nat.le_trans hmax (blkSize_le hblk))
  rw [buildLoaf_eq_loafBytes]
  exact decodeLoaf_loafBytes hlt hblk hstream hseq hne hmax hpos hle (by rwa [hraw]) hroom (by rwa [hraw])

/-! ### Jobs that end (R152, R153, R459) -/

section
variable (b : Block) (t : Taken)

/-- A job ends by its own act where it has begun, its steward runs and its input can be read. -/
theorem Block.jobEnd_of_begun {op id : Nat} (f : Block → Taken → Block) (ht : b.takenById id = some t) (hbegun : t.begun = true)
    (hsteward : b.stewardRuns 2 = true) (hread : b.mayRead t = true) (hop : t.opcode = op) : b.jobEnd op id f = f b t := by
  simp only [Block.jobEnd, ht, hbegun, hop, hsteward, hread, beq_self_eq_true, Bool.and_self, Block.when_true]

/-- A compressed output that fits is written, and the job completes OK with its length and the number of its loaves (R152). -/
theorem Block.compressEnd_of_fits {loaves : List Bytes}
    (hloaves : cutBy t.how (byteAt t.bytes 32) (fieldAt t.bytes 34 2) (fieldAt t.bytes 36 4) (fun _ => 4) (b.descInput t) = loaves)
    (hfits : (loaves.map (padTo 64)).flatten.length ≤ t.outLen) :
    b.compressEnd t = ((b.countLoaves (b.descInput t).length loaves).writeOut t 0 (loaves.map (padTo 64)).flatten).complete t 0
      (loaves.map (padTo 64)).flatten.length (leBytes 4 loaves.length) := by
  simp only [Block.compressEnd, hloaves, if_neg (Nat.not_lt.mpr hfits)]

/-- An input of loaves that all decode gives their bytes, and their number (R153). -/
theorem Block.decompressEnd_of_decodes {n : Nat} {bytes : Bytes}
    (hrun : decodeRun t.outLen (t.inLen / 64 + 1) (b.descInput t) 0 [] = (n, bytes, none)) :
    b.decompressEnd t = (b.writeOut t 0 bytes).complete t 0 bytes.length (leBytes 4 n) := by
  simp only [Block.decompressEnd, hrun]

end

/-- COMPRESS_DONE on a running block (R152). -/
theorem exec_compressDone (s : State) (id : Nat) (hrun : s.running .T = true) :
    exec (.compressDone id) s = .next (s.setBlock .T (s.t.jobEnd 0x20 id Block.compressEnd)) := by
  change execCompressDone id s = _
  rw [execCompressDone, onTray_running _ s hrun]

/-- DECOMPRESS_DONE on a running block that has a decompressor left (R153, R459). -/
theorem exec_decompressDone (s : State) (id : Nat) (hrun : s.running .T = true) (hleft : s.t.decompressors ≠ []) :
    exec (.decompressDone id) s = .next (s.setBlock .T (s.t.jobEnd 0x21 id Block.decompressEnd)) := by
  change execDecompressDone id s = _
  rw [execDecompressDone, onTray_running _ s hrun, List.isEmpty_eq_false_iff.mpr hleft, if_neg Bool.false_ne_true]

/-- Settles O13: each job by its own act, which ends it OK. -/
theorem jobsEnd : Obligations.JobsEnd := by
  unfold Obligations.JobsEnd
  intro s id t hrun ht hbegun hsteward hread b loaves out
  refine ⟨fun hop hfits => ?compress, fun n bytes hop hleft hdecodes => ?decompress⟩
  case compress =>
    rw [exec_compressDone s id hrun, s.t.jobEnd_of_begun t _ ht hbegun hsteward hread hop, s.t.compressEnd_of_fits t rfl hfits]
  case decompress =>
    rw [exec_decompressDone s id hrun hleft, s.t.jobEnd_of_begun t _ ht hbegun hsteward hread hop, s.t.decompressEnd_of_decodes t hdecodes]

end Sys2Proof.Machine

/-! Register accesses by their paths (R6 to R8, R63, R155, R467, R469, R470): a write of the loaf, frame and kneader units, a read, the place of a
die and its locks. -/

namespace Sys2Proof.Machine

/-! ### The paths (R467, R469) -/

/-- The paths that reach the registers of a build whatever its straps: the tray on a die, the host and the stewards on a tray. -/
def pathOfBuild (build : Build) (path : Path) : Prop := (build = .D ∧ path = .tray) ∨ (build = .T ∧ (path = .host ∨ path = .steward))

section
variable (b : Block) {path : Path} (hpath : pathOfBuild b.build path)
include hpath

theorem Block.pathOpen_of_pathOfBuild : b.pathOpen path = true := by
  rcases hpath with ⟨hb, rfl⟩ | ⟨hb, rfl | rfl⟩ <;> simp only [Block.pathOpen, hb]

theorem Block.writeBy_of_pathOfBuild (off : Nat) (v : Word) : b.writeBy path off v = b.writeNow path off v := by
  exact if_pos (b.pathOpen_of_pathOfBuild hpath)

theorem Block.readBy_of_pathOfBuild (off : Nat) (hw : Word) : b.readBy path off hw = b.readNow path off hw := by
  rcases hpath with ⟨hb, rfl⟩ | ⟨hb, rfl | rfl⟩ <;> simp [Block.readBy, hb]

end

/-- A local port that is closed writes nothing (R469). -/
theorem Block.writeBy_of_pathClosed (b : Block) (off : Nat) (v : Word) (h : b.pathOpen .localPort = false) : b.writeBy .localPort off v = b := by
  simp [Block.writeBy, h]

/-- The local port of a die is closed without its strap and under LOCAL_RO (R469). -/
theorem Block.localPort_closed (b : Block) (hD : b.build = .D) (h : b.strapLocal = false ∨ b.isSet Reg.ID_CTL 1 = true) :
    b.pathOpen .localPort = false := by
  rcases h with h | h <;> simp [Block.pathOpen, hD, h]

/-! ### A write in its cycle (R467) -/

section
variable (b : Block) (path : Path) (off : Nat) (old v : Word)

/-- A block in which a path's write of this cycle is noted: the register, what stood before, and the value. -/
def Block.noteWrite : Block := { b with access := { b.access with writes := b.access.writes ++ [(path, off, old, v)] } }

/-- What a register read as before the first write of the cycle. -/
def Block.valueBefore : Word := match b.access.writes.find? (fun w => w.2.1 == off) with | some w => w.2.2.1 | none => b.view off

/-- The cycle's write of a register by the path that acts second. -/
def Block.secondWrite : Option (Path × Nat × Word × Word) := b.access.writes.find? (fun w => w.2.1 == off && actsSecond w.1)

/-- What a write makes of a block, in a cycle in which the path that acts second may have written the register already. -/
def Block.writeInCycle : Block :=
  match b.secondWrite off with
  | some w => (b.writeReg off v).when (!actsSecond path && storesField b.build off) (fun x => x.writeReg off w.2.2.2)
  | none => b.writeReg off v

/-- A path writes a register that is mapped. -/
theorem Block.writeNow_eq_noteWrite (hrow : (regRowAt b.build off).isSome = true) :
    b.writeNow path off v = ((b.beginAccess path).writeInCycle path off v).noteWrite path off ((b.beginAccess path).valueBefore off) v :=
  if_neg (show ¬ (regRowAt b.build off).isNone = true by rw [Option.isNone_iff_eq_none, ← Option.not_isSome_iff_eq_none]; exact not_not_intro hrow)

variable {off}

theorem Block.valueBefore_of_alone (h : b.access.writes.find? (fun w => w.2.1 == off) = none) : b.valueBefore off = b.view off := by
  simp only [Block.valueBefore, h]

theorem Block.secondWrite_of_alone (h : b.access.writes.find? (fun w => w.2.1 == off) = none) : b.secondWrite off = none := by
  rw [Block.secondWrite]
  rw [List.find?_eq_none] at h ⊢
  exact fun w hw hboth => h w hw (Bool.and_eq_true_iff.mp hboth).1

theorem Block.writeInCycle_of_none (h : b.secondWrite off = none) : b.writeInCycle path off v = b.writeReg off v := by
  simp only [Block.writeInCycle, h]

/-- A register without a field that a write stores keeps nothing of the other path's value. -/
theorem Block.writeInCycle_of_not_storesField (h : storesField b.build off = false) : b.writeInCycle path off v = b.writeReg off v := by
  simp only [Block.writeInCycle, h, Bool.and_false, Block.when_false]
  split <;> rfl

/-- The value of the path that acts second stays in force. -/
theorem Block.writeInCycle_of_second {w : Path × Nat × Word × Word} (h : b.secondWrite off = some w) (hpath : actsSecond path = false)
    (hstores : storesField b.build off = true) : b.writeInCycle path off v = (b.writeReg off v).writeReg off w.2.2.2 := by
  simp only [Block.writeInCycle, h, hpath, hstores, Bool.not_false, Bool.and_self, Block.when_true]

end

/-! ### Writes of the loaf, frame and kneader units (R6, R155) -/

/-- An offset of the loaf, frame or kneader unit (R463). -/
abbrev loafFrameKneader (off : Nat) : Prop := 7 ≤ unitOf off ∧ unitOf off ≤ 9

/-- A register of another unit is none of theirs. -/
theorem ne_of_loafFrameKneader {off other : Nat} (h : loafFrameKneader off) (hother : ¬ loafFrameKneader other) : off ≠ other :=
  fun heq => hother (heq ▸ h)

/-- The registers of a block: what its register map and its stored words are. -/
def Block.regState (b : Block) : Build × Sparse Word := (b.build, b.regs)

theorem Block.reg_of_regState {x b : Block} (h : x.regState = b.regState) (off : Nat) : x.reg off = b.reg off := by
  obtain ⟨hbuild, hregs⟩ := Prod.ext_iff.mp h
  change x.build = b.build at hbuild
  change x.regs = b.regs at hregs
  rw [Block.reg, Block.reg, hbuild, hregs]

section
variable (b : Block) {off : Nat} (v : Word)

/-- A write of LOF_CTL stores its fields, and beside that changes running jobs alone (R155). -/
theorem Block.writeLofCtl_regState : (b.writeLofCtl v).regState = (b.writeFields Reg.LOF_CTL v).regState :=
  Block.forEach_keeps (fun x => x.regState = (b.writeFields Reg.LOF_CTL v).regState) _ _ _ rfl fun _ _ h => h

variable (hunit : loafFrameKneader off)
include hunit

/-- A write that is in force at once and that a unit gives no action of its own. -/
theorem Block.storeReg_eq_writeFields (hctl : off ≠ Reg.LOF_CTL) (herr : off = Reg.LOF_ERR_INFO → v.getLsbD 30 = false) :
    b.storeReg off v = b.writeFields off v := by
  obtain h | h | h : unitOf off = 7 ∨ unitOf off = 8 ∨ unitOf off = 9 := by omega
  case inl =>
    simp only [Block.storeReg, h, Block.storeLof, if_neg hctl]
    split
    next heq => simp only [Block.writeErrInfo, herr heq, Bool.false_and, Bool.false_eq_true, if_false, heq]
    next => rfl
  all_goals simp only [Block.storeReg, h]

variable {r : RegRow} (hrow : regRowAt b.build off = some r) (hstaged : b.isStaged r off = false)
include hrow hstaged

theorem Block.writeReg_eq_storeReg : b.writeReg off v = b.storeReg off v := by
  have hcommit : off ≠ Reg.PLN_TXN_CTL := ne_of_loafFrameKneader hunit (by decide)
  simp only [Block.writeReg, hrow, if_neg hcommit, hstaged, Bool.false_eq_true, if_false]

theorem Block.writeReg_eq_writeFields (hctl : off ≠ Reg.LOF_CTL) (herr : off = Reg.LOF_ERR_INFO → v.getLsbD 30 = false) :
    b.writeReg off v = b.writeFields off v := by
  rw [b.writeReg_eq_storeReg v hunit hrow hstaged, b.storeReg_eq_writeFields v hunit hctl herr]

/-- Every write but one that clears VALID of LOF_ERR_INFO leaves its register's fields, and no other register (R6). -/
theorem Block.writeReg_regState (herr : off = Reg.LOF_ERR_INFO → v.getLsbD 30 = false) :
    (b.writeReg off v).regState = (b.writeFields off v).regState := by
  by_cases hctl : off = Reg.LOF_CTL
  · subst hctl
    rw [b.writeReg_eq_storeReg v hunit hrow hstaged]
    exact b.writeLofCtl_regState v
  · rw [b.writeReg_eq_writeFields v hunit hrow hstaged hctl herr]

end

/-! ### Flags that hardware sets in the cycle of a write (R7) -/

section
variable (b : Block) (off : Nat) (v hw : Word)

theorem Block.hwFlags_zero : b.hwFlags off v 0 = b := by
  simp [Block.hwFlags]

/-- LOF_ERR_INFO takes the faults of the cycle by itself (R155). -/
theorem Block.hwFlags_errInfo : b.hwFlags Reg.LOF_ERR_INFO v hw = b := if_pos (.inr rfl)

theorem Block.hwFlags_reg_other {other : Nat} (h : other ≠ off) : (b.hwFlags off v hw).reg other = b.reg other := by
  rw [Block.hwFlags]
  split
  next => rfl
  next =>
    split
    next => exact b.setReg_reg_other off other _ h
    next => rw [Block.flag_reg_other _ _ _ _ h, b.setReg_reg_other off other _ h]

/-- A flag stays set where hardware sets another one. -/
theorem Block.flag_isSet_of_isSet {i j : Nat} (hj : j < 32) (h : b.isSet off i = true) : (b.flag off j).isSet off i = true := by
  by_cases hij : i = j
  · exact hij ▸ b.flag_isSet off j hj
  · rw [b.flag_isSet_other off j i hij, h]

theorem sdcBit_lt : sdcBit off < 32 := by
  rw [sdcBit]
  split <;> decide

/-- The set wins, and a flag that the write clears raises SDC. -/
theorem Block.hwFlags_isSet (hoff : off ≠ Reg.LOF_ERR_INFO) {i : Nat} (hi : (flagMask b.build off &&& hw).getLsbD i = true) :
    (b.hwFlags off v hw).isSet off i = true ∧ (v.getLsbD i = true → (b.hwFlags off v hw).isSet off (sdcBit off) = true) := by
  let m := flagMask b.build off &&& hw
  let z := b.setReg off (b.reg off ||| m)
  have hm : m ≠ 0 := fun h => by
    have h0 : m.getLsbD i = false := by rw [h]; exact BitVec.getLsbD_zero
    exact Bool.false_ne_true (h0.symm.trans hi)
  have hz : z.isSet off i = true := by
    rw [Block.isSet, Block.setReg_reg, BitVec.getLsbD_or, hi, Bool.or_true]
  have hflags : b.hwFlags off v hw = if m &&& v = 0 then z else z.flag off (sdcBit off) := if_neg (not_or.mpr ⟨hm, hoff⟩)
  rw [hflags]
  split
  next hclear =>
    refine ⟨hz, fun hv => ?_⟩
    have hboth : (m &&& v).getLsbD i = true := by rw [BitVec.getLsbD_and, hi, hv, Bool.and_true]
    rw [hclear] at hboth
    exact absurd (BitVec.getLsbD_zero.symm.trans hboth) Bool.false_ne_true
  next => exact ⟨z.flag_isSet_of_isSet off (sdcBit_lt off) hz, fun _ => z.flag_isSet off _ (sdcBit_lt off)⟩

end

/-! ### Reads (R8, R63, R467) -/

/-- Registers whose read moves more than RC fields and a latched half. -/
def movingReads : List Nat :=
  [Reg.PTP_TS_META, Reg.PTP_TS_OVFL, Reg.STW_DUMP_DATA, Reg.STW_FL_BUF, Reg.EVR_RD_DATA, Reg.EGR_BKT_QHWM, Reg.EGR_BKT_SHWM, Reg.TRC_BUF_HWM]

/-- A read of the register moves at most its RC fields and a latched half. -/
def readsPlainly (off : Nat) : Prop := off ∉ movingReads ∧ inArray Reg.TAP_QHWM 64 off = none

theorem readsPlainly_of_loafFrameKneader {off : Nat} (h : loafFrameKneader off) : readsPlainly off := by
  refine ⟨fun hmem => ?moves, if_neg fun hin => ?mark⟩
  case moves =>
    have hother : ∀ o ∈ movingReads, ¬ loafFrameKneader o := by decide
    exact hother off hmem h
  case mark =>
    simp only [loafFrameKneader, unitOf, Reg.TAP_QHWM] at h hin
    omega

/-- The LO halves (R63). -/
def loHalves : List Nat :=
  [Reg.TIM_FT_LO, Reg.TIM_PULSE_FT_LO, Reg.CNT_RD_LO, Reg.LOF_IN_LO, Reg.LOF_OUT_LO, Reg.KND_OPS_LO, Reg.ENS_EVALS_LO, Reg.RUL_SEARCH_LO,
    Reg.HIS_OLDEST_FT_LO, Reg.EGR_BKT_TOK]

section
variable (b : Block) {path : Path} {off : Nat} {hw : Word}

theorem Block.mem_loHalves_of_hiOf (h : (b.hiOf off).isSome = true) : off ∈ loHalves := by
  refine Decidable.byContradiction fun hno => ?_
  simp only [loHalves, List.mem_cons, List.not_mem_nil, or_false, not_or] at hno
  obtain ⟨h1, h2, h3, h4, h5, h6, h7, h8, h9, h10⟩ := hno
  simp only [Block.hiOf, if_neg h1, if_neg h2, if_neg h3, if_neg h4, if_neg h5, if_neg h6, if_neg h7, if_neg h8, if_neg h9, if_neg h10,
    Option.isSome_none, Bool.false_eq_true] at h

theorem Block.readsPlainly_of_hiOf (h : (b.hiOf off).isSome = true) : readsPlainly off := by
  have hplain : ∀ o ∈ loHalves, o ∉ movingReads ∧ inArray Reg.TAP_QHWM 64 o = none := by decide
  exact hplain off (b.mem_loHalves_of_hiOf h)

theorem Block.beginAccess_hiOf : (b.beginAccess path).hiOf off = b.hiOf off := rfl

theorem Block.readReg_of_readsPlainly (hrow : (regRowAt b.build off).isSome = true) (h : readsPlainly off) :
    b.readReg off hw = { b.readEffect off hw with rdata := b.view off } := by
  obtain ⟨r, hr⟩ := Option.isSome_iff_exists.mp hrow
  have hmoves := h.1
  simp only [movingReads, List.mem_cons, not_or] at hmoves
  obtain ⟨hmeta, -, hdump, hbuf, hcrumb, -⟩ := hmoves
  simp only [Block.readReg, hr, if_neg hmeta, if_neg hdump, if_neg hbuf, if_neg hcrumb]

/-- What a plain read moves: its RC fields clear, and a LO half latches its HI half. -/
theorem Block.readEffect_of_readsPlainly (h : readsPlainly off) : b.readEffect off hw =
    (b.hiOf off).elim (b.clearFields off hw) (fun half => (b.clearFields off hw).setReg half.1 half.2) := by
  obtain ⟨hmoves, hmark⟩ := h
  simp only [movingReads, List.mem_cons, List.not_mem_nil, or_false, not_or] at hmoves
  obtain ⟨-, hovfl, -, -, -, hqueue, hstall, htrace⟩ := hmoves
  simp only [Block.readEffect, if_neg hovfl, if_neg (not_or.mpr ⟨hqueue, hstall⟩), Block.levelSeen, hmark, if_neg htrace]
  cases b.hiOf off <;> rfl

/-- A read in a cycle that has no write of its register. -/
theorem Block.readNow_of_alone (halone : (b.beginAccess path).access.writes.find? (fun w => w.2.1 == off) = none) :
    b.readNow path off hw = (b.beginAccess path).readReg off hw := by
  simp only [Block.readNow, halone]
  cases regRowAt (b.beginAccess path).build off <;> rfl

/-- A read in the cycle of a write returns what stood before it. -/
theorem Block.readNow_of_written {w : Path × Nat × Word × Word} (hrow : (regRowAt b.build off).isSome = true)
    (hwritten : (b.beginAccess path).access.writes.find? (fun w => w.2.1 == off) = some w) : (b.readNow path off hw).rdata = w.2.2.1 := by
  obtain ⟨r, hr⟩ := Option.isSome_iff_exists.mp hrow
  have hr' : regRowAt (b.beginAccess path).build off = some r := hr
  simp only [Block.readNow, hwritten, hr']

end

/-! ### Bits of a word (R4) -/

/-- A bit that takes the place of another one, in a number split at it. -/
theorem div_mod_two_of_putBit (w q p : Nat) (hq : 0 < q) (hp : p < 2) : (w - w / q % 2 * q + p * q) / q % 2 = p := by
  have hw : w = w % q + q * (w / q) := (Nat.mod_add_div w q).symm
  have hr := Nat.mod_lt w hq
  have hd : w / q = w / q % 2 + 2 * (w / q / 2) := (Nat.mod_add_div _ 2).symm
  have hn : w - w / q % 2 * q + p * q = w % q + q * (2 * (w / q / 2) + p) := by
    have hle : q * (w / q % 2) ≤ w := by
      calc q * (w / q % 2) ≤ q * (w / q) := Nat.mul_le_mul_left q (Nat.mod_le ..)
        _ ≤ w := Nat.mul_div_le w q
    have hexp : w = w % q + (q * (w / q % 2) + q * (2 * (w / q / 2))) := by rw [← Nat.mul_add, ← hd, ← hw]
    rw [Nat.mul_comm _ q, Nat.mul_comm p q, Nat.mul_add]
    omega
  rw [hn, Nat.add_mul_div_left _ _ hq, Nat.div_eq_of_lt hr]
  omega

/-- A bit that is put in a word reads as it was put. -/
theorem getLsbD_wordPut_bit (w : Word) {i : Nat} (v : Bool) (hi : i < 32) : (wordPut w i i (bit v)).getLsbD i = v := by
  have hbit := div_mod_two_of_putBit w.toNat (2 ^ i) (bit v) (Nat.two_pow_pos i) (by cases v <;> decide)
  rw [wordPut, BitVec.getLsbD_ofNat, Nat.testBit_eq_decide_div_mod_eq, bitsOf, Nat.sub_self, Nat.zero_add, Nat.pow_one,
    Nat.mod_eq_of_lt (show bit v < 2 by cases v <;> decide), hbit]
  cases v <;> simp [bit, hi]

theorem Block.putBit_isSet (b : Block) (off : Nat) {i : Nat} (v : Bool) (hi : i < 32) : (b.putBit off i v).isSet off i = v := by
  rw [Block.isSet, Block.putBit, Block.setFld, Block.setReg_reg, getLsbD_wordPut_bit _ v hi]

theorem bitsOf_eq_extractLsb' (w : Word) (hi lo : Nat) : bitsOf w.toNat hi lo = (w.extractLsb' lo (hi - lo + 1)).toNat := by
  rw [bitsOf, BitVec.extractLsb'_toNat, Nat.shiftRight_eq_div_pow]

/-! ### The place of a die and its locks (R469, R470) -/

/-- The registers of a die that hold its place and its locks (R468). -/
def placeRegs : List Nat := [Reg.ID_DA, Reg.ID_CTL]

section
variable (b : Block) (hD : b.build = .D) (v : Word)
include hD

/-- A write of ID_DA while LOCK is clear stores PLACE (R9, R470). -/
theorem Block.fieldsAfter_idDa (hfree : b.isSet Reg.ID_CTL 0 = false) :
    b.fieldsAfter Reg.ID_DA v = (b.reg Reg.ID_DA &&& ~~~0xFFFFE000#32) ||| (v &&& 0xFFFFE000#32) := by
  rw [Block.fieldsAfter, hD, hfree]
  rfl

/-- PLACE after a write that stores it. -/
theorem Block.place_writeFields (hfree : b.isSet Reg.ID_CTL 0 = false) :
    bitsOf ((b.writeFields Reg.ID_DA v).reg Reg.ID_DA).toNat 31 13 = bitsOf v.toNat 31 13 := by
  rw [Block.writeFields, Block.setReg_reg, b.fieldsAfter_idDa hD v hfree, bitsOf_eq_extractLsb', bitsOf_eq_extractLsb']
  congr 1
  refine BitVec.eq_of_getLsbD_eq fun i hi => ?_
  have hmask : (0xFFFFE000#32).getLsbD (13 + i) = true := by
    have hall : ∀ k < 19, (0xFFFFE000#32).getLsbD (13 + k) = true := by decide
    exact hall i hi
  simp only [BitVec.getLsbD_extractLsb', BitVec.getLsbD_or, BitVec.getLsbD_and, BitVec.getLsbD_not, hmask, Bool.not_true, Bool.and_false,
    Bool.false_or, Bool.and_true]

/-- A write of ID_CTL sets LOCAL_RO and LOCK where it holds them (R6). -/
theorem Block.fieldsAfter_idCtl : b.fieldsAfter Reg.ID_CTL v = b.reg Reg.ID_CTL ||| (v &&& 2#32) ||| (v &&& 1#32) := by
  rw [Block.fieldsAfter, hD]
  rfl

theorem Block.writeFields_idCtl_reg : (b.writeFields Reg.ID_CTL v).reg Reg.ID_CTL = b.reg Reg.ID_CTL ||| (v &&& 2#32) ||| (v &&& 1#32) := by
  rw [Block.writeFields, Block.setReg_reg, b.fieldsAfter_idCtl hD]

theorem Block.writeReg_of_placeRegs {off : Nat} (hoff : off ∈ placeRegs) : b.writeReg off v = b.storeId off v := by
  have hrow : ∃ r, regRowAt .D off = some r ∧ r.staging = .no := by
    simp only [placeRegs, List.mem_cons, List.not_mem_nil, or_false] at hoff
    rcases hoff with rfl | rfl <;> exact ⟨_, rfl, rfl⟩
  have hcommit : off ≠ Reg.PLN_TXN_CTL := fun h => absurd (h ▸ hoff) (by decide)
  have hunit : unitOf off = 0 := by
    have hall : ∀ o ∈ placeRegs, unitOf o = 0 := by decide
    exact hall off hoff
  obtain ⟨r, hr, hstaging⟩ := hrow
  have hstaged : b.isStaged r off = false := by
    simp [Block.isStaged, hstaging, hD]
  simp only [Block.writeReg, hD, hr, if_neg hcommit, hstaged, Bool.false_eq_true, if_false, Block.storeReg, hunit]

/-- A tray's write of PLACE or of a lock, which keeps nothing of the local port's (R467). -/
theorem Block.writeBy_of_placeRegs {off : Nat} (hoff : off ∈ placeRegs) :
    b.writeBy .tray off v = ((b.beginAccess .tray).storeId off v).noteWrite .tray off ((b.beginAccess .tray).valueBefore off) v := by
  have hrow : ∀ o ∈ placeRegs, (regRowAt .D o).isSome = true ∧ storesField .D o = false := by decide
  obtain ⟨hsome, hstores⟩ := hrow off hoff
  rw [b.writeBy_of_pathOfBuild (.inl ⟨hD, rfl⟩), b.writeNow_eq_noteWrite .tray off v (hD ▸ hsome),
    (b.beginAccess .tray).writeInCycle_of_not_storesField _ _ (show storesField b.build off = false from hD ▸ hstores),
    (b.beginAccess .tray).writeReg_of_placeRegs hD v hoff]

/-- Under LOCK a write of PLACE changes nothing (R470). -/
theorem Block.storeId_locked (hlock : b.isSet Reg.ID_CTL 0 = true) : b.storeId Reg.ID_DA v = b := by
  simp [Block.storeId, hD, hlock]

/-- A block whose cycle has written PLACE: what stood before the first write of it (R470). -/
def Block.placeKept (b : Block) : Block :=
  { b with access := { b.access with place := some (b.access.place.getD (b.reg Reg.ID_DA, b.isSet Reg.ID_CTL 2)) } }

/-- A write of PLACE without the lock stores it and sets PLACED (R470). -/
theorem Block.storeId_free (hfree : b.isSet Reg.ID_CTL 0 = false) :
    b.storeId Reg.ID_DA v = (b.placeKept.writeFields Reg.ID_DA v).flag Reg.ID_CTL 2 :=
  (if_pos ⟨rfl, hD⟩).trans (if_neg (by simp [hfree]))

/-- A lock undoes the cycle's write of PLACE (R470). -/
theorem Block.storeId_lock (hlock : v.getLsbD 0 = true) : b.storeId Reg.ID_CTL v = b.undoPlace.writeFields Reg.ID_CTL v :=
  (if_neg fun h => absurd h.1 (by decide)).trans (if_pos ⟨rfl, hD, hlock⟩)

end

theorem Block.storeId_noLock (b : Block) (v : Word) (hlock : v.getLsbD 0 = false) : b.storeId Reg.ID_CTL v = b.writeFields Reg.ID_CTL v :=
  (if_neg fun h => absurd h.1 (by decide)).trans (if_neg fun h => Bool.false_ne_true (hlock.symm.trans h.2.2))

/-! ### The commands of a register access -/

section
variable (s : State) (b : Build) {path : Path} {off : Nat} {v hw : Word} (hrun : s.running b = true)
include hrun

theorem exec_registerWrite : exec (.registerWrite b path off v hw) s = .next (s.setBlock b
    (((s.block b).writeBy path off v).hwFlags off (if (s.block b).pathOpen path then v else 0) hw)) :=
  onBlock_running b (fun x => (x.writeBy path off v).hwFlags off (if x.pathOpen path then v else 0) hw) s hrun

/-- A write by a path that is closed changes nothing (R469). -/
theorem exec_registerWrite_closed (h : (s.block b).pathOpen .localPort = false) :
    exec (.registerWrite b .localPort off v 0) s = .next s := by
  rw [exec_registerWrite s b hrun, Block.hwFlags_zero, (s.block b).writeBy_of_pathClosed off v h, State.setBlock_same]

section
variable (hpath : pathOfBuild (s.block b).build path)
include hpath

theorem exec_registerWrite_open : exec (.registerWrite b path off v hw) s =
    .next (s.setBlock b (((s.block b).writeNow path off v).hwFlags off v hw)) := by
  rw [exec_registerWrite s b hrun, (s.block b).writeBy_of_pathOfBuild hpath, (s.block b).pathOpen_of_pathOfBuild hpath, if_pos rfl]

theorem exec_rcFieldRead_open : exec (.rcFieldRead b path off hw) s = .next (s.setBlock b ((s.block b).readNow path off hw)) := by
  rw [← (s.block b).readBy_of_pathOfBuild hpath]
  exact onBlock_running b (fun x => x.readBy path off hw) s hrun

theorem exec_loReadLatch_open (hhi : ((s.block b).hiOf off).isSome = true) :
    exec (.loReadLatch b path off) s = .next (s.setBlock b ((s.block b).readNow path off 0)) := by
  rw [← (s.block b).readBy_of_pathOfBuild hpath]
  change execLoReadLatch b path off s = _
  rw [execLoReadLatch, onBlock_running _ _ s hrun, hhi, Block.when_true]

end
end

section
variable (b : Block) {path : Path} {off : Nat} {hw : Word} (hrow : (regRowAt b.build off).isSome = true)
  (halone : (b.beginAccess path).access.writes.find? (fun w => w.2.1 == off) = none)
include hrow halone

/-- The first write of a register in its cycle. -/
theorem Block.writeNow_of_alone (v : Word) : b.writeNow path off v =
    ((b.beginAccess path).writeReg off v).noteWrite path off ((b.beginAccess path).view off) v := by
  rw [b.writeNow_eq_noteWrite path off v hrow, Block.writeInCycle_of_none _ _ _ (Block.secondWrite_of_alone _ halone),
    Block.valueBefore_of_alone _ halone]

/-- A plain read of a register that is no LO half. -/
theorem Block.readNow_clears (hplain : readsPlainly off) (hhi : b.hiOf off = none) : b.readNow path off hw =
    { (b.beginAccess path).clearFields off hw with rdata := (b.beginAccess path).view off } := by
  rw [b.readNow_of_alone halone, (b.beginAccess path).readReg_of_readsPlainly hrow hplain,
    (b.beginAccess path).readEffect_of_readsPlainly hplain, b.beginAccess_hiOf, hhi, Option.elim_none]

/-- A read of a LO half latches its HI half (R63). -/
theorem Block.readNow_latches {hi : Nat} {w : Word} (hhi : b.hiOf off = some (hi, w)) : b.readNow path off hw =
    { ((b.beginAccess path).clearFields off hw).setReg hi w with rdata := (b.beginAccess path).view off } := by
  have hplain := b.readsPlainly_of_hiOf (Option.isSome_of_eq_some hhi)
  rw [b.readNow_of_alone halone, (b.beginAccess path).readReg_of_readsPlainly hrow hplain,
    (b.beginAccess path).readEffect_of_readsPlainly hplain, b.beginAccess_hiOf, hhi, Option.elim_some]

end

section
variable (s : State) (hrun : s.running .D = true)
include hrun

theorem exec_idDaPlaceWrite (path : Path) (v : Word) : exec (.idDaPlaceWrite path v) s = .next (s.setBlock .D (s.d.writeBy path Reg.ID_DA v)) :=
  onDie_running (fun b => b.writeBy path Reg.ID_DA v) s hrun

theorem exec_idCtlLockWrite (path : Path) : exec (.idCtlLockWrite path) s = .next (s.setBlock .D (s.d.writeBy path Reg.ID_CTL 1)) :=
  onDie_running (fun b => b.writeBy path Reg.ID_CTL 1) s hrun

theorem exec_idCtlLocalRoWrite (path : Path) : exec (.idCtlLocalRoWrite path) s = .next (s.setBlock .D (s.d.writeBy path Reg.ID_CTL 2)) :=
  onDie_running (fun b => b.writeBy path Reg.ID_CTL 2) s hrun

end

/-! ### What each access of a running block does -/

section
variable (s : State) (b : Build) {path : Path} {off : Nat} (hrun : s.running b = true) (hpath : pathOfBuild (s.block b).build path)
include hrun hpath

section
variable {r : RegRow} (hrow : regRowAt (s.block b).build off = some r) (hunit : loafFrameKneader off)
  (hstaged : (s.block b).isStaged r off = false)
  (halone : ((s.block b).beginAccess path).access.writes.find? (fun w => w.2.1 == off) = none)
include hrow hunit hstaged halone

/-- A write of a register that its unit gives no action of its own stores its fields (R6). -/
theorem exec_registerWrite_fields (v : Word) (hctl : off ≠ Reg.LOF_CTL) (herr : off = Reg.LOF_ERR_INFO → v.getLsbD 30 = false) (hw : Word)
    (hflags : off = Reg.LOF_ERR_INFO ∨ hw = 0) : exec (.registerWrite b path off v hw) s = .next (s.setBlock b
      ((((s.block b).beginAccess path).writeFields off v).noteWrite path off (((s.block b).beginAccess path).view off) v)) := by
  rw [exec_registerWrite_open s b hrun hpath, (s.block b).writeNow_of_alone (Option.isSome_of_eq_some hrow) halone,
    ((s.block b).beginAccess path).writeReg_eq_writeFields v hunit hrow hstaged hctl herr]
  rcases hflags with rfl | rfl
  · rw [Block.hwFlags_errInfo]
  · rw [Block.hwFlags_zero]

/-- A write of any register but LOF_ERR_INFO leaves the registers as its fields say, one of LOF_CTL too (R6, R155). -/
theorem exec_registerWrite_regs (v : Word) (herr : off ≠ Reg.LOF_ERR_INFO) : ∃ t, exec (.registerWrite b path off v 0) s = .next t ∧
    s.sameBlock t b.other ∧ (t.block b).regs = ((s.block b).writeFields off v).regs := by
  refine ⟨_, exec_registerWrite_open s b hrun hpath, s.setBlock_sameBlock_other b _, ?_⟩
  rw [State.setBlock_block, Block.hwFlags_zero, (s.block b).writeNow_of_alone (Option.isSome_of_eq_some hrow) halone]
  exact congrArg Prod.snd (((s.block b).beginAccess path).writeReg_regState v hunit hrow hstaged fun h => absurd h herr)

/-- A write leaves every other register, and flags that hardware sets in its cycle stay set (R6, R7). -/
theorem exec_registerWrite_flags (v hw : Word) (herr : off ≠ Reg.LOF_ERR_INFO) : ∃ t, exec (.registerWrite b path off v hw) s = .next t ∧
    s.sameBlock t b.other ∧ (∀ other, other ≠ off → (t.block b).reg other = (s.block b).reg other) ∧
    (∀ i, (flagMask (s.block b).build off &&& hw).getLsbD i = true → (t.block b).isSet off i = true ∧
      (v.getLsbD i = true → (t.block b).isSet off (sdcBit off) = true)) := by
  let y := (s.block b).beginAccess path
  let z := (y.writeReg off v).noteWrite path off (y.view off) v
  have hz : z.regState = ((s.block b).writeFields off v).regState :=
    y.writeReg_regState v hunit hrow hstaged fun h => absurd h herr
  have hbuild : z.build = (s.block b).build := congrArg Prod.fst hz
  refine ⟨_, exec_registerWrite_open s b hrun hpath, s.setBlock_sameBlock_other b _, ?_⟩
  rw [State.setBlock_block, (s.block b).writeNow_of_alone (Option.isSome_of_eq_some hrow) halone]
  refine ⟨fun other hother => ?_, fun i hi => z.hwFlags_isSet off v hw herr (hbuild.symm ▸ hi)⟩
  rw [z.hwFlags_reg_other off v hw hother, Block.reg_of_regState hz]
  exact (s.block b).setReg_reg_other off other _ hother

end

/-- Where the path that acts second has written the register in the cycle, its value stays (R467). -/
theorem exec_registerWrite_second {r : RegRow} {w : Path × Nat × Word × Word} (v : Word)
    (hrow : regRowAt (s.block b).build off = some r) (hunit : 8 ≤ unitOf off ∧ unitOf off ≤ 9)
    (hstaged : (s.block b).isStaged r off = false) (hstores : storesField (s.block b).build off = true) (hfirst : actsSecond path = false)
    (hsecond : ((s.block b).beginAccess path).secondWrite off = some w) : ∃ t, exec (.registerWrite b path off v 0) s = .next t ∧
    s.sameBlock t b.other ∧ (t.block b).regs = (((s.block b).writeFields off v).writeFields off w.2.2.2).regs := by
  have hlfk : loafFrameKneader off := ⟨by omega, hunit.2⟩
  have hctl : off ≠ Reg.LOF_CTL := fun h => absurd (h ▸ hunit.1) (by decide)
  have herr : off ≠ Reg.LOF_ERR_INFO := fun h => absurd (h ▸ hunit.1) (by decide)
  let y := (s.block b).beginAccess path
  refine ⟨_, exec_registerWrite_open s b hrun hpath, s.setBlock_sameBlock_other b _, ?_⟩
  rw [State.setBlock_block, Block.hwFlags_zero, (s.block b).writeNow_eq_noteWrite path off v (Option.isSome_of_eq_some hrow),
    y.writeInCycle_of_second path v hsecond hfirst hstores,
    y.writeReg_eq_writeFields v hlfk hrow hstaged hctl fun h => absurd h herr,
    (y.writeFields off v).writeReg_eq_writeFields w.2.2.2 hlfk hrow hstaged hctl fun h => absurd h herr]
  rfl

end

/-! ### What a write of PLACE and of its locks does -/

section
variable (s : State) (hrun : s.running .D = true) (hD : s.d.build = .D)
include hrun hD

/-- While LOCK is clear a write of PLACE stores it and sets PLACED (R470). -/
theorem exec_idDaPlaceWrite_free (v : Word) (hfree : s.d.isSet Reg.ID_CTL 0 = false) : ∃ t, exec (.idDaPlaceWrite .tray v) s = .next t ∧
    s.sameBlock t .T ∧ t.d.fld Reg.ID_DA 31 13 = bitsOf v.toNat 31 13 ∧ t.d.isSet Reg.ID_CTL 2 = true ∧
    ∀ off, off ≠ Reg.ID_DA → off ≠ Reg.ID_CTL → t.d.reg off = s.d.reg off := by
  let y := s.d.beginAccess .tray
  let x := y.placeKept.writeFields Reg.ID_DA v
  refine ⟨_, exec_idDaPlaceWrite s hrun .tray v, s.setBlock_sameBlock_other .D _, ?_⟩
  rw [s.d.writeBy_of_placeRegs hD v (by decide), y.storeId_free hD v hfree]
  refine ⟨?place, x.flag_isSet Reg.ID_CTL 2 (by decide), fun off hda hctl => ?others⟩
  case place =>
    change bitsOf ((x.flag Reg.ID_CTL 2).reg Reg.ID_DA).toNat 31 13 = _
    rw [Block.flag_reg_other _ _ _ _ (by decide)]
    exact y.placeKept.place_writeFields hD v hfree
  case others =>
    change (x.flag Reg.ID_CTL 2).reg off = _
    rw [Block.flag_reg_other _ _ _ _ hctl]
    exact y.placeKept.setReg_reg_other Reg.ID_DA off _ hda

/-- Under LOCK a write of PLACE changes nothing (R470). -/
theorem exec_idDaPlaceWrite_locked (v : Word) (hlock : s.d.isSet Reg.ID_CTL 0 = true) : ∃ t, exec (.idDaPlaceWrite .tray v) s = .next t ∧
    s.sameBlock t .T ∧ t.d = { s.d with access := t.d.access } := by
  refine ⟨_, exec_idDaPlaceWrite s hrun .tray v, s.setBlock_sameBlock_other .D _, ?_⟩
  rw [s.d.writeBy_of_placeRegs hD v (by decide), (s.d.beginAccess .tray).storeId_locked hD v hlock]
  rfl

/-- LOCK undoes the write of PLACE of its own cycle (R470). -/
theorem exec_idCtlLockWrite_undoes {da : Word} {placed : Bool} (hplace : (s.d.beginAccess .tray).access.place = some (da, placed)) :
    ∃ t, exec (.idCtlLockWrite .tray) s = .next t ∧ s.sameBlock t .T ∧ t.d.reg Reg.ID_DA = da ∧ t.d.isSet Reg.ID_CTL 2 = placed ∧
      t.d.isSet Reg.ID_CTL 0 = true := by
  let y := s.d.beginAccess .tray
  let x := (y.setReg Reg.ID_DA da).putBit Reg.ID_CTL 2 placed
  have hundo : y.undoPlace = x := by simp only [Block.undoPlace, hplace, y, x]
  have hplaced : x.isSet Reg.ID_CTL 2 = placed := Block.putBit_isSet _ _ placed (by decide)
  refine ⟨_, exec_idCtlLockWrite s hrun .tray, s.setBlock_sameBlock_other .D _, ?_⟩
  rw [s.d.writeBy_of_placeRegs hD 1 (by decide), y.storeId_lock hD 1 rfl, hundo]
  refine ⟨?da, ?placed, ?locked⟩
  case da =>
    change (x.writeFields Reg.ID_CTL 1).reg Reg.ID_DA = da
    rw [Block.writeFields, Block.setReg_reg_other _ _ _ _ (by decide), Block.putBit_reg_other _ _ _ _ _ (by decide), Block.setReg_reg]
  case placed =>
    change ((x.writeFields Reg.ID_CTL 1).reg Reg.ID_CTL).getLsbD 2 = placed
    rw [Block.isSet] at hplaced
    rw [x.writeFields_idCtl_reg hD 1, BitVec.getLsbD_or, BitVec.getLsbD_or, hplaced]
    cases placed <;> rfl
  case locked =>
    change ((x.writeFields Reg.ID_CTL 1).reg Reg.ID_CTL).getLsbD 0 = true
    rw [x.writeFields_idCtl_reg hD 1, BitVec.getLsbD_or]
    exact Bool.or_true _

/-- LOCK, where the cycle has not written PLACE (R470). -/
theorem exec_idCtlLockWrite_locks (hplace : (s.d.beginAccess .tray).access.place = none) : ∃ t, exec (.idCtlLockWrite .tray) s = .next t ∧
    s.sameBlock t .T ∧ t.d.reg Reg.ID_CTL = s.d.reg Reg.ID_CTL ||| 1 ∧ ∀ off, off ≠ Reg.ID_CTL → t.d.reg off = s.d.reg off := by
  have hundo : (s.d.beginAccess .tray).undoPlace = s.d.beginAccess .tray := by simp only [Block.undoPlace, hplace]
  let y := s.d.beginAccess .tray
  refine ⟨_, exec_idCtlLockWrite s hrun .tray, s.setBlock_sameBlock_other .D _, ?_⟩
  rw [s.d.writeBy_of_placeRegs hD 1 (by decide), (s.d.beginAccess .tray).storeId_lock hD 1 rfl, hundo]
  refine ⟨(y.writeFields_idCtl_reg hD 1).trans ?_, fun off hoff => y.setReg_reg_other Reg.ID_CTL off _ hoff⟩
  rw [show (1 : Word) &&& 2#32 = 0#32 from rfl, BitVec.or_zero]
  rfl

/-- LOCAL_RO (R469). -/
theorem exec_idCtlLocalRoWrite_sets : ∃ t, exec (.idCtlLocalRoWrite .tray) s = .next t ∧ s.sameBlock t .T ∧
    t.d.reg Reg.ID_CTL = s.d.reg Reg.ID_CTL ||| 2 ∧ ∀ off, off ≠ Reg.ID_CTL → t.d.reg off = s.d.reg off := by
  let y := s.d.beginAccess .tray
  refine ⟨_, exec_idCtlLocalRoWrite s hrun .tray, s.setBlock_sameBlock_other .D _, ?_⟩
  rw [s.d.writeBy_of_placeRegs hD 2 (by decide), (s.d.beginAccess .tray).storeId_noLock 2 rfl]
  refine ⟨(y.writeFields_idCtl_reg hD 2).trans ?_, fun off hoff => y.setReg_reg_other Reg.ID_CTL off _ hoff⟩
  rw [show (2 : Word) &&& 1#32 = 0#32 from rfl, BitVec.or_zero]
  rfl

end

/-- Settles O55: a write by what its unit stores and by what the cycle holds of its register, a read by what it moves, PLACE and its locks by
the writes of ID_DA and ID_CTL. -/
theorem registerAccess : Obligations.RegisterAccess := by
  unfold Obligations.RegisterAccess
  refine ⟨?paths, ?place⟩
  case paths =>
    intro s b path off v hw hrun x y alone noted openPath
    refine ⟨fun r hpath hrow h7 h9 hstaged halone => ⟨?lofCtl, ?errInfo, ?fields, ?others⟩,
      fun r w hpath hrow h8 h9 hstaged hstores hfirst hsecond =>
        exec_registerWrite_second s b hrun hpath v hrow ⟨h8, h9⟩ hstaged hstores hfirst hsecond,
      fun w hpath hrow hwritten => ?readBefore,
      fun r hpath hrow h7 h9 hstaged herr halone => exec_registerWrite_flags s b hrun hpath hrow ⟨h7, h9⟩ hstaged halone v hw herr,
      fun r hpath hrow h7 h9 hhi halone => ?clears, fun hi w hpath hrow hhi halone => ?latches,
      fun hD hclosed => exec_registerWrite_closed s b hrun (x.localPort_closed hD hclosed)⟩
    case lofCtl => exact fun hctl => exec_registerWrite_regs s b hrun hpath hrow ⟨h7, h9⟩ hstaged halone v (by rw [hctl]; decide)
    case errInfo =>
      exact fun herr hvalid => exec_registerWrite_fields s b hrun hpath hrow ⟨h7, h9⟩ hstaged halone v (by rw [herr]; decide) (fun _ => hvalid)
        hw (.inl herr)
    case fields =>
      exact fun hctl herr => exec_registerWrite_fields s b hrun hpath hrow ⟨h7, h9⟩ hstaged halone v hctl (fun h => absurd h herr) 0 (.inr rfl)
    case others => exact fun other hother => x.setReg_reg_other off other _ hother
    case readBefore =>
      refine ⟨_, exec_rcFieldRead_open s b hrun hpath, s.setBlock_sameBlock_other b _, ?_⟩
      rw [State.setBlock_block]
      exact x.readNow_of_written hrow hwritten
    case clears =>
      rw [exec_rcFieldRead_open s b hrun hpath]
      exact congrArg (fun z => Host.Outcome.next (s.setBlock b z))
        (x.readNow_clears (Option.isSome_of_eq_some hrow) halone (readsPlainly_of_loafFrameKneader ⟨h7, h9⟩) hhi)
    case latches =>
      rw [exec_loReadLatch_open s b hrun hpath (Option.isSome_of_eq_some hhi)]
      exact congrArg (fun z => Host.Outcome.next (s.setBlock b z)) (x.readNow_latches hrow halone hhi)
  case place =>
    intro s v da placed hrun hD y
    exact ⟨fun hfree _ => exec_idDaPlaceWrite_free s hrun hD v hfree, exec_idDaPlaceWrite_locked s hrun hD v,
      exec_idCtlLockWrite_undoes s hrun hD, exec_idCtlLockWrite_locks s hrun hD, exec_idCtlLocalRoWrite_sets s hrun hD⟩

end Sys2Proof.Machine

/-! What a control frame does besides its record (R158, R191, R193, R437). -/

namespace Sys2Proof.Machine

/-- A command that receives a control record hears its frame with the act of its CTYPE (R191). -/
theorem exec_of_controlOf {c : Instr} {b : Build} {link : Fin 64} {raw : Bytes} {ctype : Nat}
    (h : controlOf c = some (b, link, raw, ctype)) :
    ∃ act, ∀ s, exec c s = onBlock b (fun x => x.receiveControl link raw ctype act) s := by
  unfold controlOf at h
  split at h
  all_goals cases h
  all_goals exact ⟨_, fun _ => rfl⟩

section
variable {b b' : Block} {link ctype : Nat} {raw : Bytes} {f : Frame} {act : Block → Frame → Bytes → Block}

/-- A frame of another class has no effect under a command for a control record (log 45). -/
theorem Block.receiveControl_of_other_class (h : b.rx link raw ctype = (some f, b')) (hcls : f.cls ≠ 1) :
    b.receiveControl link raw ctype act = b' := by
  simp only [Block.receiveControl, h, ne_eq, hcls, not_false_eq_true, if_true]

/-- A part is kept until its record is whole (R193). -/
theorem Block.receiveControl_of_part {b'' : Block} (h : b.rx link raw ctype = (some f, b')) (hcls : f.cls = 1) (hparts : f.parts ≠ 1)
    (hpart : b'.assemble f = (none, b'')) : b.receiveControl link raw ctype act = b'' := by
  simp only [Block.receiveControl, h, hcls, ne_eq, not_true_eq_false, if_false, hparts, hpart]

/-- A frame of one part is its records (R191). -/
theorem Block.receiveControl_of_records (h : b.rx link raw ctype = (some f, b')) (hcls : f.cls = 1) (hparts : f.parts = 1) :
    b.receiveControl link raw ctype act = b'.onRecords ctype f (controlRecords 512 f.payload) act := by
  simp only [Block.receiveControl, h, hcls, ne_eq, not_true_eq_false, if_false, hparts, if_true]

/-- A record of another CTYPE does not act; a reserved one is counted (R11, R191). -/
theorem Block.onRecords_of_other_ctype {r : Bytes} (h : ctypeOf r ≠ ctype) :
    b.onRecords ctype f [r] act = if knownCtype (ctypeOf r) then b else b.recordBad := by
  simp only [Block.onRecords, List.foldl_cons, List.foldl_nil, if_neg h]

/-- A record that the block does not heed is dropped (R437, log 86). -/
theorem Block.onRecords_of_unheeded {r : Bytes} (h : ctypeOf r = ctype) (hheeds : b.heeds ctype = false) :
    b.onRecords ctype f [r] act = b := by
  simp only [Block.onRecords, List.foldl_cons, List.foldl_nil, if_pos h, hheeds, Block.when_false]

end

/-- The records that a Borlu-T drops while its plan steward does not run (R437, log 86). -/
theorem Block.heeds_eq_false_iff (b : Block) (ctype : Nat) : b.heeds ctype = false ↔
    b.build = .T ∧ b.stewardRuns 1 = false ∧ ctype ∈ [0x0101, 0x0102, 0x0103, 0x0104, 0x0106, 0x0109, 0x010A] := by
  have hbuild : (b.build == .D) = false ↔ b.build = .T := by cases b.build <;> decide
  simp only [Block.heeds, Bool.or_eq_false_iff, decide_eq_false_iff_not, Classical.not_not, hbuild, and_assoc]

/-- Settles O22: every command that receives a control record is `receiveControl` of its CTYPE, which goes by the frame's class, its parts and
the CTYPE of its record. -/
theorem controlFramesChecked : Obligations.ControlFramesChecked := by
  unfold Obligations.ControlFramesChecked
  intro c b link raw ctype s f r b' b'' hc hrun
  obtain ⟨act, hact⟩ := exec_of_controlOf hc
  have hexec {y : Block} (h : (s.block b).receiveControl link raw ctype act = y) : exec c s = .next (s.setBlock b y) :=
    (hact s).trans (onBlock_eq_of s b _ y hrun h)
  refine ⟨fun hrx => hexec (Block.receiveControl_refused _ _ _ _ _ _ hrx), fun hrx hcls => hexec (Block.receiveControl_of_other_class hrx hcls),
    fun hrx hcls hparts hpart => hexec (Block.receiveControl_of_part hrx hcls hparts hpart),
    fun hrx hcls hparts hrecords hother => hexec ?other, fun hrx hcls hparts hrecords htype hheeds => hexec ?unheeded,
    b'.heeds_eq_false_iff ctype⟩
  case other => rw [Block.receiveControl_of_records hrx hcls hparts, hrecords, Block.onRecords_of_other_ctype hother]
  case unheeded => rw [Block.receiveControl_of_records hrx hcls hparts, hrecords, Block.onRecords_of_unheeded htype hheeds]

end Sys2Proof.Machine

/-! The kneaders' sums and extremes (R177, R178): on well-laid operands the merge of two is commutative and associative. -/

namespace Sys2Proof.Machine

/-! ### Fields of a body -/

theorem leNat_lt (bs : Bytes) : leNat bs < 256 ^ bs.length := by
  induction bs with
  | nil => exact Nat.one_pos
  | cons x xs ih =>
    have hx := x.isLt
    rw [leNat, List.length_cons, Nat.pow_succ]
    omega

theorem fieldAt_lt (bs : Bytes) (off n : Nat) : fieldAt bs off n < 256 ^ n :=
  Nat.lt_of_lt_of_le (leNat_lt _) (Nat.pow_le_pow_right (by decide) (List.length_take_le n _))

theorem leNat_append (xs ys : Bytes) : leNat (xs ++ ys) = leNat xs + 256 ^ xs.length * leNat ys := by
  induction xs with
  | nil => rw [List.nil_append, leNat, List.length_nil, Nat.pow_zero, Nat.one_mul, Nat.zero_add]
  | cons x xs ih => rw [List.cons_append, leNat, ih, leNat, List.length_cons, Nat.pow_succ', Nat.mul_add, Nat.mul_assoc, Nat.add_assoc]

theorem leNat_of_all_zero {bs : Bytes} (h : bs.all (· == 0) = true) : leNat bs = 0 := by
  induction bs with
  | nil => rfl
  | cons x xs ih =>
    obtain ⟨hx, hxs⟩ := Bool.and_eq_true_iff.mp h
    rw [leNat, ih hxs, eq_of_beq hx]
    rfl

/-- A field whose upper bytes are zero is its lower bytes. -/
theorem fieldAt_of_zeroAt {bs : Bytes} {off m n : Nat} (h : zeroAt bs (off + m) n = true) : fieldAt bs off (m + n) = fieldAt bs off m := by
  have hcut : slice bs off (m + n) = slice bs off m ++ slice bs (off + m) n := by
    rw [slice, slice, slice, List.take_add, List.drop_drop]
  rw [fieldAt, hcut, leNat_append, leNat_of_all_zero h, Nat.mul_zero, Nat.add_zero, fieldAt]

/-! ### Sums (R177) -/

theorem sum64_comm (x y : Nat) : sum64 x y = sum64 y x := by rw [sum64, sum64, Nat.add_comm]

theorem satTo_eq_min (m v : Nat) : satTo m v = min m v := by
  unfold satTo
  split <;> omega

theorem sum64_lt (x y : Nat) : (sum64 x y).1 < 2 ^ 64 := by
  simp only [sum64, satTo_eq_min]
  omega

/-- A sum of three saturates, and shows it, whatever the grouping. -/
theorem sum64_assoc (x y z : Nat) : (sum64 (sum64 x y).1 z).1 = (sum64 x (sum64 y z).1).1 ∧
    ((sum64 x y).2 || (sum64 (sum64 x y).1 z).2) = ((sum64 y z).2 || (sum64 x (sum64 y z).1).2) := by
  simp only [sum64, satTo_eq_min]
  refine ⟨by omega, ?_⟩
  rw [← Bool.decide_or, ← Bool.decide_or, decide_eq_decide]
  omega

/-- The merge of two SUM bodies, and whether it saturates: an unsigned sum in form 0, else a positive and a negative one. -/
def sumBodies (form : Nat) (x y : Bytes) : Bytes × Bool :=
  let head := leBytes 4 (fieldAt x 0 4 + fieldAt y 0 4) ++ zeros 4
  let p := sum64 (fieldAt x 8 8) (fieldAt y 8 8)
  let m := sum64 (fieldAt x 16 8) (fieldAt y 16 8)
  if form = 0 then (head ++ leBytes 8 p.1, p.2) else (head ++ leBytes 8 p.1 ++ leBytes 8 m.1, p.2 || m.2)

theorem sumBodies_comm (form : Nat) (x y : Bytes) : sumBodies form x y = sumBodies form y x := by
  rw [sumBodies, sumBodies, Nat.add_comm, sum64_comm, sum64_comm (fieldAt x 16 8)]

section
variable (form : Nat) {x y : Bytes}

/-- The fields of a merged SUM body: the ranks and each sum of its form. -/
theorem fieldAt_sumBodies (h : fieldAt x 0 4 + fieldAt y 0 4 < 2 ^ 32) :
    fieldAt (sumBodies form x y).1 0 4 = fieldAt x 0 4 + fieldAt y 0 4 ∧
    fieldAt (sumBodies form x y).1 8 8 = (sum64 (fieldAt x 8 8) (fieldAt y 8 8)).1 ∧
    (form ≠ 0 → fieldAt (sumBodies form x y).1 16 8 = (sum64 (fieldAt x 16 8) (fieldAt y 16 8)).1) := by
  have hp := sum64_lt (fieldAt x 8 8) (fieldAt y 8 8)
  have hm := sum64_lt (fieldAt x 16 8) (fieldAt y 16 8)
  by_cases hform : form = 0
  · rw [sumBodies, if_pos hform]
    exact ⟨fieldAt_leBytes_append h _, fieldAt_leBytes_append hp [], fun hne => absurd hform hne⟩
  · rw [sumBodies, if_neg hform]
    exact ⟨fieldAt_leBytes_append h _, fieldAt_leBytes_append hp _, fun _ => fieldAt_leBytes_append hm []⟩

theorem sumBodies_assoc {z : Bytes} (h : fieldAt x 0 4 + fieldAt y 0 4 + fieldAt z 0 4 < 2 ^ 32) :
    (sumBodies form (sumBodies form x y).1 z).1 = (sumBodies form x (sumBodies form y z).1).1 ∧
    ((sumBodies form x y).2 || (sumBodies form (sumBodies form x y).1 z).2) =
      ((sumBodies form y z).2 || (sumBodies form x (sumBodies form y z).1).2) := by
  obtain ⟨hnl, hpl, hml⟩ := fieldAt_sumBodies form (x := x) (y := y) (by omega)
  obtain ⟨hnr, hpr, hmr⟩ := fieldAt_sumBodies form (x := y) (y := z) (by omega)
  obtain ⟨hp, hpsat⟩ := sum64_assoc (fieldAt x 8 8) (fieldAt y 8 8) (fieldAt z 8 8)
  obtain ⟨hm, hmsat⟩ := sum64_assoc (fieldAt x 16 8) (fieldAt y 16 8) (fieldAt z 16 8)
  rw [sumBodies, sumBodies.eq_def form x (sumBodies form y z).1, hnl, hnr, hpl, hpr, Nat.add_assoc]
  by_cases hform : form = 0
  · simp only [if_pos hform, hp, true_and]
    simpa only [sumBodies, if_pos hform] using hpsat
  · simp only [if_neg hform, hp, hml hform, hmr hform, hm, true_and]
    simp only [sumBodies, if_neg hform]
    have regroup (p q r t : Bool) : ((p || q) || (r || t)) = ((p || r) || (q || t)) := by ac_rfl
    rw [regroup, hpsat, hmsat, regroup]

end

/-! ### The order of values (R178) -/

/-- A value as a form stores it: 32 bits for binary32, else 64. -/
def valueFits (form v : Nat) : Prop := if form = 2 then v < 2 ^ 32 else v < 2 ^ 64

/-- The order of a form tells its values apart. -/
theorem valueKey_inj {form v w : Nat} (hv : valueFits form v) (hw : valueFits form w) (h : valueKey form v = valueKey form w) : v = w := by
  unfold valueFits at hv hw
  unfold valueKey at h
  split at h
  case h_1 =>
    have hword : BitVec.ofNat 64 v = BitVec.ofNat 64 w := BitVec.toInt_inj.mp h
    simpa only [BitVec.toNat_ofNat, Nat.mod_eq_of_lt hv, Nat.mod_eq_of_lt hw] using congrArg BitVec.toNat hword
  case h_2 =>
    replace hv : v < 2 ^ 32 := hv
    replace hw : w < 2 ^ 32 := hw
    simp only [bitOf, bitsOf, beq_iff_eq, Nat.pow_zero, Nat.div_one] at h
    split at h <;> split at h <;> omega
  case h_3 => exact Int.ofNat_inj.mp h

/-- The key of a value in the order whose first value an extreme takes: MIN and ARGMIN take the least, MAX and ARGMAX the greatest. -/
def extremeKey (op form v : Nat) : Int := if op = 2 ∨ op = 4 then valueKey form v else -valueKey form v

theorem extremeKey_inj {op form v w : Nat} (hv : valueFits form v) (hw : valueFits form w)
    (h : extremeKey op form v = extremeKey op form w) : v = w := by
  refine valueKey_inj hv hw ?_
  unfold extremeKey at h
  split at h <;> omega

/-- A value with its rank comes no later than another in that order: of equal values the one of the lower rank is first. -/
abbrev extremeBefore (op form : Nat) (p q : Nat × Nat) : Prop :=
  extremeKey op form p.1 < extremeKey op form q.1 ∨ extremeKey op form p.1 = extremeKey op form q.1 ∧ p.2 ≤ q.2

/-- The first of two values with their ranks. -/
def extremeFirst (op form : Nat) (p q : Nat × Nat) : Nat × Nat := if extremeBefore op form p q then p else q

section
variable {op form : Nat} {p q r : Nat × Nat}

theorem extremeBefore.trans (hpq : extremeBefore op form p q) (hqr : extremeBefore op form q r) : extremeBefore op form p r := by
  unfold extremeBefore at *
  omega

theorem extremeBefore_of_not (h : ¬ extremeBefore op form p q) : extremeBefore op form q p := by
  unfold extremeBefore at *
  omega

theorem extremeBefore.antisymm (hp : valueFits form p.1) (hq : valueFits form q.1) (hpq : extremeBefore op form p q)
    (hqp : extremeBefore op form q p) : p = q := by
  unfold extremeBefore at hpq hqp
  exact Prod.ext (extremeKey_inj hp hq (by omega : extremeKey op form p.1 = extremeKey op form q.1)) (by omega)

theorem extremeFirst_left (h : extremeBefore op form p q) : extremeFirst op form p q = p := if_pos h

theorem extremeFirst_right (h : ¬ extremeBefore op form p q) : extremeFirst op form p q = q := if_neg h

theorem extremeFirst_cases (op form : Nat) (p q : Nat × Nat) : extremeFirst op form p q = p ∨ extremeFirst op form p q = q := by
  unfold extremeFirst
  split
  · exact .inl rfl
  · exact .inr rfl

theorem extremeFirst_comm (hp : valueFits form p.1) (hq : valueFits form q.1) : extremeFirst op form p q = extremeFirst op form q p := by
  by_cases hpq : extremeBefore op form p q
  · by_cases hqp : extremeBefore op form q p
    · rw [hpq.antisymm hp hq hqp]
    · rw [extremeFirst_left hpq, extremeFirst_right hqp]
  · rw [extremeFirst_right hpq, extremeFirst_left (extremeBefore_of_not hpq)]

theorem extremeFirst_assoc :
    extremeFirst op form (extremeFirst op form p q) r = extremeFirst op form p (extremeFirst op form q r) := by
  by_cases hpq : extremeBefore op form p q
  · by_cases hqr : extremeBefore op form q r
    · rw [extremeFirst_left hpq, extremeFirst_left hqr, extremeFirst_left (hpq.trans hqr), extremeFirst_left hpq]
    · rw [extremeFirst_left hpq, extremeFirst_right hqr]
  · by_cases hqr : extremeBefore op form q r
    · rw [extremeFirst_right hpq, extremeFirst_left hqr, extremeFirst_right hpq]
    · have hpr : ¬ extremeBefore op form p r := fun h => hpq (h.trans (extremeBefore_of_not hqr))
      rw [extremeFirst_right hpq, extremeFirst_right hqr, extremeFirst_right hpr]

end

/-! ### MIN, MAX, ARGMIN and ARGMAX (R178) -/

/-- The value and the rank that stand in an extreme body. -/
def extremeEntry (x : Bytes) : Nat × Nat := (fieldAt x 8 8, bitsOf (fieldAt x 4 4) 17 0)

/-- What an extreme body says: its value, and for ARGMIN and ARGMAX the rank that holds it. -/
def extremeReading (op : Nat) (x : Bytes) : Nat × Nat := ((extremeEntry x).1, if op = 2 ∨ op = 3 then 0 else (extremeEntry x).2)

/-- The merge of two extreme bodies: one without a rank gives way to the other. -/
def extremeBodies (op form : Nat) (x y : Bytes) : Bytes :=
  if fieldAt x 0 4 = 0 then (if fieldAt y 0 4 = 0 then extremeBody 0 0 0 else y)
  else if fieldAt y 0 4 = 0 then x
  else
    let p := extremeFirst op form (extremeReading op x) (extremeReading op y)
    extremeBody (fieldAt x 0 4 + fieldAt y 0 4) p.2 p.1

theorem extremeReading_rank_lt (op : Nat) (x : Bytes) : (extremeReading op x).2 < 2 ^ 18 := by
  unfold extremeReading extremeEntry bitsOf
  dsimp only
  split <;> omega

/-- The decision that a merge takes between two values with their ranks. -/
theorem decide_extremeBefore (op form v w r t : Nat) :
    (if op = 2 ∨ op = 4 then decide (valueKey form v < valueKey form w) || (valueKey form v == valueKey form w && decide (r ≤ t))
      else decide (valueKey form w < valueKey form v) || (valueKey form v == valueKey form w && decide (r ≤ t))) =
    decide (extremeBefore op form (v, r) (w, t)) := by
  unfold extremeBefore extremeKey
  split
  case isTrue => simp only [Bool.decide_or, Bool.decide_and, Bool.beq_eq_decide_eq]
  case isFalse => simp only [Bool.decide_or, Bool.decide_and, Bool.beq_eq_decide_eq, Int.neg_lt_neg_iff, Int.neg_inj]

/-- The body that a merge chooses by value and rank says the first of what the two say: a rank that MIN and MAX do not tell chooses between equal
values. -/
theorem extremeReading_ite {op form : Nat} {x y : Bytes} (hx : valueFits form (fieldAt x 8 8)) (hy : valueFits form (fieldAt y 8 8)) :
    extremeReading op (if extremeBefore op form (extremeEntry x) (extremeEntry y) then x else y) =
      extremeFirst op form (extremeReading op x) (extremeReading op y) := by
  by_cases hop : op = 2 ∨ op = 3
  · have hreading (z : Bytes) : extremeReading op z = ((extremeEntry z).1, 0) := by rw [extremeReading, if_pos hop]
    by_cases hxy : extremeBefore op form (extremeEntry x) (extremeEntry y)
    · have hfirst : extremeBefore op form (extremeReading op x) (extremeReading op y) := by
        rw [hreading, hreading]
        exact hxy.imp_right (fun h => ⟨h.1, Nat.le_refl 0⟩)
      rw [if_pos hxy, extremeFirst_left hfirst]
    · have hyx : extremeBefore op form (extremeReading op y) (extremeReading op x) := by
        rw [hreading, hreading]
        exact (extremeBefore_of_not hxy).imp_right (fun h => ⟨h.1, Nat.le_refl 0⟩)
      rw [if_neg hxy, extremeFirst_comm hx hy, extremeFirst_left hyx]
  · have hreading (z : Bytes) : extremeReading op z = extremeEntry z := by rw [extremeReading, if_neg hop]
    rw [apply_ite (extremeReading op), hreading, hreading]
    rfl

section
variable (op form : Nat) {x y : Bytes}

/-- The fields of an extreme body. -/
theorem fieldAt_extremeBody {n rank value : Nat} (hn : n < 2 ^ 32) (hrank : rank < 2 ^ 32) (hvalue : value < 2 ^ 64) :
    fieldAt (extremeBody n rank value) 0 4 = n ∧ fieldAt (extremeBody n rank value) 4 4 = rank ∧
      fieldAt (extremeBody n rank value) 8 8 = value :=
  ⟨fieldAt_leBytes_append hn _, fieldAt_leBytes_append hrank _, fieldAt_leBytes_append hvalue []⟩

/-- A body made of a reading says that reading. -/
theorem extremeReading_extremeBody {n : Nat} (hn : n < 2 ^ 32) :
    extremeReading op (extremeBody n (extremeReading op x).2 (extremeReading op x).1) = extremeReading op x := by
  have hrank := extremeReading_rank_lt op x
  obtain ⟨-, hr, hv⟩ := fieldAt_extremeBody hn (Nat.lt_trans hrank (by decide)) (fieldAt_lt x 8 8)
  refine Prod.ext hv ?_
  show (if op = 2 ∨ op = 3 then 0 else bitsOf (fieldAt (extremeBody n (extremeReading op x).2 (fieldAt x 8 8)) 4 4) 17 0) = _
  rw [hr]
  by_cases hop : op = 2 ∨ op = 3
  · simp only [extremeReading, if_pos hop]
  · rw [if_neg hop, bitsOf, Nat.pow_zero, Nat.div_one]
    exact Nat.mod_eq_of_lt hrank

/-- The ranks that contributed add up. -/
theorem fieldAt_extremeBodies (h : fieldAt x 0 4 + fieldAt y 0 4 < 2 ^ 32) :
    fieldAt (extremeBodies op form x y) 0 4 = fieldAt x 0 4 + fieldAt y 0 4 := by
  unfold extremeBodies
  split
  case isTrue hx =>
    split
    case isTrue hy => rw [hx, hy]; rfl
    case isFalse => rw [hx, Nat.zero_add]
  case isFalse =>
    split
    case isTrue hy => rw [hy, Nat.add_zero]
    case isFalse => exact fieldAt_leBytes_append h _

variable {op form}

theorem extremeBodies_empty (hx : fieldAt x 0 4 = 0) (hy : fieldAt y 0 4 = 0) : extremeBodies op form x y = extremeBody 0 0 0 := by
  rw [extremeBodies, if_pos hx, if_pos hy]

theorem extremeBodies_left (hx : fieldAt x 0 4 ≠ 0) (hy : fieldAt y 0 4 = 0) : extremeBodies op form x y = x := by
  rw [extremeBodies, if_neg hx, if_pos hy]

theorem extremeBodies_right (hx : fieldAt x 0 4 = 0) (hy : fieldAt y 0 4 ≠ 0) : extremeBodies op form x y = y := by
  rw [extremeBodies, if_pos hx, if_neg hy]

theorem extremeBodies_both (hx : fieldAt x 0 4 ≠ 0) (hy : fieldAt y 0 4 ≠ 0) : extremeBodies op form x y =
    extremeBody (fieldAt x 0 4 + fieldAt y 0 4) (extremeFirst op form (extremeReading op x) (extremeReading op y)).2
      (extremeFirst op form (extremeReading op x) (extremeReading op y)).1 := by
  rw [extremeBodies, if_neg hx, if_neg hy]

/-- The merge of two bodies with ranks says the first of what they say. -/
theorem extremeReading_extremeBodies (h : fieldAt x 0 4 + fieldAt y 0 4 < 2 ^ 32) (hx : fieldAt x 0 4 ≠ 0) (hy : fieldAt y 0 4 ≠ 0) :
    extremeReading op (extremeBodies op form x y) = extremeFirst op form (extremeReading op x) (extremeReading op y) := by
  rw [extremeBodies_both hx hy]
  rcases extremeFirst_cases op form (extremeReading op x) (extremeReading op y) with hfirst | hfirst
  · rw [hfirst, extremeReading_extremeBody op h]
  · rw [hfirst, extremeReading_extremeBody op h]

/-- A merged value is one of the two. -/
theorem valueFits_extremeBodies (h : fieldAt x 0 4 + fieldAt y 0 4 < 2 ^ 32) (hx : valueFits form (fieldAt x 8 8))
    (hy : valueFits form (fieldAt y 8 8)) : valueFits form (fieldAt (extremeBodies op form x y) 8 8) := by
  by_cases hnx : fieldAt x 0 4 = 0
  · by_cases hny : fieldAt y 0 4 = 0
    · rw [extremeBodies_empty hnx hny]
      show valueFits form 0
      unfold valueFits
      split <;> decide
    · rwa [extremeBodies_right hnx hny]
  · by_cases hny : fieldAt y 0 4 = 0
    · rwa [extremeBodies_left hnx hny]
    · have hvalue := congrArg Prod.fst (extremeReading_extremeBodies (op := op) (form := form) h hnx hny)
      change fieldAt _ 8 8 = _ at hvalue
      rcases extremeFirst_cases op form (extremeReading op x) (extremeReading op y) with hfirst | hfirst
      · rwa [hvalue, hfirst]
      · rwa [hvalue, hfirst]

theorem extremeBodies_comm (hx : valueFits form (fieldAt x 8 8)) (hy : valueFits form (fieldAt y 8 8)) :
    extremeBodies op form x y = extremeBodies op form y x := by
  by_cases hnx : fieldAt x 0 4 = 0
  · by_cases hny : fieldAt y 0 4 = 0
    · rw [extremeBodies_empty hnx hny, extremeBodies_empty hny hnx]
    · rw [extremeBodies_right hnx hny, extremeBodies_left hny hnx]
  · by_cases hny : fieldAt y 0 4 = 0
    · rw [extremeBodies_left hnx hny, extremeBodies_right hny hnx]
    · rw [extremeBodies_both hnx hny, extremeBodies_both hny hnx, Nat.add_comm,
        extremeFirst_comm (p := extremeReading op x) (q := extremeReading op y) hx hy]

theorem extremeBodies_assoc {z : Bytes} (h : fieldAt x 0 4 + fieldAt y 0 4 + fieldAt z 0 4 < 2 ^ 32) :
    extremeBodies op form (extremeBodies op form x y) z = extremeBodies op form x (extremeBodies op form y z) := by
  have hxy : fieldAt x 0 4 + fieldAt y 0 4 < 2 ^ 32 := by omega
  have hyz : fieldAt y 0 4 + fieldAt z 0 4 < 2 ^ 32 := by omega
  have hnl := fieldAt_extremeBodies op form hxy
  have hnr := fieldAt_extremeBodies op form hyz
  by_cases hny : fieldAt y 0 4 = 0
  · by_cases hnx : fieldAt x 0 4 = 0
    · by_cases hnz : fieldAt z 0 4 = 0
      · rw [extremeBodies_empty (hnl.trans (by omega)) hnz, extremeBodies_empty hnx (hnr.trans (by omega))]
      · rw [extremeBodies_right (hnl.trans (by omega)) hnz, extremeBodies_right hny hnz, extremeBodies_right hnx hnz]
    · by_cases hnz : fieldAt z 0 4 = 0
      · rw [extremeBodies_left hnx hny, extremeBodies_left hnx hnz, extremeBodies_left hnx (hnr.trans (by omega))]
      · rw [extremeBodies_left hnx hny, extremeBodies_right hny hnz]
  · by_cases hnx : fieldAt x 0 4 = 0
    · rw [extremeBodies_right hnx hny, extremeBodies_right hnx (by omega)]
    · by_cases hnz : fieldAt z 0 4 = 0
      · rw [extremeBodies_left (by omega) hnz, extremeBodies_left hny hnz]
      · rw [extremeBodies_both (x := extremeBodies op form x y) (by omega) hnz,
          extremeBodies_both (y := extremeBodies op form y z) hnx (by omega), hnl, hnr, Nat.add_assoc,
          extremeReading_extremeBodies hxy hnx hny, extremeReading_extremeBodies hyz hny hnz, extremeFirst_assoc]

end

/-! ### The merge of two bodies -/

/-- The merge of two SUM, MIN, MAX, ARGMIN or ARGMAX bodies, and whether it saturates. -/
def mergeBodies (op form : Nat) (x y : Bytes) : Bytes × Bool :=
  if op = 1 then sumBodies form x y else (extremeBodies op form x y, false)

/-- The value of an extreme body fits its form (R178). -/
def bodyFits (op form : Nat) (x : Bytes) : Prop := op = 1 ∨ valueFits form (fieldAt x 8 8)

section
variable {op form : Nat} {x y z : Bytes}

theorem mergeBodies_comm (hx : bodyFits op form x) (hy : bodyFits op form y) : mergeBodies op form x y = mergeBodies op form y x := by
  by_cases hop : op = 1
  · rw [mergeBodies, mergeBodies, if_pos hop, if_pos hop, sumBodies_comm]
  · rw [mergeBodies, mergeBodies, if_neg hop, if_neg hop, extremeBodies_comm (hx.resolve_left hop) (hy.resolve_left hop)]

theorem mergeBodies_assoc (h : fieldAt x 0 4 + fieldAt y 0 4 + fieldAt z 0 4 < 2 ^ 32) :
    (mergeBodies op form (mergeBodies op form x y).1 z).1 = (mergeBodies op form x (mergeBodies op form y z).1).1 ∧
    ((mergeBodies op form x y).2 || (mergeBodies op form (mergeBodies op form x y).1 z).2) =
      ((mergeBodies op form y z).2 || (mergeBodies op form x (mergeBodies op form y z).1).2) := by
  by_cases hop : op = 1
  · simp only [mergeBodies, if_pos hop]
    exact sumBodies_assoc form h
  · simp only [mergeBodies, if_neg hop, and_true]
    exact extremeBodies_assoc h

theorem bodyFits_mergeBodies (h : fieldAt x 0 4 + fieldAt y 0 4 < 2 ^ 32) (hx : bodyFits op form x) (hy : bodyFits op form y) :
    bodyFits op form (mergeBodies op form x y).1 := by
  by_cases hop : op = 1
  · exact .inl hop
  · rw [mergeBodies, if_neg hop]
    exact .inr (valueFits_extremeBodies h (hx.resolve_left hop) (hy.resolve_left hop))

end

/-! ### The merge of two items -/

/-- What a merge makes of two items of one kind: their flags together, a saturation of the merge, and its body. -/
def Item.joined (a b : Item) (r : Bytes × Bool) : Item :=
  { a with sat := a.sat || b.sat || r.2, nan := a.nan || b.nan, late := a.late || b.late, body := r.1 }

theorem Item.joined_comm {a b : Item} {r : Bytes × Bool} (hid : b.id = a.id) (hop : b.op = a.op) (hform : b.form = a.form) :
    a.joined b r = b.joined a r := by
  simp only [Item.joined, hid, hop, hform, Bool.or_comm a.sat, Bool.or_comm a.nan, Bool.or_comm a.late]

theorem Item.joined_assoc {a b c : Item} {l r m n : Bytes × Bool} (hbody : l.1 = r.1) (hsat : (m.2 || l.2) = (n.2 || r.2)) :
    (a.joined b m).joined c l = a.joined (b.joined c n) r := by
  have hflags : (a.sat || b.sat || m.2 || c.sat || l.2) = (a.sat || (b.sat || c.sat || n.2) || r.2) :=
    calc _ = (a.sat || b.sat || c.sat || (m.2 || l.2)) := by ac_rfl
      _ = (a.sat || b.sat || c.sat || (n.2 || r.2)) := by rw [hsat]
      _ = _ := by ac_rfl
  simp only [Item.joined, hbody, hflags, Bool.or_assoc a.nan, Bool.or_assoc a.late]

/-- The body of a well-laid item fits its form (R178). -/
theorem Item.bodyFits_of_layoutGood {a : Item} (hlow : 1 ≤ a.op) (hhigh : a.op ≤ 5) (h : a.layoutGood = true) :
    bodyFits a.op a.form a.body := by
  by_cases hop : a.op = 1
  · exact .inl hop
  right
  unfold valueFits
  split
  case isFalse => exact fieldAt_lt a.body 8 8
  case isTrue hform =>
    have hzero : zeroAt a.body 12 4 = true := by
      unfold Item.layoutGood at h
      dsimp only at h
      split at h
      case h_5 =>
        rw [hform, Bool.and_eq_true_iff] at h
        exact (Bool.and_eq_true_iff.mp h.2).1
      all_goals omega
    rw [fieldAt_of_zeroAt (m := 4) (n := 4) hzero]
    exact fieldAt_lt a.body 8 4

section
variable {a b : Item}

/-- The merge of two SUM items. -/
theorem mergeItems_of_sum (hop : a.op = 1) : (mergeItems a b).1 = a.joined b (sumBodies a.form a.body b.body) := by
  by_cases hform : a.form = 0
  · simp only [mergeItems, hop, hform, if_true, Item.joined, sumBodies, Item.n]
  · simp only [mergeItems, hop, hform, if_false, Item.joined, sumBodies, Item.n, Bool.or_assoc]

/-- The merge of two MIN, MAX, ARGMIN or ARGMAX items. -/
theorem mergeItems_of_extreme (hlow : 2 ≤ a.op) (hhigh : a.op ≤ 5) (hform : b.form = a.form) (ha : valueFits a.form (fieldAt a.body 8 8))
    (hb : valueFits a.form (fieldAt b.body 8 8)) :
    (mergeItems a b).1 = a.joined b (extremeBodies a.op a.form a.body b.body, false) := by
  unfold mergeItems
  split
  case h_5 =>
    simp only [Item.n, hform, decide_extremeBefore, decide_eq_true_eq, apply_ite Item.body]
    by_cases hna : fieldAt a.body 0 4 = 0
    · by_cases hnb : fieldAt b.body 0 4 = 0
      · simp only [hna, hnb, and_self, if_true, Item.joined, Bool.or_false, extremeBodies_empty hna hnb]
      · simp only [hna, hnb, and_false, if_true, if_false, Item.joined, Bool.or_false, extremeBodies_right hna hnb]
    · by_cases hnb : fieldAt b.body 0 4 = 0
      · simp only [hna, hnb, false_and, if_true, if_false, Item.joined, Bool.or_false, extremeBodies_left hna hnb]
      · simp only [hna, hnb, and_self, if_false, Item.joined, Bool.or_false, extremeBodies_both hna hnb, ← extremeReading_ite ha hb]
        rfl
  all_goals omega

/-- A merge of two items of one operation and form merges their bodies. -/
theorem mergeItems_eq_joined {op form : Nat} (hlow : 1 ≤ op) (hhigh : op ≤ 5) (hop : a.op = op) (haform : a.form = form)
    (hbform : b.form = form) (ha : bodyFits op form a.body) (hb : bodyFits op form b.body) :
    (mergeItems a b).1 = a.joined b (mergeBodies op form a.body b.body) := by
  subst hop haform
  by_cases hop : a.op = 1
  · rw [mergeItems_of_sum hop, mergeBodies, if_pos hop]
  · rw [mergeItems_of_extreme (by omega) hhigh hbform (ha.resolve_left hop) (hb.resolve_left hop), mergeBodies, if_neg hop]

end

/-- Settles O59: a merge joins the flags of two items and merges their bodies; sums of bodies saturate alike in any grouping, and an extreme is the
first in a total order that tells the values of a form apart. -/
theorem sumsAndExtremesInAnyOrder : Obligations.SumsAndExtremesInAnyOrder := by
  unfold Obligations.SumsAndExtremesInAnyOrder
  intro a b c hlow hhigh hbid _ hbop hcop hbform hcform hagood hbgood hcgood hn
  have ha : bodyFits a.op a.form a.body := a.bodyFits_of_layoutGood hlow hhigh hagood
  have hb : bodyFits a.op a.form b.body := hbop ▸ hbform ▸ b.bodyFits_of_layoutGood (by omega) (by omega) hbgood
  have hc : bodyFits a.op a.form c.body := hcop ▸ hcform ▸ c.bodyFits_of_layoutGood (by omega) (by omega) hcgood
  have hab := mergeItems_eq_joined hlow hhigh rfl rfl hbform ha hb
  have hba := mergeItems_eq_joined hlow hhigh hbop hbform rfl hb ha
  have hbc := mergeItems_eq_joined hlow hhigh hbop hbform hcform hb hc
  obtain ⟨hbody, hsat⟩ := mergeBodies_assoc (op := a.op) (form := a.form) hn
  refine ⟨?comm, ?assoc⟩
  case comm => rw [hab, hba, mergeBodies_comm ha hb, Item.joined_comm hbid hbop hbform]
  case assoc =>
    have hleft := mergeItems_eq_joined (a := a.joined b (mergeBodies a.op a.form a.body b.body)) hlow hhigh rfl rfl hcform
      (bodyFits_mergeBodies (Nat.lt_of_le_of_lt (Nat.le_add_right _ _) hn) ha hb) hc
    have hright := mergeItems_eq_joined (b := b.joined c (mergeBodies a.op a.form b.body c.body)) hlow hhigh rfl rfl hbform ha
      (bodyFits_mergeBodies (by unfold Item.n at hn; omega) hb hc)
    rw [hab, hbc, hleft, hright]
    exact Item.joined_assoc hbody hsat

end Sys2Proof.Machine

/-! Window closes, switch boundaries, catch-up, the window boundary of a die, the decision of a vote and the end of a digest's hold (R44, R102,
R169, R204, R206, R301, R303, R325, R340, R490). -/

namespace Sys2Proof.Machine

/-- Where no window was passed over, the next one opens (R44). -/
theorem Ctx.windowAfter_of_no_skip (x : Ctx) (w : Nat) (h : x.skipped = []) : x.windowAfter w = (w + 1) % 2 ^ 40 := by
  simp only [Ctx.windowAfter, h, List.find?_nil]

section
variable (b : Block) (c : Nat)

/-- The close of the open window of a context sorts its frames and opens the next one (R169, R44). -/
def Block.closeOpenWin : Block :=
  let x := b.ctx c
  let next := x.windowAfter x.openWin
  ((b.sortWindow c x.openWin).modCtx c (fun y => { y with
    openWin := next, behind := if y.catchup then y.behind + (windowDiff next x.openWin).toNat else y.behind })).logTxns c x.openWin

/-- A tray still holds a digest record: its hold has not ended (R301, log 23). -/
def Block.holdsDigest (r : Bytes) : Bool :=
  match groupFor (b.ctxPlan c) (digRank r) (digChannel r) with
  | some g => !ftGe b.ft ((b.ctx c).holdEnd b.ft g r)
  | none => false

/-- A hold has ended where not every record is still held. -/
theorem Block.any_not_holdsDigest (h : (b.ctx c).an.held ≠ (b.ctx c).an.held.filter (b.holdsDigest c)) :
    (b.ctx c).an.held.any (fun r => !b.holdsDigest c r) = true := by
  rw [← Bool.not_eq_false, List.any_eq_false]
  exact fun hall => h (List.filter_eq_self.mpr (fun r hr => by simpa using hall r hr)).symm

end

/-! ### The commands of a Borlu-T -/

section
variable {s : State} {c : Fin 64} (hrun : s.running .T = true)
include hrun

/-- The close of an open window (R169), and of the one after the last window of a draining context (R204). -/
theorem exec_windowClose (hactive : (s.t.ctx c).isActive = true)
    (hclose : ftGe s.t.ft ((s.t.ctx c).closeTime s.t.ft (s.t.ctx c).openWin) = true) :
    exec (.windowClose c) s = .next (s.setBlock .T (match (s.t.ctx c).lastWin with
      | some l => if 1 ≤ windowDiff (s.t.ctx c).openWin l then (s.t.closeOpenWin c).lastClose c (s.t.ctx c).openWin l else s.t.closeOpenWin c
      | none => s.t.closeOpenWin c)) := by
  change execWindowClose c s = _
  simp only [execWindowClose, onTray_running _ s hrun, hactive, hclose, Bool.and_self, Block.when_true]
  rfl

theorem exec_catchupEnd (hcatchup : (s.t.ctx c).catchup = true) (hbehind : (s.t.ctx c).behind = 0) :
    exec (.catchupEnd c) s = .next (s.setBlock .T (s.t.setCtx c { s.t.ctx c with catchup := false, settings := [] })) := by
  change execCatchupEnd c s = _
  exact onBlock_eq_of s .T _ _ hrun (if_pos (Bool.and_eq_true_iff.mpr ⟨hcatchup, beq_iff_eq.mpr hbehind⟩))

theorem exec_voteDecide {group : Fin 65536} {cmd : BitVec 22} {k : VoteKey} {g : Replicas}
    (hkey : (s.t.ctx c).an.keys.find? (fun k => k.group == group.val && k.cmd == cmd.toNat) = some k)
    (hgroup : groupById (s.t.ctxPlan c) group = some g) (hactive : (s.t.ctx c).isActive = true) (hon : s.t.isSet Reg.PLN_STS 4 = false)
    (hacts : s.t.roleActs c ((s.t.ctx c).lastClosed s.t.ft) = true) (hdue : (s.t.ctx c).keyDue s.t.ft g k = true) :
    exec (.voteDecide c group cmd) s = .next (s.setBlock .T (s.t.decideKey c g k)) := by
  change execVoteDecide c group cmd s = _
  simp only [execVoteDecide, onTray_running _ s hrun, hkey, hgroup, hactive, hon, hacts, hdue, Bool.not_false, Bool.and_self, Block.when_true]

theorem exec_digestHoldExpire (h : (s.t.ctx c).an.held ≠ (s.t.ctx c).an.held.filter (s.t.holdsDigest c)) :
    exec (.digestHoldExpire c) s =
      .next (s.setBlock .T (s.t.modAn c (fun a => { a with held := (s.t.ctx c).an.held.filter (s.t.holdsDigest c) }))) := by
  change onTray (fun b => b.when ((b.ctx c).an.held.any (fun r => !b.holdsDigest c r)) (fun y => y.modAn c (fun a =>
    { a with held := a.held.filter (b.holdsDigest c) }))) s = _
  rw [onTray_running _ s hrun, s.t.any_not_holdsDigest c h]
  rfl

end

/-! ### Boundaries -/

/-- What a switch boundary starts: at a tray row 0 of the new period, for which the schedule is used (R325, R490). -/
def Block.startPeriod (b : Block) (p : Nat) : Block :=
  match b.build with
  | .D => b
  | .T => ((b.abandonRows.shareSlots.sealLogs).useSlot 5 (b.fld Reg.PLN_SCHED 0 0)).startRow p 0

/-- A switch boundary acts once (R206). -/
theorem exec_switchBoundary {s : State} {b : Build} (hrun : s.running b = true)
    (hnew : (s.block b).switchMark < periodOf (s.block b).ft) : exec (.switchBoundary b) s =
      .next (s.setBlock b ({ (s.block b).startPeriod (periodOf (s.block b).ft) with
        switchMark := periodOf (s.block b).ft }.switchContexts (periodOf (s.block b).ft * switchTicks))) := by
  change execSwitchBoundary b s = _
  simp only [execSwitchBoundary, onBlock_running _ _ s hrun, hnew, decide_true, Block.when_true]
  rfl

/-- FT has crossed the end of a die's open window (R102): its snapshots are taken. -/
theorem exec_dieWindowBoundary {s : State} (hrun : s.running .D = true) {c : Fin 9} (ports : List (Fin 64))
    (hactive : (s.d.ctx c).isActive = true) (hover : 0 < windowDiff (windowOf (s.d.ctx c).k s.d.ft) (s.d.ctx c).openWin) :
    exec (.dieWindowBoundary c ports) s =
      .next (s.setBlock .D (s.d.windowBoundary c ((ports.map Fin.val).mergeSort (fun a b => decide (a ≤ b))))) := by
  change execDieWindowBoundary c ports s = _
  simp only [execDieWindowBoundary, onDie_running _ s hrun, hactive, hover, decide_true, Bool.and_self, Block.when_true]

/-- Settles O35: each event by what it does to its running block where its trigger holds. -/
theorem windowEvents : Obligations.WindowEvents := by
  unfold Obligations.WindowEvents
  intro s b c dc ports group cmd k g y x w next sorted p z kept
  refine ⟨fun hrun hactive hclose hopen => ?close, fun last hrun hactive hclose hlast hpast => ?lastClose,
    fun hskipped => x.windowAfter_of_no_skip w hskipped, fun hrun hnew hD => ?die, fun hrun hnew hT => ?tray,
    fun hrun => exec_catchupEnd hrun, fun hrun => exec_dieWindowBoundary hrun ports, fun hrun => exec_voteDecide hrun,
    fun hrun => exec_digestHoldExpire hrun⟩
  case close =>
    rw [exec_windowClose hrun hactive hclose]
    cases hlast : (s.t.ctx c).lastWin with
    | none => rfl
    | some l => exact congrArg (fun y => Host.Outcome.next (s.setBlock .T y)) (if_neg (Int.not_le.mpr (hopen l hlast)))
  case lastClose =>
    rw [exec_windowClose hrun hactive hclose, hlast]
    exact congrArg (fun y => Host.Outcome.next (s.setBlock .T y)) (if_pos hpast)
  case die =>
    rw [exec_switchBoundary hrun hnew, Block.startPeriod, hD]
    rfl
  case tray =>
    rw [exec_switchBoundary hrun hnew, Block.startPeriod, hT]
    rfl

end Sys2Proof.Machine

/-! Windowed frames, alarms, job statistics and test frames (R158, R160, R162, R168, R174, R397). -/

namespace Sys2Proof.Machine

/-! ### The place of a windowed frame (R168) -/

section
variable {b : Block} {c : Nat} {f : Frame}

/-- A frame of a window that is more than one ahead. -/
theorem Block.placeFrame_future (h : 1 < windowDiff f.window (windowOf (b.ctx c).k b.ft)) :
    b.placeFrame c f = (b.count Reg.FRM_FUTURE 1).flag Reg.FRM_STS 6 := if_pos h

variable (hahead : windowDiff f.window (windowOf (b.ctx c).k b.ft) ≤ 1)
include hahead

/-- A frame before the close of its window. -/
theorem Block.placeFrame_input (hopen : ftGe b.ft ((b.ctx c).closeTime b.ft f.window) = false) :
    b.placeFrame c f =
      let x := b.ctx c
      let slot := x.winSlot f.window
      (b.setCtx c (x.setWinSlot { slot with inputs := slot.inputs ++ [f] })).badDieRecords f := by
  simp only [Block.placeFrame, if_neg (Int.not_lt.mpr hahead), hopen, Bool.not_false, if_true]

variable (hclosed : ftGe b.ft ((b.ctx c).closeTime b.ft f.window) = true)
include hclosed

/-- A frame after the close of its window and before that of the next. -/
theorem Block.placeFrame_annex (hopen : ftGe b.ft ((b.ctx c).closeTime b.ft ((b.ctx c).windowAfter f.window)) = false)
    (hannex : b.isSet Reg.FRM_CTL 0 = true) :
    b.placeFrame c f =
      let x := b.ctx c
      let slot := x.winSlot (x.windowAfter f.window)
      (((b.setCtx c (x.setWinSlot { slot with annex := slot.annex ++ [f] })).count Reg.FRM_ANNEX 1).flag Reg.FRM_STS 4).badDieRecords f := by
  simp only [Block.placeFrame, if_neg (Int.not_lt.mpr hahead), hclosed, hopen, hannex, Bool.not_true, Bool.not_false, Bool.and_self,
    Bool.false_eq_true, if_false, if_true]

/-- A frame after the close of the next window, or without an annex. -/
theorem Block.placeFrame_late (hlate : ftGe b.ft ((b.ctx c).closeTime b.ft ((b.ctx c).windowAfter f.window)) = true ∨
    b.isSet Reg.FRM_CTL 0 = false) : b.placeFrame c f = (b.count Reg.FRM_TOO_LATE 1).flag Reg.FRM_STS 5 := by
  have hannex : (!ftGe b.ft ((b.ctx c).closeTime b.ft ((b.ctx c).windowAfter f.window)) && b.isSet Reg.FRM_CTL 0) = false := by
    rcases hlate with h | h <;> simp [h]
  simp only [Block.placeFrame, if_neg (Int.not_lt.mpr hahead), hclosed, hannex, Bool.not_true, Bool.false_eq_true, if_false]
  rfl

end

/-! ### Alarms (R162, R397) -/

section
variable {b : Block} {link : Nat} {f : Frame}
variable (hcodes : (alarmRecords f.payload).all (fun r => decide (fieldAt r 0 2 ∈ alarmCodes)) = true)
include hcodes

/-- An alarm frame whose codes are all known, at the roles of its job. -/
theorem Block.alarmFrame_of_job {c : Nat} (hc : b.receiver f 0 = some c) : b.alarmFrame link f =
    let told := if link < 32 ∨ (b.ctx (b.climb c)).isHearth = true then
      b.forEach (alarmRecords f.payload) (fun b r => b.pushAlarm (b.egressCtx c) f.job r) else b
    if (b.ctx (b.climb c)).isHearth || (alarmRecords f.payload).isEmpty then told
    else told.forwardAlarm (told.egressCtx (b.climb c)) (.parent (b.climb c)) f.raw (alarmRecords f.payload) := by
  simp only [Block.alarmFrame, List.filter_eq_self.mpr (List.all_eq_true.mp hcodes), Nat.lt_irrefl, if_false, hc]

/-- An alarm frame of a die without a context: its records go to the host of the tray. -/
theorem Block.alarmFrame_of_die (hlink : link < 32) (hnone : b.receiver f 0 = none) : b.alarmFrame link f =
    b.forEach (alarmRecords f.payload) (fun b r => b.pushAlarm b.blockCtx 0 r) := by
  simp only [Block.alarmFrame, List.filter_eq_self.mpr (List.all_eq_true.mp hcodes), Nat.lt_irrefl, if_false, hnone, hlink, if_true]

end

/-! ### Statistics (R174) -/

/-- A first frame of an output of job statistics waits for the others. -/
theorem Block.statsFrame_of_first {b : Block} (c : Nat) {f : Frame} (hparts : 2 ≤ f.parts)
    (hnew : b.parts.any (fun s => s.key == f.dupKey ++ [f.cls, f.base]) = false) : b.statsFrame c f =
      let key := f.dupKey ++ [f.cls, f.base]
      { b with parts := b.parts.filter (fun s => s.key != key) ++ [⟨key, f.parts, [(f.part, f.raw)]⟩] } := by
  have hfind : b.parts.find? (fun s => s.key == f.dupKey ++ [f.cls, f.base]) = none := by
    simpa only [List.find?_eq_none, List.any_eq_false] using hnew
  have hwaits : ([(f.part, f.raw)] : List (Nat × Bytes)).length < f.parts := hparts
  simp only [Block.statsFrame, hfind, Option.getD_none, List.filter_nil, List.nil_append, if_pos hwaits]

/-! ### The commands -/

section
variable {s : State} {port : Fin 8} {link : Fin 64} {raw : Bytes} {f : Frame} {b' : Block}
variable (hrun : s.running .T = true) (hrx : s.t.rx link raw = (some f, b'))
include hrun hrx

theorem exec_windowedFrameReceive {c : Nat} (hc : b'.fromChild f = some c) (hlow : 2 ≤ f.cls) (hhigh : f.cls ≤ 4) (hup : f.down = false) :
    exec (.windowedFrameReceive port link raw) s = .next (s.setBlock .T (b'.placeFrame c f)) := by
  change execWindowedFrameReceive port link raw s = _
  simp only [execWindowedFrameReceive, onTray_running _ s hrun, hrx, hc, hlow, hhigh, hup, Bool.not_false, and_self, if_true]

theorem exec_alarmFrameReceive (hcls : f.cls = 0) :
    exec (.alarmFrameReceive port link raw) s = .next (s.setBlock .T (b'.alarmFrame link f)) := by
  change execAlarmFrameReceive port link raw s = _
  simp only [execAlarmFrameReceive, onTray_running _ s hrun, hrx, hcls, if_true]

theorem exec_jobStatsReceive {c : Nat} (hc : b'.topNode f.job = some c) (hcls : f.cls = 2) (hdown : f.down = true) :
    exec (.jobStatsReceive port link raw) s = .next (s.setBlock .T (b'.statsFrame c f)) := by
  change execJobStatsReceive port link raw s = _
  simp only [execJobStatsReceive, onTray_running _ s hrun, hrx, hc, hcls, hdown, and_self, if_true]

end

/-- Settles O40: a windowed frame by the place that its window's close gives it, an alarm by the roles that its rank reaches, statistics by
the parts that wait. -/
theorem windowedFrames : Obligations.WindowedFrames := by
  unfold Obligations.WindowedFrames
  intro s b port link raw f b' c x ahead next key others recs top told
  refine ⟨fun hrun hrx hc hlow hhigh hup => ?windowed, fun hrun hrx hcls hlink hnone hcodes => ?die,
    fun hrun hrx hcls hc hcodes => ?job, fun hrun hrx hcls hdown hc hparts hnew => ?stats, fun hrun hrx _ => ?test⟩
  case windowed =>
    rw [exec_windowedFrameReceive hrun hrx hc hlow hhigh hup]
    exact ⟨fun h => by rw [Block.placeFrame_future h],
      fun hahead hopen => by rw [Block.placeFrame_input hahead hopen],
      fun hahead hclosed hopen hannex => by rw [Block.placeFrame_annex hahead hclosed hopen hannex],
      fun hahead hclosed hlate => by rw [Block.placeFrame_late hahead hclosed hlate]⟩
  case die => rw [exec_alarmFrameReceive hrun hrx hcls, Block.alarmFrame_of_die hcodes hlink hnone]
  case job =>
    rw [exec_alarmFrameReceive hrun hrx hcls, Block.alarmFrame_of_job hcodes hc]
    refine ⟨fun hhearth => ?hearth, fun hnode hsome => ?node⟩
    case hearth =>
      dsimp only [top] at hhearth
      simp only [hhearth, or_true, if_true, Bool.true_or]
      rfl
    case node =>
      dsimp only [top] at hnode
      have hrecs : (alarmRecords f.payload).isEmpty = false := List.isEmpty_eq_false_iff.mpr hsome
      simp only [hnode, hrecs, Bool.false_eq_true, or_false, Bool.or_self, if_false]
      rfl
  case stats => rw [exec_jobStatsReceive hrun hrx hc hcls hdown, Block.statsFrame_of_first c hparts hnew]
  case test =>
    exact onBlock_eq_of s b (fun x => (x.rx link raw).2) b' hrun (congrArg Prod.snd hrx)

end Sys2Proof.Machine

/-! The member state machine (R210): the states that a check point can lead to. -/

namespace Sys2Proof.Machine

section
variable {x : Member} (suspect silent : Nat) (ember alt : Bool) (m since : Nat)

/-! ### The rows of the table (R210) -/

theorem memberNext_of_retire (h : x.phase ≠ .retired ∧ x.retire = true) : memberNext suspect silent x ember alt m since = .retired := if_pos h

theorem memberNext_of_retired (hphase : x.phase = .retired) :
    memberNext suspect silent x ember alt m since = if x.unretire then .suspect else .retired := by
  simp only [memberNext, hphase, ne_eq, not_true_eq_false, false_and, if_false]

variable (hretire : x.retire = false)
include hretire

theorem memberNext_of_live (hphase : x.phase = .live) : memberNext suspect silent x ember alt m since =
    if ember then .live else if suspect ≤ m then .suspect else .live := by
  simp only [memberNext, hphase, hretire, Bool.false_eq_true, and_false, if_false]

theorem memberNext_of_suspect (hphase : x.phase = .suspect) : memberNext suspect silent x ember alt m since =
    if ember then .live else if alt then .contested else if silent ≤ m then .silent else .suspect := by
  simp only [memberNext, hphase, hretire, Bool.false_eq_true, and_false, if_false]

theorem memberNext_of_contested (hphase : x.phase = .contested) : memberNext suspect silent x ember alt m since =
    if ember then .live else if silent - suspect ≤ since then .silent else .contested := by
  simp only [memberNext, hphase, hretire, Bool.false_eq_true, and_false, if_false]

theorem memberNext_of_silent (hphase : x.phase = .silent) : memberNext suspect silent x ember alt m since =
    if ember then .live else if alt then .contested else .silent := by
  simp only [memberNext, hphase, hretire, Bool.false_eq_true, and_false, if_false]

end

/-- Settles O37: RETIRED and a RETIRE that waits have their own rows; every other state is read off by the evidence in its row. -/
theorem memberStates : Obligations.MemberStates := by
  unfold Obligations.MemberStates
  intro suspect silent x ember alt m since next
  by_cases hretired : x.phase = .retired
  · have hnext : next = _ := memberNext_of_retired suspect silent ember alt m since hretired
    cases hback : x.unretire <;> simp [hnext, hretired, hback]
  cases hretire : x.retire
  case true =>
    have hnext : next = .retired := memberNext_of_retire suspect silent ember alt m since ⟨hretired, hretire⟩
    simp [hnext, hretired]
  case false =>
    cases hphase : x.phase with
    | retired => exact absurd hphase hretired
    | live =>
      have hnext : next = _ := memberNext_of_live suspect silent ember alt m since hretire hphase
      cases ember
      case true => simp [hnext]
      case false =>
        rcases Nat.lt_or_ge m suspect with hheard | hmissed
        · simp [hnext, hheard, Nat.not_le.mpr hheard]
        · simp [hnext, hmissed, Nat.not_lt.mpr hmissed]
    | suspect =>
      have hnext : next = _ := memberNext_of_suspect suspect silent ember alt m since hretire hphase
      cases ember
      case true => simp [hnext]
      case false => cases alt <;> by_cases hmissed : silent ≤ m <;> simp [hnext, hmissed]
    | contested =>
      have hnext : next = _ := memberNext_of_contested suspect silent ember alt m since hretire hphase
      cases ember
      case true => simp [hnext]
      case false =>
        rcases Nat.lt_or_ge since (silent - suspect) with hlately | hlong
        · simp [hnext, hlately, Nat.not_le.mpr hlately]
        · simp [hnext, hlong, Nat.not_lt.mpr hlong]
    | silent =>
      have hnext : next = _ := memberNext_of_silent suspect silent ember alt m since hretire hphase
      cases ember
      case true => simp [hnext]
      case false => cases alt <;> simp [hnext]

end Sys2Proof.Machine

/-! The descriptors of a job at its hearth (R195, R196, R204, R205, R211 to R213, R377, R381): what each does where its checks pass. -/

namespace Sys2Proof.Machine

/-- A descriptor command of the tray whose descriptor is next in turn carries it out (R377). -/
theorem onTray_onDesc_eq_of {s : State} {op steward id : Nat} {t : Taken} (f : Block → Taken → Block) {y : Block}
    (h : s.descNext op steward id t) (hf : f (s.begin t) t.start = y) :
    onTray (fun b => b.onDesc op steward id f) s = .next (s.setBlock .T y) := by
  obtain ⟨hrun, hnext, hmine⟩ := h
  exact onBlock_eq_of s .T _ _ hrun ((s.t.onDesc_eq op steward id f t hnext hmine).trans hf)

theorem id_of_descNext {s : State} {op steward id : Nat} {t : Taken} (h : s.descNext op steward id t) : t.id = id := by
  obtain ⟨-, -, hid, -⟩ := h
  exact hid

section
variable {b : Block} {t : Taken} {c : Nat}

/-! ### JOB_START (R195, R196) -/

theorem Block.jobStart_of_good (hgood : b.startStatus t (b.startCtx t) = 0) (hfree : b.freeCtxIndex = some c) :
    b.jobStart t = (b.takeCtx c { b.startCtx t with bind := b.findBinding (b.startCtx t) }).forwardPrepare c := by
  unfold Block.jobStart
  extract_lets x
  rw [show b.startStatus t x = 0 from hgood, hfree]
  rfl

/-! ### JOB_TEARDOWN, REMAP and MEMBER of a job whose hearth this block holds (R204, R205, R211, R212) -/

section
variable (hhearth : b.hearthOf t.job = some c)
include hhearth

theorem Block.jobTeardown_of_active (hphase : (b.ctx c).phase = .active) : b.jobTeardown t =
    (b.setCtx c { b.ctx c with phase := .draining, lastWin := some (b.lastFor (b.ctx c) (fieldAt t.bytes 32 5)), endDesc := some t.id }).sendDecision
      c 0x0106 (teardownBody (b.lastFor (b.ctx c) (fieldAt t.bytes 32 5))) := by
  simp only [Block.jobTeardown, hhearth, hphase, Block.modCtx, Ctx.drain]

theorem Block.jobTeardown_of_armed (hphase : (b.ctx c).phase = .armed) : b.jobTeardown t =
    (b.setCtx c { b.ctx c with lastWin := some (windowOf (b.ctx c).k (b.ctx c).start), endDesc := some t.id }).sendDecision
      c 0x0106 (teardownBody (windowOf (b.ctx c).k (b.ctx c).start)) := by
  simp only [Block.jobTeardown, hhearth, hphase, Block.modCtx, Ctx.drain]

theorem Block.jobTeardown_of_prepared (hphase : (b.ctx c).phase = .prepared) :
    b.jobTeardown t = (b.abortStart c 2).complete t 0 0 (zeros 5) := by
  simp only [Block.jobTeardown, hhearth, hphase]

theorem Block.remapDesc_of_good (hslot : fieldAt t.bytes 36 4 % 256 = 0)
    (hrank : (b.ctx c).map.any (fun e => e.1 == fieldAt t.bytes 32 4) = true)
    (hahead : (2 * (b.ctx c).traversal : Int) ≤ ftDiff (windowStart (b.ctx c).k b.ft (fieldAt t.bytes 40 5)) b.ft) :
    b.remapDesc t = b.remapAct c (fieldAt t.bytes 32 4) (fieldAt t.bytes 36 4) (fieldAt t.bytes 40 5) (some t.id) := by
  have hgood : ¬ (fieldAt t.bytes 36 4 % 256 ≠ 0 ∨ (!(b.ctx c).map.any (fun e => e.1 == fieldAt t.bytes 32 4)) = true) := by simp [hslot, hrank]
  simp only [Block.remapDesc, hhearth, if_neg hgood, if_neg (Int.not_lt.mpr hahead)]

theorem Block.memberDesc_of_good (haction : byteAt t.bytes 36 ≤ 2) (hrank : (b.ctx c).map.any (fun e => e.1 == fieldAt t.bytes 32 4) = true) :
    b.memberDesc t = (b.memberAct c (fieldAt t.bytes 32 4) (byteAt t.bytes 36)).complete t 0 := by
  have hgood : ¬ (3 ≤ byteAt t.bytes 36 ∨ (!(b.ctx c).map.any (fun e => e.1 == fieldAt t.bytes 32 4)) = true) := by
    simp only [hrank, Bool.not_true, Bool.false_eq_true, or_false]
    omega
  simp only [Block.memberDesc, hhearth, if_neg hgood]

end

/-! ### TAKEOVER (R213) -/

theorem Block.takeoverDesc_of_standby (hlow : 6 ≤ byteAt t.bytes 32) (hhigh : byteAt t.bytes 32 ≤ 9)
    (hrole : (b.roleAt (byteAt t.bytes 32)).role = 2) : b.takeoverDesc t = b.takeOver (byteAt t.bytes 32) (some t.id) := by
  have hlevel : ¬ (byteAt t.bytes 32 < 6 ∨ 9 < byteAt t.bytes 32) := by omega
  simp only [Block.takeoverDesc, if_neg hlevel, hrole, ne_eq, not_true_eq_false, if_false]

end

/-- Settles O14: each descriptor is next in turn, and its act passes its checks. -/
theorem hearthDescriptors : Obligations.HearthDescriptors := by
  unfold Obligations.HearthDescriptors
  intro s id c t b x
  refine ⟨fun hnext hgood hfree => ?start, fun hnext hhearth hphase => ?active, fun hnext hhearth hphase => ?armed,
    fun hnext hhearth hphase => ?undecided, fun hnext hhearth hslot hrank hahead => ?remap, fun hnext hhearth haction hrank => ?member,
    fun hnext hlow hhigh hrole => ?takeover⟩
  case start => exact onTray_onDesc_eq_of Block.jobStart hnext (Block.jobStart_of_good hgood hfree)
  case undecided => exact onTray_onDesc_eq_of Block.jobTeardown hnext (Block.jobTeardown_of_prepared hhearth hphase)
  case member => exact onTray_onDesc_eq_of Block.memberDesc hnext (Block.memberDesc_of_good hhearth haction hrank)
  all_goals obtain rfl := id_of_descNext hnext
  case active => exact onTray_onDesc_eq_of Block.jobTeardown hnext (Block.jobTeardown_of_active hhearth hphase)
  case armed => exact onTray_onDesc_eq_of Block.jobTeardown hnext (Block.jobTeardown_of_armed hhearth hphase)
  case remap => exact onTray_onDesc_eq_of Block.remapDesc hnext (Block.remapDesc_of_good hhearth hslot hrank hahead)
  case takeover => exact onTray_onDesc_eq_of Block.takeoverDesc hnext (Block.takeoverDesc_of_standby hlow hhigh hrole)

end Sys2Proof.Machine

/-! PREPARE at a node (R11, R14, R191, R196, R197): the context that it makes, and what the node does with the record. -/

namespace Sys2Proof.Machine

/-! ### The context of a PREPARE (R191, R197) -/

section
variable (b : Block) (f : Frame) (r : Bytes)

/-- What the context of a PREPARE holds in both builds. -/
theorem Block.preparedCtx_fields : (b.preparedCtx f r).phase = .prepared ∧ (b.preparedCtx f r).job = f.job ∧
    (b.preparedCtx f r).epoch = f.epoch ∧ (b.preparedCtx f r).start = BitVec.ofNat 64 (fieldAt r 8 8) ∧ (b.preparedCtx f r).prepare = r := by
  unfold Block.preparedCtx
  cases b.build <;> exact ⟨rfl, rfl, rfl, rfl, rfl⟩

theorem Block.preparedCtx_of_die (hD : b.build = .D) : (b.preparedCtx f r).level = 3 ∧ (b.preparedCtx f r).rank = fieldAt r 56 4 ∧
    (b.preparedCtx f r).ackSent = true := by
  simp only [Block.preparedCtx, hD, and_self]

theorem Block.preparedCtx_of_tray (hT : b.build = .T) : (b.preparedCtx f r).level = f.level - 1 ∧
    (b.preparedCtx f r).map = prepareMap (f.level - 1) b.da r ∧ (b.preparedCtx f r).rank = keyRank (prepareMap (f.level - 1) b.da r) ∧
    (b.preparedCtx f r).children = childrenOf (f.level - 1) (prepareMap (f.level - 1) b.da r) := by
  simp only [Block.preparedCtx, hT, and_self]

/-- A PREPARE without a reserved value and from a level that has a child role (R11, R14, R196). -/
def Block.takesPrepare : Prop :=
  (!prepareGood r || (b.build == .T && decide (f.level < 6))) = false

theorem Block.takesPrepare_iff : b.takesPrepare f r ↔ (prepareEntries r).all (fun e => e.2 % 256 == 0) = true ∧ 5 ≤ byteAt r 30 ∧
    byteAt r 30 ≤ 9 ∧ byteAt r 20 % 16 ≠ 15 ∧ (b.build = .T → 6 ≤ f.level) := by
  cases hb : b.build <;> simp [Block.takesPrepare, prepareGood, hb, and_assoc]

/-- The node with the duplicate state of a PREPARE's parts gone, which its context takes (R163, R193). -/
def Block.dropPrepDups : Block := { b with prepDups := b.prepDups.filter (fun d => d.key != f.dupKey) }

/-- A PREPARE takes context `c` (R197): a die answers ACK at once, a Borlu-T passes each child its part. -/
def Block.takePrepare (c : Nat) : Block :=
  match b.build with
  | .D => ((b.dropPrepDups f).takeCtx c (b.preparedCtx f r)).sendControl (some c) .tray 0x0102
      (ackBody 0 0 (presenceItem 0 (b.preparedCtx f r).rank 1 false (fun _ => 1)))
  | .T => ((b.dropPrepDups f).takeCtx c { b.preparedCtx f r with bind := (b.dropPrepDups f).findBinding (b.preparedCtx f r) }).forwardPrepare c

theorem Block.takePrepare_of_die (hD : b.build = .D) (c : Nat) : b.takePrepare f r c =
    ((b.dropPrepDups f).takeCtx c (b.preparedCtx f r)).sendControl (some c) .tray 0x0102
      (ackBody 0 0 (presenceItem 0 (fieldAt r 56 4) 1 false (fun _ => 1))) := by
  obtain ⟨-, hrank, -⟩ := b.preparedCtx_of_die f r hD
  rw [Block.takePrepare, hD, hrank]

theorem Block.takePrepare_of_tray (hT : b.build = .T) (c : Nat) : b.takePrepare f r c =
    ((b.dropPrepDups f).takeCtx c { b.preparedCtx f r with bind := (b.dropPrepDups f).findBinding (b.preparedCtx f r) }).forwardPrepare c := by
  rw [Block.takePrepare, hT]

end

/-! ### What a node does with a PREPARE (R196, R197) -/

section
variable {b : Block} {f : Frame} {r : Bytes} {port link : Nat}

theorem Block.prepareRecord_of_bad (hbad : ¬ b.takesPrepare f r) : b.prepareRecord port link f r = b.recordBad :=
  if_pos (Bool.not_eq_false _ ▸ hbad)

variable (hgood : b.takesPrepare f r)
include hgood

theorem Block.prepareRecord_of_held (hheld : (b.fromParent f).any (fun c => (b.ctx c).epoch == f.epoch) = true) :
    b.prepareRecord port link f r = (b.count Reg.FRM_DUP 1).flag Reg.FRM_STS 2 :=
  (if_neg (Bool.not_eq_true _ ▸ hgood)).trans (if_pos hheld)

variable (hnew : (b.fromParent f).any (fun c => (b.ctx c).epoch == f.epoch) = false)
include hnew

theorem Block.prepareRecord_refused (hreasons : b.prepareReasons r (b.preparedCtx f r) ≠ 0) : b.prepareRecord port link f r =
    b.refusePrepare (b.backTo port link) (b.preparedCtx f r) (b.prepareReasons r (b.preparedCtx f r)) := by
  unfold Block.prepareRecord
  rw [if_neg (Bool.not_eq_true _ ▸ hgood), if_neg (Bool.not_eq_true _ ▸ hnew)]
  extract_lets x
  split
  next hzero _ => exact absurd hzero hreasons
  next => rfl

theorem Block.prepareRecord_taken {c : Nat} (hindex : b.prepareIndex r f.job = some c)
    (hnone : b.prepareReasons r (b.preparedCtx f r) = 0) : b.prepareRecord port link f r = b.takePrepare f r c := by
  unfold Block.prepareRecord
  rw [if_neg (Bool.not_eq_true _ ▸ hgood), if_neg (Bool.not_eq_true _ ▸ hnew)]
  extract_lets x
  rw [show b.prepareReasons r x = 0 from hnone, hindex]
  rfl

end

/-- A node that hears a control record stores what its act makes of the block (R158, R191). -/
theorem onBlock_receiveControl_eq_of {s : State} {b : Build} {link : Fin 64} {raw : Bytes} {ctype : Nat} {f : Frame} {r : Bytes}
    {b' y : Block} (act : Block → Frame → Bytes → Block) (h : s.hears b link raw ctype f r b') (hy : act b' f r = y) :
    onBlock b (fun x => x.receiveControl link raw ctype act) s = .next (s.setBlock b y) :=
  hy ▸ onBlock_receiveControl s b link raw ctype f r b' act h

/-- Settles O23: a PREPARE that is taken for one by whether its epoch is new and by its REASONS mask, in each build by the context it makes. -/
theorem prepareTaken : Obligations.PrepareTaken := by
  unfold Obligations.PrepareTaken
  intro s b port link raw f r b' c hhears good anew x b1 m
  have hexec {y : Block} (hy : b'.prepareRecord port link f r = y) : exec (.prepareReceive b port link raw) s = .next (s.setBlock b y) :=
    onBlock_receiveControl_eq_of (Block.prepareRecord port link) hhears hy
  have hgood : good → b'.takesPrepare f r := (b'.takesPrepare_iff f r).mpr
  obtain ⟨hphase, hjob, hepoch, hstart, hprepare⟩ := b'.preparedCtx_fields f r
  refine ⟨⟨hphase, hjob, hepoch, hstart, hprepare, b'.preparedCtx_of_die f r, b'.preparedCtx_of_tray f r⟩,
    fun h hnew hindex hnone hD => ?die, fun h hnew hindex hnone hT => ?tray, fun h hnew hreasons => ?refused, fun h hold => ?held,
    fun hbad => ?bad⟩
  case die => exact hexec ((Block.prepareRecord_taken (hgood h) hnew hindex hnone).trans (b'.takePrepare_of_die f r hD c))
  case tray => exact hexec ((Block.prepareRecord_taken (hgood h) hnew hindex hnone).trans (b'.takePrepare_of_tray f r hT c))
  case refused => exact hexec (Block.prepareRecord_refused (hgood h) hnew hreasons)
  case held => exact hexec (Block.prepareRecord_of_held (hgood h) (eq_true_of_ne_false hold))
  case bad => exact hexec (Block.prepareRecord_of_bad (fun h => hbad ((b'.takesPrepare_iff f r).mp h)))

end Sys2Proof.Machine

/-! The answers of a start (R196, R198 to R200, R202): ACK, COMMIT, ABORT and LATE_COMMIT records at a node. -/

namespace Sys2Proof.Machine

section
variable {b : Block} {f : Frame} {r : Bytes} {c : Nat}

/-! ### ACK (R198, R199) -/

/-- The children of a node once the one that a frame comes from has delivered its ACK (R198). -/
def Ctx.ackedChildren (x : Ctx) (f : Frame) (r : Bytes) : List Child :=
  x.children.map (fun k => if k.level = f.level ∧ f.rank ∈ k.ranks then
    { k with acked := true, present := (presenceCodes (r.drop 32)).filter (fun e => e.2 != 0 && e.1 ∈ k.ranks), refused := fieldAt r 8 4,
             reasons := fieldAt r 12 2 } else k)

theorem Ctx.isActive_of_prepared {x : Ctx} (h : x.phase = .prepared) : x.isActive = false := by
  simp only [Ctx.isActive, h]
  rfl

section
variable (hunder : b.fromChild f = some c) (hitem : presenceGood r = true) (hphase : (b.ctx c).phase = .prepared)
include hunder hitem hphase

theorem Block.ackRecord_in_time (hopen : (b.ctx c).ackSent = false)
    (htime : ftDiff b.ft ((b.ctx c).ackDeadlineAt (if (b.ctx c).isHearth then 0 else (b.ctx c).nodeDepth)) ≤ 0) : b.ackRecord f r =
    let kept := b.setCtx c { b.ctx c with children := (b.ctx c).ackedChildren f r }
    if ((b.ctx c).ackedChildren f r).all (·.acked) then (if (b.ctx c).isHearth then kept.hearthDecide c else kept.sendAck c) else kept := by
  have hlate : ¬ ((b.ctx c).phase ≠ .prepared ∨ (b.ctx c).ackSent = true ∨
      0 < ftDiff b.ft ((b.ctx c).ackDeadlineAt (if (b.ctx c).isHearth then 0 else (b.ctx c).nodeDepth))) := by
    rintro (h | h | h)
    · exact h hphase
    · exact Bool.false_ne_true (hopen.symm.trans h)
    · omega
  simp only [Block.ackRecord, hitem, hunder, Ctx.isActive_of_prepared hphase, if_neg hlate, Bool.not_true, Bool.false_eq_true, if_false]
  rfl

theorem Block.ackRecord_after_own (hsent : (b.ctx c).ackSent = true) : b.ackRecord f r = b.count Reg.MBR_LATE_ACK 1 := by
  simp only [Block.ackRecord, hitem, hunder, Ctx.isActive_of_prepared hphase, hsent, true_or, or_true, Bool.not_true, Bool.false_eq_true,
    if_false, if_true]

end

/-! ### COMMIT and ABORT (R196, R200) -/

/-- A decision is passed on by a Borlu-T; a die has no children (R200). -/
def Block.passDecision (b : Block) (c ctype : Nat) (body : Bytes) : Block :=
  match b.build with
  | .D => b
  | .T => b.sendDecision c ctype body

section
variable (habove : b.fromParent f = some c)
include habove

theorem Block.commitRecord_late (hwhole : r.length ≤ 16) (hlate : ftGe (b.ctx c).decisionDeadline b.ft = false) :
    b.commitRecord f r = b.count Reg.MBR_LATE_COMMIT 1 := by
  simp only [Block.commitRecord, Nat.not_lt.mpr hwhole, false_and, habove, hlate, Bool.not_false, if_false, if_true]

variable (htime : ftGe (b.ctx c).decisionDeadline b.ft = true) (hphase : (b.ctx c).phase = .prepared)
include htime hphase

theorem Block.commitRecord_arms (hwhole : r.length ≤ 16) : b.commitRecord f r =
    (b.passDecision c 0x0103 (r.drop 8)).modCtx c (fun y => { y with phase := .armed, decision := some true }) := by
  simp only [Block.commitRecord, Nat.not_lt.mpr hwhole, false_and, habove, htime, hphase, hwhole, Bool.not_true, Bool.false_eq_true, ne_eq,
    not_true_eq_false, if_false, if_true]
  rfl

theorem Block.abortRecord_frees (hreason : byteAt r 8 < 4) : b.abortRecord f r =
    ((b.passDecision c 0x0104 (r.drop 8)).flag Reg.MBR_STS 0).freeCtx c := by
  simp only [Block.abortRecord, Nat.not_le.mpr hreason, habove, htime, hphase, Bool.not_true, Bool.false_eq_true, ne_eq, not_true_eq_false,
    or_self, if_false]
  rfl

end

/-! ### LATE_COMMIT (R202) -/

theorem Block.lateCommitRecord_of_child (hunder : b.fromChild f = some c) : b.lateCommitRecord f r =
    if (b.ctx c).isHearth then b.pushNotice 0x0A01 f.job (slice r 16 8 ++ zeros 4 ++ slice r 8 8)
    else b.sendControl (some c) (.parent c) 0x0105 (r.drop 8) := by
  simp only [Block.lateCommitRecord, hunder]

end

/-- Settles O24: each record by what the node that hears it does. -/
theorem startDecided : Obligations.StartDecided := by
  unfold Obligations.StartDecided
  intro s b port link raw f r b' c x above under ks kept told
  have htold (ctype : Nat) : b'.passDecision c ctype (r.drop 8) = told ctype := by
    cases hb : b'.build <;> simp only [told, Block.passDecision, hb]
  refine ⟨fun hhears hunder hitem hphase hopen htime => ?ack, fun hhears hunder hitem hphase hsent => ?lateAck,
    fun hhears habove hphase htime hwhole => ?commit, fun hhears habove hwhole hlate => ?lateCommit,
    fun hhears habove hreason hphase htime => ?abort, fun hhears hunder => ?reported⟩
  case ack => exact onBlock_receiveControl_eq_of Block.ackRecord hhears (Block.ackRecord_in_time hunder hitem hphase hopen htime)
  case lateAck => exact onBlock_receiveControl_eq_of Block.ackRecord hhears (Block.ackRecord_after_own hunder hitem hphase hsent)
  case commit =>
    rw [← htold]
    exact onBlock_receiveControl_eq_of Block.commitRecord hhears (Block.commitRecord_arms habove htime hphase hwhole)
  case lateCommit => exact onBlock_receiveControl_eq_of Block.commitRecord hhears (Block.commitRecord_late habove hwhole hlate)
  case abort =>
    rw [← htold]
    exact onBlock_receiveControl_eq_of Block.abortRecord hhears (Block.abortRecord_frees habove htime hphase hreason)
  case reported => exact onBlock_receiveControl_eq_of Block.lateCommitRecord hhears (Block.lateCommitRecord_of_child hunder)

end Sys2Proof.Machine

/-! The deadlines of a start and the start itself (R37, R44, R85, R163, R198 to R201, R437). -/

namespace Sys2Proof.Machine

section
variable {b : Block} {c : Nat}

/-! ### The decision of a job hearth (R37, R199) -/

theorem Block.hearthDecide_of_invalid (hvalid : b.time.valid = false) : b.hearthDecide c = b.abortStart c 1 := by
  simp only [Block.hearthDecide, hvalid, Bool.not_false, if_true]

section
variable {codes : Sparse Nat} {refused reasons : Nat} (hvalid : b.time.valid = true)
variable (hmerged : mergedAck (b.ctx c).children = (codes, refused, reasons))
include hvalid hmerged

/-- Every rank is prepared: COMMIT (R199). -/
theorem Block.hearthDecide_of_all (hall : (codes.filter (fun e => e.2 == 1)).length = (b.ctx c).ranks) : b.hearthDecide c =
    ((b.sendDecision c 0x0103 (leBytes 8 (b.ctx c).start.toNat)).modCtx c (fun x =>
      { x with phase := .armed, ackSent := true, decision := some true })).completeStart c 0 (codes.filter (fun e => e.2 == 1)).length
      refused reasons (presenceOf (b.ctx c).map codes) := by
  simp only [Block.hearthDecide, hmerged, hvalid, List.length_map, hall, Bool.not_true, Bool.false_eq_true, if_false, if_true]

/-- Some rank is not prepared, and the policy asks for all: ABORT (R199). -/
theorem Block.hearthDecide_of_some (hsome : (codes.filter (fun e => e.2 == 1)).length ≠ (b.ctx c).ranks)
    (hpolicy : bitOf (b.ctx c).policy 0 = false) : b.hearthDecide c = b.abortStart c (if reasons ≠ 0 then 1 else 0) := by
  simp only [Block.hearthDecide, hmerged, hvalid, List.length_map, hsome, hpolicy, Bool.not_true, Bool.false_and, Bool.false_eq_true, if_false]

end

/-! ### A node without a decision (R200) -/

theorem Block.lateCommit_ctx : (b.lateCommit c).ctx c = {} := Block.setCtx_ctx _ c {}

theorem Block.freeCtx_isSet (off i : Nat) : (b.freeCtx c).isSet off i = b.isSet off i := rfl

theorem Block.lateCommit_isSet : (b.lateCommit c).isSet Reg.MBR_STS 2 = true := by
  unfold Block.lateCommit
  rw [Block.freeCtx_isSet]
  exact Block.flag_isSet _ Reg.MBR_STS 2 (by decide)

/-! ### The start (R44, R58, R62, R85, R163, R201) -/

/-- The context of a start: its first window, or the first after those that the step over S passed (R44), a sequence counter of 0 and no
duplicate state (R163, R201). -/
def Ctx.started (x : Ctx) : Ctx :=
  { x with phase := if x.lastWin.isSome then .draining else .active,
           openWin := x.windowAfter ((windowOf x.k x.start + 2 ^ 40 - 1) % 2 ^ 40), seq := 0, dups := [],
           members := if x.level = 5 then ((x.map.map Prod.fst).mergeSort (· ≤ ·)).map (fun r => (r, ({} : Member))) else [] }

theorem Ctx.started_openWin (x : Ctx) (h : x.skipped = []) : x.started.openWin = windowOf x.k x.start := by
  have hlt : windowOf x.k x.start < 2 ^ 40 := Nat.mod_lt _ (by decide)
  rw [show x.started.openWin = x.windowAfter _ from rfl, x.windowAfter_of_no_skip _ h]
  omega

/-- The next event word of each region of a die sets its anchor (R58). -/
def Block.startAnchors (b : Block) (c : Nat) : Block :=
  { b with die := { b.die with regions := b.die.regions.map (fun e => (e.1, { e.2 with anchored := false })),
                               taps := { b.die.taps with lossy := clearB b.die.taps.lossy c } } }

/-- The sieves and queue marks of a die start empty (R62, R85). -/
def Block.startMarks (b : Block) : Block :=
  ({ b with die := { b.die with pairLate := [], pairLead := [] } } : Block).forEach (List.range 64)
    (fun b n => b.setReg (Reg.TAP_XQ + 4 * n) 0x0000FFFF)

theorem Block.startMarks_ctxs : b.startMarks.ctxs = b.ctxs :=
  Block.forEach_keeps (fun x => x.ctxs = b.ctxs) _ _ _ rfl (fun _ _ h => h)

/-- A fold over entries keeps what each of them keeps. -/
theorem Block.forEach_keeps_of_mem {α : Type} (P : Block → Prop) (f : Block → α → Block) (xs : List α) (b : Block) (h : P b)
    (hf : ∀ b, ∀ x ∈ xs, P b → P (f b x)) : P (b.forEach xs f) := by
  induction xs generalizing b with
  | nil => exact h
  | cons x xs ih => exact ih _ (hf b x List.mem_cons_self h) (fun b y hy => hf b y (List.mem_cons_of_mem x hy))

/-- No register changes but the queue marks (R85). -/
theorem Block.startMarks_reg {off : Nat} (hoff : ∀ n, n < 64 → off ≠ Reg.TAP_XQ + 4 * n) : b.startMarks.reg off = b.reg off :=
  Block.forEach_keeps_of_mem (fun x => x.reg off = b.reg off) _ _ _ rfl
    (fun x n hn h => (x.setReg_reg_other _ off _ (hoff n (List.mem_range.mp hn))).trans h)

/-- A start makes its context ACTIVE, or DRAINING, and beside that changes a die's taps and queue marks alone. -/
theorem Block.activate_cases (b : Block) (c : Nat) : b.activate c = b.modCtx c Ctx.started ∨
    b.activate c = (b.modCtx c Ctx.started).startAnchors c ∨ b.activate c = ((b.modCtx c Ctx.started).startAnchors c).startMarks := by
  unfold Block.activate
  extract_lets x
  split
  next => exact .inl rfl
  next =>
    by_cases hmarked : c = ((b.modCtx c Ctx.started).startAnchors c).fld Reg.TAP_CTL 2 0
    · exact .inr (.inr (if_pos hmarked))
    · exact .inr (.inl (if_neg hmarked))

theorem Block.activate_ctx (b : Block) (c e : Nat) : (b.activate c).ctx e = (b.modCtx c Ctx.started).ctx e := by
  obtain h | h | h := b.activate_cases c
  · rw [h]
  · rw [h]; rfl
  · rw [h, Block.ctx, Block.startMarks_ctxs]; rfl

theorem Block.activate_reg (b : Block) (c : Nat) {off : Nat} (hoff : ∀ n, n < 64 → off ≠ Reg.TAP_XQ + 4 * n) :
    (b.activate c).reg off = b.reg off := by
  obtain h | h | h := b.activate_cases c
  · rw [h]; rfl
  · rw [h]; rfl
  · rw [h, Block.startMarks_reg hoff]; rfl

end

/-! ### The commands -/

section
variable {s : State} {c : Fin 64}

section
variable (hrun : s.running .T = true)
include hrun

/-- Neither deadline of a start acts while the plan steward does not run (R437). -/
theorem exec_ackDeadline_stopped (hstopped : s.t.stewardRuns 1 = false) : exec (.ackDeadline c) s = .next s := by
  change execAckDeadline c s = _
  simp only [execAckDeadline, onTray_running _ s hrun, hstopped, Bool.and_false, Bool.false_and, Block.when_false]
  rw [show s.t = s.block .T from rfl, State.setBlock_same]

theorem exec_hearthDecisionDeadline_stopped (hstopped : s.t.stewardRuns 1 = false) : exec (.hearthDecisionDeadline c) s = .next s := by
  change execHearthDecisionDeadline c s = _
  simp only [execHearthDecisionDeadline, onTray_running _ s hrun, hstopped, Bool.and_false, Bool.false_and, Block.when_false]
  rw [show s.t = s.block .T from rfl, State.setBlock_same]

variable (hsteward : s.t.stewardRuns 1 = true) (hphase : (s.t.ctx c).phase = .prepared)
include hsteward hphase

theorem exec_ackDeadline (hopen : (s.t.ctx c).ackSent = false) (hnode : (s.t.ctx c).isHearth = false)
    (hdue : ftGe s.t.ft ((s.t.ctx c).ackDeadlineAt (s.t.ctx c).nodeDepth) = true) :
    exec (.ackDeadline c) s = .next (s.setBlock .T (s.t.sendAck c)) := by
  change execAckDeadline c s = _
  simp only [execAckDeadline, onTray_running _ s hrun, hsteward, hphase, hopen, hnode, hdue, beq_self_eq_true, Bool.not_false, Bool.and_self,
    Block.when_true]

theorem exec_hearthDecisionDeadline (hhearth : (s.t.ctx c).isHearth = true) (hdue : ftGe s.t.ft ((s.t.ctx c).ackDeadlineAt 0) = true) :
    exec (.hearthDecisionDeadline c) s = .next (s.setBlock .T (s.t.hearthDecide c)) := by
  change execHearthDecisionDeadline c s = _
  simp only [execHearthDecisionDeadline, onTray_running _ s hrun, hsteward, hphase, hhearth, hdue, beq_self_eq_true, Bool.and_self,
    Block.when_true]

end

section
variable {b : Build} (hrun : s.running b = true)
include hrun

theorem exec_lateCommitDeadline (hphase : ((s.block b).ctx c).phase = .prepared)
    (hdue : ftGe (s.block b).ft ((s.block b).ctx c).decisionDeadline = true) :
    exec (.lateCommitDeadline b c) s = .next (s.setBlock b ((s.block b).lateCommit c)) := by
  change execLateCommitDeadline b c s = _
  simp only [execLateCommitDeadline, onBlock_running _ _ s hrun, hphase, hdue, beq_self_eq_true, Bool.and_self, Block.when_true]

theorem exec_contextStart (hphase : ((s.block b).ctx c).phase = .armed) (hvalid : (s.block b).time.valid = true)
    (hdue : ftGe (s.block b).ft ((s.block b).ctx c).start = true) :
    exec (.contextStart b c) s = .next (s.setBlock b ((s.block b).activate c)) := by
  change execContextStart b c s = _
  simp only [execContextStart, onBlock_running _ _ s hrun, hphase, hvalid, hdue, beq_self_eq_true, Bool.and_self, Block.when_true]

end

end

/-- Settles O33: each deadline by the node that it finds, the start by the context that it opens and by what it leaves. -/
theorem startEvents : Obligations.StartEvents := by
  unfold Obligations.StartEvents
  intro s b c codes refused reasons y x z n
  refine ⟨fun hrun hstopped => ⟨exec_ackDeadline_stopped hrun hstopped, exec_hearthDecisionDeadline_stopped hrun hstopped⟩,
    fun hrun => exec_ackDeadline hrun, fun hrun hsteward hphase hhearth hdue hvalid => ?invalid,
    fun hrun hsteward hphase hhearth hdue hvalid hmerged hall => ?commit,
    fun hrun hsteward hphase hhearth hdue hvalid hmerged hsome hpolicy => ?abort, fun hrun hphase hdue => ?undecided,
    fun hrun hphase hvalid hdue => ?start⟩
  case invalid => rw [exec_hearthDecisionDeadline hrun hsteward hphase hhearth hdue, Block.hearthDecide_of_invalid hvalid]
  case commit => rw [exec_hearthDecisionDeadline hrun hsteward hphase hhearth hdue, Block.hearthDecide_of_all hvalid hmerged hall]
  case abort => rw [exec_hearthDecisionDeadline hrun hsteward hphase hhearth hdue, Block.hearthDecide_of_some hvalid hmerged hsome hpolicy]
  case undecided =>
    refine ⟨_, exec_lateCommitDeadline hrun hphase hdue, ?_, ?_, s.setBlock_sameBlock_other b _⟩
    · rw [State.setBlock_block, Block.lateCommit_ctx]
    · rw [State.setBlock_block, Block.lateCommit_isSet]
  case start =>
    refine ⟨_, exec_contextStart hrun hphase hvalid hdue, ?_⟩
    rw [State.setBlock_block, Block.activate_ctx, Block.modCtx_ctx]
    refine ⟨rfl, rfl, Ctx.started_openWin _, rfl, rfl, fun e he => ?_, fun off => Block.activate_reg _ c, s.setBlock_sameBlock_other b _⟩
    rw [Block.activate_ctx, Block.modCtx_ctx_other _ _ _ _ he]

end Sys2Proof.Machine

/-! Embers, check points, remaps and takeovers (R208, R210, R212 to R214, R216, R414, R437). -/

namespace Sys2Proof.Machine

/-! ### Ascending rank (R414) -/

section
variable {α : Type}

theorem mem_sinsert {k : Nat} {v : α} {m : Sparse α} {e : Nat × α} : e ∈ sinsert k v m ↔ e = (k, v) ∨ e ∈ m := by
  induction m with
  | nil => simp only [sinsert, List.mem_cons]
  | cons a m ih =>
    by_cases hlt : k < a.1
    · simp only [sinsert, if_pos hlt, List.mem_cons]
    · simp only [sinsert, if_neg hlt, List.mem_cons, ih]
      exact or_left_comm

/-- The entries of a fold of `sinsert` are those of the table that it starts from and those of the list. -/
theorem mem_foldl_sinsert (rank : α → Nat) (xs : List α) (m : Sparse α) (v : α) :
    v ∈ (xs.foldl (fun a x => sinsert (rank x) x a) m).map Prod.snd ↔ v ∈ m.map Prod.snd ∨ v ∈ xs := by
  induction xs generalizing m with
  | nil => simp
  | cons x xs ih =>
    have hins : v ∈ (sinsert (rank x) x m).map Prod.snd ↔ v = x ∨ v ∈ m.map Prod.snd := by
      simp only [List.mem_map, mem_sinsert, or_and_right, exists_or, exists_eq_left, eq_comm]
    rw [List.foldl_cons, ih, hins, List.mem_cons, or_assoc, or_left_comm]

/-- An order by rank holds the entries that it is given, and no other. -/
theorem mem_rankOrder {rank : α → Nat} {xs : List α} {v : α} : v ∈ rankOrder rank xs ↔ v ∈ xs := by
  simp only [rankOrder, mem_foldl_sinsert, List.map_nil, List.not_mem_nil, false_or]

end

/-- The members of every ACTIVE context are moved (R210, R414). -/
theorem Block.mem_checkedMembers {b : Block} {n rank : Nat} {m : Member} : (n, rank, m) ∈ b.checkedMembers ↔
    n < b.ctxCount ∧ (b.ctx n).phase = .active ∧ (rank, m) ∈ (b.ctx n).members := by
  simp only [Block.checkedMembers, mem_rankOrder, List.mem_flatten, List.mem_map, List.mem_filter, Block.ctxIds, List.mem_range, beq_iff_eq]
  constructor
  · rintro ⟨_, ⟨c, ⟨hc, hactive⟩, rfl⟩, hmem⟩
    obtain ⟨e, he, heq⟩ := List.mem_map.mp hmem
    cases heq
    exact ⟨hc, hactive, he⟩
  · rintro ⟨hc, hactive, hm⟩
    exact ⟨_, ⟨n, ⟨hc, hactive⟩, rfl⟩, List.mem_map_of_mem hm⟩

/-! ### Embers (R208, R216) -/

/-- The settings that act at a period multiple (R208, R216). -/
theorem Block.newPeriod_periods (b : Block) : b.newPeriod.periods.per = b.fld Reg.MBR_EMBER 7 0 ∧
    b.newPeriod.periods.emberNext = nextMultiple (b.fld Reg.MBR_EMBER 7 0 * 128000) b.ft ∧
    b.newPeriod.periods.loss = b.fld Reg.MBR_HEARTH 7 0 ∧ b.newPeriod.periods.auto = b.isSet Reg.MBR_CTL 1 := by
  refine ⟨rfl, ?_, rfl, rfl⟩
  change nextMultiple (b.fld Reg.MBR_EMBER 7 0 * 8 * ticksPerUs) b.ft = _
  rw [Nat.mul_assoc, ticksPerUs]

theorem Block.sendEmbers_of_die {b : Block} (hD : b.build = .D) :
    b.sendEmbers = b.sendControl none .tray 0x0108 (emberBody b.time.valid false b.ctxMask 0) := by
  simp only [Block.sendEmbers, hD]

section
variable {s : State} {b : Build} (hrun : s.running b = true) (hdue : ftGe (s.block b).ft (s.block b).periods.emberNext = true)
include hrun hdue

/-- A die at a multiple of the ember period that FT crosses (R208). -/
theorem exec_emberDue_of_die (hD : (s.block b).build = .D) : exec (.emberDue b) s = .next (s.setBlock b
    (if (s.block b).isSet Reg.MBR_CTL 0 then (s.block b).newPeriod.sendEmbers else (s.block b).newPeriod)) := by
  change execEmberDue b s = _
  simp only [execEmberDue, onBlock_running _ _ s hrun, hdue, hD, Block.when_true]
  rfl

/-- A Borlu-T at a multiple of the ember period that FT crosses counts the periods without an ember as well (R208, R213, R356). -/
theorem exec_emberDue_of_tray (hT : (s.block b).build = .T) : exec (.emberDue b) s = .next (s.setBlock b
    (if (s.block b).isSet Reg.MBR_CTL 0 then (s.block b).newPeriod.sendEmbers else (s.block b).newPeriod).countSilence) := by
  change execEmberDue b s = _
  simp only [execEmberDue, onBlock_running _ _ s hrun, hdue, hT, Block.when_true]
  rfl

end

/-! ### Check points (R210, R414) -/

/-- A check point stores what each member that it moves becomes (R210). -/
theorem exec_checkPoint {s : State} (hrun : s.running .T = true) (hdue : ftGe s.t.ft s.t.periods.checkNext = true) :
    exec .checkPoint s = .next (s.setBlock .T (s.t.newCheckPoint.forEach s.t.newCheckPoint.checkedMembers (fun b e =>
      b.setMember e.1 e.2.1 (memberCheck b.suspectAt b.silentAt e.2.2)))) := by
  change execCheckPoint s = _
  simp only [execCheckPoint, onTray_running _ s hrun, hdue, Block.when_true]

/-! ### Rewritten map entries (R212) -/

/-- The old die of an entry that FT has reached waits for its release (R212). -/
theorem Block.remapApply_of_old_die {b : Block} {c : Nat} (hD : b.build = .D) (hactive : (b.ctx c).isActive = true)
    (hdue : (b.ctx c).remaps.any (fun m => !m.done && ftGe b.ft (windowStart (b.ctx c).k b.ft m.window) && m.rank == (b.ctx c).rank &&
      m.addr != b.da) = true) : b.remapApply c = b.queueRelease c := by
  have hold : ((b.ctx c).remaps.filter (fun m => !m.done && ftGe b.ft (windowStart (b.ctx c).k b.ft m.window))).any
      (fun m => m.rank == (b.ctx c).rank && m.addr != b.da) = true := by
    simpa only [List.any_filter, Bool.and_assoc] using hdue
  simp only [Block.remapApply, hD, hactive, hold, and_self, if_true]

/-! ### A new hearth (R213, R214, R437) -/

section
variable {s : State} {l : Fin 4} (hrun : s.running .T = true)
include hrun

/-- A standby whose active hearth has been silent long enough takes over (R213). -/
theorem exec_hearthLossTimeout (hauto : s.t.periods.auto = true) (hsteward : s.t.stewardRuns 1 = true) (hrole : (s.t.roleAt (l.val + 6)).role = 2)
    (hfree : (s.t.roleAt (l.val + 6)).pending = false)
    (hmissed : s.t.periods.loss + 2 * (s.t.roleAt (l.val + 6)).index ≤ (s.t.roleAt (l.val + 6)).missed) :
    exec (.hearthLossTimeout l) s = .next (s.setBlock .T (s.t.takeOver (l.val + 6) none)) := by
  change execHearthLossTimeout l s = _
  simp only [execHearthLossTimeout, onTray_running _ s hrun, hauto, hsteward, hrole, hfree, decide_eq_true hmissed, beq_self_eq_true,
    Bool.not_false, Bool.and_self, Block.when_true]

variable (hpending : (s.t.roleAt (l.val + 6)).pending = true)
include hpending

/-- Some context has still to be taken up: the role waits (R213). -/
theorem exec_hearthActivation_waits (hleft : (s.t.takeUpDue (l.val + 6)).toTakeUp (l.val + 6) ≠ []) :
    exec (.hearthActivation l) s = .next (s.setBlock .T (s.t.takeUpDue (l.val + 6))) := by
  change execHearthActivation l s = _
  simp only [execHearthActivation, onTray_running _ s hrun, hpending, List.isEmpty_eq_false_iff.mpr hleft, Block.when_true, Bool.false_eq_true,
    if_false]

/-- Every context is taken up: the role is active (R213). -/
theorem exec_hearthActivation_ends (hnone : (s.t.takeUpDue (l.val + 6)).toTakeUp (l.val + 6) = []) :
    exec (.hearthActivation l) s = .next (s.setBlock .T ((s.t.takeUpDue (l.val + 6)).endTakeover (l.val + 6))) := by
  change execHearthActivation l s = _
  simp only [execHearthActivation, onTray_running _ s hrun, hpending, List.isEmpty_iff.mpr hnone, Block.when_true, if_true]

end

/-- A hearth with no context to take up leaves its block as it is. -/
theorem Block.takeUpDue_of_none {b : Block} {level : Nat} (h : b.toTakeUp level = []) : b.takeUpDue level = b := by
  simp only [Block.takeUpDue, h, List.filter_nil, Block.forEach_nil]

/-- The end of a takeover that no descriptor asked for (R213). -/
theorem Block.endTakeover_of_no_desc {b : Block} {level : Nat} (h : (b.roleAt level).desc = none) : b.endTakeover level =
    (b.setRole level { b.roleAt level with role := 1, pending := false, missed := 0, desc := none, past := [] }).flag Reg.MBR_STS 4 := by
  simp only [Block.endTakeover, h]

/-- Settles O34: each event by what it does to its running block where its trigger holds. -/
theorem memberEvents : Obligations.MemberEvents := by
  unfold Obligations.MemberEvents
  intro s b c l x y e lv r
  refine ⟨x.newPeriod_periods, fun hrun hdue hon hD => ?dieEmber, fun hrun hdue hon hT => ?trayEmber, fun hrun hdue hoff hD => ?silentDie,
    fun hrun => exec_checkPoint hrun, fun n rank m => ?checked, fun hrun => exec_hearthLossTimeout hrun,
    fun hrun hD hactive hdue => ?remap, fun hrun => exec_hearthActivation_waits hrun, fun hrun => exec_hearthActivation_ends hrun,
    fun hrun hpending hdesc hnone => ?noContext⟩
  case dieEmber => rw [exec_emberDue_of_die hrun hdue hD, if_pos hon, Block.sendEmbers_of_die (b := e) hD]; rfl
  case trayEmber => rw [exec_emberDue_of_tray hrun hdue hT, if_pos hon]
  case silentDie => rw [exec_emberDue_of_die hrun hdue hD, if_neg (Bool.not_eq_true _ ▸ hoff)]
  case checked =>
    rw [Block.mem_checkedMembers, Block.ctxCount]
    cases y.build <;> simp
  case remap => exact onBlock_eq_of s b (fun x => x.remapApply c) _ hrun (Block.remapApply_of_old_die hD hactive hdue)
  case noContext =>
    have hsame : y.takeUpDue lv = y := Block.takeUpDue_of_none hnone
    rw [exec_hearthActivation_ends hrun hpending (hsame.symm ▸ hnone), hsame, Block.endTakeover_of_no_desc hdesc]

end Sys2Proof.Machine

/-! Loads and frees of the model stores (R259, R274, R281, R317, R320, R381): every descriptor by the phase of its slot, a load then by the checks
that its image keeps. -/

namespace Sys2Proof.Machine

/-- A model descriptor next in turn is carried out once stacked memory is ready (R485). -/
theorem onTray_onModel_eq_of {s : State} {op id : Nat} {t : Taken} (f : Block → Taken → Block) {y : Block} (hready : s.t.memoryReady = true)
    (h : s.descNext op 1 id t) (hf : f (s.begin t) t.start = y) : onTray (fun b => b.onModel op id f) s = .next (s.setBlock .T y) := by
  obtain ⟨hrun, hnext, hmine⟩ := h
  refine onBlock_eq_of s .T _ _ hrun ?_
  calc s.t.onModel op id f = s.t.onDesc op 1 id f := by rw [Block.onModel, Block.onMemory, hready, Block.when_true]
    _ = y := (s.t.onDesc_eq op 1 id f t hnext hmine).trans hf

/-! ### The guards that the stores share (R259, R274, R281, R317) -/

section
variable {α : Type} {outside : Prop} [Decidable outside] {phase : Nat} {bad refused done : α}

/-- A load of a slot in range that is BOUND is refused. -/
theorem loadGuard_of_bound (hin : ¬ outside) (hphase : phase = 2) : (if outside then bad else if phase = 2 then refused else done) = refused := by
  rw [if_neg hin, if_pos hphase]

/-- A load of a slot in range that nothing binds goes on to its image. -/
theorem loadGuard_of_unbound (hin : ¬ outside) (hphase : phase < 2) : (if outside then bad else if phase = 2 then refused else done) = done := by
  rw [if_neg hin, if_neg (Nat.ne_of_lt hphase)]

/-- A slot that nothing binds is not a BAD slot that something still names. -/
theorem not_bad_of_unbound {named : Prop} (hphase : phase < 2) : ¬ (phase = 3 ∧ named) := by omega

variable {named : Prop} [Decidable named]

/-- A free of a slot in range that is BOUND is refused. -/
theorem freeGuard_of_bound (hin : ¬ outside) (hphase : phase = 2) :
    (if outside then bad else if phase = 2 ∨ (phase = 3 ∧ named) then refused else done) = refused := by
  rw [if_neg hin, if_pos (.inl hphase)]

/-- A free of a slot in range that nothing binds is carried out. -/
theorem freeGuard_of_unbound (hin : ¬ outside) (hphase : phase < 2) :
    (if outside then bad else if phase = 2 ∨ (phase = 3 ∧ named) then refused else done) = done := by
  rw [if_neg hin, if_neg (by omega)]

end

/-! ### Loads whose images keep their checks -/

section
variable {b : Block} {t : Taken} {img : Bytes} (himg : b.descInput t = img)
include himg

theorem Block.treeLoad_of_good (hin : fieldAt t.bytes 32 2 < 16384) (hphase : (slotIn b.tray.plane.trees (fieldAt t.bytes 32 2)).phase < 2)
    (htree : treeGood true (img.take 2048) = true) (href : refGood (img.take 2048) (img.drop 2048) = true) :
    b.treeLoad t = (b.modPlane (fun _ => { b.tray.plane with
      trees := putSlot b.tray.plane.trees (fieldAt t.bytes 32 2) { phase := 1, bytes := img.take 2048, refs := img.drop 2048 } })).complete t 0 := by
  rw [Block.treeLoad, loadGuard_of_unbound (Nat.not_le.mpr hin) hphase, himg]
  simp only [htree, href, Bool.and_self, Bool.not_true, Bool.false_eq_true, if_false, if_neg (not_bad_of_unbound hphase)]

theorem Block.groupLoad_of_good (hin : fieldAt t.bytes 32 2 < 4096) (hbank : byteAt t.bytes 34 < 4)
    (hphase : (slotIn b.tray.plane.groups (fieldAt t.bytes 32 2)).phase < 2) (hgood : groupGood img = true)
    (hfits : fieldAt t.bytes 36 2 + groupCount img ≤ 16384) (hbankOk : b.isSet Reg.RUL_STS (4 + byteAt t.bytes 34) = false)
    (halone : b.tray.plane.groupOverlap (fieldAt t.bytes 32 2) (byteAt t.bytes 34) (fieldAt t.bytes 36 2) (groupCount img) = false)
    (hroom : b.tray.plane.hasRoom (slotIn b.tray.plane.groups (fieldAt t.bytes 32 2)).bytes.length img.length = true) :
    b.groupLoad t = (b.modPlane (fun _ => { b.tray.plane with
      groups := putSlot b.tray.plane.groups (fieldAt t.bytes 32 2)
        { phase := 1, bytes := img, bank := byteAt t.bytes 34, base := fieldAt t.bytes 36 2 } })).complete t 0 := by
  rw [Block.groupLoad, loadGuard_of_unbound (by omega) hphase, himg]
  simp only [hgood, if_neg (Nat.not_lt.mpr hfits), hbankOk, halone, hroom, Bool.not_true, Bool.false_eq_true, if_false,
    if_neg (not_bad_of_unbound hphase)]

theorem Block.imageLoad_of_good (hin : fieldAt t.bytes 32 2 < 1024) (hphase : (slotIn b.tray.plane.images (fieldAt t.bytes 32 2)).phase < 2)
    (hgood : planImageGood img = true)
    (hroom : b.tray.plane.hasRoom (slotIn b.tray.plane.images (fieldAt t.bytes 32 2)).bytes.length img.length = true) :
    b.imageLoad t = (b.modPlane (fun _ => { b.tray.plane with
      images := putSlot b.tray.plane.images (fieldAt t.bytes 32 2) { phase := 1, bytes := img } })).complete t 0 := by
  rw [Block.imageLoad, loadGuard_of_unbound (Nat.not_le.mpr hin) hphase, himg]
  simp only [hgood, hroom, Bool.not_true, Bool.false_eq_true, if_false, if_neg (not_bad_of_unbound hphase)]

theorem Block.planLoad_of_good (hin : byteAt t.bytes 32 < 64) (hphase : (slotIn b.tray.plane.plans (byteAt t.bytes 32)).phase < 2)
    (hgood : b.tray.plane.planGood img = true)
    (hroom : b.tray.plane.hasRoom (slotIn b.tray.plane.plans (byteAt t.bytes 32)).bytes.length img.length = true) :
    b.planLoad t = (b.modPlane (fun u => (u.setPlan (byteAt t.bytes 32) { phase := 1, bytes := img }).rebindSched)).complete t 0 := by
  have hnotBad : ((slotIn b.tray.plane.plans (byteAt t.bytes 32)).phase == 3) = false := beq_eq_false_iff_ne.mpr (by omega)
  rw [Block.planLoad, loadGuard_of_unbound (Nat.not_le.mpr hin) hphase, himg]
  simp only [hgood, hroom, hnotBad, Bool.false_and, Bool.not_true, Bool.false_eq_true, if_false]

end

/-! ### SCHED_LOAD by the lease and the use of its slot (R320, R381, R433) -/

section
variable {b : Block} {t : Taken} (hin : byteAt t.bytes 32 < 2)
include hin

theorem Block.schedLoad_of_leased (hlease : b.leaseBlocks t (0x03000000 + byteAt t.bytes 32) = true) : b.schedLoad t = b.complete t 0x0B := by
  simp only [Block.schedLoad, if_neg (Nat.not_le.mpr hin), hlease, if_true]

variable (hlease : b.leaseBlocks t (0x03000000 + byteAt t.bytes 32) = false)
include hlease

theorem Block.schedLoad_of_busy (hbusy : b.schedBusy (byteAt t.bytes 32) = true) : b.schedLoad t = b.complete t 0x09 := by
  simp only [Block.schedLoad, if_neg (Nat.not_le.mpr hin), hlease, hbusy, Bool.false_eq_true, if_false, if_true]

theorem Block.schedLoad_of_good (hidle : b.schedBusy (byteAt t.bytes 32) = false)
    (hgood : b.tray.plane.schedGood (b.descInput t) (b.isSet Reg.HIS_CTL 0) (b.fld Reg.HIS_REF 15 0) = true)
    (hroom : b.tray.plane.hasRoom (sget (fun _ => ([] : Bytes)) b.tray.plane.scheds (byteAt t.bytes 32)).length (b.descInput t).length = true) :
    b.schedLoad t = ((b.modPlane (fun u => u.setSched (byteAt t.bytes 32) (b.descInput t))).modPlane (fun u =>
      { u with since := if byteAt t.bytes 32 = b.fld Reg.PLN_SCHED 0 0 then b.ft.toNat / switchTicks + 1 else u.since })).complete t 0 := by
  simp only [Block.schedLoad, if_neg (Nat.not_le.mpr hin), hlease, hidle, hgood, hroom, Bool.not_true, Bool.false_eq_true, if_false]

end

/-- Settles O16: each descriptor is next in turn; a free and a refused load by the guard on the slot, a load that is taken by the checks that its
image keeps. -/
theorem storeSlots : Obligations.StoreSlots := by
  unfold Obligations.StoreSlots
  constructor
  case left =>
    intro s id t hready b d u img i
    refine ⟨?tree, ?treeBound, ?group, ?groupBound, ?image, ?imageBound, ?plan, ?planBound, ?sched, ?schedBusy, ?schedLeased⟩
    case tree =>
      intro hnext hin hphase htree href
      exact onTray_onModel_eq_of Block.treeLoad hready hnext (Block.treeLoad_of_good rfl hin hphase htree href)
    case group =>
      intro hnext hin hbank hphase hgood hfits hbankOk halone hroom
      exact onTray_onModel_eq_of Block.groupLoad hready hnext (Block.groupLoad_of_good rfl hin hbank hphase hgood hfits hbankOk halone hroom)
    case image =>
      intro hnext hin hphase hgood hroom
      exact onTray_onModel_eq_of Block.imageLoad hready hnext (Block.imageLoad_of_good rfl hin hphase hgood hroom)
    case plan =>
      intro hnext hin hphase hgood hroom
      exact onTray_onModel_eq_of Block.planLoad hready hnext (Block.planLoad_of_good rfl hin hphase hgood hroom)
    case sched =>
      intro hnext hin hlease hidle hgood hroom
      exact onTray_onModel_eq_of Block.schedLoad hready hnext (Block.schedLoad_of_good hin hlease hidle hgood hroom)
    case schedBusy =>
      intro hnext hin hlease hbusy
      exact onTray_onModel_eq_of Block.schedLoad hready hnext (Block.schedLoad_of_busy hin hlease hbusy)
    case schedLeased =>
      intro hnext hin hlease
      exact onTray_onModel_eq_of Block.schedLoad hready hnext (Block.schedLoad_of_leased hin hlease)
    case groupBound =>
      intro hnext hin hbank hphase
      have hinside : ¬ (4096 ≤ i ∨ 4 ≤ byteAt t.bytes 34) := by omega
      exact onTray_onModel_eq_of Block.groupLoad hready hnext (loadGuard_of_bound hinside hphase)
    all_goals
      intro hnext hin hphase
      have hinside := Nat.not_le.mpr hin
    case treeBound => exact onTray_onModel_eq_of Block.treeLoad hready hnext (loadGuard_of_bound hinside hphase)
    case imageBound => exact onTray_onModel_eq_of Block.imageLoad hready hnext (loadGuard_of_bound hinside hphase)
    case planBound => exact onTray_onModel_eq_of Block.planLoad hready hnext (loadGuard_of_bound hinside hphase)
  case right =>
    intro s id t hready b d u i
    refine ⟨?treeFree, ?treeKept, ?groupFree, ?groupKept, ?imageFree, ?imageKept, ?planFree, ?planKept⟩
    all_goals
      intro hnext hin hphase
      have hinside := Nat.not_le.mpr hin
    case treeFree => exact onTray_onModel_eq_of Block.treeFree hready hnext (freeGuard_of_unbound hinside hphase)
    case treeKept => exact onTray_onModel_eq_of Block.treeFree hready hnext (freeGuard_of_bound hinside hphase)
    case groupFree => exact onTray_onModel_eq_of Block.groupFree hready hnext (freeGuard_of_unbound hinside hphase)
    case groupKept => exact onTray_onModel_eq_of Block.groupFree hready hnext (freeGuard_of_bound hinside hphase)
    case imageFree => exact onTray_onModel_eq_of Block.imageFree hready hnext (freeGuard_of_unbound hinside hphase)
    case imageKept => exact onTray_onModel_eq_of Block.imageFree hready hnext (freeGuard_of_bound hinside hphase)
    case planFree => exact onTray_onModel_eq_of Block.planFree hready hnext (freeGuard_of_unbound hinside hphase)
    case planKept => exact onTray_onModel_eq_of Block.planFree hready hnext (freeGuard_of_bound hinside hphase)

end Sys2Proof.Machine

/-! The majority of a vote (R303). -/

namespace Sys2Proof.Machine

/-- The digest records that hold a value, as many as a majority counts (R303). -/
def holdersOf (rs : List Bytes) (d : Bytes) : Nat := (rs.filter (fun r => digValue r == d)).length

/-- More than half of the records hold a value. -/
def heldByMost (rs : List Bytes) (d : Bytes) : Bool := decide (rs.length < 2 * holdersOf rs d)

theorem heldByMost_iff (rs : List Bytes) (d : Bytes) : heldByMost rs d = true ↔ rs.length < 2 * holdersOf rs d := decide_eq_true_iff

theorem majority_eq_find (rs : List Bytes) : majority rs = (rs.map digValue).find? (heldByMost rs) := rfl

/-- The holders of two values are different records. -/
theorem holdersOf_add_le (rs : List Bytes) {d e : Bytes} (hne : d ≠ e) : holdersOf rs d + holdersOf rs e ≤ rs.length := by
  have hother : holdersOf rs e ≤ (rs.filter (fun r => !(digValue r == d))).length := by
    refine (List.monotone_filter_right rs fun r he => ?_).length_le
    have hd : digValue r ≠ d := fun hd => hne (hd.symm.trans (eq_of_beq he))
    simpa using hd
  have hsplit := List.length_eq_length_filter_add (l := rs) (fun r => digValue r == d)
  unfold holdersOf at *
  omega

theorem mem_digValue_of_heldByMost {rs : List Bytes} {d : Bytes} (h : heldByMost rs d = true) : d ∈ rs.map digValue := by
  have hmost := (heldByMost_iff rs d).mp h
  obtain ⟨r, hr⟩ := List.exists_mem_of_length_pos (show 0 < holdersOf rs d by omega)
  obtain ⟨hmem, hheld⟩ := List.mem_filter.mp hr
  exact List.mem_map.mpr ⟨r, hmem, eq_of_beq hheld⟩

/-- No two values are both held by more than half. -/
theorem eq_of_heldByMost {rs : List Bytes} {d e : Bytes} (hd : heldByMost rs d = true) (he : heldByMost rs e = true) : d = e := by
  rw [heldByMost_iff] at hd he
  by_contra hne
  have hshare := holdersOf_add_le rs hne
  omega

/-- Settles O36: a value that more than half hold is among those of the records, and the one found is the only such value. -/
theorem majorityOfVotes : Obligations.MajorityOfVotes := by
  unfold Obligations.MajorityOfVotes
  intro rs d
  refine Iff.trans ?_ (heldByMost_iff rs d)
  rw [majority_eq_find]
  constructor
  case mp => exact List.find?_some
  case mpr =>
    intro hmost
    have hsome := List.find?_isSome.mpr ⟨d, mem_digValue_of_heldByMost hmost, hmost⟩
    obtain ⟨e, hfound⟩ := Option.isSome_iff_exists.mp hsome
    exact eq_of_heldByMost (List.find?_some hfound) hmost ▸ hfound

end Sys2Proof.Machine

/-! Digest and vote records at the witness unit (R301 to R304). -/

namespace Sys2Proof.Machine

section
variable {b : Block} {c : Nat} {g : Replicas} {r : Bytes}

/-! ### A digest at its vote node (R302) -/

section
variable (hopen : (b.ctx c).an.decided.any
  (fun e => e.1 == g.id && e.2.1 == digCmd r && decide (windowDiff (windowOf (b.ctx c).k b.ft) e.2.2 < 2)) = false)
include hopen

section
variable {k : VoteKey} (hkey : (b.ctx c).an.keys.find? (fun k => k.group == g.id && k.cmd == digCmd r) = some k)
include hkey

theorem Block.takeDigest_of_dup (hdup : k.records.any (fun q => digRank q == digRank r) = true) :
    b.takeDigest c g r = (b.count Reg.WIT_DUP 1).flag Reg.WIT_STS 2 := by
  simp only [Block.takeDigest, hopen, hkey, hdup, Bool.false_eq_true, if_false, if_true]

theorem Block.takeDigest_of_new (hnew : k.records.any (fun q => digRank q == digRank r) = false) :
    b.takeDigest c g r = b.modAn c (fun a => { a with keys := a.keys.map (fun k =>
      if k.group == g.id && k.cmd == digCmd r then { k with records := k.records ++ [r], last := b.ft } else k) }) := by
  simp only [Block.takeDigest, hopen, hkey, hnew, Bool.false_eq_true, if_false]

end

theorem Block.takeDigest_of_no_key (hkey : (b.ctx c).an.keys.find? (fun k => k.group == g.id && k.cmd == digCmd r) = none)
    (hroom : ((b.ctx c).an.keys.filter (fun k => k.group == g.id)).length < 256)
    (hgroups : b.openGroups.length < 64 ∨ (c, g.id) ∈ b.openGroups) :
    b.takeDigest c g r = b.modAn c (fun a => { a with
      keys := a.keys ++ [{ group := g.id, cmd := digCmd r, records := [r], last := b.ft }] }) := by
  have hfree : ¬ (256 ≤ ((b.ctx c).an.keys.filter (fun k => k.group == g.id)).length ∨
      64 ≤ b.openGroups.length ∧ (!decide ((c, g.id) ∈ b.openGroups)) = true) := by
    rintro (hfull | ⟨hmany, hout⟩)
    · omega
    · rcases hgroups with hfew | hmine
      · omega
      · simp [hmine] at hout
  simp only [Block.takeDigest, hopen, hkey, Bool.false_eq_true, if_false, if_neg hfree]

end

/-! ### The records on their way (R301, R304) -/

/-- A digest that a child brings to the vote node of its group is counted and taken (R301, R302). -/
theorem Block.digestRecord_at_vote_node {f : Frame} (hchild : b.fromChild f = some c) (hon : b.isSet Reg.WIT_CTL 0 = true)
    (hlevel : (b.ctx c).level ≠ 5) (hgroup : groupFor (b.ctxPlan c) (digRank r) (digChannel r) = some g)
    (hvotes : (b.ctx c).votesFor g = true) : b.digestRecord f r = (b.count Reg.WIT_RX 1).takeDigest c g r := by
  have hon' : (b.count Reg.WIT_RX 1).isSet Reg.WIT_CTL 0 = true := by
    rw [Block.isSet, Block.count_reg_other b _ _ _ (by decide)]
    exact hon
  have hplan : (b.count Reg.WIT_RX 1).ctxPlan c = b.ctxPlan c := by simp only [Block.ctxPlan, Block.ctx, Block.count_ctxs, Block.count_tray]
  simp only [Block.digestRecord, hchild, hon', hplan, hgroup, hlevel, hvotes, Bool.not_true, Bool.false_eq_true, false_and, if_false, if_true]

/-- A vote record from above waits at a tray for its witness step (R304). -/
theorem Block.voteRecord_at_tray {f : Frame} (hparent : b.fromParent f = some c) (hgood : voteGood r = true)
    (hgroup : groupById (b.ctxPlan c) (fieldAt r 8 2) = some g) (hlevel : (b.ctx c).level = 5) :
    b.voteRecord f r = b.modAn c (fun a => { a with votes := a.votes ++ [(b.ft.toNat, controlRecord 0x0302 (r.drop 8))] }) := by
  simp only [Block.voteRecord, hparent, hgood, hgroup, Block.passVote, hlevel, Bool.not_true, Bool.false_eq_true, if_false, if_true]

end

/-- A digest record that a tray node hears and takes as the vote node of its group (R301, R302). -/
theorem exec_digestRecordReceive {s : State} {port : Fin 8} {link : Fin 64} {raw : Bytes} {f : Frame} {r : Bytes} {b' y : Block}
    (h : s.hears .T link raw 0x0301 f r b') (hy : b'.digestRecord f r = y) :
    exec (.digestRecordReceive port link raw) s = .next (s.setBlock .T y) :=
  onBlock_receiveControl_eq_of Block.digestRecord h hy

/-- Settles O31: a digest by its key and by whether its member has delivered; a vote record at the lowest level. -/
theorem witnessRecords : Obligations.WitnessRecords := by
  unfold Obligations.WitnessRecords
  intro s port link raw f r b' c g k x b1 isKey now
  have hctx : b1.ctx c = x := by simp only [b1, x, Block.ctx, Block.count_ctxs]
  have hft : b1.ft = b'.ft := by simp only [b1, Block.ft, Block.count_time]
  refine ⟨fun hhears hchild hon hlevel hgroup hvotes hopen => ?digest, fun hhears hparent hgood hgroup hlevel => ?vote⟩
  case digest =>
    have hact := Block.digestRecord_at_vote_node hchild hon hlevel hgroup hvotes
    have hopen1 : (b1.ctx c).an.decided.any (fun e => e.1 == g.id && e.2.1 == digCmd r &&
        decide (windowDiff (windowOf (b1.ctx c).k b1.ft) e.2.2 < 2)) = false := by rw [hctx, hft]; exact hopen
    rw [← hctx]
    refine ⟨fun hkey hnew => ?joins, fun hkey hdup => ?counted, fun hkey hroom hgroups => ?opens⟩
    case joins => exact exec_digestRecordReceive hhears (hact.trans (Block.takeDigest_of_new hopen1 hkey hnew))
    case counted => exact exec_digestRecordReceive hhears (hact.trans (Block.takeDigest_of_dup hopen1 hkey hdup))
    case opens => exact exec_digestRecordReceive hhears (hact.trans (Block.takeDigest_of_no_key hopen1 hkey hroom hgroups))
  case vote => exact onBlock_receiveControl_eq_of Block.voteRecord hhears (Block.voteRecord_at_tray hparent hgood hgroup hlevel)

end Sys2Proof.Machine

/-! The end of a replay while the search steward is held (R336, R437). -/

namespace Sys2Proof.Machine

/-- A command whose function keeps the tray as it is changes nothing. -/
theorem onTray_of_kept {f : Block → Block} {s : State} (h : f s.t = s.t) : onTray f s = .next s := by
  have hsame : s.setBlock .T (f (s.block .T)) = s := (congrArg (s.setBlock .T) h).trans (s.setBlock_same .T)
  rw [onTray, onBlock_eq, hsame, ite_self]

/-- The end of a replay waits while steward 2 is held (R437). -/
theorem exec_replayDone_of_held (s : State) (n : Fin 16) (hheld : s.t.stewardRuns 2 = false) : exec (.replayDone n) s = .next s := by
  change execReplayDone n s = .next s
  refine onTray_of_kept ?_
  simp only [hheld, Bool.not_false, Bool.or_true]
  split
  next => rfl
  next r _ => cases r.ended <;> rfl

/-- A completed descriptor has left the taken ones (R384). -/
theorem Block.complete_takenById (b : Block) (t : Taken) (status len : Nat) (result : Bytes) :
    (b.complete t status len result).takenById t.id = none := by
  simp [Block.takenById, Block.complete]

/-- The descriptor of a REPLAY that steward 2 has begun. -/
def begunReplay : Taken := { id := 0, ring := 0, index := 0, cpl := 0, bytes := 0x17 :: zeros 63, begun := true }

/-- Its job, which has ended for want of a window in the replay log. -/
def endedReplay : ReplayJob := { desc := 0, job := 1, epoch := 1, first := 0, next := 0, last := 0, mode := 0, ctx := {}, ended := some (0x0F, 0) }

/-- A running tray with that job, none of whose stewards runs. -/
def heldReplay : State :=
  { State.reset with
    tAligned := true
    t := (State.reset.t.modHost (fun h => { h with taken := [begunReplay] })).modPlane (fun u => { u with replays := [(0, endedReplay)] }) }

theorem heldReplay_held : heldReplay.t.stewardRuns 2 = false := rfl

/-- Refutes O21: its clause on the end of a replay has no premise that steward 2 runs. In `heldReplay` that steward is held, so REPLAY_DONE changes
nothing (R437), and the descriptor, which by the clause completes, stays taken. -/
theorem not_searchAndReplay : ¬ Obligations.SearchAndReplay := by
  unfold Obligations.SearchAndReplay
  intro h
  obtain ⟨-, -, -, -, -, hends⟩ := h heldReplay 0 0 {} begunReplay
  obtain ⟨-, -, hfailed⟩ := hends 0 endedReplay 0x0F 0 rfl rfl rfl (by decide) rfl
  have hcompleted := hfailed (by decide) (by decide)
  rw [exec_replayDone_of_held heldReplay 0 heldReplay_held] at hcompleted
  have hstays := congrArg (fun s : State => s.t.takenById begunReplay.id) (Host.Outcome.next.inj hcompleted)
  exact absurd (hstays.trans (Block.complete_takenById _ begunReplay _ _ _)) (by decide)

end Sys2Proof.Machine

/-! Resets, levels at the inputs and the alignment pulse (R36, R315, R366, R424, R476, R484, R485, R487, R490): a block that does not run, what a
held reset leaves, and the reset commands. -/

namespace Sys2Proof.Machine

/-! ### Tables of levels

A reset keeps of each entry of such a table the level at an input and drops the entries that are left at their default. -/

section
variable {α : Type} [DecidableEq α]

/-- A written table holds nothing but its old entries and, where it is not the default, the new one. -/
theorem forall_mem_sput (P : α → Prop) (d : Nat → α) (m : Sparse α) (k : Nat) (v : α) (hm : ∀ e ∈ m, P e.2) (hv : v ≠ d k → P v) :
    ∀ e ∈ sput d m k v, P e.2 := by
  have hinsert : ∀ m : Sparse α, (∀ e ∈ m, P e.2) → P v → ∀ e ∈ sinsert k v m, P e.2 := by
    intro m
    induction m with
    | nil => intro _ hP e he; rw [List.mem_singleton.mp he]; exact hP
    | cons x m ih =>
      intro hm hP e he
      obtain ⟨hx, hrest⟩ := List.forall_mem_cons.mp hm
      by_cases hlt : k < x.1
      · rw [sinsert, if_pos hlt] at he
        exact List.forall_mem_cons (p := fun e => P e.2).mpr ⟨hP, hm⟩ e he
      · rw [sinsert, if_neg hlt] at he
        exact List.forall_mem_cons (p := fun e => P e.2).mpr ⟨hx, ih hrest hP⟩ e he
  have hfilter : ∀ e ∈ m.filter (fun e => e.1 != k), P e.2 := fun e he => hm e (List.mem_filter.mp he).1
  unfold sput
  split
  · exact hfilter
  · next hne => exact hinsert _ hfilter (hv hne)

/-- What a reset leaves of a table of which `keep` is what it leaves of an entry. -/
def levelsAtReset (keep : α → α) (dflt : α) (m : Sparse α) : Sparse α := (m.map (fun e => (e.1, keep e.2))).filter (fun e => e.2 != dflt)

variable (keep : α → α) (dflt : α) (m : Sparse α)

/-- A reset leaves a table as it is where it leaves each entry as it is and none is the default. -/
theorem levelsAtReset_eq_self (h : ∀ e ∈ m, keep e.2 = e.2 ∧ e.2 ≠ dflt) : levelsAtReset keep dflt m = m := by
  have hmap : m.map (fun e => (e.1, keep e.2)) = m := by
    conv_rhs => rw [← List.map_id m]
    exact List.map_congr_left fun e he => Prod.ext rfl (h e he).1
  rw [levelsAtReset, hmap, List.filter_eq_self]
  intro e he
  simpa using (h e he).2

/-- What a reset has left consists of levels that another reset leaves, and of no default. -/
theorem mem_levelsAtReset (hkeep : ∀ x, keep (keep x) = keep x) : ∀ e ∈ levelsAtReset keep dflt m, keep e.2 = e.2 ∧ e.2 ≠ dflt := by
  intro e he
  obtain ⟨hmap, hne⟩ := List.mem_filter.mp he
  obtain ⟨x, -, hx⟩ := List.mem_map.mp hmap
  exact ⟨by rw [← hx]; exact hkeep x.2, by simpa using hne⟩

/-- A second reset leaves what the first one left. -/
theorem levelsAtReset_idem (hkeep : ∀ x, keep (keep x) = keep x) :
    levelsAtReset keep dflt (levelsAtReset keep dflt m) = levelsAtReset keep dflt m :=
  levelsAtReset_eq_self keep dflt _ (mem_levelsAtReset keep dflt m hkeep)

/-- A level that is written under a held reset is all that its entry holds. -/
theorem levelsAtReset_smodify (k : Nat) (f : α → α) (hkeep : ∀ x, keep (keep x) = keep x) (hf : ∀ x, keep x = x → keep (f x) = f x)
    (hd : keep dflt = dflt) (h : levelsAtReset keep dflt m = m) :
    levelsAtReset keep dflt (smodify (fun _ => dflt) m k f) = smodify (fun _ => dflt) m k f := by
  have hm : ∀ e ∈ m, keep e.2 = e.2 ∧ e.2 ≠ dflt := by rw [← h]; exact mem_levelsAtReset keep dflt m hkeep
  have hget : keep (sget (fun _ => dflt) m k) = sget (fun _ => dflt) m k := by
    unfold sget
    split
    · next e he => exact (hm e (List.mem_of_find?_eq_some he)).1
    · exact hd
  refine levelsAtReset_eq_self keep dflt _ (forall_mem_sput (fun v => keep v = v ∧ v ≠ dflt) _ m k _ hm fun hne => ⟨hf _ hget, hne⟩)

end

/-! ### What a reset leaves of Borlu-D (R484) -/

/-- Of a region a reset keeps the level of its stretch count (R476). -/
def Region.atReset (r : Region) : Region := { gray := r.gray }

theorem Block.dieReset_regions (b : Block) : b.dieReset.die.regions = levelsAtReset Region.atReset {} b.die.regions := rfl

/-- Borlu-D with other regions, of which a reset leaves what it leaves of them and of the rest. -/
theorem Block.dieReset_of_regions (b : Block) (m : Sparse Region) :
    ({ b with die := { b.die with regions := m } } : Block).dieReset =
      { b.dieReset with die := { b.dieReset.die with regions := levelsAtReset Region.atReset {} m } } := rfl

theorem Block.dieReset_idem (b : Block) : b.dieReset.dieReset = b.dieReset := by
  have h := Block.dieReset_of_regions b.dieReset b.dieReset.die.regions
  rw [Block.dieReset_regions, levelsAtReset_idem Region.atReset {} _ fun _ => rfl] at h
  exact h

/-- An update that commutes with the reset keeps a held reset. -/
theorem eq_reset_of_commutes {reset f : Block → Block} {b : Block} (hf : reset (f b) = f (reset b)) (h : b = reset b) : f b = reset (f b) := by
  rw [hf, ← h]

/-- A stretch count that changes under a held reset is taken and nothing else (R476). -/
theorem Block.dieReset_modRegion_gray (b : Block) (p : Nat) (gray : BitVec 4) (h : b = b.dieReset) :
    b.modRegion p (fun r => { r with gray := gray }) = (b.modRegion p (fun r => { r with gray := gray })).dieReset := by
  have hm : levelsAtReset Region.atReset {} b.die.regions = b.die.regions := congrArg (fun x => x.die.regions) h.symm
  have hnew := levelsAtReset_smodify Region.atReset {} b.die.regions p (fun r => { r with gray := gray }) (fun _ => rfl)
    (fun x hx => by rw [← hx]; rfl) rfl hm
  rw [Block.modRegion, Block.dieReset_of_regions, hnew, ← h]

/-- What a command that brings a level leaves of a Borlu-D that is in reset: the level alone is taken (R476). -/
def Block.takeLevel (c : Instr) (b : Block) : Block :=
  match c with
  | .regionStretch p gray => b.modRegion p (fun r => { r with gray := gray })
  | .trcLinkUpChange level => b.modTrace (fun t => { t with linkUp := level, superCount := 0, wire := [] })
  | .regionSecureChange p level => b.modTrace (fun t => { t with secure := if level then setB t.secure p else clearB t.secure p })
  | .schedDebugFall level => b.modTrace (fun t => { t with schedDebug := level })
  | _ => b

theorem onDieLevel_stopped (keep f : Block → Block) (s : State) (h : s.running .D = false) :
    onDieLevel keep f s = .next (s.setBlock .D (keep s.d)) := by simp [onDieLevel, h]

theorem exec_level_stopped (c : Instr) (s : State) (hl : c.isLevel = true) (hD : c.target = .D) (hstop : s.running .D = false) :
    exec c s = .next (s.setBlock .D (s.d.takeLevel c)) := by
  cases c
  case regionStretch p gray =>
    change execRegionStretch p gray s = _
    unfold execRegionStretch
    exact onDieLevel_stopped _ _ s hstop
  case trcLinkUpChange level =>
    change execTrcLinkUpChange level s = _
    unfold execTrcLinkUpChange
    exact onDieLevel_stopped _ _ s hstop
  case regionSecureChange p level =>
    change execRegionSecureChange p level s = _
    unfold execRegionSecureChange
    exact onDieLevel_stopped _ _ s hstop
  case schedDebugFall level =>
    change execSchedDebugFall level s = _
    unfold execSchedDebugFall
    exact onDieLevel_stopped _ _ s hstop
  case busMasterEnableChange => cases hD
  all_goals cases hl

/-- A level that is taken keeps a held reset. -/
theorem Block.takeLevel_dieReset (b : Block) (c : Instr) (h : b = b.dieReset) : b.takeLevel c = (b.takeLevel c).dieReset := by
  cases c
  case regionStretch p gray => exact b.dieReset_modRegion_gray p gray h
  case trcLinkUpChange level => exact eq_reset_of_commutes (reset := Block.dieReset) (f := Block.takeLevel (.trcLinkUpChange level)) rfl h
  case regionSecureChange p level => exact eq_reset_of_commutes (reset := Block.dieReset) (f := Block.takeLevel (.regionSecureChange p level)) rfl h
  case schedDebugFall level => exact eq_reset_of_commutes (reset := Block.dieReset) (f := Block.takeLevel (.schedDebugFall level)) rfl h
  all_goals exact h

/-! ### What a reset leaves of Borlu-T (R485) -/

/-- Of an ingest port a reset keeps the level of its link (R488). -/
def IngestPort.atReset (x : IngestPort) : IngestPort := { up := x.up }

/-- Borlu-T as its own reset values have it: under the kind of reset that it remembers (R485, R486). -/
def Block.trayHeld (b : Block) : Block := b.trayReset b.tray.powerOn

/-- Borlu-T with other ingest ports, of which a reset leaves what it leaves of them and of the rest. -/
theorem Block.trayReset_of_ports (b : Block) (m : Sparse IngestPort) (por : Bool) :
    (b.modHist (fun h => { h with ports := m })).trayReset por =
      (b.trayReset por).modHist (fun h => { h with ports := levelsAtReset IngestPort.atReset {} m }) := rfl

/-- A second reset of the same kind leaves what the first one left. -/
theorem Block.trayReset_idem (b : Block) (por : Bool) : (b.trayReset por).trayReset por = b.trayReset por := by
  have hports := levelsAtReset_idem IngestPort.atReset {} b.tray.history.ports fun _ => rfl
  have h := Block.trayReset_of_ports (b.trayReset por) (levelsAtReset IngestPort.atReset {} b.tray.history.ports) por
  rw [hports] at h
  refine Eq.trans h ?_
  cases por <;> rfl

theorem Block.trayHeld_trayReset (b : Block) (por : Bool) : (b.trayReset por).trayHeld = b.trayReset por := b.trayReset_idem por

/-- A link of an ingest port that goes up or down under a held reset (R488). -/
theorem Block.trayHeld_setUp (b : Block) (p : Nat) (up : Bool) (h : b = b.trayHeld) :
    b.modIngest p (fun x => x.setUp up) = (b.modIngest p (fun x => x.setUp up)).trayHeld := by
  have hm : levelsAtReset IngestPort.atReset {} b.tray.history.ports = b.tray.history.ports :=
    congrArg (fun x => x.tray.history.ports) h.symm
  have hnew := levelsAtReset_smodify IngestPort.atReset {} b.tray.history.ports p (fun x => x.setUp up) (fun _ => rfl)
    (fun x hx => by rw [← hx]; cases up <;> rfl) rfl hm
  have hset := Block.trayReset_of_ports b (smodify (fun _ => ({} : IngestPort)) b.tray.history.ports p (fun x => x.setUp up)) b.tray.powerOn
  rw [hnew] at hset
  refine Eq.trans ?_ hset.symm
  exact congrArg (fun x : Block =>
    x.modHist (fun h => { h with ports := smodify (fun _ => ({} : IngestPort)) b.tray.history.ports p (fun x => x.setUp up) })) h

theorem Debounce.see_atReset (d : Debounce) (level : Bool) (now : Nat) :
    ({ level := (d.see level now).level } : Debounce) = ({ level := d.level } : Debounce).see level 0 := by
  unfold Debounce.see
  split <;> rfl

/-- A level that a presence input shows is kept by a reset, without the cycle since which it stands (R424). -/
theorem Presence.see_atReset (p : Presence) (input : Fin 3) (level : Bool) (now : Nat) :
    (p.see input level now).atReset = p.atReset.see input level 0 := by
  match input with
  | 0 => simp only [Presence.see, Presence.atReset, Debounce.see_atReset]
  | 1 => simp only [Presence.see, Presence.atReset, Debounce.see_atReset]
  | 2 => simp only [Presence.see, Presence.atReset, Debounce.see_atReset]

/-- A level of a presence input that changes under a held reset, whose cycle counter stands at 0 (R424). -/
theorem Block.trayHeld_see (b : Block) (input : Fin 3) (level : Bool) (h : b = b.trayHeld) :
    b.modPres (fun p => p.see input level b.time.cycles) = (b.modPres (fun p => p.see input level b.time.cycles)).trayHeld := by
  have hzero : b.time.cycles = 0 := congrArg (fun x => x.time.cycles) h
  rw [hzero]
  have hset : (b.modPres (fun p => p.see input level 0)).trayHeld = b.trayHeld.modPres (fun _ => (b.tray.presence.see input level 0).atReset) := rfl
  rw [hset, Presence.see_atReset]
  exact congrArg (fun x : Block => x.modPres (fun p => p.see input level 0)) h

/-- A tray without a pending vector signals none where Bus Master Enable changes (R366). -/
theorem HostUnit.setBusMaster_of_none_pending (h : HostUnit) (on : Bool) (hp : h.msixPending = 0) :
    h.setBusMaster on = { h with busMaster := on } := by
  unfold HostUnit.setBusMaster
  cases on with
  | false => rfl
  | true => exact List.foldl_fixed' (fun v => by simp [hp]) _

/-- Bus Master Enable changes under a held reset (R366). -/
theorem Block.trayHeld_setBusMaster (b : Block) (on : Bool) (h : b = b.trayHeld) :
    b.modHost (fun u => u.setBusMaster on) = (b.modHost (fun u => u.setBusMaster on)).trayHeld := by
  have hp : b.tray.host.msixPending = 0 := congrArg (fun x => x.tray.host.msixPending) h
  have heq : b.modHost (fun u => u.setBusMaster on) = b.modHost (fun u => { u with busMaster := on }) := by
    simp only [Block.modHost, HostUnit.setBusMaster_of_none_pending _ on hp]
  rw [heq]
  exact eq_reset_of_commutes (reset := Block.trayHeld) (f := fun x => x.modHost (fun u => { u with busMaster := on })) rfl h

/-! ### Changes at the inputs (R424, R480 to R483, R488) -/

/-- What a change at an input leaves of the machine: the reset lines, the alignment and the queue. -/
theorem Pin.act_frame (p : Pin) (s : State) :
    (p.act s).dReset = s.dReset ∧ (p.act s).tReset = s.tReset ∧ (p.act s).tAligned = s.tAligned ∧ (p.act s).pending = s.pending := by
  cases p <;> exact ⟨rfl, rfl, rfl, rfl⟩

/-- A change at an input of Borlu-D keeps a held reset; one of Borlu-T leaves Borlu-D. -/
theorem Pin.act_dieReset (p : Pin) (s : State) (h : s.d = s.d.dieReset) : (p.act s).d = (p.act s).d.dieReset := by
  cases p
  case sensor ch code =>
    exact eq_reset_of_commutes (reset := Block.dieReset) (f := fun x => { x with die := { x.die with
      sensors := sput (fun _ => (none : Option (BitVec 16))) s.d.die.sensors ch code } }) rfl h
  all_goals exact h

/-- A change at an input of Borlu-T keeps a reset that is held or waits for the alignment pulse; one of Borlu-D leaves Borlu-T. -/
theorem Pin.act_trayHeld (p : Pin) (s : State) (hstop : s.running .T = false) (h : s.t = s.t.trayHeld) : (p.act s).t = (p.act s).t.trayHeld := by
  cases p
  case tck tms tdi cells =>
    exact eq_reset_of_commutes (reset := Block.trayHeld) (f := fun x => x.modJtag (fun j => j.clock (!s.trstLow) tms tdi s.tReset cells)) rfl h
  case trst low =>
    exact eq_reset_of_commutes (reset := Block.trayHeld)
      (f := fun x => x.modJtag (fun j => if low then j.clock false false false s.tReset [] else j)) rfl h
  case pcieState up speed width =>
    simp only [Pin.act, hstop, Bool.false_and, Block.when_false]
    exact eq_reset_of_commutes (reset := Block.trayHeld)
      (f := fun x => x.modLink (fun l => { l with up := up, speed := speed, width := width })) rfl h
  case pcieRelaxed on => exact eq_reset_of_commutes (reset := Block.trayHeld) (f := fun x => x.modLink (fun l => { l with relaxed := on })) rfl h
  case pcieSizes mps mrrs =>
    exact eq_reset_of_commutes (reset := Block.trayHeld) (f := fun x => x.modLink (fun l => { l with mps := mps, mrrs := mrrs })) rfl h
  case ingestUp port up => exact s.t.trayHeld_setUp port up h
  case i3cDevices ids =>
    exact eq_reset_of_commutes (reset := Block.trayHeld) (f := fun x => { x with tray := { x.tray with
      i3c := (ids.mergeSort (fun a c => decide (a.toNat ≤ c.toNat))).take 8 } }) rfl h
  case flashFitted table =>
    exact eq_reset_of_commutes (reset := Block.trayHeld) (f := fun x => { x with tray := { x.tray with flashTable := table } }) rfl h
  case presence input asserted => exact s.t.trayHeld_see input asserted h
  case barNothing isRead =>
    cases isRead with
    | false => exact h
    | true =>
      have hsame : (Pin.barNothing true |>.act s).t = s.t := congrArg (fun x : Block => { s.t with rdata := x.rdata }) h.symm
      rw [hsame]; exact h
  case sensor => exact h

/-! ### A held reset is kept -/

/-- Borlu-T before its first alignment pulse does not run. -/
theorem State.running_T_of_not_aligned (s : State) (h : s.tAligned = false) : s.running .T = false := by simp [State.running, h]

theorem State.running_D_of_reset (s : State) (h : s.dReset = true) : s.running .D = false := by simp [State.running, h]

/-- A cycle, with the change at an input that waits, keeps a held reset: a block that does not run counts none. -/
theorem State.resetHeld_tick (s : State) (h : s.resetHeld) : (tick s).resetHeld := by
  have hcycle : ∀ u : State, u.resetHeld → (cycle u).resetHeld := by
    rintro u ⟨hd, ht, ha⟩
    refine ⟨fun hr => ?_, fun hr => ?_, ha⟩
    · have hx : (cycle u).d = u.d := if_neg (by rw [u.running_D_of_reset hr]; exact Bool.false_ne_true)
      rw [hx]; exact hd hr
    · have hx : (cycle u).t = u.t := if_neg (by rw [u.running_T_of_not_aligned hr]; exact Bool.false_ne_true)
      rw [hx]; exact ht hr
  refine hcycle _ ?_
  obtain ⟨hd, ht, ha⟩ := h
  unfold State.takePin
  split
  · exact ⟨hd, ht, ha⟩
  · next p rest _ =>
    obtain ⟨hdr, htr, hal, -⟩ := p.act_frame { s with pins := rest }
    refine ⟨fun hr => p.act_dieReset _ (hd (hdr.symm.trans hr)), fun hr => ?_, fun hr => hal.trans (ha (htr.symm.trans hr))⟩
    have hs : s.tAligned = false := hal.symm.trans hr
    exact p.act_trayHeld _ (State.running_T_of_not_aligned { s with pins := rest } hs) (ht hs)

/-- A block that is stored keeps the held resets where it keeps its own. -/
theorem State.resetHeld_setBlock (s : State) (b : Build) (x : Block) (h : s.resetHeld) (hD : b = .D → s.dReset = true → x = x.dieReset)
    (hT : b = .T → s.tAligned = false → x = x.trayHeld) : (s.setBlock b x).resetHeld := by
  obtain ⟨hd, ht, ha⟩ := h
  cases b with
  | D => exact ⟨hD rfl, ht, ha⟩
  | T => exact ⟨hd, hT rfl, ha⟩

/-- A level keeps a held reset: the level alone is taken. -/
theorem exec_resetHeld_of_isLevel (c : Instr) (s : State) (hl : c.isLevel = true) (h : s.resetHeld) :
    ∃ t, exec c s = .next t ∧ t.resetHeld := by
  cases htar : c.target with
  | D =>
    cases hr : s.dReset with
    | true =>
      exact ⟨_, exec_level_stopped c s hl htar (s.running_D_of_reset hr),
        s.resetHeld_setBlock .D _ h (fun _ _ => s.d.takeLevel_dieReset c (h.1 hr)) (fun hb => by cases hb)⟩
    | false =>
      obtain ⟨x, hx⟩ := exec_of_isLevel c s hl
      rw [htar] at hx
      exact ⟨_, hx, s.resetHeld_setBlock .D x h (fun _ hr' => by rw [hr] at hr'; cases hr') (fun hb => by cases hb)⟩
  | T =>
    cases c
    case busMasterEnableChange level =>
      exact ⟨_, rfl, s.resetHeld_setBlock .T _ h (fun hb => by cases hb) (fun _ ha => s.t.trayHeld_setBusMaster level (h.2.1 ha))⟩
    case regionStretch | trcLinkUpChange | regionSecureChange | schedDebugFall => cases htar
    all_goals cases hl

/-- The reset lines and the alignment pulse keep the resets that are held. -/
theorem exec_resetHeld_of_isReset (c : Instr) (s : State) (hr : c.isReset = true) (h : s.resetHeld) :
    ∃ t, exec c s = .next t ∧ t.resetHeld := by
  obtain ⟨hd, ht, ha⟩ := h
  cases c
  case borluDResetAssert => exact ⟨_, rfl, fun _ => s.d.dieReset_idem.symm, ht, ha⟩
  case borluDResetRelease slot localEn =>
    refine ⟨_, rfl, ?_⟩
    split
    · exact ⟨fun hx => (by cases hx), ht, ha⟩
    · exact ⟨hd, ht, ha⟩
  case borluTResetAssert por => exact ⟨_, rfl, hd, fun _ => (s.t.trayHeld_trayReset _).symm, fun _ => rfl⟩
  case borluTResetRelease straps =>
    refine ⟨_, rfl, ?_⟩
    split
    · exact ⟨hd, fun hal => eq_reset_of_commutes (reset := Block.trayHeld) (f := fun x => { x with
        strapPkg := straps.pkg, tray := { x.tray with jtag := { x.tray.jtag with mfr := straps.mfr } } }) rfl (ht hal), fun hx => by cases hx⟩
    · exact ⟨hd, ht, ha⟩
  case alignPulse =>
    refine ⟨_, rfl, ?_⟩
    split
    · next hcond =>
      refine ⟨hd, fun hal => (by cases hal), fun htr => ?_⟩
      have htr' : s.tReset = true := htr
      simp [htr'] at hcond
    · exact ⟨hd, ht, ha⟩
  all_goals cases hr

/-- Every command keeps the resets that are held: one that is neither a reset nor a level acts on a running block alone. -/
theorem exec_resetHeld (c : Instr) (s : State) (h : s.resetHeld) : ∃ t, exec c s = .next t ∧ t.resetHeld := by
  cases hr : c.isReset with
  | true => exact exec_resetHeld_of_isReset c s hr h
  | false =>
    cases hl : c.isLevel with
    | true => exact exec_resetHeld_of_isLevel c s hl h
    | false =>
      obtain ⟨x, hx⟩ := exec_eq_ite_running c s hr hl
      refine ⟨_, hx, ?_⟩
      split
      · next hrun =>
        refine s.resetHeld_setBlock c.target x h (fun hb hd => ?_) (fun hb ha => ?_)
        · rw [hb, s.running_D_of_reset hd] at hrun; cases hrun
        · rw [hb, s.running_T_of_not_aligned ha] at hrun; cases hrun
      · exact h

/-- Settles O1: a step is the command at the front, by the definition of `step`. -/
theorem stepRunsFront : Obligations.StepRunsFront := by
  unfold Obligations.StepRunsFront
  exact fun _ _ _ => rfl

/-- Settles O4: a cycle and a command by the block that they change, of which only one that does not run is held. -/
theorem resetHeldKept : Obligations.ResetHeldKept := by
  unfold Obligations.ResetHeldKept
  intro s t h hstep
  unfold step at hstep
  split at hstep
  · cases hstep; exact s.resetHeld_tick h
  · next c rest _ =>
    obtain ⟨u, hu, hheld⟩ := exec_resetHeld c { s with pending := rest } h
    rw [hu] at hstep
    cases hstep; exact hheld

/-- Settles O5: neither reset is held, and Borlu-T before its alignment pulse has nothing but its reset values. -/
theorem resetHeldAtReset : Obligations.ResetHeldAtReset := by
  unfold Obligations.ResetHeldAtReset
  exact ⟨fun h => (by cases h), fun _ => rfl, fun h => (by cases h)⟩


/-! ### What the trace unit leaves (R113 to R115, R122, R127) -/

/-- All of a block but its registers, its counters and the trace unit. -/
def Block.offTrace (b : Block) : Block := { b with regs := [], die := { b.die with trace := {}, taps := {} } }

section
variable (b : Block)

@[simp] theorem Block.setReg_offTrace (off : Nat) (v : Word) : (b.setReg off v).offTrace = b.offTrace := rfl
@[simp] theorem Block.setFld_offTrace (off hi lo v : Nat) : (b.setFld off hi lo v).offTrace = b.offTrace := rfl
@[simp] theorem Block.flag_offTrace (off i : Nat) : (b.flag off i).offTrace = b.offTrace := rfl
@[simp] theorem Block.modTrace_offTrace (f : TraceUnit → TraceUnit) : (b.modTrace f).offTrace = b.offTrace := rfl
@[simp] theorem Block.modTraceRegion_offTrace (p : Nat) (f : TraceRegion → TraceRegion) : (b.modTraceRegion p f).offTrace = b.offTrace := rfl
@[simp] theorem Block.endLoaf_offTrace (flushed final : Bool) : (b.endLoaf flushed final).offTrace = b.offTrace := rfl
@[simp] theorem Block.appendTrace_offTrace (bytes : Bytes) : (b.appendTrace bytes).offTrace = b.offTrace := rfl
@[simp] theorem Block.stallEnds_offTrace (p : Nat) : (b.stallEnds p).offTrace = b.offTrace := rfl

/-- A branch leaves what both its arms leave. -/
theorem Block.ite_offTrace (p : Prop) [Decidable p] (x y : Block) :
    (if p then x else y).offTrace = if p then x.offTrace else y.offTrace := apply_ite ..

theorem Block.forEach_offTrace {α : Type} (xs : List α) (f : Block → α → Block) (h : ∀ x a, (f x a).offTrace = x.offTrace) :
    (b.forEach xs f).offTrace = b.offTrace :=
  Block.forEach_keeps (fun x => x.offTrace = b.offTrace) f xs b rfl fun x a hx => (h x a).trans hx

@[simp] theorem Block.count_offTrace (off n : Nat) : (b.count off n).offTrace = b.offTrace := by
  simp only [Block.count, Block.countF, Block.ite_offTrace, Block.setFld_offTrace, ite_self]

@[simp] theorem Block.raiseF_offTrace (off hi lo v : Nat) : (b.raiseF off hi lo v).offTrace = b.offTrace := by
  simp only [Block.raiseF, Block.ite_offTrace, Block.setFld_offTrace, ite_self]

@[simp] theorem Block.lightAdd_offTrace (n v : Nat) : (b.lightAdd n v).offTrace = b.offTrace := by
  rcases b.addCounter_cases 1 n v with ⟨-, h⟩ | ⟨-, _, -, h | h⟩ <;> rw [Block.lightAdd, h] <;> rfl

@[simp] theorem Block.drainStaging_offTrace : b.drainStaging.offTrace = b.offTrace := by simp [Block.drainStaging]

@[simp] theorem Block.dropBytes_offTrace (n : Nat) : (b.dropBytes n).offTrace = b.offTrace := by
  simp only [Block.dropBytes, Block.lightAdd_offTrace, Block.count_offTrace]; rfl

@[simp] theorem Block.dropMode_offTrace (n : Nat) : (b.dropMode n).offTrace = b.offTrace := by simp [Block.dropMode]

@[simp] theorem Block.putPacket_offTrace (pkt : Bytes) : (b.putPacket pkt).offTrace = b.offTrace := by
  simp [Block.putPacket, Block.ite_offTrace]

@[simp] theorem Block.startLoaf_offTrace (afterDrop : Bool) : (b.startLoaf afterDrop).offTrace = b.offTrace := by
  simp [Block.startLoaf, Block.ite_offTrace, Block.forEach_offTrace, Block.stateSync]

@[simp] theorem Block.placeFor_offTrace (p : Nat) (pkt : Bytes) : (b.placeFor p pkt).offTrace = b.offTrace := by
  simp [Block.placeFor, Block.place, Block.ite_offTrace]

@[simp] theorem Block.entrySync_offTrace (p cause c : Nat) (s : BitVec 64) (a : Option Nat) :
    (b.entrySync p cause c s a).offTrace = b.offTrace := by simp [Block.entrySync]

@[simp] theorem Block.placeStalled_offTrace (p : Nat) : (b.placeStalled p).offTrace = b.offTrace := by
  unfold Block.placeStalled
  split <;> simp [Block.place, Block.ite_offTrace]

@[simp] theorem Block.placeBefore_offTrace (p : Nat) (s : BitVec 64) : (b.placeBefore p s).offTrace = b.offTrace := by
  unfold Block.placeBefore
  split
  · rfl
  · dsimp only
    split <;> simp

@[simp] theorem Block.updateExclusion_offTrace (p : Nat) : (b.updateExclusion p).offTrace = b.offTrace := by
  simp [Block.updateExclusion, Block.ite_offTrace]

/-- The exclusions of the regions are the trace unit's own (R122). -/
@[simp] theorem Block.updateExclusions_offTrace : b.updateExclusions.offTrace = b.offTrace :=
  b.forEach_offTrace _ _ fun x p => x.updateExclusion_offTrace p

end

/-! ### A block that does not run (R484, R485) -/

/-- Settles O3: every other command acts on a running block alone; a level is taken by a die in reset as it is. -/
theorem stoppedBlockUnchanged : Obligations.StoppedBlockUnchanged := by
  unfold Obligations.StoppedBlockUnchanged
  constructor
  · intro c s hr hl hstop
    obtain ⟨x, hx⟩ := exec_eq_ite_running c s hr hl
    rw [hx, hstop, if_neg Bool.false_ne_true]
  · intro s p gray level hstop
    exact ⟨exec_level_stopped _ s rfl rfl hstop, exec_level_stopped _ s rfl rfl hstop, exec_level_stopped _ s rfl rfl hstop,
      exec_level_stopped _ s rfl rfl hstop⟩

/-! ### The reset commands (R315, R484, R485, R487, R490) -/

section
variable (s : State)

/-- A release of Borlu-D takes the straps, and the block runs (R484, R487). -/
theorem exec_borluDResetRelease (slot : BitVec 5) (localEn : Bool) (hr : s.dReset = true) :
    ∃ t, exec (.borluDResetRelease slot localEn) s = .next t ∧ t.running .D = true ∧ t.d.strapSlot = slot ∧ t.d.strapLocal = localEn ∧
      s.sameBlock t .T := by
  have hoff := Block.updateExclusions_offTrace { s.d with strapSlot := slot, strapLocal := localEn }
  refine ⟨_, congrArg Host.Outcome.next (if_pos hr), rfl, ?_, ?_, rfl, rfl, rfl⟩
  · exact congrArg (fun x : Block => x.strapSlot) hoff
  · exact congrArg (fun x : Block => x.strapLocal) hoff

/-- A release of Borlu-T takes the straps, and the block waits for the alignment pulse (R485, R487). -/
theorem exec_borluTResetRelease (straps : TrayStraps) (hr : s.tReset = true) :
    ∃ t, exec (.borluTResetRelease straps) s = .next t ∧ t.tReset = false ∧ t.t.strapPkg = straps.pkg ∧ t.t.tray.jtag.mfr = straps.mfr ∧
      t.tAligned = s.tAligned ∧ s.sameBlock t .D :=
  ⟨_, congrArg Host.Outcome.next (if_pos hr), rfl, rfl, rfl, rfl, rfl, rfl⟩

/-- The first edge after the release aligns Borlu-T (R315). -/
theorem exec_alignPulse_first (hr : s.tReset = false) (ha : s.tAligned = false) :
    exec .alignPulse s = .next { s with tAligned := true, t := s.t.align } := congrArg Host.Outcome.next (if_pos (by simp [hr, ha]))

/-- A stack becomes ready, or fails (R485, R490). -/
theorem exec_stackReady (stack : Fin 24) (good : Bool) (hrun : s.running .T = true) : exec (.stackReady stack good) s = .next (s.setBlock .T
    (if good then { s.t with tray := { s.t.tray with stacksReady := setB s.t.tray.stacksReady stack } }
    else { s.t with tray := { s.t.tray with stacksFailed := setB s.t.tray.stacksFailed stack } }.flag Reg.HIS_STS 1)) := by
  change execStackReady stack good s = _
  rw [execStackReady, onTray_running _ s hrun]

/-- Later edges change nothing (R315). -/
theorem exec_alignPulse_later (ha : s.tAligned = true) : exec .alignPulse s = .next s := congrArg Host.Outcome.next (if_neg (by simp [ha]))

end

/-- Settles O7: each reset command by what it makes of its block. -/
theorem resetsComplete : Obligations.ResetsComplete := by
  unfold Obligations.ResetsComplete
  intro s slot stack localEn por straps
  exact ⟨rfl, rfl, exec_borluDResetRelease s slot localEn, exec_borluTResetRelease s straps, exec_alignPulse_first s, exec_alignPulse_later s,
    exec_stackReady s stack true, exec_stackReady s stack false⟩

end Sys2Proof.Machine

/-! Descriptors in turn (R366, R377, R437, R485), and the descriptors of the host steward, of jobs, of leases and of power, firmware and tests: what
each does once it is next in turn. -/

namespace Sys2Proof.Machine

/-! ### A descriptor command and its turn (R366, R377, R437, R485) -/

/-- What carries out a descriptor command of an opcode, a steward and an identity: the descriptor in turn, after a check of stacked memory where the
opcode uses it, and under its OP where it is DIE_REG. -/
inductive DescShape (op steward id : Nat) (f : Block → Block) : Prop
  | plain (g : Block → Taken → Block) (hop : usesMemory op = false) (hf : f = fun b => b.onDesc op steward id g)
  | memory (g : Block → Taken → Block) (hf : f = fun b => b.onMemory op steward id g)
  | dieReg (ops : Nat → Bool) (g : Block → Taken → Block) (hop : op = 0x40 ∧ steward = 5) (hf : f = fun b => b.onDieReg id ops g)

/-- Every descriptor command of the tray has one of these shapes (R381, R437). -/
theorem exec_of_descriptorOf (c : Instr) (op steward id : Nat) (s : State) (h : descriptorOf c = some (op, steward, id)) :
    ∃ f, exec c s = onTray f s ∧ DescShape op steward id f := by
  cases c
  case restore | replay | search | treeLoad | treeFree | groupLoad | groupFree | imageLoad | imageFree | planLoad | planFree | schedLoad =>
    cases h; exact ⟨fun b => b.onMemory _ _ id _, rfl, .memory _ rfl⟩
  case dieRegRead | dieRegWrite | dieRegStage | dieRegCommit | dieRegAbort =>
    cases h; exact ⟨fun b => b.onDieReg id _ _, rfl, .dieReg _ _ ⟨rfl, rfl⟩ rfl⟩
  case nop | cancel | jobStart | jobTeardown | remap | member | takeover | quench | grant | revoke | compress | decompress | leaseAcquire |
      leaseRelease | ownerTransfer | logClear | power | fwActivate | stwRestart | testInject =>
    cases h; exact ⟨fun b => b.onDesc _ _ id _, rfl, .plain _ rfl rfl⟩
  all_goals cases h

section
variable {s : State} {op steward id : Nat} (hrun : s.running .T = true)
include hrun

/-- Without a descriptor in turn nothing is carried out (R377, R437). -/
theorem onDesc_of_no_turn (g : Block → Taken → Block) (hno : ∀ t, ¬ s.descNext op steward id t) : s.t.onDesc op steward id g = s.t := by
  rcases s.t.onDesc_cases op steward id g with ⟨t, hnext, hid, hop, hsteward, hread, -⟩ | h
  · exact absurd ⟨hrun, hnext, hid, hop, hsteward, hread⟩ (hno t)
  · exact h

/-- A command whose descriptor is not next in turn, or waits for stacked memory, leaves the tray. -/
theorem DescShape.inert {f : Block → Block} (h : DescShape op steward id f)
    (hwait : (∀ t, ¬ s.descNext op steward id t) ∨ (usesMemory op = true ∧ s.t.memoryReady = false)) : f s.t = s.t := by
  cases h with
  | plain g hop hf =>
    subst hf
    rcases hwait with hno | ⟨huses, -⟩
    · exact onDesc_of_no_turn hrun g hno
    · rw [hop] at huses; cases huses
  | memory g hf =>
    subst hf
    cases hready : s.t.memoryReady with
    | false => simp only [Block.onMemory, hready, Block.when_false]
    | true =>
      rcases hwait with hno | ⟨-, hnot⟩
      · simp only [Block.onMemory, hready, Block.when_true]
        exact onDesc_of_no_turn hrun g hno
      · rw [hready] at hnot; cases hnot
  | dieReg ops g hop hf =>
    subst hf
    obtain ⟨rfl, rfl⟩ := hop
    rcases hwait with hno | ⟨huses, -⟩
    · change s.t.onDieReg id ops g = s.t
      unfold Block.onDieReg
      split
      · rfl
      · split
        · rfl
        · exact onDesc_of_no_turn hrun _ hno
    · cases huses

end

/-- Settles O11: a descriptor command is carried out through its descriptor's turn alone, and through the check of stacked memory. -/
theorem descriptorsInTurn : Obligations.DescriptorsInTurn := by
  unfold Obligations.DescriptorsInTurn
  intro c op steward id s hdesc hrun hwait
  obtain ⟨f, hexec, hshape⟩ := exec_of_descriptorOf c op steward id s hdesc
  rw [hexec, onTray_running f s hrun, hshape.inert hrun hwait]
  exact congrArg Host.Outcome.next (s.setBlock_same .T)

/-! ### NOP, COMPRESS, DECOMPRESS and CANCEL (R381, R382) -/

section
variable {b : Block} {t x : Taken} {n : Nat}

theorem Block.compressDesc_of_good (hblk : byteAt t.bytes 32 ≤ 4) (heffort : byteAt t.bytes 33 ≤ 3) (hstream : fieldAt t.bytes 34 2 ≠ 0) :
    b.compressDesc t = b.setTaken { t with note := b.fld Reg.LOF_CTL 3 0 } := by
  have hgood : ¬ (4 < byteAt t.bytes 32 ∨ 3 < byteAt t.bytes 33 ∨ fieldAt t.bytes 34 2 = 0) := by omega
  simp only [Block.compressDesc, if_neg hgood]

theorem Block.compressDesc_of_bad (hbad : 4 < byteAt t.bytes 32 ∨ 3 < byteAt t.bytes 33 ∨ fieldAt t.bytes 34 2 = 0) :
    b.compressDesc t = b.complete t 0x0C := by simp only [Block.compressDesc, if_pos hbad]

/-- What the deduplication window of the ring that a CANCEL names shows of the request that it names (R382). -/
def Block.cancelSeen (b : Block) (t : Taken) : Option (Nat × Nat × Option Nat) :=
  (b.tray.host.cmdRing (byteAt t.bytes 36 % 16)).dedup.find? (fun e => e.1 == fieldAt t.bytes 32 4)

theorem Block.cancelDesc_of_running (hseen : b.cancelSeen t = some (fieldAt t.bytes 32 4, n, none)) (hx : b.takenById n = some x)
    (hkind : x.opcode ∈ cancellable) (hbegun : x.begun = true) :
    b.cancelDesc t = ((b.dropJobs (fun d => d == x.id)).complete x 0x0D).complete t 0 0 (leBytes 1 0) := by
  unfold Block.cancelSeen at hseen
  simp [Block.cancelDesc, hseen, hx, hkind, hbegun]

theorem Block.cancelDesc_of_kind (hseen : b.cancelSeen t = some (fieldAt t.bytes 32 4, n, none)) (hx : b.takenById n = some x)
    (hkind : x.opcode ∉ cancellable) : b.cancelDesc t = b.complete t 0 0 (leBytes 1 2) := by
  unfold Block.cancelSeen at hseen
  simp [Block.cancelDesc, hseen, hx, hkind]

theorem Block.cancelDesc_of_over (hseen : b.cancelSeen t = none ∨ ∃ m st, b.cancelSeen t = some (fieldAt t.bytes 32 4, m, some st)) :
    b.cancelDesc t = b.complete t 0 0 (leBytes 1 1) := by
  unfold Block.cancelSeen at hseen
  rcases hseen with hnone | ⟨m, st, hdone⟩
  · simp only [Block.cancelDesc, hnone]
  · simp only [Block.cancelDesc, hdone]

end

/-- Settles O12: each descriptor is next in turn; COMPRESS by its operands, CANCEL by what the window of its ring shows. -/
theorem smallDescriptors : Obligations.SmallDescriptors := by
  unfold Obligations.SmallDescriptors
  intro s id t x n
  refine ⟨fun hnext => ?nop, fun hnext hblk heffort hstream => ?compress, fun hnext hbad => ?refused, fun hnext => ?decompress,
    fun hnext => ⟨fun hseen hx hkind hbegun => ?running, fun hseen hx hkind => ?kind, fun hseen => ?ended⟩⟩
  case nop => exact onTray_onDesc_eq_of _ hnext rfl
  case compress => exact onTray_onDesc_eq_of Block.compressDesc hnext (Block.compressDesc_of_good hblk heffort hstream)
  case refused => exact onTray_onDesc_eq_of Block.compressDesc hnext (Block.compressDesc_of_bad hbad)
  case decompress => exact onTray_onDesc_eq_of (fun b _ => b) hnext rfl
  case running => exact onTray_onDesc_eq_of Block.cancelDesc hnext (Block.cancelDesc_of_running hseen hx hkind hbegun)
  case kind => exact onTray_onDesc_eq_of Block.cancelDesc hnext (Block.cancelDesc_of_kind hseen hx hkind)
  case ended => exact onTray_onDesc_eq_of Block.cancelDesc hnext (Block.cancelDesc_of_over hseen)

/-! ### QUENCH and RESTORE (R338, R340) -/

section
variable {b : Block} {t : Taken} {c : Nat}

theorem Block.quenchDesc_of_active (hactive : b.activeOf t.job = some c) (hrunning : (b.ctx c).quenched = false)
    (hfirst : (b.ctx c).quenchAt = none) : b.quenchDesc t = b.setCtx c { b.ctx c with
      quenchAt := some (if windowDiff (fieldAt t.bytes 32 5) (b.ctx c).nextPass < 0 then (b.ctx c).nextPass else fieldAt t.bytes 32 5),
      quenchDesc := some t.id } := by
  simp [Block.quenchDesc, hactive, hrunning, hfirst, Block.modCtx]

theorem Block.quenchDesc_of_none (hnone : b.activeOf t.job = none) : b.quenchDesc t = b.complete t 0x09 := by
  simp only [Block.quenchDesc, hnone]

variable {img : Bytes} (himg : b.descInput t = img) (hform : imageFormGood img = true)
include himg hform

theorem Block.restoreDesc_of_bad_digest (hdigest : imageDigestGood img = false) : b.restoreDesc t = b.complete t 0x13 := by
  simp [Block.restoreDesc, himg, hform, hdigest]

theorem Block.restoreDesc_of_good (hdigest : imageDigestGood img = true) (hactive : b.activeOf t.job = some c)
    (hquenched : (b.ctx c).quenched = true) (hbind : (b.ctx c).bind ≠ none) (hjob : imgJob img = (b.ctx c).job)
    (hepoch : imgEpoch img = (b.ctx c).epoch) (hplan : imgPlan img = (b.ctx c).plan)
    (hheld : (b.useRegion 2).replayHeld (b.ctx c) (imgWindow img) = true) :
    b.restoreDesc t = ((b.useRegion 2).startCatchup c ((b.useRegion 2).imageSnapshot img)).complete t 0 := by
  simp [Block.restoreDesc, himg, hform, hdigest, hactive, hquenched, hbind, hjob, hepoch, hplan, hheld]

end

/-- A descriptor next in turn that uses stacked memory is carried out once that is ready (R485). -/
theorem onTray_onMemory_eq_of {s : State} {op steward id : Nat} {t : Taken} (f : Block → Taken → Block) {y : Block}
    (hready : s.t.memoryReady = true) (h : s.descNext op steward id t) (hf : f (s.begin t) t.start = y) :
    onTray (fun b => b.onMemory op steward id f) s = .next (s.setBlock .T y) := by
  obtain ⟨hrun, hnext, hmine⟩ := h
  refine onBlock_eq_of s .T _ _ hrun ?_
  calc s.t.onMemory op steward id f = s.t.onDesc op steward id f := by rw [Block.onMemory, hready, Block.when_true]
    _ = y := (s.t.onDesc_eq op steward id f t hnext hmine).trans hf

/-- Settles O15: QUENCH by the job's active context, RESTORE by the checks of its image in their order. -/
theorem quenchAndRestore : Obligations.QuenchAndRestore := by
  unfold Obligations.QuenchAndRestore
  intro s id c t b x img
  refine ⟨fun hnext hactive hrunning hfirst => ?quench, fun hnext hnone => ?none,
    fun hnext hready hform hdigest hactive hquenched hbind hjob hepoch hplan hheld => ?restore, fun hnext hready hform hdigest => ?digest⟩
  case quench =>
    obtain rfl := id_of_descNext hnext
    exact onTray_onDesc_eq_of Block.quenchDesc hnext (Block.quenchDesc_of_active hactive hrunning hfirst)
  case none => exact onTray_onDesc_eq_of Block.quenchDesc hnext (Block.quenchDesc_of_none hnone)
  case restore =>
    exact onTray_onMemory_eq_of Block.restoreDesc hready hnext
      (Block.restoreDesc_of_good rfl hform hdigest hactive hquenched hbind hjob hepoch hplan hheld)
  case digest => exact onTray_onMemory_eq_of Block.restoreDesc hready hnext (Block.restoreDesc_of_bad_digest rfl hform hdigest)

/-! ### Leases (R431, R433) -/

section
variable {b : Block} {t : Taken} (hgood : leaseGood (fieldAt t.bytes 32 4) = true)

theorem Block.leaseAcquire_of_unlisted (hbad : leaseGood (fieldAt t.bytes 32 4) = false) : b.leaseAcquire t = b.complete t 0x0C := by
  simp [Block.leaseAcquire, hbad]

include hgood

theorem Block.leaseAcquire_of_free
    (hfree : (b.tray.host.lease (fieldAt t.bytes 32 4)).phase ≠ 1 ∨ (b.tray.host.lease (fieldAt t.bytes 32 4)).key = b.ringKey t.ring) :
    b.leaseAcquire t = ((b.modHost (fun h => h.setLease (fieldAt t.bytes 32 4) { phase := 1, key := b.ringKey t.ring })).count Reg.LSE_ACQ 1).complete
      t (if (b.tray.host.lease (fieldAt t.bytes 32 4)).phase = 2 then 0x02 else 0) := by
  have hmine : ¬ ((b.tray.host.lease (fieldAt t.bytes 32 4)).phase = 1 ∧
      (b.tray.host.lease (fieldAt t.bytes 32 4)).key ≠ b.ringKey t.ring) := by tauto
  simp only [Block.leaseAcquire, hgood, Bool.not_true, Bool.false_eq_true, if_false, if_neg hmine]

theorem Block.leaseAcquire_of_held (hphase : (b.tray.host.lease (fieldAt t.bytes 32 4)).phase = 1)
    (hkey : (b.tray.host.lease (fieldAt t.bytes 32 4)).key ≠ b.ringKey t.ring) : b.leaseAcquire t = b.complete t 0x0B := by
  simp [Block.leaseAcquire, hgood, hphase, hkey]

theorem Block.leaseRelease_of_holder (hphase : (b.tray.host.lease (fieldAt t.bytes 32 4)).phase = 1)
    (hkey : (b.tray.host.lease (fieldAt t.bytes 32 4)).key = b.ringKey t.ring) :
    b.leaseRelease t = (b.modHost (fun h => h.setLease (fieldAt t.bytes 32 4) {})).complete t 0 := by
  simp [Block.leaseRelease, hgood, hphase, hkey]

theorem Block.leaseRelease_of_other
    (hother : (b.tray.host.lease (fieldAt t.bytes 32 4)).phase ≠ 1 ∨ (b.tray.host.lease (fieldAt t.bytes 32 4)).key ≠ b.ringKey t.ring) :
    b.leaseRelease t = b.complete t 0x09 := by
  have hnot : ¬ ((b.tray.host.lease (fieldAt t.bytes 32 4)).phase = 1 ∧
      (b.tray.host.lease (fieldAt t.bytes 32 4)).key = b.ringKey t.ring) := by tauto
  simp only [Block.leaseRelease, hgood, Bool.not_true, Bool.false_eq_true, if_false, if_neg hnot]

end

/-- Settles O17: both descriptors by the lease of their resource and its key. -/
theorem leaseTable : Obligations.LeaseTable := by
  unfold Obligations.LeaseTable
  intro s id t b d r l key
  refine ⟨fun hnext hgood hfree => ?acquire, fun hnext hgood hphase hkey => ?held, fun hnext hgood hphase hkey => ?release,
    fun hnext hgood hother => ?other, fun hnext hbad => ?unlisted⟩
  case acquire => exact onTray_onDesc_eq_of Block.leaseAcquire hnext (Block.leaseAcquire_of_free hgood hfree)
  case held => exact onTray_onDesc_eq_of Block.leaseAcquire hnext (Block.leaseAcquire_of_held hgood hphase hkey)
  case release => exact onTray_onDesc_eq_of Block.leaseRelease hnext (Block.leaseRelease_of_holder hgood hphase hkey)
  case other => exact onTray_onDesc_eq_of Block.leaseRelease hnext (Block.leaseRelease_of_other hgood hother)
  case unlisted => exact onTray_onDesc_eq_of Block.leaseAcquire hnext (Block.leaseAcquire_of_unlisted hbad)

/-! ### GRANT, REVOKE, OWNER_TRANSFER and LOG_CLEAR (R370, R417, R429, R430) -/

/-- The rank ranges of a GRANT, from its input (R429). -/
def grantRanges (img : Bytes) (n : Nat) : List (Nat × Nat) := (List.range n).map (fun i => (fieldAt img (8 * i) 4, fieldAt img (8 * i + 4) 4))

/-- The dies of a context's tray that its map names for a rank of one of the ranges (R429). -/
def Block.grantDies (b : Block) (c : Nat) (ranges : List (Nat × Nat)) : List Nat :=
  (b.diesOf c).filter (fun k => (b.ctx c).map.any (fun m => slotOf m.2 == k && m.2 / 2 ^ 13 == b.da / 2 ^ 13 &&
    ranges.any (fun r => decide (r.1 ≤ m.1) && decide (m.1 ≤ r.2))))

/-- GRANT records are on their way to these dies (R429). -/
def Block.grantSent (b : Block) (c : Nat) (dies : List Nat) (body : Bytes) : Block :=
  (b.forEach dies (fun b k => b.sendControl (some c) (.die k) 0x0801 body)).count Reg.SEC_GRANTS dies.length

section
variable {b : Block} {t : Taken} {c : Nat}

theorem Block.grantDesc_of_good {ranges : List (Nat × Nat)} {dies : List Nat} {body : Bytes}
    (hranges : grantRanges (b.descInput t) (t.inLen / 8) = ranges) (hdies : b.grantDies c ranges = dies)
    (hbody : leBytes 8 (BitVec.ofNat 64 (fieldAt t.bytes 40 8)).toNat ++ leBytes 8 (fieldAt t.bytes 32 8) ++ leBytes 1 (t.inLen / 8) ++ zeros 7 ++
      (b.descInput t).take (8 * (t.inLen / 8)) = body)
    (hwhole : t.inLen % 8 = 0) (hmin : 1 ≤ t.inLen / 8) (hmax : t.inLen / 8 ≤ 64)
    (hbound : ranges.all (fun r => decide (r.1 ≤ r.2) && decide (r.2 < (b.ctx c).ranks)) = true) (hmask : fieldAt t.bytes 32 8 ≠ 0)
    (hfuture : 0 < ftDiff (BitVec.ofNat 64 (fieldAt t.bytes 40 8)) b.ft)
    (hhour : ftDiff (BitVec.ofNat 64 (fieldAt t.bytes 40 8)) b.ft ≤ 57600000000000) (hnode : b.lowestNode t.job = some c)
    (htray : c ∈ b.trayContexts) (hsome : dies ≠ []) :
    b.grantDesc t = (b.grantSent c dies body).setTaken
      { t with waitDies := dies, deadline := ftAdd (b.grantSent c dies body).ft (b.grantSent c dies body).dieTmo } := by
  subst hranges hdies hbody
  unfold Block.grantDesc
  extract_lets n ranges mask expiry node bound late
  have hnodeEq : node = some c := hnode
  have hboundEq : bound = (b.ctx c).ranks := by simp only [bound, hnodeEq]
  have hgood : ¬ (t.inLen % 8 ≠ 0 ∨ n < 1 ∨ 64 < n ∨ (!ranges.all (fun r => decide (r.1 ≤ r.2) && decide (r.2 < bound))) = true ∨ mask = 0 ∨
      late ≤ 0 ∨ 57600000000000 < late) := by
    rw [hboundEq]
    rintro (h | h | h | h | h | h | h)
    · exact h hwhole
    · exact absurd hmin (Nat.not_le.mpr h)
    · exact absurd hmax (Nat.not_le.mpr h)
    · rw [show ranges.all (fun r => decide (r.1 ≤ r.2) && decide (r.2 < (b.ctx c).ranks)) = true from hbound] at h; cases h
    · exact hmask h
    · exact absurd hfuture (Int.not_lt.mpr h)
    · exact absurd hhour (Int.not_le.mpr h)
  rw [if_neg hgood, hnodeEq]
  have hempty : ¬ (b.grantDies c ranges).isEmpty = true := mt List.isEmpty_iff.mp hsome
  simp only [htray, decide_true, Bool.not_true, Bool.false_eq_true, if_false]
  unfold Block.grantDies at hempty
  rw [if_neg hempty]
  unfold Block.grantSent Block.grantDies grantRanges
  rfl

theorem Block.revokeDesc_of_node (hnode : b.lowestNode t.job = some c) :
    b.revokeDesc t = (b.sendRevoke c (fieldAt t.bytes 32 8) (b.diesOf c)).complete t 0 := by
  simp only [Block.revokeDesc, hnode]

theorem Block.logClear_of_writes (h : b.logWrites = true) : b.logClear t = b.clearLog.complete t 0 := by
  simp only [Block.logClear, h, if_true]

theorem Block.logClear_of_no_writes (h : b.logWrites = false) : b.logClear t = b.complete t 0x09 := by
  simp only [Block.logClear, h, Bool.false_eq_true, if_false]

end

/-! #### What the end of ownership leaves of the host unit (R369, R434) -/

/-- The owner's state and the descriptors that are taken. -/
def Block.owned (b : Block) : Nat × List Taken := (b.tray.host.owner, b.tray.host.taken)

theorem Block.frameSent_tray (b : Block) : b.frameSent.tray = b.tray := by
  unfold Block.frameSent
  cases b.asleep with
  | true => rfl
  | false =>
    simp only [Bool.false_eq_true, if_false]
    split
    · exact (Block.addCounter_tray _ 1 55 1).trans (b.count_tray _ _)
    · exact b.count_tray _ _

theorem Block.sendOutput_tray (b : Block) (w : Send) (payloads : List Bytes) : (b.sendOutput w payloads).tray = b.tray := by
  have hstep : ∀ (x : Block) (bytes : Bytes), ((x.queueItem (x.sendCtx w.ctx) w.cls w.dest bytes).seqNext w.ctx).frameSent.tray = x.tray := by
    intro x bytes
    rw [Block.frameSent_tray]
    have hqueue : (x.queueItem (x.sendCtx w.ctx) w.cls w.dest bytes).tray = x.tray := by
      unfold Block.queueItem
      dsimp only
      split <;> rfl
    cases hc : w.ctx <;> rw [hc] at hqueue <;> exact hqueue
  have hfold : ∀ (ps : List Bytes) (a : Block × Nat), (ps.foldl (fun (a : Block × Nat) p =>
      ((((a.1.queueItem (a.1.sendCtx w.ctx) w.cls w.dest (a.1.frameFor w a.2 payloads.length p)).seqNext w.ctx).frameSent), a.2 + 1)) a).1.tray =
        a.1.tray := by
    intro ps
    induction ps with
    | nil => exact fun _ => rfl
    | cons p ps ih => exact fun a => (ih _).trans (hstep a.1 _)
  exact hfold payloads (b, 0)

/-- A record that is sent leaves the tray's own units. -/
@[simp] theorem Block.sendControl_tray (b : Block) (c : Option Nat) (d : Dest) (ctype : Nat) (body : Bytes) (level : Option Nat) (invalid : Bool) :
    (b.sendControl c d ctype body level invalid).tray = b.tray := Block.sendOutput_tray _ _ _

theorem Block.owned_of_tray {x y : Block} (h : x.tray = y.tray) : x.owned = y.owned := by simp only [Block.owned, h]

theorem Block.modOut_owned (b : Block) (d : Nat) (f : OutRing → OutRing) : (b.modOut d f).owned = b.owned := by
  unfold Block.modOut
  split
  · rfl
  · split <;> rfl

theorem Block.keepEntries_owned (b : Block) (d : Nat) : (b.keepEntries d).owned = b.owned := by
  unfold Block.keepEntries
  extract_lets x q runs
  split
  · rfl
  · split
    · exact Block.modOut_owned _ _ _
    · rfl

theorem Block.disableRing_owned (b : Block) (d : Nat) : (b.disableRing d).owned = b.owned :=
  (Block.keepEntries_owned _ d).trans (Block.owned_of_tray (b.putBit_tray _ _ _))

theorem Block.rollback_owned (b : Block) (r : Nat) : (b.rollback r).owned = b.owned := by
  unfold Block.rollback
  split
  · rfl
  · exact Block.owned_of_tray (b.sendControl_tray ..)
  · split <;> rfl

/-- Ownership that has ended leaves no descriptor, and the state that was named. -/
theorem Block.loseOwnership_owned (b : Block) (next : Nat) : (b.loseOwnership next).owned = (next, []) := by
  unfold Block.loseOwnership Block.breakLeases Block.disableRings
  have hdisabled : ∀ y : Block, y.owned = (next, []) → (y.forEach (List.range 37) Block.disableRing).owned = (next, []) := fun y hy =>
    Block.forEach_keeps (fun x => x.owned = (next, [])) _ _ y hy fun x d hx => (x.disableRing_owned d).trans hx
  refine Block.forEach_keeps (fun x => x.owned = (next, [])) _ _ _ (hdisabled _ rfl) fun x e hx => ?_
  rw [Block.rollback_owned, Block.owned_of_tray (Block.flag_tray _ _ _), Block.owned_of_tray (Block.count_tray _ _ _)]
  exact hx

/-- The tray once OWNER_TRANSFER has ended every other descriptor, itself and ownership (R370). -/
def Block.transferEnded (b : Block) (t : Taken) : Block :=
  let stopped := b.forEach b.undecided (fun b c => b.abortStart c 2 true)
  ((stopped.forEach stopped.tray.host.taken (fun b x => if x.id = t.id then b else b.complete x 0x0D)).complete t 0).loseOwnership 2

theorem Block.transferDesc_eq (b : Block) (t : Taken) : b.transferDesc t = (b.transferEnded t).modHost (fun h => { h with
    ownerId := BitVec.ofNat 64 (fieldAt t.bytes 32 8),
    transferEnd := BitVec.ofNat 64 ((b.transferEnded t).time.cycles + max 1 ((b.transferEnded t).fld Reg.HST_CTL 23 16) * timHz) }) := by
  simp only [Block.transferDesc, Block.transferEnded]

/-- Settles O18: each descriptor is next in turn; GRANT passes its checks, and OWNER_TRANSFER ends in the end of ownership. -/
theorem accessDescriptors : Obligations.AccessDescriptors := by
  unfold Obligations.AccessDescriptors
  intro s id c t b d n ranges mask expiry dies body
  refine ⟨fun hnext hwhole hmin hmax hbound hmask hfuture hhour hnode htray hsome => ?grant, fun hnext hnode => ?revoke, fun hnext => ?transfer,
    fun hnext hwrites => ?clear, fun hnext hwrites => ?refused⟩
  case grant =>
    exact onTray_onDesc_eq_of Block.grantDesc hnext
      (Block.grantDesc_of_good rfl rfl rfl hwhole hmin hmax hbound hmask hfuture hhour hnode htray hsome)
  case revoke => exact onTray_onDesc_eq_of Block.revokeDesc hnext (Block.revokeDesc_of_node hnode)
  case transfer =>
    obtain rfl := id_of_descNext hnext
    intro stopped cancelled left until_
    have hleft : (s.begin t).transferEnded t.start = left := rfl
    have hact := (s.begin t).transferDesc_eq t.start
    have huntil : BitVec.ofNat 64 (left.time.cycles + max 1 (left.fld Reg.HST_CTL 23 16) * timHz) = until_ := rfl
    rw [hleft, huntil] at hact
    have hexec := onTray_onDesc_eq_of Block.transferDesc hnext hact
    have howned : left.owned = (2, []) := Block.loseOwnership_owned (cancelled.complete d 0) 2
    refine ⟨hexec, _, hexec, ?_⟩
    clear_value left
    obtain ⟨howner, htaken⟩ := Prod.mk.inj howned
    exact ⟨howner, htaken⟩
  case clear => exact onTray_onDesc_eq_of Block.logClear hnext (Block.logClear_of_writes hwrites)
  case refused => exact onTray_onDesc_eq_of Block.logClear hnext (Block.logClear_of_no_writes hwrites)

/-! ### POWER, STW_RESTART, FW_ACTIVATE and INJECT (R441, R443, R447, R452, R460) -/

/-! #### The transition time stands while POWER records are sent (R452) -/

theorem Block.modOut_ctxs (b : Block) (d : Nat) (f : OutRing → OutRing) : (b.modOut d f).ctxs = b.ctxs := by
  unfold Block.modOut
  split
  · rfl
  · split <;> rfl

theorem Block.flushCpl_ctxs (b : Block) (i n : Nat) : (b.flushCpl i n).ctxs = b.ctxs := by
  induction n generalizing b with
  | zero => rfl
  | succ n ih =>
    simp only [Block.flushCpl]
    split
    · rfl
    · split
      · exact (ih _).trans (Block.modOut_ctxs _ _ _)
      · rfl

theorem Block.countStatus_ctxs (b : Block) (status : Nat) : (b.countStatus status).ctxs = b.ctxs := by
  unfold Block.countStatus
  split
  · exact b.count_ctxs _ _
  · split
    · exact b.count_ctxs _ _
    · split
      · exact b.count_ctxs _ _
      · rfl

/-- A completion leaves the contexts. -/
theorem Block.complete_ctxs (b : Block) (t : Taken) (status len : Nat) (result : Bytes) : (b.complete t status len result).ctxs = b.ctxs :=
  (Block.countStatus_ctxs _ status).trans (Block.flushCpl_ctxs _ _ _)

theorem Block.frameSent_ctxs (b : Block) : b.frameSent.ctxs = b.ctxs := by
  unfold Block.frameSent
  cases b.asleep with
  | true => rfl
  | false =>
    simp only [Bool.false_eq_true, if_false]
    split
    · exact (Block.addCounter_ctxs _ 1 55 1).trans (b.count_ctxs _ _)
    · exact b.count_ctxs _ _

/-- What an output of no context sends leaves the contexts. -/
theorem Block.sendOutput_ctxs (b : Block) (w : Send) (payloads : List Bytes) (hnone : w.ctx = none) : (b.sendOutput w payloads).ctxs = b.ctxs := by
  have hstep : ∀ (x : Block) (bytes : Bytes), ((x.queueItem (x.sendCtx w.ctx) w.cls w.dest bytes).seqNext w.ctx).frameSent.ctxs = x.ctxs := by
    intro x bytes
    rw [Block.frameSent_ctxs, hnone]
    change (x.queueItem _ w.cls w.dest bytes).ctxs = x.ctxs
    unfold Block.queueItem
    dsimp only
    split <;> rfl
  have hfold : ∀ (ps : List Bytes) (a : Block × Nat), (ps.foldl (fun (a : Block × Nat) p =>
      ((((a.1.queueItem (a.1.sendCtx w.ctx) w.cls w.dest (a.1.frameFor w a.2 payloads.length p)).seqNext w.ctx).frameSent), a.2 + 1)) a).1.ctxs =
        a.1.ctxs := by
    intro ps
    induction ps with
    | nil => exact fun _ => rfl
    | cons p ps ih => exact fun a => (ih _).trans (hstep a.1 _)
  exact hfold payloads (b, 0)

/-- A record of no context that is sent leaves the contexts. -/
theorem Block.sendControl_none_ctxs (b : Block) (d : Dest) (ctype : Nat) (body : Bytes) (level : Option Nat) (invalid : Bool) :
    (b.sendControl none d ctype body level invalid).ctxs = b.ctxs := Block.sendOutput_ctxs _ _ _ rfl

theorem Block.powerTime_of {x y : Block} (htime : x.time = y.time) (hctxs : x.ctxs = y.ctxs) : x.powerTime = y.powerTime := by
  simp only [Block.powerTime, Block.ft, Block.kMax, htime, hctxs]

/-- A POWER that ends an older one leaves the transition time. -/
theorem Block.replacePower_powerTime (b : Block) (id : Nat) (slots : List Nat) : (b.replacePower id slots).powerTime = b.powerTime :=
  Block.forEach_keeps (fun x => x.powerTime = b.powerTime) _ _ b rfl fun x t hx =>
    (Block.powerTime_of (Block.time_of_clockState (x.complete_clockState t 0x0D 0 [])) (x.complete_ctxs t 0x0D 0 [])).trans hx

/-- Two folds do the same where they do the same to every block that keeps what they keep. -/
theorem Block.forEach_congr {α : Type} (P : Block → Prop) (f g : Block → α → Block) (xs : List α) (b : Block) (h : P b)
    (hg : ∀ x a, P x → P (g x a)) (hfg : ∀ x a, P x → f x a = g x a) : b.forEach xs f = b.forEach xs g := by
  induction xs generalizing b with
  | nil => rfl
  | cons a xs ih => rw [Block.forEach_cons, Block.forEach_cons, hfg b a h, ih _ (hg b a h)]

section
variable {b : Block} {t : Taken}

/-- POWER records are on their way to these dies, and an older POWER that waits for one of them has ended (R452, R453). -/
def Block.powerSent (b : Block) (t : Taken) (slots : List Nat) : Block :=
  (b.replacePower t.id slots).forEach slots (fun y k =>
    y.sendControl none (.die k) 0x0902 (leBytes 1 (byteAt t.bytes 32) ++ zeros 7 ++ leBytes 8 b.powerTime.toNat))

/-- Each record names the transition time as it stands when it is sent, which is the same for all of them. -/
theorem Block.powerSent_eq (slots : List Nat) : b.powerSent t slots = (b.replacePower t.id slots).forEach slots (fun y k =>
    y.sendControl none (.die k) 0x0902 (leBytes 1 (byteAt t.bytes 32) ++ zeros 7 ++ leBytes 8 y.powerTime.toNat)) := by
  refine Block.forEach_congr (fun x => x.powerTime = b.powerTime) _ _ slots _ (b.replacePower_powerTime t.id slots) (fun x k hx => ?_)
    (fun x k hx => by rw [hx])
  exact (Block.powerTime_of (Block.time_of_clockState (Block.sendControl_clockState ..)) (Block.sendControl_none_ctxs ..)).trans hx

section
variable (hto : byteAt t.bytes 32 ≤ 3)
include hto

theorem Block.powerDesc_of_tray (hscope : byteAt t.bytes 33 = 0) (hgo : b.mayGo (byteAt t.bytes 32) = true) (hfirst : b.power.desc = none) :
    b.powerDesc t = b.modPower (fun p => { p with target := some (byteAt t.bytes 32), time := b.powerTime, desc := some t.id }) := by
  simp [Block.powerDesc, hscope, hgo, hfirst, Nat.not_lt.mpr hto]

theorem Block.powerDesc_of_refused (hscope : byteAt t.bytes 33 = 0) (hgo : b.mayGo (byteAt t.bytes 32) = false) :
    b.powerDesc t = (b.flag Reg.PWR_STS 6).complete t 0x09 := by
  simp [Block.powerDesc, hscope, hgo, Nat.not_lt.mpr hto, Block.powerRefused]

theorem Block.powerDesc_of_dies (hscope : byteAt t.bytes 33 = 1) (hsome : maskSlots (fieldAt t.bytes 36 4) ≠ []) :
    b.powerDesc t = (b.powerSent t (maskSlots (fieldAt t.bytes 36 4))).setTaken { t with
      waitDies := maskSlots (fieldAt t.bytes 36 4),
      deadline := ftAdd (b.powerSent t (maskSlots (fieldAt t.bytes 36 4))).ft (b.powerSent t (maskSlots (fieldAt t.bytes 36 4))).dieTmo } := by
  simp [Block.powerDesc, hscope, hsome, Nat.not_lt.mpr hto, Block.powerSent]

end

theorem Block.stwRestartDesc_of_may (hi : byteAt t.bytes 32 ≤ 5) (hmay : b.mayRestart (byteAt t.bytes 32) = true) :
    b.stwRestartDesc t =
      (b.modSteward (byteAt t.bytes 32) (fun x => { x with desc := some t.id })).startRestart (byteAt t.bytes 32) true := by
  simp [Block.stwRestartDesc, hmay, Nat.not_lt.mpr hi]

/-- The stewards that an FW_ACTIVATE names. -/
def stewardsNamed (t : Taken) : List Nat := (List.range 6).filter (fun i => bitOf (byteAt t.bytes 32) i)

section
variable (hslot : byteAt t.bytes 33 ≤ 1)
include hslot

theorem Block.fwActivateDesc_of_good (hgood : ∀ i ∈ stewardsNamed t, b.imageCause (byteAt t.bytes 33) i = 0) :
    b.fwActivateDesc t = (b.writeDirectory ((List.range 6).foldl (fun a i =>
      a + bit (if i ∈ stewardsNamed t then byteAt t.bytes 33 == 1 else bitOf b.activeSlots i) * 2 ^ i) 0)).activateNext
        { t with waitDies := stewardsNamed t } := by
  have hnone : (stewardsNamed t).filter (fun i => b.imageCause (byteAt t.bytes 33) i != 0) = [] := by
    rw [List.filter_eq_nil_iff]
    intro i hi
    simp [hgood i hi]
  unfold stewardsNamed at hnone
  simp only [Block.fwActivateDesc, if_neg (Nat.not_lt.mpr hslot), hnone]
  rfl

theorem Block.fwActivateDesc_of_refused (i : Nat) (refused : List Nat)
    (hbad : (stewardsNamed t).filter (fun i => b.imageCause (byteAt t.bytes 33) i != 0) = i :: refused) :
    b.fwActivateDesc t = (b.forEach (i :: refused) (fun y j =>
      y.modSteward j (fun x => { x with cause := b.imageCause (byteAt t.bytes 33) j }))).complete t 0x10 0 (leBytes 1 i) := by
  unfold stewardsNamed at hbad
  simp only [Block.fwActivateDesc, if_neg (Nat.not_lt.mpr hslot), hbad]

end

theorem Block.testDesc_of_inject (hmode : byteAt t.bytes 32 = 1) (hzero : zeroAt t.bytes 39 25 = true)
    (hunit : unitExists (byteAt t.bytes 36) (byteAt t.bytes 37) (byteAt t.bytes 38) = true) :
    b.testDesc t = b.modTest (fun x => { x with
      injected := sput (fun _ => (0 : Nat)) x.injected (unitKey (byteAt t.bytes 36) (byteAt t.bytes 37) (byteAt t.bytes 38)) 2,
      descs := sinsert (unitKey (byteAt t.bytes 36) (byteAt t.bytes 37) (byteAt t.bytes 38)) t.id x.descs }) := by
  simp [Block.testDesc, hmode, hzero, hunit]

theorem Block.testDesc_of_reserved (hmode : byteAt t.bytes 32 ≠ 1) : b.testDesc t = b.complete t 0x0C := by
  simp [Block.testDesc, hmode]

end

/-- Settles O19: each descriptor is next in turn; POWER by its scope and the listed transitions, FW_ACTIVATE by the images that do not verify. -/
theorem chipDescriptors : Obligations.ChipDescriptors := by
  unfold Obligations.ChipDescriptors
  intro s id t b d
  refine ⟨fun hnext hscope hto hgo hfirst => ?tray, fun hnext hscope hto hgo => ?refused, fun hnext hscope hto => ?dies,
    fun hnext hi hmay => ?restart, fun hnext hslot => ?activate, fun i refused hnext hslot hbad => ?invalid,
    fun hnext hmode hzero hunit => ?inject, fun hnext hmode => ?reserved⟩
  all_goals obtain rfl := id_of_descNext hnext
  case tray => exact onTray_onDesc_eq_of Block.powerDesc hnext (Block.powerDesc_of_tray hto hscope hgo hfirst)
  case refused => exact onTray_onDesc_eq_of Block.powerDesc hnext (Block.powerDesc_of_refused hto hscope hgo)
  case dies =>
    intro slots hsome
    have hact := Block.powerDesc_of_dies (b := s.begin t) (t := t.start) hto hscope hsome
    rw [Block.powerSent_eq] at hact
    exact onTray_onDesc_eq_of Block.powerDesc hnext hact
  case restart => exact onTray_onDesc_eq_of Block.stwRestartDesc hnext (Block.stwRestartDesc_of_may hi hmay)
  case activate =>
    intro named hgood
    exact onTray_onDesc_eq_of Block.fwActivateDesc hnext (Block.fwActivateDesc_of_good hslot hgood)
  case invalid => exact onTray_onDesc_eq_of Block.fwActivateDesc hnext (Block.fwActivateDesc_of_refused (t := t.start) hslot i refused hbad)
  case inject => exact onTray_onDesc_eq_of Block.testDesc hnext (Block.testDesc_of_inject hmode hzero hunit)
  case reserved => exact onTray_onDesc_eq_of Block.testDesc hnext (Block.testDesc_of_reserved hmode)

end Sys2Proof.Machine

/-! Records between a tray and its dies (R11, R14, R328, R329, R383, R413, R414, R429, R452, R454 to R456), and configuration transactions
(R329, R330). -/

namespace Sys2Proof.Machine

/-- A command that receives a control record, on a block that hears it: what the record does. -/
theorem exec_of_hears {c : Instr} {s : State} {b : Build} {link : Fin 64} {raw : Bytes} {ctype : Nat} {act : Block → Frame → Bytes → Block}
    {f : Frame} {r : Bytes} {b' y : Block} (hexec : exec c s = onBlock b (fun x => x.receiveControl link raw ctype act) s)
    (hhears : s.hears b link raw ctype f r b') (hact : act b' f r = y) : exec c s = .next (s.setBlock b y) := by
  rw [hexec, onBlock_receiveControl s b link raw ctype f r b' act hhears, hact]

/-! ### Staged writes and commits (R328, R329) -/

section
variable {b : Block}

/-- A write enters the staging set with a key that it does not hold yet and room for it (R328). -/
theorem Block.stageWrite_of_new {off : Nat} {v : Word} (htaken : b.stageRefused off v = false)
    (hnew : stagedAt b.txn.staged (b.stagedKey off) = none) (hroom : b.txn.staged.length < b.stageCap) :
    b.stageWrite off v = { b with txn := { b.txn with staged := b.txn.staged ++ [(b.stagedKey off, v)] } } := by
  simp [Block.stageWrite, htaken, hnew, Nat.not_le.mpr hroom]

/-- A commit that is accepted waits for its time (R329). -/
theorem Block.commitTxn_of_accepted {cft : BitVec 64} (h : b.commitStatus cft = 0) : b.commitTxn cft =
    { b with txn := { b.txn with staged := [], poisoned := false, pending := b.txn.pending ++ [(cft, b.txn.staged)] } } := by
  simp [Block.commitTxn, h]

/-- A commit that is refused discards the staging set with its status (R329). -/
theorem Block.commitTxn_of_refused {cft : BitVec 64} {st : Nat} (h : b.commitStatus cft = st) (hst : st ≠ 0) : b.commitTxn cft =
    (({ b with txn := { b.txn with staged := [], poisoned := false } }.flag Reg.PLN_TXN_STS 27).setFld Reg.PLN_TXN_STS 23 16 st).commitResult
      st := by
  simp [Block.commitTxn, h, hst]

end

/-! ### Records at a die and its answers (R383, R429, R452) -/

section
variable {b : Block} {f : Frame} {r : Bytes} {t : Taken}

/-- An answer of a die counts, and the last one ends its GRANT (R429). -/
theorem Block.grantResp_of_waiting (hwait : b.waiting 0x18 (slotOf f.srcDa) (fun t => t.job == f.job) = some t) (hst : byteAt r 8 ∈ [0, 9]) :
    b.grantResp f r = if (t.answered (slotOf f.srcDa) (byteAt r 8 == 0)).waitDies.isEmpty
      then b.grantEnd (t.answered (slotOf f.srcDa) (byteAt r 8 == 0)) else b.setTaken (t.answered (slotOf f.srcDa) (byteAt r 8 == 0)) := by
  simp only [Block.grantResp, hwait, hst, decide_true, Bool.not_true, Bool.false_eq_true, if_false]

/-- An answer of a die counts, and the last one ends its POWER (R452). -/
theorem Block.powerResp_of_waiting (hwait : b.waiting 0x60 (slotOf f.srcDa) (fun _ => true) = some t) (hst : byteAt r 8 ∈ [0, 9]) :
    b.powerResp f r = if (t.answered (slotOf f.srcDa) (byteAt r 8 == 0)).waitDies.isEmpty
      then b.powerEnd (t.answered (slotOf f.srcDa) (byteAt r 8 == 0)) else b.setTaken (t.answered (slotOf f.srcDa) (byteAt r 8 == 0)) := by
  simp only [Block.powerResp, hwait, hst, decide_true, Bool.not_true, Bool.false_eq_true, if_false]

end

/-- Settles O26: a record at a die by its register or its transaction, an answer by the descriptor that waits for it. -/
theorem registerRecords : Obligations.RegisterRecords := by
  unfold Obligations.RegisterRecords
  constructor
  case left =>
    intro s link raw f r b' off v cft
    refine ⟨fun hhears hrow hnever => exec_of_hears rfl hhears ?atOnce,
      fun hhears hrow hstaged htaken hnew hroom => exec_of_hears rfl hhears ?staged, fun hhears haccepted => exec_of_hears rfl hhears ?commit,
      fun hhears => exec_of_hears rfl hhears rfl, fun hhears => exec_of_hears rfl hhears rfl, fun hhears => exec_of_hears rfl hhears rfl⟩
    case atOnce =>
      change (if (regRowAt b'.build off).isNone then b' else if neverStaged off then b'.storeReg off v else b'.stageWrite off v) = _
      rw [if_neg (by simpa using Option.isSome_iff_ne_none.mp hrow), if_pos hnever]
    case staged =>
      change (if (regRowAt b'.build off).isNone then b' else if neverStaged off then b'.storeReg off v else b'.stageWrite off v) = _
      rw [if_neg (by simpa using Option.isSome_iff_ne_none.mp hrow), if_neg (by simp [hstaged]), Block.stageWrite_of_new htaken hnew hroom]
    case commit => exact Block.commitTxn_of_accepted haccepted
  case right =>
    intro s port link raw f r b' t slot
    refine ⟨fun hhears hwait => exec_of_hears rfl hhears ?resp, fun hhears hwait => exec_of_hears rfl hhears ?result,
      fun hhears hwait hst => exec_of_hears rfl hhears (Block.grantResp_of_waiting hwait hst),
      fun hhears hwait hst => exec_of_hears rfl hhears (Block.powerResp_of_waiting hwait hst)⟩
    case resp => simp only [slot] at hwait; simp only [hwait]
    case result => simp only [slot] at hwait; simp only [hwait]

/-! ### POWER, CRUMB and SENSOR records (R11, R14, R413, R414, R452, R454 to R456) -/

section
variable {b : Block} {f : Frame} {r : Bytes} {c : Nat}

/-- A POWER record of a listed transition is answered OK, and the transition waits, or acts at once without valid time (R452, R456). -/
theorem Block.powerRecord_of_listed (hto : byteAt r 8 ≤ 3) (hgo : b.mayGo (byteAt r 8) = true) {b1 : Block}
    (hb1 : (b.sendControl none .tray 0x0903 (leBytes 1 0 ++ zeros 7)).modPower
      (fun p => { p with target := some (byteAt r 8), time := BitVec.ofNat 64 (fieldAt r 16 8) }) = b1) :
    b.powerRecord f r = if b1.time.valid then b1 else b1.applyPower (byteAt r 8) := by
  subst hb1
  simp [Block.powerRecord, hgo, Nat.not_lt.mpr hto]

theorem Block.powerRecord_of_unlisted (hto : byteAt r 8 ≤ 3) (hgo : b.mayGo (byteAt r 8) = false) :
    b.powerRecord f r = (b.flag Reg.PWR_STS 6).sendControl none .tray 0x0903 (leBytes 1 0x09 ++ zeros 7) := by
  simp [Block.powerRecord, hgo, Nat.not_lt.mpr hto, Block.powerRefused]

theorem Block.crumbRecord_of_health (hgood : crumbGood (slice r 8 31) = true) (hsource : crumbSourceGood (slice r 8 31) = true)
    (hhealth : bitOf (byteAt (slice r 8 31) 2) 7 = true) : b.crumbRecord f r = b.storeHealth (slice (slice r 8 31) 0 3 ++
      leBytes 1 (byteAt (slice r 8 31) 3 / 2 * 2 + 1) ++ slice (slice r 8 31) 4 16 ++ b.healthTime ++ slice (slice r 8 31) 28 3) := by
  simp only [Block.crumbRecord, hgood, hsource, hhealth, Bool.and_self, Bool.not_true, Bool.false_eq_true, if_false, if_true]

theorem Block.crumbRecord_of_bad (hbad : crumbGood (slice r 8 31) = false ∨ crumbSourceGood (slice r 8 31) = false) :
    b.crumbRecord f r = (b.count Reg.EVR_BAD 1).flag Reg.EVR_STS 0 := by
  have hnot : (crumbGood (slice r 8 31) && crumbSourceGood (slice r 8 31)) = false := Bool.and_eq_false_iff.mpr hbad
  simp only [Block.crumbRecord, hnot, Bool.not_false, if_true]

theorem Block.sensorRecord_of_bad (hbad : sensorGood r = false) : b.sensorRecord f r = b.recordBad := by
  simp only [Block.sensorRecord, hbad, Bool.not_false, if_true]

theorem Block.sensorRecord_of_good (hgood : sensorGood r = true) (hchild : b.fromChild f = some c)
    (hopen : ftGe ((b.ctx c).closeTime b.ft (fieldAt r 8 5)) b.ft = true) : b.sensorRecord f r =
      b.modWin c (fieldAt r 8 5) (fun p => { p with sensors := sput (fun _ => []) p.sensors f.rank r }) := by
  simp only [Block.sensorRecord, hgood, hchild, hopen, Bool.not_true, Bool.false_eq_true, if_false, if_true]

end

/-- Settles O28: each record by what it asks for or brings, and by whether its values are reserved. -/
theorem dieReports : Obligations.DieReports := by
  unfold Obligations.DieReports
  intro s port link raw f r b' c
  exact ⟨fun hhears hto hgo => exec_of_hears rfl hhears (Block.powerRecord_of_listed hto hgo rfl),
    fun hhears hto hgo => exec_of_hears rfl hhears (Block.powerRecord_of_unlisted hto hgo),
    fun hhears hgood hsource hhealth => exec_of_hears rfl hhears (Block.crumbRecord_of_health hgood hsource hhealth),
    fun hhears hbad => exec_of_hears rfl hhears (Block.crumbRecord_of_bad hbad),
    fun hhears hbad => exec_of_hears rfl hhears (Block.sensorRecord_of_bad hbad),
    fun hhears hgood hchild hopen => exec_of_hears rfl hhears (Block.sensorRecord_of_good hgood hchild hopen)⟩

/-! ### Commits and the change at CFT (R329, R330) -/

/-- A byte that is put in bits 23 to 16 of a word reads as it was put. -/
theorem bitsOf_wordPut_status (w : Word) (v : Nat) (hv : v < 256) : bitsOf (wordPut w 23 16 v).toNat 23 16 = v := by
  have hw := w.isLt
  simp only [wordPut, bitsOf, BitVec.toNat_ofNat]
  omega

/-- The bits above it stay. -/
theorem getLsbD_wordPut_status (w : Word) (v i : Nat) (hlo : 24 ≤ i) : (wordPut w 23 16 v).getLsbD i = w.getLsbD i := by
  have hw := w.isLt
  have hhigh : (wordPut w 23 16 v).toNat / 2 ^ 24 = w.toNat / 2 ^ 24 := by
    simp only [wordPut, bitsOf, BitVec.toNat_ofNat]
    omega
  have hbit : ∀ x : Word, x.getLsbD i = (x.toNat / 2 ^ 24).testBit (i - 24) := fun x => by
    rw [← Nat.shiftRight_eq_div_pow, Nat.testBit_shiftRight, Nat.add_sub_cancel' hlo]; rfl
  rw [hbit, hbit, hhigh]

section
variable (b : Block)

/-- The status that a transaction ended with, and the flag that tells of its end (R329, R330). -/
def Block.txnStatus (i st : Nat) : Block := (b.flag Reg.PLN_TXN_STS i).setFld Reg.PLN_TXN_STS 23 16 st

theorem Block.txnStatus_fld (i st : Nat) (hst : st < 256) : (b.txnStatus i st).fld Reg.PLN_TXN_STS 23 16 = st := by
  rw [Block.txnStatus, Block.fld, Block.setFld, Block.setReg_reg, bitsOf_wordPut_status _ _ hst]

theorem Block.txnStatus_isSet (i st : Nat) (hlo : 24 ≤ i) (hhi : i < 32) : (b.txnStatus i st).isSet Reg.PLN_TXN_STS i = true := by
  rw [Block.txnStatus, Block.isSet, Block.setFld, Block.setReg_reg, getLsbD_wordPut_status _ _ _ hlo]
  exact b.flag_isSet Reg.PLN_TXN_STS i hhi

theorem Block.txnStatus_reg_other (i st off : Nat) (h : off ≠ Reg.PLN_TXN_STS) : (b.txnStatus i st).reg off = b.reg off := by
  rw [Block.txnStatus, Block.setFld_reg_other _ _ _ _ _ _ h, Block.flag_reg_other _ _ _ _ h]

/-- Borlu-T tells nobody of the outcome of its own commit. -/
theorem Block.commitResult_tray (st : Nat) (hT : b.build = .T) : b.commitResult st = b := by simp only [Block.commitResult, hT]

end

section
variable {b : Block}

theorem Block.commitStatus_of_poisoned (cft : BitVec 64) (h : b.txn.poisoned = true) : b.commitStatus cft = 0x09 := by
  simp only [Block.commitStatus, h, if_true]

theorem Block.commitStatus_of_no_boundary (cft : BitVec 64) (h : b.txn.poisoned = false) (hmod : cft.toNat % windowTicks (max 10 b.kMax) ≠ 0) :
    b.commitStatus cft = 0x0C := by
  simp only [Block.commitStatus, h, Bool.false_eq_true, if_false, if_pos hmod]

/-- A die judges no more than the set, the boundary and the lead (R329). -/
theorem Block.commitStatus_of_die (cft : BitVec 64) (hD : b.build = .D) (h : b.txn.poisoned = false)
    (hmod : cft.toNat % windowTicks (max 10 b.kMax) = 0) (hlead : (32000 : Int) ≤ ftDiff cft b.ft) : b.commitStatus cft = 0 := by
  have hnear : ¬ ftDiff cft b.ft < 2 * ticksPerUs := Int.not_lt.mpr hlead
  simp only [Block.commitStatus, h, Bool.false_eq_true, if_false, hmod, ne_eq, not_true_eq_false, if_neg hnear, hD, if_true]

/-- A refused commit of Borlu-T discards the set and shows its status (R329). -/
theorem Block.commitTxn_refused_tray {cft : BitVec 64} {st : Nat} (hT : b.build = .T) (h : b.commitStatus cft = st) (hst : st ≠ 0) :
    b.commitTxn cft = ({ b with txn := { b.txn with staged := [], poisoned := false } } : Block).txnStatus 27 st := by
  rw [Block.commitTxn_of_refused h hst]
  exact Block.commitResult_tray _ st hT

variable {cft : BitVec 64} {off : Nat} {v : Word} (hunit : loafFrameKneader off)
include hunit

/-- A write of the loaf, frame and kneader units takes effect as any other write of them, which stores its fields (R155, R330). -/
theorem Block.storeReg_regState (herr : off = Reg.LOF_ERR_INFO → v.getLsbD 30 = false) :
    (b.storeReg off v).regState = (b.writeFields off v).regState := by
  by_cases hctl : off = Reg.LOF_CTL
  · subst hctl
    exact b.writeLofCtl_regState v
  · rw [b.storeReg_eq_writeFields v hunit hctl herr]

/-- Such a write changes no path's accesses and no transaction. -/
theorem Block.storeReg_access (herr : off = Reg.LOF_ERR_INFO → v.getLsbD 30 = false) :
    (b.storeReg off v).access = b.access ∧ (b.storeReg off v).txn = b.txn := by
  by_cases hctl : off = Reg.LOF_CTL
  · subst hctl
    exact Block.forEach_keeps (fun x => x.access = b.access ∧ x.txn = b.txn) _ _ _ ⟨rfl, rfl⟩ fun _ _ h => h
  · rw [b.storeReg_eq_writeFields v hunit hctl herr]
    exact ⟨rfl, rfl⟩

/-- A staged write of the units in Borlu-T takes effect and enters the log of the replay (R330, R335). -/
theorem Block.applyWrite_of_unit (txn : Nat → Bool) (hT : b.build = .T) (hT' : (b.storeReg off v).build = .T) :
    b.applyWrite cft txn (off, v) = { b.storeReg off v with txn := { (b.storeReg off v).txn with log := (b.storeReg off v).txn.log ++
      [(cft, off, b.reg off, if off ∈ passSettings then (b.storeReg off v).reg off else v)] } } := by
  obtain ⟨hlo, hhi⟩ := hunit
  have hkey : off % 2 ^ 24 = off := Nat.mod_eq_of_lt (by unfold unitOf at hhi; omega)
  have hda : off ≠ Reg.HIS_GRP_DA := ne_of_loafFrameKneader ⟨hlo, hhi⟩ (by decide)
  have hsched : off ≠ Reg.PLN_SCHED := ne_of_loafFrameKneader ⟨hlo, hhi⟩ (by decide)
  have hrole : inArray Reg.MBR_ROLE 4 off = none := by
    unfold unitOf at hhi
    unfold inArray
    rw [if_neg (by simp only [Reg.MBR_ROLE]; omega)]
  simp only [Block.applyWrite, hkey, if_neg hda, if_neg hsched, hT, hrole, hT']

/-- A commit of Borlu-T whose set is one write of the units (R330), where the local port has written nothing in the cycle: the write is stored, SEQ
advances, and the status tells of it. -/
theorem Block.applyCommit_of_unit (hT : b.build = .T) (herr : off = Reg.LOF_ERR_INFO → v.getLsbD 30 = false)
    (hlocal : ∀ w ∈ b.access.writes, w.1 ≠ .localPort) : ∃ y : Block,
      b.applyCommit (cft, [(off, v)]) = (y.setReg Reg.PLN_TXN_SEQ (y.reg Reg.PLN_TXN_SEQ + 1)).txnStatus 28 0 ∧
      y.regState = (b.writeFields off v).regState ∧ y.txn.pending = b.txn.pending.erase (cft, [(off, v)]) := by
  let b0 : Block := { b with txn := { b.txn with pending := b.txn.pending.erase (cft, [(off, v)]) } }
  have hregs : (b0.storeReg off v).regState = (b.writeFields off v).regState := Block.storeReg_regState hunit herr
  obtain ⟨haccess, htxn⟩ := Block.storeReg_access (b := b0) hunit herr
  have hbuild : (b0.storeReg off v).build = .T := (congrArg Prod.fst hregs).trans hT
  have hown : ∀ p : Path × Nat × Word × Word → Bool, b0.access.writes.filter (fun w => w.1 == .localPort && p w) = [] := by
    intro p
    rw [List.filter_eq_nil_iff]
    intro w hw
    simp [hlocal w hw]
  let y : Block := { b0.storeReg off v with txn := { (b0.storeReg off v).txn with log := (b0.storeReg off v).txn.log ++
    [(cft, off, b0.reg off, if off ∈ passSettings then (b0.storeReg off v).reg off else v)] } }
  refine ⟨y, ?_, hregs, congrArg CfgTxn.pending htxn⟩
  have hnot : ¬ (b0.build = .D ∧ b0.changesTxn [(off, v)] = true) := fun h => by
    have hD : b.build = .D := h.1
    rw [hT] at hD; cases hD
  unfold Block.applyCommit
  extract_lets _ c0 c1 txn c2 own c3 c4
  have hc1 : c1 = b0 := if_neg hnot
  have hc2 : c2 = y := by
    simp only [c2, Block.forEach_cons, Block.forEach_nil, hc1]
    exact Block.applyWrite_of_unit hunit txn hT hbuild
  have hc3 : c3 = y := by
    have hempty : own = [] := by
      simp only [own, hc2, y, haccess, Bool.and_assoc]
      exact hown _
    simp only [c3, hempty, Block.forEach_nil, hc2]
  simp only [c4, hc3]
  exact Block.commitResult_tray _ 0 hbuild

end

/-- Settles O56: a commit by its status, the change at CFT by what its one write stores. -/
theorem configTransactions : Obligations.ConfigTransactions := by
  unfold Obligations.ConfigTransactions
  intro s b hrun x empty
  have hblock : ∀ z : Block, (s.setBlock b z).block b = z := s.setBlock_block b
  have hcommit : exec (.plnTxnCommit b) s = .next (s.setBlock b (x.commitTxn x.cft)) := by
    change execPlnTxnCommit b s = _
    rw [execPlnTxnCommit, onBlock_running b _ s hrun]
  refine ⟨fun hD hwhole hmod hlead => ?accepted, fun hT hpoisoned => ?poisoned, fun hT hwhole hmod => ?noBoundary, ?abort,
    fun cft off v hT hdue hlo hhi herr hlocal => ?apply, fun hnone => ?waits⟩
  case accepted =>
    rw [hcommit, Block.commitTxn_of_accepted (Block.commitStatus_of_die x.cft hD hwhole hmod hlead)]
  case poisoned =>
    refine ⟨_, hcommit, s.setBlock_sameBlock_other b _, ?_⟩
    rw [hblock, Block.commitTxn_refused_tray hT (Block.commitStatus_of_poisoned x.cft hpoisoned) (by decide)]
    exact ⟨rfl, Block.txnStatus_isSet _ 27 _ (by decide) (by decide), Block.txnStatus_fld _ 27 _ (by decide)⟩
  case noBoundary =>
    refine ⟨_, hcommit, s.setBlock_sameBlock_other b _, ?_⟩
    rw [hblock, Block.commitTxn_refused_tray hT (Block.commitStatus_of_no_boundary x.cft hwhole hmod) (by decide)]
    exact ⟨rfl, Block.txnStatus_isSet _ 27 _ (by decide) (by decide), Block.txnStatus_fld _ 27 _ (by decide)⟩
  case abort =>
    change execPlnTxnAbort b s = _
    rw [execPlnTxnAbort, onBlock_running b _ s hrun]
    rfl
  case apply =>
    have hunit : loafFrameKneader off := ⟨hlo, hhi⟩
    obtain ⟨y, hy, hregs, hpending⟩ := Block.applyCommit_of_unit (cft := cft) hunit hT herr hlocal
    have hexec : exec (.cfgApply b) s = .next (s.setBlock b (x.applyCommit (cft, [(off, v)]))) := by
      change execCfgApply b s = _
      rw [execCfgApply, onBlock_running b _ s hrun]
      simp only [x] at hdue ⊢
      rw [hdue]
    refine ⟨_, hexec, s.setBlock_sameBlock_other b _, ?_⟩
    rw [hblock, hy]
    have hreg : ∀ o, o ≠ Reg.PLN_TXN_SEQ → o ≠ Reg.PLN_TXN_STS →
        ((y.setReg Reg.PLN_TXN_SEQ (y.reg Reg.PLN_TXN_SEQ + 1)).txnStatus 28 0).reg o = (x.writeFields off v).reg o := fun o hseq hsts => by
      rw [Block.txnStatus_reg_other _ _ _ _ hsts, Block.setReg_reg_other _ _ _ _ hseq, Block.reg_of_regState hregs]
    have hseqOff : off ≠ Reg.PLN_TXN_SEQ := ne_of_loafFrameKneader hunit (by decide)
    refine ⟨hpending, ?_, ?_, Block.txnStatus_isSet _ 28 _ (by decide) (by decide), Block.txnStatus_fld _ 28 _ (by decide), ?_⟩
    · rw [hreg off hseqOff (ne_of_loafFrameKneader hunit (by decide)), Block.writeFields, Block.setReg_reg]
    · rw [Block.txnStatus_reg_other _ _ _ _ (by decide), Block.setReg_reg, Block.reg_of_regState hregs, Block.writeFields,
        Block.setReg_reg_other _ _ _ _ hseqOff.symm]
    · intro o ho hseq hsts
      rw [hreg o hseq hsts, Block.writeFields, Block.setReg_reg_other _ _ _ _ ho]
  case waits =>
    have hnone' : x.txn.pending.find? (fun c => ftGe x.ft c.1) = none := by
      rw [List.find?_eq_none]
      intro c hc
      simp [hnone c hc]
    change execCfgApply b s = _
    rw [execCfgApply, onBlock_running b _ s hrun]
    simp only [x] at hnone'
    rw [hnone']
    exact congrArg Host.Outcome.next (s.setBlock_same b)

end Sys2Proof.Machine

/-! Proofs: host memory (O60) and offsets that map no register (O54). -/

namespace Sys2Proof.Machine

/-! ### Host memory -/

/-- A write leaves every address outside its bytes. -/
theorem HostUnit.sget_write_other (bs : Bytes) (h : HostUnit) (addr k : Nat) (hk : ∀ i < bs.length, k ≠ (addr + i) % 2 ^ 64) :
    sget hostByte (h.write addr bs).memory k = sget hostByte h.memory k := by
  induction bs generalizing h addr with
  | nil => rfl
  | cons x xs ih =>
    have hrest : ∀ i < xs.length, k ≠ (addr + 1 + i) % 2 ^ 64 := fun i hi => by
      have hne := hk (i + 1) (Nat.succ_lt_succ hi)
      rwa [show addr + (i + 1) = addr + 1 + i by omega] at hne
    rw [h.write_cons, ih _ _ hrest]
    exact sget_sput_other _ _ _ _ _ (hk 0 (Nat.succ_pos _))

/-- Two bytes of a write of at most 2^64 bytes have addresses of their own. -/
theorem hostAddress_ne {a i n : Nat} (hi : i < n) (hn : n < 2 ^ 64) : a % 2 ^ 64 ≠ (a + 1 + i) % 2 ^ 64 := by omega

/-- Each written byte is found at its address. -/
theorem HostUnit.sget_write_same (bs : Bytes) (h : HostUnit) (addr : Nat) (hlen : bs.length ≤ 2 ^ 64) {i : Nat} (hi : i < bs.length) :
    sget hostByte (h.write addr bs).memory ((addr + i) % 2 ^ 64) = bs[i] := by
  induction bs generalizing h addr i with
  | nil => cases hi
  | cons x xs ih =>
    rw [List.length_cons] at hlen
    rw [h.write_cons]
    cases i with
    | zero =>
      exact (HostUnit.sget_write_other xs _ (addr + 1) (addr % 2 ^ 64) fun i hi => hostAddress_ne hi (Nat.lt_of_succ_le hlen)).trans
        (sget_sput_same _ _ _ _)
    | succ i =>
      rw [show addr + (i + 1) = addr + 1 + i by omega]
      exact ih _ _ (Nat.le_of_succ_le hlen) (Nat.lt_of_succ_lt_succ hi)

/-- A write keeps the canonical form. -/
theorem HostUnit.sparseWf_write (bs : Bytes) (h : HostUnit) (addr : Nat) (hwf : sparseWf hostByte h.memory = true) :
    sparseWf hostByte (h.write addr bs).memory = true := by
  induction bs generalizing h addr with
  | nil => exact hwf
  | cons x xs ih =>
    rw [h.write_cons]
    exact ih _ _ (sparseWf_sput _ _ _ _ hwf)

/-- Settles O60: each byte of a write is a write of the sparse table at an address of its own, by induction on the bytes. -/
theorem hostMemoryWrites : Obligations.HostMemoryWrites := by
  unfold Obligations.HostMemoryWrites
  refine ⟨rfl, fun h addr bs hwf hlen => ⟨h.sparseWf_write bs addr hwf, ?back, fun other hother => ?frame⟩⟩
  case back =>
    refine List.ext_getElem (by simp [HostUnit.read]) fun i _ hi => ?_
    simp only [HostUnit.read, List.getElem_map, List.getElem_range]
    exact h.sget_write_same bs addr hlen hi
  case frame =>
    simp only [HostUnit.read, List.range_one, List.map_cons, List.map_nil, Nat.add_zero]
    rw [h.sget_write_other bs addr _ fun i hi => (hother i hi).symm]

/-! ### Offsets that map no register -/

section
variable {b : Block} {off : Nat}

/-- A register that is none has no flags for hardware to set. -/
theorem Block.hwFlags_of_unmapped (hnone : regRowAt b.build off = none) (v hw : Word) : b.hwFlags off v hw = b := by
  unfold Block.hwFlags flagMask
  rw [hnone]
  exact if_pos (.inl (by simp))

/-- A write of no register notes the access at most. -/
theorem Block.writeBy_of_unmapped (hnone : regRowAt b.build off = none) {path : Path} (hmsix : path ≠ .msix) (v : Word) :
    b.writeBy path off v = b ∨ b.writeBy path off v = b.beginAccess path := by
  by_cases hopen : b.pathOpen path = true
  · refine .inr ?_
    have hnone' : (regRowAt (b.beginAccess path).build off).isNone = true := by
      rw [Option.isNone_iff_eq_none]
      exact hnone
    exact (if_pos hopen).trans (if_pos hnone')
  · refine .inl ?_
    refine (if_neg hopen).trans ?_
    cases path
    case msix => exact absurd rfl hmsix
    all_goals rfl

/-- A read of no register gives zero and notes the access at most. -/
theorem Block.readNow_of_unmapped (hnone : regRowAt b.build off = none) (path : Path) (hw : Word) :
    b.readNow path off hw = { b.beginAccess path with rdata := 0 } := by
  have hnone' : regRowAt (b.beginAccess path).build off = none := hnone
  simp only [Block.readNow, Block.readReg, hnone']

theorem Block.readBy_of_unmapped (hnone : regRowAt b.build off = none) {path : Path} (hmsix : path ≠ .msix) (hw : Word) :
    b.readBy path off hw = { b with rdata := 0 } ∨ b.readBy path off hw = { b.beginAccess path with rdata := 0 } := by
  have hnow := Block.readNow_of_unmapped hnone
  unfold Block.readBy
  split
  case h_1 =>
    split
    · exact .inr (hnow _ hw)
    · exact .inl rfl
  case h_2 | h_3 | h_4 => exact .inr (hnow _ hw)
  case h_5 => exact absurd rfl hmsix
  case h_6 => exact .inl rfl

end

/-- The contexts of a tray beyond the eight of a die (R464). -/
theorem frmCtx_beyond_die : ∀ i < 64, 8 ≤ i → regRowAt .D (Reg.FRM_CTX + 4 * i) = none ∧ (regRowAt .T (Reg.FRM_CTX + 4 * i)).isSome = true := by
  decide

/-- Settles O54: an access of an offset that maps no register notes the access of its path at most. -/
theorem unmappedOffsets : Obligations.UnmappedOffsets := by
  unfold Obligations.UnmappedOffsets
  refine ⟨fun s b path off v hw hmsix hrun hnone => ⟨⟨_, exec_registerWrite s b hrun, s.setBlock_sameBlock_other b _, ?write⟩,
    _, onBlock_running b (fun x => x.readBy path off hw) s hrun, s.setBlock_sameBlock_other b _, ?read⟩, fun i hlo hhi => ?ctx, by decide, by decide⟩
  case write =>
    rw [s.setBlock_block b]
    rcases Block.writeBy_of_unmapped hnone hmsix v with h | h
    · rw [h, Block.hwFlags_of_unmapped hnone]
    · have hnone' : regRowAt ((s.block b).beginAccess path).build off = none := hnone
      rw [h, Block.hwFlags_of_unmapped hnone']
      rfl
  case read =>
    rw [s.setBlock_block b]
    rcases Block.readBy_of_unmapped hnone hmsix hw with h | h
    · rw [h]
    · rw [h]
      rfl
  case ctx =>
    obtain ⟨hD, hT⟩ := frmCtx_beyond_die i hhi hlo
    exact ⟨hD, fun h => by rw [h] at hT; cases hT⟩

end Sys2Proof.Machine

/-! Proofs: stretch, stop and skip events of a region, the clearing of counters and the digests (O44). -/

namespace Sys2Proof.Machine

/-! ### Commands of a block that runs -/

section
variable {s : State} {f : Block → Block} {y : Block}

/-- What a command of a Borlu-D that runs answers, from what it does to the block. -/
theorem onDie_eq_of (hrun : s.running .D = true) (hf : f s.d = y) : onDie f s = .next (s.setBlock .D y) := by
  rw [onDie_running _ s hrun, hf]

/-- What a command of a Borlu-T that runs answers, from what it does to the block. -/
theorem onTray_eq_of (hrun : s.running .T = true) (hf : f s.t = y) : onTray f s = .next (s.setBlock .T y) := by
  rw [onTray_running _ s hrun, hf]

/-- A command that leaves the block of a Borlu-T as it is changes nothing. -/
theorem onTray_eq_same (hrun : s.running .T = true) (hf : f s.t = s.t) : onTray f s = .next s :=
  (onTray_eq_of hrun hf).trans (congrArg Host.Outcome.next (s.setBlock_same .T))

end

/-! ### The slots that the end of a transaction leaves (R98, R100) -/

section
variable (b : Block)

@[simp] theorem Block.addCounter_slots (bank i v : Nat) : (b.addCounter bank i v).die.taps.slots = b.die.taps.slots := by
  rcases b.addCounter_cases bank i v with ⟨-, h⟩ | ⟨-, _, -, h | h⟩
  · rw [h]
  · rw [h]
  · rw [h]; rfl

@[simp] theorem Block.frameSent_slots : b.frameSent.die.taps.slots = b.die.taps.slots := by
  unfold Block.frameSent
  cases b.asleep
  · cases hb : b.build <;> simp [hb, Block.lightAdd]
  · rfl

@[simp] theorem Block.queueItem_slots (c cls : Nat) (d : Dest) (bytes : Bytes) :
    (b.queueItem c cls d bytes).die.taps.slots = b.die.taps.slots := by
  unfold Block.queueItem
  dsimp only
  split <;> rfl

@[simp] theorem Block.seqNext_slots (c : Option Nat) : (b.seqNext c).die.taps.slots = b.die.taps.slots := by
  cases c <;> rfl

@[simp] theorem Block.sendOutput_slots (w : Send) (payloads : List Bytes) :
    (b.sendOutput w payloads).die.taps.slots = b.die.taps.slots :=
  List.foldlRecOn (motive := fun a : Block × Nat => a.1.die.taps.slots = b.die.taps.slots) payloads _ rfl
    (fun a ha x _ => by simp [ha])

@[simp] theorem Block.sendEvents_slots (c w : Nat) (lossy invalid : Bool) (rs : List Bytes) :
    (b.sendEvents c w lossy invalid rs).die.taps.slots = b.die.taps.slots := by
  unfold Block.sendEvents
  split
  · rfl
  · exact b.sendOutput_slots _ _

theorem Block.addEvent_slots (c : Nat) (r : Bytes) (invalid : Bool) : (b.addEvent c r invalid).die.taps.slots = b.die.taps.slots := by
  unfold Block.addEvent
  dsimp only
  split
  · rfl
  split
  · rfl
  split
  · rfl
  · exact b.sendEvents_slots _ _ _ _ _

@[simp] theorem Block.txnRecord_slots (i verdict region : Nat) (ft : BitVec 64) (invalid : Bool) :
    (b.txnRecord i verdict region ft invalid).die.taps.slots = b.die.taps.slots := by
  unfold Block.txnRecord
  dsimp only
  split
  · rfl
  · exact b.addEvent_slots _ _ _

@[simp] theorem Block.countVerdict_slots (request : Nat) (commit : Bool) : (b.countVerdict request commit).die.taps.slots = b.die.taps.slots :=
  Block.forEach_keeps (fun x => x.die.taps.slots = b.die.taps.slots) _ _ _ rfl fun _ _ h => h

theorem Block.slot_of_slots {x b : Block} (h : x.die.taps.slots = b.die.taps.slots) (k : Nat) : x.slot k = b.slot k :=
  congrArg (sget (fun _ => ({} : TxnSlot)) · k) h

theorem Block.setSlot_slot (i k : Nat) (x : TxnSlot) : (b.setSlot i x).slot k = if k = i then x else b.slot k := sget_sput ..

/-- An abort empties its slot and leaves the others. -/
theorem Block.abortSlot_slot (i verdict region : Nat) (ft : BitVec 64) (invalid : Bool) (k : Nat) :
    (b.abortSlot i verdict region ft invalid).slot k = if k = i then {} else b.slot k := by
  unfold Block.abortSlot
  extract_lets x b1 b2 b3
  have h2 : b2.die.taps.slots = b.die.taps.slots :=
    Block.forEach_keeps (fun y => y.die.taps.slots = b.die.taps.slots) _ _ _ (b.txnRecord_slots ..) fun y e h =>
      (y.addCounter_slots ..).trans h
  have h3 : b3.slot k = if k = i then {} else b.slot k := by
    have hset : b3.die.taps.slots = (b2.setSlot i {}).die.taps.slots := (Block.addCounter_slots _ ..).trans (Block.countVerdict_slots _ _ _)
    rw [Block.slot_of_slots hset, Block.setSlot_slot, Block.slot_of_slots h2]
  split
  · exact h3
  · exact (Block.slot_of_slots (congrArg (·.taps.slots) (b3.count_die _ _)) k).trans h3

theorem Block.abortEach_slot (is : List Nat) (k : Nat) :
    (b.forEach is (fun b i => b.abortSlot i 3 0xFF b.ft (!b.time.valid))).slot k = if k ∈ is then {} else b.slot k := by
  induction is generalizing b with
  | nil => rfl
  | cons i is ih =>
    rw [Block.forEach_cons, ih, Block.abortSlot_slot]
    by_cases hk : k = i
    · simp [hk]
    · simp [hk]

/-- No slot is left open (R100). -/
theorem Block.abortSlots_closed {k : Nat} (hk : k < 8) : (b.abortSlots.slot k).opened = false := by
  rw [Block.abortSlots, Block.abortEach_slot]
  by_cases hopen : (b.slot k).opened = true
  · rw [if_pos (by simp [hk, hopen])]
  · rw [if_neg (by simp [hopen])]
    exact Bool.eq_false_iff.mpr hopen

end

/-! ### The counters that a clear leaves (R105) -/

/-- A table without the keys that `p` drops reads there as its default. -/
theorem sget_filter_key {α : Type} (d : Nat → α) (p : Nat → Bool) (m : Sparse α) (k : Nat) :
    sget d (m.filter (fun e => p e.1)) k = if p k then sget d m k else d k := by
  induction m with
  | nil => simp [sget]
  | cons e m ih =>
    simp only [sget, List.find?_cons, List.filter_cons] at ih ⊢
    by_cases he : e.1 = k
    · subst he
      cases hp : p e.1 with
      | true => simp
      | false =>
        rw [hp] at ih
        simpa using ih
    · have hne : (e.1 == k) = false := beq_eq_false_iff_ne.mpr he
      cases hp : p e.1 with
      | true => simp only [if_true, List.find?_cons, hne]; exact ih
      | false => simp only [hne]; exact ih

section
variable (b : Block) (bank i n : Nat)

theorem Block.clearCounters_regs : (b.clearCounters bank i n).regs = b.regs := rfl

theorem Block.clearCounters_counter (bank' j : Nat) : (b.clearCounters bank i n).counter bank' j =
    if 4096 * bank + i ≤ 4096 * bank' + j ∧ 4096 * bank' + j < 4096 * bank + i + n then {} else b.counter bank' j := by
  refine (sget_filter_key _ (fun k => !(decide (4096 * bank + i ≤ k) && decide (k < 4096 * bank + i + n))) b.die.taps.counters _).trans ?_
  by_cases h : 4096 * bank + i ≤ 4096 * bank' + j ∧ 4096 * bank' + j < 4096 * bank + i + n
  · obtain ⟨hlo, hhi⟩ := h
    simp [hlo, hhi]
  · rw [if_neg h, if_pos]
    · rfl
    · simpa [← Bool.not_and] using h

end

/-- An accepted write of CNT_CLR clears the group that it names. -/
theorem Block.writeCntClr_of_allowed {b : Block} {v : Word} (hgo : v.getLsbD 31 = true)
    (hallowed : b.clearAllowed (bitsOf v.toNat 30 28) (bitsOf v.toNat 5 0) = true) (hbank : bitsOf v.toNat 30 28 = 0 ∨ bitsOf v.toNat 30 28 = 3) :
    b.writeCntClr v = b.clearCounters (bitsOf v.toNat 30 28) (64 * bitsOf v.toNat 5 0) 64 := by
  unfold Block.writeCntClr
  extract_lets bank group
  simp only [bank, group, hgo, hallowed, Bool.not_true, Bool.false_eq_true, if_false]
  rcases hbank with h | h
  · rw [h]; rfl
  · rw [h]; rfl

theorem Block.writeCntClr_of_refused {b : Block} {v : Word} (hgo : v.getLsbD 31 = true)
    (hrefused : b.clearAllowed (bitsOf v.toNat 30 28) (bitsOf v.toNat 5 0) = false) : b.writeCntClr v = b.flag Reg.CNT_STS 4 := by
  simp [Block.writeCntClr, hgo, hrefused]

/-! ### Stretches and digests -/

theorem Block.hushed_of_awake {b : Block} (h : b.asleep = false) : b.hushed = false := by
  rw [Block.hushed, h, Bool.and_false]

/-- Up to seven new stretches count exactly (R59). -/
theorem Block.stretchSample_of_few {b : Block} {p : Nat} {gray : BitVec 4} {n : Nat} (hawake : b.asleep = false)
    (hn : (grayValue gray + 16 - grayValue (b.region p).gray) % 16 = n) (hlo : 1 ≤ n) (hhi : n ≤ 7) :
    b.stretchSample p gray = (((b.modRegion p (fun r => { r with gray := gray })).count (Reg.TIM_STR_CNT + 4 * p) n).lightAdd 52 n).modRegion p
      (fun r => { r with run := r.run + n, runCycle := b.time.cycles }) := by
  have hhush : (b.modRegion p (fun r => { r with gray := gray })).hushed = false := Block.hushed_of_awake hawake
  unfold Block.stretchSample
  simp only [hn, hhush, Bool.false_eq_true, if_false, if_neg (show ¬ n = 0 by omega), if_pos hhi]
  rfl

section
variable {b : Block} {c p cmd digest : Nat} {stamp : BitVec 64} {invalid : Bool}

/-- A digest of a channel that is off, or whose context is not active, is dropped (R298). -/
theorem Block.presentDigest_dropped (hawake : b.asleep = false) (hoff : (b.lightAdd 56 1).isSet (Reg.WIT_DCH + 4 * c) 31 = false ∨
      ((b.lightAdd 56 1).ctx ((b.lightAdd 56 1).fld (Reg.WIT_DCH + 4 * c) 26 24)).phase ≠ .active) :
    b.presentDigest c p cmd digest false stamp invalid = ((b.lightAdd 56 1).count Reg.WIT_DDROP 1).flag Reg.WIT_DSTS 0 := by
  simp only [Block.presentDigest, Block.hushed_of_awake hawake, Bool.false_eq_true, if_false]
  exact if_pos (hoff.imp (fun h => by rw [h]; rfl) id)

/-- A digest of a channel that is on is sent with the load and the samples of its cycle (R298). -/
theorem Block.presentDigest_sent {cfg ctx : Nat} {b0 b1 : Block} (hcfg : Reg.WIT_DCH + 4 * c = cfg) (hb0 : b.lightAdd 56 1 = b0)
    (hctx : b0.fld cfg 26 24 = ctx) (hb1 : b0.loadTick = b1) (hawake : b.asleep = false) (hon : b0.isSet cfg 31 = true)
    (hactive : (b0.ctx ctx).phase = .active) :
    let t := b1.digestSample (b1.fld cfg 4 0)
    let u := b1.digestSample (b1.fld cfg 12 8)
    let m := b1.digestSample (b1.fld cfg 20 16)
    b.presentDigest c p cmd digest false stamp invalid =
      (b1.sendControl (some ctx) .tray 0x0301 (leBytes 4 (b1.ctx ctx).rank ++ leBytes 1 c ++ leBytes 1 p ++ zeros 2 ++
        leBytes 4 cmd ++ leBytes 8 stamp.toNat ++ leBytes 16 digest ++ leBytes 2 t.1 ++ leBytes 2 u.1 ++ leBytes 2 m.1 ++
        leBytes 1 (bit t.2 + bit u.2 * 2 + bit m.2 * 4 + bit b1.die.load.last.isNone * 8) ++ zeros 1 ++
        leBytes 4 (b1.die.load.last.getD 0)) none invalid).count Reg.WIT_DSENT 1 := by
  have hkept : ¬ ((!b0.isSet cfg 31) = true ∨ (b0.ctx ctx).phase ≠ .active) := by simp [hon, hactive]
  have hchannel : c + bit false * 8 = c := rfl
  simp only [Block.presentDigest, Block.hushed_of_awake hawake, Bool.false_eq_true, if_false, hcfg, hb0, hctx, hb1, if_neg hkept, hchannel]

end

/-- Settles O44: each command of a region by its unit's rules, the clears by the keys that they drop, the aborts by the slots that they empty. -/
theorem regionEvents : Obligations.RegionEvents := by
  unfold Obligations.RegionEvents
  intro s p gray opp rise v c cmd digest hrun
  extract_lets y done n stamp bank group i
  refine ⟨fun hawake hlo hhi => ?stretch, ?stop, fun hstop => ?resume, fun hdue => ?pairs, fun hgo hallowed hbank => ?cleared,
    fun hgo hrefused => ?refused, ⟨?abort, fun k hk => done.abortSlots_closed hk⟩, fun hawake hoff => ?dropped,
    fun hawake hon hactive => ?sent⟩
  case stretch =>
    change execRegionStretch p gray s = _
    rw [execRegionStretch, onDieLevel_running _ _ s hrun, Block.stretchSample_of_few hawake rfl hlo hhi]
  case stop => exact show execRegionStopRise p s = _ from onDie_eq_of hrun rfl
  case resume =>
    refine show execRegionStopFall p opp s = _ from onDie_eq_of hrun ?_
    have hstop' : (s.d.region p).stopAt = some rise := hstop
    simp only [hstop']
    rfl
  case pairs =>
    refine show execPairSample s = _ from onDie_eq_of hrun ?_
    have hgo : (i != y.die.pairCycle) = true := by simpa using hdue
    exact if_pos hgo
  case cleared =>
    have hclear : done.writeCntClr v = done.clearCounters bank (64 * group) 64 := Block.writeCntClr_of_allowed hgo hallowed hbank
    refine ⟨s.setBlock .D (done.clearCounters bank (64 * group) 64), show execCntClrWrite v s = _ from onDie_eq_of hrun hclear,
      fun j hj => ?_, fun b j hout => ?_, (done.clearCounters_regs bank (64 * group) 64),
      s.setBlock_sameBlock_other .D _⟩
    · exact (done.clearCounters_counter bank (64 * group) 64 bank _).trans (if_pos (by omega))
    · exact (done.clearCounters_counter bank (64 * group) 64 b j).trans (if_neg (by omega))
  case refused => exact show execCntClrWrite v s = _ from onDie_eq_of hrun (Block.writeCntClr_of_refused hgo hrefused)
  case abort => exact show execTxnAbortAll s = _ from onDie_eq_of hrun rfl
  case dropped =>
    exact show execWitnessDigest c p cmd digest s = _ from onDie_eq_of hrun (Block.presentDigest_dropped hawake hoff)
  case sent =>
    exact show execWitnessDigest c p cmd digest s = _ from
      onDie_eq_of hrun (Block.presentDigest_sent rfl rfl rfl rfl hawake hon hactive)

end Sys2Proof.Machine

/-! Proofs: the rows of the schedule that are due (O38). -/

namespace Sys2Proof.Machine

section
variable {b : Block} {row : Fin 6400} {col : Fin 32} {img : Bytes} {arg : Nat}

/-- A column that has run is not due again in its row (R325). -/
theorem Block.enterRow_entryDue (b : Block) (row : Fin 6400) (col : Fin 32) (op : Nat) : (b.enterRow col).entryDue row col op = none := by
  have hran : ∀ period : Nat, (b.enterRow col).tray.plane.rowRuns period row col = false := fun period => by
    simp [PlaneUnit.rowRuns, Block.enterRow]
  unfold Block.entryDue
  simp only [hran, Bool.and_false, Bool.false_eq_true, if_false]
  split <;> rfl

theorem Block.onEntry_of_due {row col op : Nat} (h : b.entryDue row col op = some (img, arg)) (f : Block → Bytes → Nat → Block) :
    b.onEntry row col op f = f (b.enterRow col) img arg := by
  simp only [Block.onEntry, h]

variable (kind : Nat) (errs : List (Nat × Nat)) (fixed : Block → Block)

theorem Block.rowStep_of_due (h : b.entryDue row col 2 = some (img, arg)) (hkind : stepKind (schedStep img arg) = kind) :
    b.rowStep kind row col errs fixed = (fixed (b.enterRow col)).forEach (stepBinds img (schedStep img arg)).eraseDups
      (fun b i => b.liveStep img (schedStep img arg) i col errs) := by
  simp only [Block.rowStep, h]
  exact if_pos (beq_iff_eq.mpr hkind)

theorem Block.rowStep_of_other_kind (h : b.entryDue row col 2 = some (img, arg)) (hkind : stepKind (schedStep img arg) ≠ kind) :
    b.rowStep kind row col errs fixed = b := by
  simp only [Block.rowStep, h]
  exact if_neg (by simpa using hkind)

theorem Block.rowStep_of_not_due (h : b.entryDue row col 2 = none) : b.rowStep kind row col errs fixed = b := by
  simp only [Block.rowStep, h]

end

/-- Each command that runs a step of a row runs `Block.rowStep`, with what `stepRow` and `stepFixed` say of it. -/
theorem exec_of_stepRow {c : Instr} {kind : Nat} {row : Fin 6400} {col : Fin 32} {errs : List (Nat × Nat)}
    (h : stepRow c = some (kind, row, col, errs)) (s : State) :
    exec c s = onTray (fun b => b.rowStep kind row col errs (stepFixed c)) s := by
  cases c
  case mergeStep | featuriseStep | scoreStep | auditStep | ruleStep | anvilStep | witnessStep | digestStep | sendStep | resultStep | ckptStep =>
    cases h
    rfl
  all_goals cases h

section
variable (s : State) (hrun : s.running .T = true) {row col op : Nat} {img : Bytes} {j : Nat}
include hrun

/-- The state after a command of a slot of the schedule that is due. -/
theorem onTray_onEntry_of_due (h : s.t.entryDue row col op = some (img, j)) (f : Block → Bytes → Nat → Block) :
    onTray (fun b => b.onEntry row col op f) s = .next (s.setBlock .T (f (s.t.enterRow col) img j)) := by
  rw [onTray_running _ s hrun, Block.onEntry_of_due h f]

end

/-- Settles O38: each command of a row by the entry that is due, for the steps through `exec_of_stepRow`. -/
theorem rowsRun : Obligations.RowsRun := by
  unfold Obligations.RowsRun
  intro c s kind row col errs bad faulty img arg g k u hrun
  extract_lets e y z v unit works behind
  refine ⟨fun h hdue hkind => ?step, fun h hdue => ?notDue, fun h hdue hkind => ?otherKind, fun op => s.t.enterRow_entryDue row col op,
    fun hdue => ?ring, fun hdue hworks hbehind hshare hruns hshares => ?search, fun hdue hworks hbehind => ?catchup,
    fun hdue hfailed => ?failed, fun hdue hon hruns hpick => ?test, fun hdue hdescs => ?retire⟩
  case step => exact (exec_of_stepRow h s).trans (onTray_eq_of hrun (Block.rowStep_of_due kind errs _ hdue hkind))
  case notDue => exact (exec_of_stepRow h s).trans (onTray_eq_same hrun (Block.rowStep_of_not_due kind errs _ hdue))
  case otherKind => exact (exec_of_stepRow h s).trans (onTray_eq_same hrun (Block.rowStep_of_other_kind kind errs _ hdue hkind))
  case ring => exact show execRingEntry row s = _ from onTray_onEntry_of_due s hrun hdue _
  case search =>
    refine (show execSearchEntry ⟨row, bad⟩ s = _ from onTray_onEntry_of_due s hrun hdue _).trans ?_
    simp only [v, unit, works, behind] at hworks hbehind hshare hruns hshares
    simp only [hworks, hbehind, hshare, hruns, hshares, Bool.false_eq_true, if_false, Bool.and_self, if_true]
    rfl
  case catchup =>
    refine (show execSearchEntry ⟨row, bad⟩ s = _ from onTray_onEntry_of_due s hrun hdue _).trans ?_
    simp only [v, unit, works, behind] at hworks hbehind
    simp only [hworks, hbehind, Bool.false_eq_true, if_false]
    rfl
  case failed =>
    refine (show execSearchEntry ⟨row, bad⟩ s = _ from onTray_onEntry_of_due s hrun hdue _).trans ?_
    simp only [v, unit] at hfailed
    simp only [hfailed, if_true]
    rfl
  case test =>
    refine (show execTestEntry row col faulty s = _ from onTray_onEntry_of_due s hrun hdue _).trans ?_
    simp only [y] at hon hruns hpick
    simp only [hon, hruns, hpick, Bool.not_true, Bool.false_eq_true, or_self, if_false]
    rfl
  case retire =>
    refine show execUnitRetire s = _ from onTray_eq_of hrun ?_
    have hnone : s.t.tray.test.descs.filter (fun e => e.1 == k) = [] := by simpa using hdescs
    simp only [hdue, Block.forEach_cons, Block.forEach_nil, hnone, List.map_nil, List.filterMap_nil]

end Sys2Proof.Machine

/-! Proofs: share frames of the erasure groups (O41). -/

namespace Sys2Proof.Machine

/-! ### Receiving share records (R354, R356) -/

/-- A command that receives a share record, on a tray that hears it: what the record does. -/
theorem exec_of_hearsShare {c : Instr} {s : State} {link : Fin 64} {raw : Bytes} {htype : Nat} {act : Block → Frame → Bytes → Block}
    {f : Frame} {r : Bytes} {b' y : Block} (hexec : exec c s = onTray (fun x => x.receiveHistory link raw htype act) s)
    (hhears : s.hearsShare link raw htype f r b') (hact : act b' f r = y) : exec c s = .next (s.setBlock .T y) := by
  obtain ⟨hrun, hframe, hcls, hrecords, htype', rfl⟩ := hhears
  rw [hexec, onTray_running _ s hrun, ← hact]
  have hreceived : s.t.receiveHistory link raw htype act = act ((s.t.rx link raw).2.hearPeer f.srcDa) f r := by
    unfold Block.receiveHistory
    rcases hrx : s.t.rx link raw with ⟨o, b⟩
    rw [hrx] at hframe
    cases hframe
    simp [hcls, hrecords, htype']
  rw [hreceived]

section
variable {b : Block} {f : Frame} {r : Bytes} {m : Nat} (hfrom : b.shareFrom (byteAt r 8) f.srcDa = some m)
include hfrom

theorem Block.fromMember_of_shareFrom (act : Block → Nat → Nat → Block) : b.fromMember f r act = act b (byteAt r 8) m := by
  simp only [Block.fromMember, hfrom]

omit hfrom in
/-- The class of a share record of a group in use is one of the three (R350). -/
theorem Block.cls_le_of_shareFrom {cls da : Nat} (h : b.shareFrom cls da = some m) : cls ≤ 2 := by
  unfold Block.shareFrom at h
  by_cases hcls : 2 < cls
  · simp [hcls] at h
  · omega

/-! ### Staging and parity (R352, R353) -/

/-- The first piece of a segment that has room is staged. -/
theorem Block.shareData_of_new
    (hnew : b.tray.history.staging.any (fun x => x.cls == byteAt r 8 && x.origin == m && x.n == fieldAt r 12 4) = false)
    (hholder : b.holderLost (byteAt r 8) = false)
    (hroom : b.tray.history.staging.foldl (fun a y => a + y.len) 0 + fieldAt r 20 4 ≤ stagingSize) {x : Staged} {u : HistoryUnit}
    (hx : (⟨byteAt r 8, m, fieldAt r 12 4, fieldAt r 20 4, sput (fun _ => []) [] (fieldAt r 16 4) (r.drop 24), b.ft⟩ : Staged) = x)
    (hu : { b.tray.history with staging := b.tray.history.staging ++ [x] } = u) (hfew : (u.ready (byteAt r 8)).length < 8) :
    b.shareData f r = b.modHist (fun _ => u) := by
  have hold : b.tray.history.staging.find? (fun x => x.cls == byteAt r 8 && x.origin == m && x.n == fieldAt r 12 4) = none := by
    rw [List.find?_eq_none]
    rw [List.any_eq_false] at hnew
    exact hnew
  rw [Block.shareData, Block.fromMember_of_shareFrom hfrom]
  simp only [hnew, hold, hholder, Option.getD_none, Bool.not_false, Bool.false_eq_true, true_and, false_or, if_false,
    if_neg (Nat.not_lt.mpr hroom), hx]
  have hready : ¬ 8 ≤ ((b.modHist (fun h => { h with staging := b.tray.history.staging ++ [x] })).tray.history.ready (byteAt r 8)).length := by
    subst hu
    exact Nat.not_le.mpr hfew
  rw [if_neg hready, ← hu]
  rfl

/-- Nothing is staged for a stripe that is abandoned, nor a new segment that finds no room. -/
theorem Block.shareData_of_no_room (hfull : b.holderLost (byteAt r 8) = true ∨
      (b.tray.history.staging.any (fun x => x.cls == byteAt r 8 && x.origin == m && x.n == fieldAt r 12 4) = false ∧
        stagingSize < b.tray.history.staging.foldl (fun a y => a + y.len) 0 + fieldAt r 20 4)) : b.shareData f r = b := by
  rw [Block.shareData, Block.fromMember_of_shareFrom hfrom]
  exact if_pos (hfull.imp id fun ⟨hnew, hroom⟩ => ⟨by rw [hnew]; rfl, hroom⟩)

/-- The last piece of a parity column is stored, and the column acknowledged. -/
theorem Block.shareParity_of_last {p : List Parity} {is : Parity → Bool}
    (his : (fun x : Parity => x.cls == byteAt r 8 && x.assembler == byteAt r 10 && x.number == fieldAt r 12 4 && x.j == byteAt r 9) = is)
    (hp : b.tray.history.parity.map (fun x => if is x then { x with pieces := sput (fun _ => []) x.pieces (fieldAt r 16 4) (r.drop 24) } else x) = p)
    (hheld : b.tray.history.parity.any is = true) (hwhole : p.any (fun x => is x && decide (x.len ≤ piecesLen x.pieces)) = true) :
    b.shareParity f r = (b.modHist (fun h => { h with parity := p })).sendHistory (byteAt r 8) (byteAt r 10) 0x0503
      (leBytes 1 (byteAt r 8) ++ leBytes 1 (b.groupIndex (byteAt r 8)) ++ leBytes 1 (byteAt r 10) ++ zeros 1 ++ leBytes 4 (fieldAt r 12 4)) := by
  subst his
  rw [Block.shareParity, Block.fromMember_of_shareFrom hfrom]
  simp only [if_pos hheld]
  have hstored : b.modHist (fun h => { h with parity := h.parity.map (fun x => if (x.cls == byteAt r 8 && x.assembler == byteAt r 10 &&
      x.number == fieldAt r 12 4 && x.j == byteAt r 9) = true
        then { x with pieces := sput (fun _ => []) x.pieces (fieldAt r 16 4) (r.drop 24) } else x) }) =
      b.modHist (fun h => { h with parity := p }) := by
    rw [← hp]
    rfl
  rw [hstored]
  exact if_pos hwhole

/-! ### The stripe record (R353, log 28) -/

omit hfrom in
/-- A frame that leaves keeps every register but the counters. -/
theorem Block.frameSent_reg_other (off : Nat) (htx : off ≠ Reg.FRM_TX) (hsts : off ≠ Reg.CNT_STS) : b.frameSent.reg off = b.reg off := by
  unfold Block.frameSent
  cases b.asleep with
  | true => rfl
  | false =>
    have hcount : (b.count Reg.FRM_TX 1).reg off = b.reg off := b.count_reg_other _ _ _ htx
    simp only [Bool.false_eq_true, if_false]
    split
    · rcases (b.count Reg.FRM_TX 1).addCounter_cases 1 55 1 with ⟨-, h⟩ | ⟨-, _, -, h | h⟩
      · exact (congrArg (·.reg off) h).trans hcount
      · exact (congrArg (·.reg off) h).trans hcount
      · exact (congrArg (·.reg off) h).trans ((Block.flag_reg_other _ _ _ _ hsts).trans hcount)
    · exact hcount

omit hfrom in
theorem Block.sendOutput_reg_other (w : Send) (payloads : List Bytes) (off : Nat) (htx : off ≠ Reg.FRM_TX) (hsts : off ≠ Reg.CNT_STS) :
    (b.sendOutput w payloads).reg off = b.reg off := by
  refine List.foldlRecOn (motive := fun a : Block × Nat => a.1.reg off = b.reg off) payloads _ rfl fun a ha x _ => ?_
  have hqueue : ∀ (y : Block) (c cls : Nat) (d : Dest) (bytes : Bytes), (y.queueItem c cls d bytes).reg off = y.reg off := fun y c cls d bytes => by
    unfold Block.queueItem
    dsimp only
    split <;> rfl
  have hnext : ∀ (y : Block) (c : Option Nat), (y.seqNext c).reg off = y.reg off := fun y c => by cases c <;> rfl
  exact (Block.frameSent_reg_other off htx hsts).trans ((hnext _ _).trans ((hqueue _ _ _ _ _).trans ha))

omit hfrom in
/-- A share record that leaves keeps the place of the block in its groups. -/
theorem Block.sendHistory_groupIndex (k m' htype : Nat) (body : Bytes) {cls : Nat} (hcls : cls ≤ 2) :
    (b.sendHistory k m' htype body).groupIndex cls = b.groupIndex cls := by
  have hreg : (b.sendHistory k m' htype body).reg (Reg.HIS_GRP + 4 * cls) = b.reg (Reg.HIS_GRP + 4 * cls) := by
    refine Block.sendOutput_reg_other _ _ _ ?_ ?_ <;> simp only [Reg.HIS_GRP, Reg.FRM_TX, Reg.CNT_STS] <;> omega
  simp only [Block.groupIndex, Block.fld, hreg]

/-- The last acknowledgement of a stripe codes it, and its record goes to the contributors and the other holders. -/
theorem Block.shareAck_of_last {x : Stripe} {me : Nat} (hme : b.groupIndex (byteAt r 8) = me)
    (hx : b.tray.history.stripes.find? (fun x => x.cls == byteAt r 8 && x.number == fieldAt r 12 4 && byteAt r 10 == me) = some x)
    (hcoded : x.coded = false) (hnew : m ∉ x.acks)
    (hall : ∀ j, 1 ≤ j → j < groupParity (byteAt r 8) → (me + j) % groupSize (byteAt r 8) ∈ x.acks ++ [m]) :
    b.shareAck f r = (b.modHist (fun h => { h with stripes := h.stripes.map (fun y => if y = x
      then { y with acks := x.acks ++ [m], coded := true } else y) })).forEach
        (x.members.filter (· != 0xFF) ++ ((List.range (groupParity (byteAt r 8))).drop 1).map (fun j => (me + j) % groupSize (byteAt r 8)))
        (fun y c => y.sendHistory (byteAt r 8) c 0x0504 (b.stripeBody x)) := by
  have hdone : ((List.range (groupParity (byteAt r 8))).drop 1).all
      (fun j => decide ((me + j) % groupSize (byteAt r 8) ∈ x.acks ++ [m])) = true := by
    rw [List.all_eq_true]
    intro j hj
    rw [List.range_eq_range', List.drop_range', List.mem_range'_1] at hj
    exact decide_eq_true (hall j (by omega) (by omega))
  rw [Block.shareAck, Block.fromMember_of_shareFrom hfrom]
  simp only [hme, hx, if_neg hnew, hcoded, hdone, Bool.not_false, Bool.and_self, Bool.or_true, if_true]
  have hclass : x.cls = byteAt r 8 := by
    have := List.find?_some hx
    simp only [Bool.and_eq_true, beq_iff_eq] at this
    exact this.1.1
  have hcls : x.cls ≤ 2 := hclass ▸ Block.cls_le_of_shareFrom hfrom
  refine Block.forEach_congr (fun y => y.groupIndex x.cls = b.groupIndex x.cls) _ _ _ _ rfl (fun y c hy => ?_) fun y c hy => ?_
  · exact (Block.sendHistory_groupIndex _ _ _ _ hcls).trans hy
  · simp only [Block.stripeBody, hy]

/-- A contributor's segment becomes CODED with its stripe, whose contributors a parity holder learns. -/
theorem Block.stripeRecord_of_mine {i : Nat} {g : Segment} {cols : List Nat} (hcols : (List.range 8).map (fun i => byteAt r (16 + i)) = cols)
    (hi : indexOf? (· == b.groupIndex (byteAt r 8)) cols 0 = some i)
    (hg : b.tray.history.segs.find? (fun g => g.cls == byteAt r 8 && g.n == some (fieldAt r (24 + 4 * i) 4) && !g.coded && g.stripe.isNone) =
      some g) :
    b.stripeRecord f r = ((b.modHist (fun h => { h with parity := h.parity.map (fun x =>
      if x.cls == byteAt r 8 && x.assembler == byteAt r 9 && x.number == fieldAt r 12 4
        then { x with members := some (cols.filter (· != 0xFF)) } else x) })).modSegment g.id (fun g => { g with
          stripe := some (byteAt r 9, fieldAt r 12 4), columns := cols, ns := (List.range 8).map (fun i => fieldAt r (24 + 4 * i) 4),
          coded := true })).count Reg.HIS_SEG_CODED 1 := by
  rw [Block.stripeRecord, Block.fromMember_of_shareFrom hfrom]
  simp only [hcols, hi, Block.modHist, hg]

/-- A release of a column whose stripe keeps others is noted. -/
theorem Block.releaseRecord_of_some {x : Parity} (hkind : byteAt r 9 = 1)
    (hx : b.tray.history.parity.find? (fun x => x.cls == byteAt r 8 && x.assembler == byteAt r 10 && x.number == fieldAt r 12 4) = some x)
    (hnew : m ∉ x.released) {b1 : Block}
    (hb1 : b.modHist (fun h => { h with parity := h.parity.map (fun y => if y = x then { x with released := x.released ++ [m] } else y) }) = b1)
    (hleft : (b1.parityMembers x).all (fun c => decide (c ∈ x.released ++ [m])) = false) : b.releaseRecord f r = b1 := by
  rw [Block.releaseRecord, Block.fromMember_of_shareFrom hfrom]
  simp only [hx, hkind, if_neg hnew, hb1, hleft, Bool.false_eq_true, if_false]

theorem Block.notCodedRecord_of_gone (hkind : byteAt r 9 = 2) : b.notCodedRecord f r = b.modHist (fun h => { h with segs := h.segs.map (fun g =>
    if g.cls = byteAt r 8 ∧ g.stripe = some (byteAt r 10, fieldAt r 12 4) then { g with stripe := none, columns := [], coded := false } else g) }) := by
  rw [Block.notCodedRecord, Block.fromMember_of_shareFrom hfrom]
  exact if_neg (not_not_intro hkind)

/-! ### Degraded reads (R358) -/

/-- A read of part of a held column that fits one record is answered by one. -/
theorem Block.readReq_of_held {bs : Bytes} (hbs : b.columnBytes (byteAt r 8) (byteAt r 10) (fieldAt r 12 4) (byteAt r 11) = some bs)
    (hlo : 1 ≤ fieldAt r 20 4) (hhi : fieldAt r 20 4 ≤ 4000) (hin : fieldAt r 16 4 + fieldAt r 20 4 ≤ bs.length) :
    b.readReq f r = b.sendHistory (byteAt r 8) m 0x0507 (readHead (byteAt r 8) (byteAt r 9) (byteAt r 10) (byteAt r 11) (fieldAt r 12 4) ++
      leBytes 4 (fieldAt r 16 4) ++ leBytes 4 (fieldAt r 20 4) ++ slice bs (fieldAt r 16 4) (fieldAt r 20 4)) := by
  rw [Block.readReq, Block.fromMember_of_shareFrom hfrom]
  generalize fieldAt r 16 4 = off at hin ⊢
  generalize fieldAt r 20 4 = len at hlo hhi hin ⊢
  have hlen : (slice bs off len).length = len := by
    simp only [slice, List.length_take, List.length_drop]
    omega
  have hfill : zeros (min len segmentSize - len) = [] := by
    rw [Nat.sub_eq_zero_of_le (Nat.min_le_left _ _)]
    rfl
  have hone : max 1 (ceilDiv len 4000) = 1 := by
    rw [ceilDiv, if_neg (by decide)]
    omega
  have hpiece : slice (slice bs off len) 0 4000 = slice bs off len := by
    rw [slice, List.drop_zero, List.take_of_length_le (by omega)]
  simp only [hbs, hlen, hfill, List.append_nil, hone, List.range_one, Block.forEach_cons, Block.forEach_nil, Nat.mul_zero, Nat.add_zero, hpiece]

theorem Block.readResp_of_asked {x x' : DegradedRead} (hx : b.tray.history.reads.find? (fun x => x.cls == byteAt r 8 &&
      x.assembler == byteAt r 10 && x.number == fieldAt r 12 4 && x.member == byteAt r 9 && decide (byteAt r 11 ∈ x.asked)) = some x)
    (hx' : { x with got := sput (fun _ => []) x.got (byteAt r 11 * 2 ^ 32 + fieldAt r 16 4) (r.drop 24) } = x') :
    b.readResp f r = (b.modHist (fun h => { h with reads := h.reads.map (fun y => if y = x then x' else y) })).endRead x' := by
  rw [Block.readResp, Block.fromMember_of_shareFrom hfrom]
  simp only [hx, hx']

end

/-- Settles O41: each share record by what its unit does with it. -/
theorem shareFrames : Obligations.ShareFrames := by
  unfold Obligations.ShareFrames
  intro s port link raw f r b' m cls me n h hfrom
  refine ⟨fun hh hnew hholder hroom => ?data, fun hh hfull => ?full, fun hh => ?parity, fun x hh hx hcoded hnew hall => ?ack,
    fun i g hh hi hg => ?stripe, fun x hh hkind hx hnew => ?release, fun hh hkind => ?notCoded, fun bs hh hbs hlo hhi hin => ?request,
    fun x hh hx => ?response⟩
  case data =>
    intro x u hfew
    exact exec_of_hearsShare rfl hh (Block.shareData_of_new hfrom hnew hholder hroom rfl rfl hfew)
  case full => exact exec_of_hearsShare rfl hh (Block.shareData_of_no_room hfrom hfull)
  case parity =>
    intro is p hheld hwhole
    exact exec_of_hearsShare rfl hh (Block.shareParity_of_last hfrom rfl rfl hheld hwhole)
  case ack => exact exec_of_hearsShare rfl hh (Block.shareAck_of_last hfrom rfl hx hcoded hnew hall)
  case stripe => exact exec_of_hearsShare rfl hh (Block.stripeRecord_of_mine hfrom rfl hi hg)
  case release =>
    intro b1 hleft
    exact exec_of_hearsShare rfl hh (Block.releaseRecord_of_some hfrom hkind hx hnew rfl hleft)
  case notCoded => exact exec_of_hearsShare rfl hh (Block.notCodedRecord_of_gone hfrom hkind)
  case request => exact exec_of_hearsShare rfl hh (Block.readReq_of_held hfrom hbs hlo hhi hin)
  case response => exact exec_of_hearsShare rfl hh (Block.readResp_of_asked hfrom hx rfl)

end Sys2Proof.Machine

/-! Proofs: events of the history: stripes, losses, rebuilds and rejoinings (O42). -/

namespace Sys2Proof.Machine

section
variable (b : Block) (cls m : Nat)

/-! ### Members of a group -/

theorem Block.modPeer_peerOf (f : Peer → Peer) : (b.modPeer cls m f).peerOf cls m = f (b.peerOf cls m) := sget_smodify_same ..

theorem Block.modPeer_peerOf_other (f : Peer → Peer) {c n : Nat} (h : 16 * c + n ≠ 16 * cls + m) :
    (b.modPeer cls m f).peerOf c n = b.peerOf c n := sget_smodify_other _ _ _ _ _ h

/-- A change of a member is what it makes of the member as it stands. -/
theorem Block.modPeer_congr {f g : Peer → Peer} (h : f (b.peerOf cls m) = g (b.peerOf cls m)) : b.modPeer cls m f = b.modPeer cls m g := by
  have hsmodify : smodify (fun _ => ({} : Peer)) b.tray.peers (16 * cls + m) f = smodify (fun _ => ({} : Peer)) b.tray.peers (16 * cls + m) g :=
    congrArg (sput (fun _ => ({} : Peer)) b.tray.peers (16 * cls + m)) h
  rw [Block.modPeer, Block.modPeer, hsmodify]

theorem Block.endService_peerOf (c n : Nat) : (b.endService cls m).peerOf c n = b.peerOf c n := rfl

theorem Block.installRebuilt_peerOf (c n : Nat) : (b.installRebuilt cls m).peerOf c n = b.peerOf c n := rfl

/-- The end of a replacement's rebuild, before HIS_STS tells of it: the replacement itself has back what it rebuilt, and the member is live (R361). -/
def Block.endRebuild : Block :=
  ((if m = b.groupIndex cls then b.installRebuilt cls m else b).modPeer cls m (fun p => { p with phase := 0 })).endService cls m

theorem Block.endRebuild_peerOf : (b.endRebuild cls m).peerOf cls m = { b.peerOf cls m with phase := 0 } := by
  rw [Block.endRebuild, Block.endService_peerOf, Block.modPeer_peerOf]
  split
  · rfl
  · rfl

theorem Block.endRebuild_peerOf_other {c n : Nat} (h : 16 * c + n ≠ 16 * cls + m) : (b.endRebuild cls m).peerOf c n = b.peerOf c n := by
  rw [Block.endRebuild, Block.endService_peerOf, Block.modPeer_peerOf_other _ cls m _ h]
  split
  · exact b.installRebuilt_peerOf cls m c n
  · rfl

/-- Once a service has ended, the block is no heir and has nothing rebuilt. -/
theorem Block.endRebuild_ends : 16 * cls + m ∉ (b.endRebuild cls m).tray.history.heirOf ∧
    16 * cls + m ∉ (b.endRebuild cls m).tray.history.rebuilt := by
  have hgone : ∀ xs : List Nat, 16 * cls + m ∉ xs.filter (· != 16 * cls + m) := fun xs h => by simpa using (List.mem_filter.mp h).2
  exact ⟨hgone _, hgone _⟩

end

/-! ### Errors, losses, rejoinings -/

section
variable {b : Block}

/-- An uncorrected error in a segment that is not coded loses it (R344). -/
theorem Block.segmentError_of_not_coded {g : Segment} (h : g.coded = false) :
    b.segmentError g = ((b.flag Reg.HIS_STS 1).modSegment g.id (fun g => { g with faulted := true })).count Reg.HIS_UE_LOST 1 := by
  simp only [Block.segmentError, h]

/-- A LOSS notice marks a live member of a group in use (R357). -/
theorem Block.lossRecord_of_live {f : Frame} {r : Bytes} (hcls : byteAt r 8 ≤ 2) (hon : b.groupOn (byteAt r 8) = true)
    (hm : byteAt r 9 < groupSize (byteAt r 8)) (hgrp : fieldAt r 12 2 = b.fld (Reg.HIS_GRP + 4 * byteAt r 8) 15 0)
    (hlive : (b.peerOf (byteAt r 8) (byteAt r 9)).phase ≠ 1) :
    b.lossRecord f r = b.markLost (byteAt r 8) (byteAt r 9) (byteAt r 10) := by
  have hkept : ¬ (2 < byteAt r 8 ∨ (!b.groupOn (byteAt r 8)) = true ∨ groupSize (byteAt r 8) ≤ byteAt r 9 ∨
      fieldAt r 12 2 ≠ b.fld (Reg.HIS_GRP + 4 * byteAt r 8) 15 0) := by
    rw [hon]
    rintro (h | h | h | h)
    · omega
    · cases h
    · omega
    · exact h hgrp
  simp only [Block.lossRecord, if_neg hkept, if_neg hlive]

/-- A write of HIS_GRP_CTL without REJOIN keeps the number alone (R361). -/
theorem Block.writeRejoin_of_clear {v : Word} (h : v.getLsbD 31 = false) : b.writeRejoin v = b.setReg Reg.HIS_GRP_CTL (v &&& 0xFFFF) := by
  simp only [Block.writeRejoin, h, Bool.not_false, Bool.true_or, if_true]

/-- REJOIN of another member that is LOST: with its own number it waits to be heard, with a new one it is a replacement (R361). -/
theorem Block.writeRejoin_of_lost {v : Word} {w : Block} {cls m : Nat} (hw : b.setReg Reg.HIS_GRP_CTL (v &&& 0xFFFF) = w)
    (hc : w.fld Reg.HIS_GRP_SEL 5 4 = cls) (hm : w.fld Reg.HIS_GRP_SEL 3 0 = m) (hset : v.getLsbD 31 = true) (hcls : cls ≤ 2)
    (hon : w.groupOn cls = true) (hin : m < groupSize cls) (hother : m ≠ w.groupIndex cls) (hlost : (w.peerOf cls m).phase = 1) :
    b.writeRejoin v = w.modPeer cls m (fun p => if p.incarn = v.toNat % 2 ^ 16 then { p with rejoin := true }
      else { p with phase := 2, incarn := v.toNat % 2 ^ 16, missed := 0 }) := by
  have hguard : (!v.getLsbD 31 || decide (2 < cls) || !w.groupOn cls || decide (groupSize cls ≤ m)) = false := by
    simp [hset, hon, Nat.not_lt.mpr hcls, Nat.not_le.mpr hin]
  simp only [Block.writeRejoin, hw, hc, hm, hguard, Bool.false_eq_true, if_false, if_neg hother, hlost, ne_eq, not_true_eq_false]
  by_cases hinc : (w.peerOf cls m).incarn = v.toNat % 2 ^ 16
  · rw [if_pos hinc]
    exact w.modPeer_congr cls m (if_pos hinc).symm
  · rw [if_neg hinc]
    exact w.modPeer_congr cls m (if_neg hinc).symm

end

/-- Settles O42: each event by its trigger and its unit's rule. -/
theorem historyEvents : Obligations.HistoryEvents := by
  unfold Obligations.HistoryEvents
  intro s port link raw f r b' cls m id g v hrun
  extract_lets y h p key w wc wm
  refine ⟨fun hdue => ?hold, fun hg hcoded => ?lost, fun hon hin hother hlive hmissed hruns hheir => ?declared,
    fun hh hcls hon hin hgrp hlive => ?notice, fun hon hruns hheir hnew hover => ?rebuilt, fun hclear => ?kept,
    fun hset hcls hon hin hother hlost => ?rejoin, fun hphase => ?replaced⟩
  case hold => exact show execStripeHoldExpire cls s = _ from onTray_eq_of hrun (if_pos hdue)
  case lost =>
    refine show execMemoryUe 0 id s = _ from onTray_eq_of hrun ?_
    have hg' : s.t.tray.history.segs.find? (fun g => g.id == id && !g.faulted) = some g := hg
    simp only [hg', Fin.val_zero, if_true]
    exact Block.segmentError_of_not_coded hcoded
  case declared =>
    refine show execMemberLossDeclare cls m s = _ from onTray_eq_of hrun (if_pos ?_)
    simp only [Bool.and_eq_true, bne_iff_ne, beq_iff_eq, decide_eq_true_eq]
    exact ⟨⟨⟨⟨⟨⟨hon, hin⟩, hother⟩, hlive⟩, hmissed⟩, hruns⟩, hheir⟩
  case notice => exact exec_of_hears rfl hh (Block.lossRecord_of_live hcls hon hin hgrp hlive)
  case rebuilt =>
    refine show execRebuildDone cls m s = _ from onTray_eq_of hrun (if_pos ?_)
    simp only [Bool.and_eq_true, Bool.not_eq_true', decide_eq_true_eq, decide_eq_false_iff_not]
    exact ⟨⟨⟨⟨hon, hruns⟩, hheir⟩, hnew⟩, hover⟩
  case kept => exact show execHisRejoinWrite v s = _ from onTray_eq_of hrun (Block.writeRejoin_of_clear hclear)
  case rejoin =>
    exact show execHisRejoinWrite v s = _ from onTray_eq_of hrun (Block.writeRejoin_of_lost rfl rfl rfl hset hcls hon hin hother hlost)
  case replaced =>
    have hexec : ∃ own, execReplacementRebuildDone cls m s = .next (s.setBlock .T ((y.endRebuild cls m).putBit Reg.HIS_STS 5 own)) :=
      ⟨_, onTray_eq_of hrun (if_pos (beq_iff_eq.mpr hphase))⟩
    obtain ⟨own, hexec⟩ := hexec
    obtain ⟨hheir, hrebuilt⟩ := y.endRebuild_ends cls m
    exact ⟨_, hexec, y.endRebuild_peerOf cls m, fun c n hne => y.endRebuild_peerOf_other cls m hne, hheir, hrebuilt,
      s.setBlock_sameBlock_other .T _⟩

end Sys2Proof.Machine

/-! Proofs: events of the stewards (O48), the flash window and the event recorder (O49). -/

namespace Sys2Proof.Machine

/-! ### The stewards (R442 to R450) -/

section
variable (b : Block) (i : Nat)

theorem Block.modSteward_steward (f : Steward → Steward) : (b.modSteward i f).steward i = f (b.steward i) := sget_smodify_same ..

theorem Block.modSteward_steward_other (f : Steward → Steward) {k : Nat} (h : k ≠ i) : (b.modSteward i f).steward k = b.steward k :=
  sget_smodify_other _ _ _ _ _ h

/-- A steward whose images both fail fails its boot (R442); the next one in order starts its own verification. -/
theorem Block.verifyDone_failed (hactive : b.imageCause (b.activeSlot i) i ≠ 0) (hother : b.imageCause (1 - b.activeSlot i) i ≠ 0) :
    (b.verifyDone i).steward i = { b.steward i with phase := 5, cause := b.imageCause (1 - b.activeSlot i) i } := by
  unfold Block.verifyDone
  extract_lets a c0 c1 x
  have hfail : x = b.modSteward i (fun s => { s with phase := 5, cause := c1 }) := (if_neg hactive).trans (if_neg hother)
  have hx : x.steward i = { b.steward i with phase := 5, cause := c1 } := by
    rw [hfail, Block.modSteward_steward]
  cases hnext : bootNext i with
  | none => exact hx
  | some n =>
    simp only
    by_cases hwaits : (x.steward n).phase = 0
    · have hne : i ≠ n := fun h => by
        rw [← h, hx] at hwaits
        exact absurd hwaits (Nat.succ_ne_zero 4)
      rw [if_pos hwaits, Block.startVerify, Block.modSteward_steward_other _ _ _ hne, hx]
    · rw [if_neg hwaits, hx]

/-- A restart whose image does not pass ends in FAILED_BOOT (R443, log 71). -/
theorem Block.restartDone_failed (hcause : b.imageCause (b.activeSlot i) i ≠ 0) : ((b.restartDone i).steward i).phase = 5 := by
  unfold Block.restartDone
  extract_lets slot cause left takes x y
  rw [if_neg hcause, Block.modSteward_steward]

/-- STW_DUMP_ACK empties the buffers that it names and leaves the other stewards (R449). -/
theorem Block.dropDumps_steward (is : List Nat) (k : Nat) : (b.forEach is (fun b i => b.modSteward i (fun x => { x with dump := none }))).steward k =
    if k ∈ is then { b.steward k with dump := none } else b.steward k := by
  induction is generalizing b with
  | nil => rfl
  | cons j is ih =>
    rw [Block.forEach_cons, ih]
    by_cases hk : k = j
    · subst hk
      simp [Block.modSteward_steward]
    · simp [hk, Block.modSteward_steward_other _ _ _ hk]

theorem Block.writeDumpAck_steward (v : Word) (k : Nat) : (b.writeDumpAck v).steward k =
    if k < 6 ∧ v.getLsbD k = true then { b.steward k with dump := none } else b.steward k := by
  rw [Block.writeDumpAck, Block.dropDumps_steward]
  simp

theorem Block.writeDumpAck_regs (v : Word) : (b.writeDumpAck v).regs = b.regs :=
  Block.forEach_keeps (fun x => x.regs = b.regs) _ _ _ rfl fun _ _ h => h

end

theorem ticks_per_watchdog_ms : timHz / 1000 = 400000 := by decide

/-- Settles O48: each event of a steward by its trigger and what it leaves of the steward. -/
theorem stewardEvents : Obligations.StewardEvents := by
  unfold Obligations.StewardEvents
  intro s i cause core v hrun
  extract_lets y x w dump
  refine ⟨fun hphase => ?verified, fun hphase hactive hother => ?bootFails, fun hphase => ?restarted, fun hphase hcause => ?restartFails, ?command,
    fun hruns => ?fault, fun hruns hlate => ?watchdog, fun hruns => ?kick, ?ack, ?dump⟩
  case verified => exact show execStewardVerifyDone i s = _ from onTray_eq_of hrun (if_pos (beq_iff_eq.mpr hphase))
  case bootFails =>
    rw [y.verifyDone_failed i hactive hother]
    exact ⟨rfl, rfl⟩
  case restarted => exact show execStewardRestartDone i s = _ from onTray_eq_of hrun (if_pos (beq_iff_eq.mpr hphase))
  case restartFails => exact y.restartDone_failed i hcause
  case command => exact show execStwCmdRestart v s = _ from onTray_eq_of hrun rfl
  case fault => exact show execStewardFault i cause core s = _ from onTray_eq_of hrun (if_pos hruns)
  case watchdog =>
    refine show execWatchdogExpire i core s = _ from onTray_eq_of hrun (if_pos ?_)
    rw [ticks_per_watchdog_ms]
    exact Bool.and_eq_true_iff.mpr ⟨hruns, decide_eq_true hlate⟩
  case kick => exact show execStwWdogWrite i s = _ from onTray_eq_of hrun (if_pos hruns)
  case ack =>
    refine ⟨s.setBlock .T (y.writeDumpAck v), show execStwDumpAckWrite v s = _ from onTray_eq_of hrun rfl, fun k hk hv => ?_, fun k hk => ?_,
      y.writeDumpAck_regs v, s.setBlock_sameBlock_other .T _⟩
    · exact congrArg Steward.dump ((y.writeDumpAck_steward v k).trans (if_pos ⟨hk, hv⟩))
    · refine (y.writeDumpAck_steward v k).trans (if_neg ?_)
      rintro ⟨hlt, hset⟩
      rcases hk with hge | hclear
      · omega
      · rw [hclear] at hset; cases hset
  case dump => exact show execStwDumpDataRead s = _ from onTray_eq_of hrun rfl

/-! ### The flash window (R446, R450) -/

section
variable {b : Block} {op : Nat}

/-- A command that the window may carry out runs, a program with the buffer as it stands. -/
theorem Block.writeFlashCmd_of_free (hop : op ≠ 0) (hidle : b.tray.window.op = 0)
    (hclosed : b.flashClosed (b.fld Reg.STW_FL_ADDR 31 8 * 256) = false) (hactivation : b.activation = none) (hruns : b.stewardRuns 4 = true) :
    b.writeFlashCmd op = (b.modWindow (fun w => { w with pos := 0 })).modWindow (fun w => { w with
      op := op, addr := b.fld Reg.STW_FL_ADDR 31 8 * 256, data := if op = 2 then sgetList bufByte w.buf 0 256 else [] }) := by
  unfold Block.writeFlashCmd
  extract_lets a busy z
  have hbusy : busy = false := by simp [busy, hidle]
  have hz : z.flashClosed a = false ∧ z.activation = none ∧ z.stewardRuns 4 = true := ⟨hclosed, hactivation, hruns⟩
  obtain ⟨hzclosed, hzactivation, hzruns⟩ := hz
  simp only [if_neg hop, hbusy, hzclosed, hzactivation, hzruns, Option.isSome_none, Bool.not_true, Bool.or_self, Bool.false_eq_true, if_false]
  rfl

/-- A command at an address that the window may not name is refused. -/
theorem Block.writeFlashCmd_of_closed (hop : op ≠ 0) (hclosed : b.flashClosed (b.fld Reg.STW_FL_ADDR 31 8 * 256) = true) :
    b.writeFlashCmd op = (b.modWindow (fun w => { w with pos := 0 })).flag Reg.STW_FL_STS 2 := by
  unfold Block.writeFlashCmd
  extract_lets a busy z
  have hzclosed : z.flashClosed a = true := hclosed
  simp only [if_neg hop, hzclosed, Bool.or_true, Bool.true_or, if_true]
  rfl

/-- The end of a window command, after what the command itself did. -/
def Block.endFlashCmd (b : Block) : Block := (b.flag Reg.STW_FL_STS 1).modWindow (fun w => { w with op := 0, data := [] })

theorem Block.flashCmdDone_of_erase (h : b.tray.window.op = 1) : b.flashCmdDone = (b.flashErase b.tray.window.addr).endFlashCmd := by
  simp only [Block.flashCmdDone, h]
  rfl

theorem Block.flashCmdDone_of_program {written : Block} (h : b.tray.window.op = 2)
    (hw : b.flashProgram b.tray.window.addr b.tray.window.data = written) : b.flashCmdDone =
      (if written.flashRead b.tray.window.addr 256 = b.tray.window.data then written else written.flag Reg.STW_FL_STS 3).endFlashCmd := by
  simp only [Block.flashCmdDone, h, hw]
  rfl

theorem Block.flashCmdDone_of_read (h : b.tray.window.op = 3) : b.flashCmdDone = (b.modWindow (fun x =>
    { x with buf := sputList bufByte x.buf 0 (b.flashRead b.tray.window.addr 256), pos := 0 })).endFlashCmd := by
  simp only [Block.flashCmdDone, h]
  rfl

end

section
variable {s : State} (hrun : s.running .T = true)
include hrun

theorem exec_flashCmdDone {op : Nat} (hop : s.t.tray.window.op = op) (hne : op ≠ 0) (hruns : s.t.stewardRuns 4 = true) :
    exec .flashCmdDone s = .next (s.setBlock .T s.t.flashCmdDone) :=
  show execFlashCmdDone s = _ from onTray_eq_of hrun (if_pos (Bool.and_eq_true_iff.mpr ⟨bne_iff_ne.mpr (hop ▸ hne), hruns⟩))

theorem exec_flashErase : exec .flashErase s = .next (s.setBlock .T (s.t.writeFlashCmd 1)) :=
  show execFlashErase s = _ from onTray_eq_of hrun rfl

theorem exec_flashProgram : exec .flashProgram s = .next (s.setBlock .T (s.t.writeFlashCmd 2)) :=
  show execFlashProgram s = _ from onTray_eq_of hrun rfl

theorem exec_flashRead : exec .flashRead s = .next (s.setBlock .T (s.t.writeFlashCmd 3)) :=
  show execFlashRead s = _ from onTray_eq_of hrun rfl

end

/-! ### The slot that EVR_RD_DATA latches (R419) -/

/-- Registers of an array that are set one after the other. -/
theorem Block.setEach_reg (b : Block) (base : Nat) (v : Nat → Word) (is : List Nat) (j : Nat) :
    (b.forEach is (fun b i => b.setReg (base + 4 * i) (v i))).reg (base + 4 * j) = if j ∈ is then v j else b.reg (base + 4 * j) := by
  induction is generalizing b with
  | nil => rfl
  | cons i is ih =>
    rw [Block.forEach_cons, ih]
    by_cases hj : j = i
    · subst hj
      simp [Block.setReg_reg]
    · have hne : base + 4 * j ≠ base + 4 * i := by omega
      simp [hj, Block.setReg_reg_other _ _ _ _ hne]

theorem Block.answer_reg (b : Block) (v : Word) (off : Nat) : ({ b with rdata := v } : Block).reg off = b.reg off := rfl

/-- A read of EVR_RD_DATA latches the eight words of the selected slot (R419). -/
theorem Block.latchCrumb_reg (b : Block) {i : Nat} (hi : i < 8) :
    b.latchCrumb.reg (Reg.EVR_RD_DATA + 4 * i) = BitVec.ofNat 32 (fieldAt b.selectedCrumb (4 * i) 4) := by
  rw [Block.latchCrumb, Block.answer_reg, Block.setEach_reg b Reg.EVR_RD_DATA (fun i => BitVec.ofNat 32 (fieldAt b.selectedCrumb (4 * i) 4)),
    if_pos (List.mem_range.mpr hi)]

/-- Settles O49: each command of the window and of the recorder by its trigger and its unit's rule. -/
theorem flashAndRecorder : Obligations.FlashAndRecorder := by
  unfold Obligations.FlashAndRecorder
  intro s b v c cs
  extract_lets y w a z data written ended free
  refine ⟨fun hrun => ⟨?write, ?read, fun hfree => ?erase, fun hfree => ?program, fun hfree => ?flashRead, fun hclosed => ?closed,
    fun hop hruns => ?eraseDone, fun hop hruns hsame => ?programDone, fun hop hruns hdiffers => ?mismatch, fun hop hruns => ?readDone,
    fun hlog hphase hqueue => ?crumb, fun hruns hdue => ?hours⟩, fun hrun => ?latch⟩
  case write => exact show execStwFlBufAccess false v s = _ from onTray_eq_of hrun rfl
  case read => exact show execStwFlBufAccess true v s = _ from onTray_eq_of hrun rfl
  case erase =>
    obtain ⟨hidle, hopen, hactivation, hruns⟩ := hfree
    rw [exec_flashErase hrun, Block.writeFlashCmd_of_free (by decide) hidle hopen hactivation hruns]
    rfl
  case program =>
    obtain ⟨hidle, hopen, hactivation, hruns⟩ := hfree
    rw [exec_flashProgram hrun, Block.writeFlashCmd_of_free (by decide) hidle hopen hactivation hruns]
    rfl
  case flashRead =>
    obtain ⟨hidle, hopen, hactivation, hruns⟩ := hfree
    rw [exec_flashRead hrun, Block.writeFlashCmd_of_free (by decide) hidle hopen hactivation hruns]
    rfl
  case closed =>
    rw [exec_flashErase hrun, exec_flashProgram hrun, exec_flashRead hrun, Block.writeFlashCmd_of_closed (by decide) hclosed,
      Block.writeFlashCmd_of_closed (by decide) hclosed, Block.writeFlashCmd_of_closed (by decide) hclosed]
    exact ⟨rfl, rfl, rfl⟩
  case eraseDone =>
    rw [exec_flashCmdDone hrun hop (by decide) hruns, Block.flashCmdDone_of_erase hop]
    rfl
  case programDone =>
    rw [exec_flashCmdDone hrun hop (by decide) hruns, Block.flashCmdDone_of_program hop rfl, if_pos hsame]
    rfl
  case mismatch =>
    rw [exec_flashCmdDone hrun hop (by decide) hruns, Block.flashCmdDone_of_program hop rfl, if_neg hdiffers]
    rfl
  case readDone =>
    rw [exec_flashCmdDone hrun hop (by decide) hruns, Block.flashCmdDone_of_read hop]
    rfl
  case crumb =>
    refine show execFlashCrumbProgram s = _ from onTray_eq_of hrun
      ((if_pos (Bool.and_eq_true_iff.mpr ⟨hlog, bne_iff_ne.mpr hphase⟩)).trans ?_)
    have hqueue' : s.t.recorder.queue = c :: cs := hqueue
    simp only [Block.programNext, hqueue']
    rfl
  case hours =>
    exact show execHoursCrumbDue s = _ from onTray_eq_of hrun (if_pos (Bool.and_eq_true_iff.mpr ⟨hruns, decide_eq_true hdue⟩))
  case latch =>
    have hlatched : ((s.setBlock b (s.block b).latchCrumb).block b) = (s.block b).latchCrumb := s.setBlock_block b _
    refine ⟨s.setBlock b (s.block b).latchCrumb, onBlock_running b Block.latchCrumb s hrun, ?_, fun i hi => ?_, s.setBlock_sameBlock_other b _⟩
    · rw [hlatched]
      rfl
    · rw [hlatched]
      exact (s.block b).latchCrumb_reg hi

end Sys2Proof.Machine

/-! Proofs: physical presence, power and sensors (O50). -/

namespace Sys2Proof.Machine

section
variable {b : Block} (hpower : b.power.phase ≠ 3)
include hpower

/-! ### The seal loop, the button and the jumper (R424 to R428) -/

omit hpower in
/-- A level of the loop that is taken already changes nothing. -/
theorem Block.takeLoop_of_same {isOpen : Bool} (h : b.tray.presence.loopOpen = isOpen) : b.takeLoop isOpen = b := by
  have hguard : (b.power.phase != 3 && b.tray.presence.loopOpen != isOpen) = false := by simp [h]
  simp only [Block.takeLoop, Block.when, hguard, Bool.false_eq_true, if_false]

/-- The loop opens: the break latches where the scan has run and none is latched. -/
theorem Block.takeLoop_open {opened : Block} (h : b.tray.presence.loopOpen = false)
    (hopened : b.modPres (fun p => { p with loopOpen := true, firstOpen := p.firstOpen || !p.scanned }) = opened) :
    b.takeLoop true = if b.tray.presence.scanned = true ∧ b.tray.presence.sealBroken = false then opened.latchSeal else opened := by
  have hguard : (b.power.phase != 3 && b.tray.presence.loopOpen != true) = true := by simp [hpower, h]
  have hkept : opened.tray.presence.scanned = b.tray.presence.scanned ∧ opened.tray.presence.sealBroken = b.tray.presence.sealBroken := by
    rw [← hopened]
    exact ⟨rfl, rfl⟩
  obtain ⟨hscanned, hbroken⟩ := hkept
  simp only [Block.takeLoop, Block.when, hguard, if_true, Bool.true_and, hopened, hscanned, hbroken, Bool.and_eq_true, Bool.not_eq_true']

theorem Block.takeLoop_close (h : b.tray.presence.loopOpen = true) : b.takeLoop false = b.modPres (fun p => { p with loopOpen := false }) := by
  have hguard : (b.power.phase != 3 && b.tray.presence.loopOpen != false) = true := by simp [hpower, h]
  simp only [Block.takeLoop, Block.when, hguard, if_true, Bool.false_and, Bool.or_false, Bool.false_eq_true, if_false]

omit hpower in
theorem Block.takeButton_of_same {pressed : Bool} (h : b.tray.presence.button = pressed) : b.takeButton pressed = b := by
  have hguard : (b.power.phase != 3 && b.tray.presence.button != pressed) = false := by simp [h]
  simp only [Block.takeButton, Block.when, hguard, Bool.false_eq_true, if_false]

theorem Block.takeButton_press (h : b.tray.presence.button = false) : b.takeButton true = (b.modPres (fun p => { p with button := true })).press := by
  have hguard : (b.power.phase != 3 && b.tray.presence.button != true) = true := by simp [hpower, h]
  simp only [Block.takeButton, Block.when, hguard, if_true]

theorem Block.takeButton_release (h : b.tray.presence.button = true) : b.takeButton false = b.modPres (fun p => { p with button := false }) := by
  have hguard : (b.power.phase != 3 && b.tray.presence.button != false) = true := by simp [hpower, h]
  simp only [Block.takeButton, Block.when, hguard, if_true, Bool.false_eq_true, if_false]

theorem Block.takeJumper_of_on (fitted : Bool) : b.takeJumper fitted = b.modPres (fun p => { p with jumper := fitted }) :=
  if_pos (bne_iff_ne.mpr hpower)

end

theorem presence_window_ticks : 120 * timHz = 48000000000 := by decide

section
variable {b y : Block} (hy : b.count Reg.SEC_PRESSES 1 = y)
include hy

/-! ### What a press does (R425, R428) -/

theorem Block.count_presence : y.tray.presence = b.tray.presence := by
  rw [← hy, b.count_tray]

theorem Block.press_opens (h : b.tray.presence.sealBroken = false) :
    b.press = y.modPres (fun p => { p with windowEnd := some (b.time.cycles + 48000000000) }) := by
  have htime : y.time = b.time := by rw [← hy, b.count_time]
  simp only [Block.press, htime, hy, Block.count_presence hy, h, Bool.not_false, if_true, Block.openWindow, presence_window_ticks]

theorem Block.press_reseals (h : b.tray.presence.sealBroken = true) (hjumper : b.tray.presence.jumper = true)
    (hloop : b.tray.presence.loopOpen = false) (hlog : y.logWrites = true) :
    b.press = ((y.modPres (fun p => { p with sealBroken := false })).healthCrumb 0x1502 0 0 0).openWindow := by
  simp only [Block.press, hy, Block.count_presence hy, h, hjumper, hloop, hlog, Bool.not_true, Bool.not_false, Bool.and_self, Bool.false_eq_true,
    if_false, if_true]

theorem Block.press_refused (h : b.tray.presence.sealBroken = true) (hno : b.tray.presence.jumper = false ∨ b.tray.presence.loopOpen = true) :
    b.press = y.flag Reg.SEC_STS 8 := by
  have hguard : (b.tray.presence.jumper && !b.tray.presence.loopOpen && y.logWrites) = false := by
    rcases hno with hno | hno <;> simp [hno]
  simp only [Block.press, hy, Block.count_presence hy, h, hguard, Bool.not_true, Bool.false_eq_true, if_false]

end

/-- What the sensor port presents leaves the power state. -/
theorem Block.presentSamples_power (b : Block) (samples : Samples) : (b.presentSamples samples).power = b.power := by
  unfold Block.presentSamples
  split <;> rfl

/-- Settles O50: each input by the level that it takes, a press by the seal, the transition and the samples by their conditions. -/
theorem presenceAndPower : Obligations.PresenceAndPower := by
  unfold Obligations.PresenceAndPower
  intro s b fitted pressed v n samples
  extract_lets y p loop opened button press x z
  have hloop : ∀ level (r : Block), s.running .T = true → (loop level).takeLoop level = r → exec (.sealLoopOpen level) s = .next (s.setBlock .T r) :=
    fun level r hrun h => show execSealLoopOpen level s = _ from onTray_eq_of hrun h
  have hbutton : ∀ level (r : Block), s.running .T = true → (button level).takeButton level = r → exec (.buttonPress level) s = .next (s.setBlock .T r) :=
    fun level r hrun h => show execButtonPress level s = _ from onTray_eq_of hrun h
  refine ⟨fun hrun hpower => ⟨fun hclosed hscanned hwhole => ?latches, fun hclosed hkept => ?opens, fun hopen => ?closes, fun hsame => ?sameLoop,
    fun hup hwhole => ?window, fun hup hbroken hjumper hclosed hlog => ?reseals, fun hup hbroken hno => ?refused, fun hsame => ?sameButton,
    fun hdown => ?released, ?jumper⟩, fun hrun hwindow hover => ?expires, fun hrun hset => ?closed, fun hrun htarget htime hruns => ?power,
    fun hrun hphase => ?sensors⟩
  case latches =>
    refine hloop true _ hrun ((Block.takeLoop_open (b := loop true) hpower hclosed rfl).trans (if_pos ⟨hscanned, hwhole⟩))
  case opens =>
    refine hloop true _ hrun ((Block.takeLoop_open (b := loop true) hpower hclosed rfl).trans (if_neg ?_))
    rintro ⟨hscanned, hwhole⟩
    rcases hkept with h | h
    · exact absurd (hscanned.symm.trans h) (by decide)
    · exact absurd (hwhole.symm.trans h) (by decide)
  case closes => exact hloop false _ hrun (Block.takeLoop_close (b := loop false) hpower hopen)
  case sameLoop => exact hloop fitted _ hrun (Block.takeLoop_of_same (b := loop fitted) hsame)
  case window =>
    refine hbutton true _ hrun ((Block.takeButton_press (b := button true) hpower hup).trans ?_)
    exact Block.press_opens rfl hwhole
  case reseals =>
    refine hbutton true _ hrun ((Block.takeButton_press (b := button true) hpower hup).trans ?_)
    exact Block.press_reseals rfl hbroken hjumper hclosed hlog
  case refused =>
    refine hbutton true _ hrun ((Block.takeButton_press (b := button true) hpower hup).trans ?_)
    exact Block.press_refused rfl hbroken hno
  case sameButton => exact hbutton pressed _ hrun (Block.takeButton_of_same (b := button pressed) hsame)
  case released => exact hbutton false _ hrun (Block.takeButton_release (b := button false) hpower hdown)
  case jumper =>
    let taken : Block := y.modPres (fun p => { p with jumperIn := { p.jumperIn with level := fitted } })
    exact show execJumperChange fitted s = _ from onTray_eq_of hrun (Block.takeJumper_of_on (b := taken) hpower fitted)
  case expires =>
    refine show execPresenceWindowExpire s = _ from onTray_eq_of hrun (if_pos ?_)
    exact Bool.and_eq_true_iff.mpr ⟨hwindow, by rw [hover]; rfl⟩
  case closed => exact show execSecCloseWrite v s = _ from onTray_eq_of hrun (if_pos hset)
  case power =>
    change execPowerTransition b s = _
    rw [execPowerTransition, onBlock_running b _ s hrun]
    have htarget' : (s.block b).power.target = some n := htarget
    have hgo : (x.build == .D || x.stewardRuns 4) = true := by
      rcases hruns with h | h
      · rw [h]; rfl
      · rw [h, Bool.or_true]
    have hdue : ((s.block b).build == .D && !(s.block b).time.valid || (ftGe (s.block b).ft (s.block b).power.time &&
        ((s.block b).build == .D || (s.block b).stewardRuns 4))) = true :=
      Bool.or_eq_true_iff.mpr (.inr (Bool.and_eq_true_iff.mpr ⟨htime, hgo⟩))
    simp only [htarget', Block.when, hdue, if_true]
    rfl
  case sensors =>
    change execSensorSample b samples s = _
    rw [execSensorSample, onBlock_running b _ s hrun]
    have hz : z.power.phase < 2 := by rwa [Block.presentSamples_power]
    have hawake : z.asleep = false := decide_eq_false (Nat.not_le.mpr hz)
    have hdue : (z.power.phase != 3 && (z.build == .T || !z.asleep)) = true := by
      rw [hawake, Bool.not_false, Bool.or_true, Bool.and_true]
      exact bne_iff_ne.mpr (by omega)
    exact congrArg (fun r => Host.Outcome.next (s.setBlock b r)) (if_pos hdue)

end Sys2Proof.Machine

/-! Proofs: doorbells, rings, ownership and the link of the host interface (O51). -/

namespace Sys2Proof.Machine

/-! ### Doorbells (R374) -/

section
variable (b : Block)

theorem Block.commandDoorbell_of_room {i v : Nat} (hon : b.isSet (cmdReg Reg.HST_CMD_CFG i) 31 = true)
    (hsize : v < ringSize (b.fld (cmdReg Reg.HST_CMD_CFG i) 20 16))
    (hahead : ((b.tray.host.cmdRing i).tail + ringSize (b.fld (cmdReg Reg.HST_CMD_CFG i) 20 16) - (b.tray.host.cmdRing i).head) %
        ringSize (b.fld (cmdReg Reg.HST_CMD_CFG i) 20 16) ≤
      (v + ringSize (b.fld (cmdReg Reg.HST_CMD_CFG i) 20 16) - (b.tray.host.cmdRing i).head) % ringSize (b.fld (cmdReg Reg.HST_CMD_CFG i) 20 16)) :
    b.commandDoorbell i v = b.modHost (fun h => h.modCmd i (fun r => { r with tail := v })) := by
  refine if_neg ?_
  rintro (hoff | hpast | hback)
  · rw [hon] at hoff; cases hoff
  · exact absurd hpast (Nat.not_le.mpr hsize)
  · exact absurd hback (Nat.not_lt.mpr hahead)

theorem Block.commandDoorbell_ignored {i v : Nat} (h : b.isSet (cmdReg Reg.HST_CMD_CFG i) 31 = false ∨
    ringSize (b.fld (cmdReg Reg.HST_CMD_CFG i) 20 16) ≤ v) : b.commandDoorbell i v = (b.count Reg.HST_DB_ERR 1).flag Reg.HST_STS 1 :=
  if_pos (h.imp (fun hoff => by rw [hoff]; rfl) .inl)

theorem Block.consumerDoorbell_event {v : Nat} (hon : b.isSet Reg.HST_EVT_CFG 31 = true) (hsize : v < ringSize (b.fld Reg.HST_EVT_CFG 28 24))
    (hahead : (v + ringSize (b.fld Reg.HST_EVT_CFG 28 24) - b.tray.host.evt.head) % ringSize (b.fld Reg.HST_EVT_CFG 28 24) ≤
      (b.tray.host.evt.tail + ringSize (b.fld Reg.HST_EVT_CFG 28 24) - b.tray.host.evt.head) % ringSize (b.fld Reg.HST_EVT_CFG 28 24)) :
    b.consumerDoorbell 32 v = b.modHost (fun h => { h with evt := { h.evt with head := v } }) := by
  have hcfg : ringCfg 32 = Reg.HST_EVT_CFG := rfl
  have hring : b.tray.host.outRing 32 = b.tray.host.evt := rfl
  have htaken : ¬ ((!b.ringOn 32) = true ∨ ringSize (b.fld Reg.HST_EVT_CFG 28 24) ≤ v ∨
      (b.tray.host.evt.tail + ringSize (b.fld Reg.HST_EVT_CFG 28 24) - b.tray.host.evt.head) % ringSize (b.fld Reg.HST_EVT_CFG 28 24) <
        (v + ringSize (b.fld Reg.HST_EVT_CFG 28 24) - b.tray.host.evt.head) % ringSize (b.fld Reg.HST_EVT_CFG 28 24)) := by
    rintro (hoff | hpast | hback)
    · rw [Block.ringOn, hcfg, hon] at hoff; cases hoff
    · exact absurd hpast (Nat.not_le.mpr hsize)
    · exact absurd hback (Nat.not_lt.mpr hahead)
  simp only [Block.consumerDoorbell, hcfg, hring, if_neg htaken]
  rfl

/-! ### Ownership (R368 to R370) -/

theorem Block.claim_of_free (h : b.tray.host.owner = 0 ∨ (b.tray.host.owner = 2 ∧ b.tray.host.claimLatch = b.tray.host.ownerId)) :
    b.claim = b.modHost (fun h => { h with owner := 1, ownerId := h.claimLatch, eseq := 0 }) := if_pos h

theorem Block.claim_refused (h : b.tray.host.owner = 1 ∨ (b.tray.host.owner = 2 ∧ b.tray.host.claimLatch ≠ b.tray.host.ownerId)) :
    b.claim = b.flag Reg.HST_STS 3 := by
  refine if_neg ?_
  rintro (hfree | ⟨htwo, hsame⟩)
  · rcases h with hone | ⟨htwo, -⟩ <;> omega
  · rcases h with hone | ⟨-, hother⟩
    · omega
    · exact hother hsame

/-- What an event that ends ownership does by the state of the ownership (R369). -/
theorem Block.endOwnership_cases : (b.tray.host.owner = 1 → b.endOwnership = b.loseOwnership 0) ∧
    (b.tray.host.owner = 2 → b.endOwnership = b.modHost (fun h => { h with owner := 0 })) ∧ (b.tray.host.owner = 0 → b.endOwnership = b) := by
  refine ⟨fun h => ?_, fun h => ?_, fun h => ?_⟩
  · simp only [Block.endOwnership, h]
  · simp only [Block.endOwnership, h]
  · simp only [Block.endOwnership, h]

/-- The commands that end ownership. -/
theorem exec_endsOwnership {c : Instr} (hc : c = .hstOwnRelease ∨ c = .pcieFlr ∨ c = .pcieHotReset ∨ c = .pcieLinkDown) (s : State) :
    exec c s = onTray Block.endOwnership s := by
  rcases hc with rfl | rfl | rfl | rfl <;> rfl

/-! ### Ring configuration (R372) -/

variable {d : Nat} {v : Word}

theorem Block.writeRingCfg_of_off (hring : b.ringOn d = false) (hclear : v.getLsbD 31 = false) :
    b.writeRingCfg d v = b.setReg (ringCfg d) (b.cfgFields d v) := by
  simp only [Block.writeRingCfg, hring, hclear, Bool.not_false, if_true]

theorem Block.writeRingCfg_enables (hring : b.ringOn d = false) (hset : v.getLsbD 31 = true) (hmay : b.mayEnable d (v &&& cfgMask d) = true) :
    b.writeRingCfg d v = (b.setReg (ringCfg d) (setB (b.cfgFields d v) 31)).ringStarts d := by
  simp only [Block.writeRingCfg, hring, hset, hmay, Bool.not_false, Bool.not_true, Bool.false_eq_true, if_true, if_false]

theorem Block.writeRingCfg_refused (hring : b.ringOn d = false) (hset : v.getLsbD 31 = true) (hno : b.mayEnable d (v &&& cfgMask d) = false) :
    b.writeRingCfg d v = b.flag Reg.HST_STS 2 := by
  simp only [Block.writeRingCfg, hring, hset, hno, Bool.not_false, Bool.not_true, Bool.false_eq_true, if_true, if_false, Block.cfgRefused]

/-- No ring but a completion ring is kept enabled by others. -/
theorem Block.writeRingCfg_disables (hring : b.ringOn d = true) (hclear : v.getLsbD 31 = false) (hd : d < 16 ∨ 32 ≤ d) :
    b.writeRingCfg d v = b.disableRing d := by
  have hfree : ¬ (16 ≤ d ∧ d < 32 ∧ ((List.range 16).any (fun i => b.ringOn i && b.cplOf i == d - 16)) = true) := by omega
  simp only [Block.writeRingCfg, hring, hclear, Bool.not_true, Bool.false_eq_true, if_false, if_neg hfree]

/-! ### What is held back (R388, R391) -/

/-- Where alarms and the FIFO are empty, the events that were discarded are told (R388). -/
theorem Block.drainLost_of_lost (hopen : b.eventOpen = true) (hlost : 0 < b.tray.host.lostEvents) :
    b.drainLost = (b.modHost (fun h => { h with lostEvents := 0 })).writeEvent 65 3 0 0
      (leBytes 2 0x1201 ++ zeros 2 ++ leBytes 4 (satTo (2 ^ 32 - 1) b.tray.host.lostEvents)) := by
  have htell : ¬ (b.tray.host.lostEvents = 0 ∨ (!b.eventOpen) = true) := by
    rintro (h | h)
    · omega
    · rw [hopen] at h; cases h
  simp only [Block.drainLost, if_neg htell]

theorem Block.drainGaps_of_none {e : Nat} (h : (b.tray.host.expRing e).gaps = []) : b.drainGaps e = b := by
  simp only [Block.drainGaps, h, Block.forEach_nil]

/-- The one bundle that is held is written where it has its places (R391). -/
theorem Block.drainBundles_of_one {e off : Nat} {u : Bundle} {places : List (Nat × Bytes)} (hhold : (b.tray.host.expRing e).hold = [u])
    (hplaces : b.bundlePlaces e u = some (places, off)) :
    b.drainBundles e 1 = (b.writeBundle e u places off).modExp e (fun x => { x with hold := [] }) := by
  simp only [Block.drainBundles, hhold, hplaces]

end

theorem ticks_per_us : ticksPerUs = 16000 := by decide

/-- Settles O51: each event of the host interface by its trigger and its unit's rule. -/
theorem hostInterface : Obligations.HostInterface := by
  unfold Obligations.HostInterface
  intro s i v d isRead level e u places off m hrun
  extract_lets y h r size n ev evSize mod us msg
  have hcfg : ∀ z : Block, y.writeRingCfg d v = z → exec (.ringCfgWrite d v) s = .next (s.setBlock .T z) := fun z hz =>
    show execRingCfgWrite d v s = _ from onTray_eq_of hrun hz
  refine ⟨fun hon hsize hahead => ?doorbell, fun hignored => ?ignored, fun hon hsize hahead => ?consumer, fun hruns hmaster => ?take,
    fun hfree => ?claimed, fun hheld => ?notClaimed, fun c hc => ?ends, fun howner htime => ?timeout,
    fun hring hclear => hcfg _ (y.writeRingCfg_of_off hring hclear), fun hring hset hmay => hcfg _ (y.writeRingCfg_enables hring hset hmay),
    fun hring hset hno => hcfg _ (y.writeRingCfg_refused hring hset hno),
    fun hring hclear hd => hcfg _ (y.writeRingCfg_disables hring hclear hd), ?malformed, rfl, fun hopen halarms hfifo hlost => ?events,
    fun hopen hgaps hhold hplaces => ?bundle, fun hunsignalled hus htime => ?message⟩
  case doorbell => exact show execCommandDoorbell i v s = _ from onTray_eq_of hrun (y.commandDoorbell_of_room hon hsize hahead)
  case ignored => exact show execCommandDoorbell i v s = _ from onTray_eq_of hrun (y.commandDoorbell_ignored hignored)
  case consumer => exact show execConsumerDoorbell 16 v s = _ from onTray_eq_of hrun (y.consumerDoorbell_event hon hsize hahead)
  case take => exact show execDescriptorTake s = _ from onTray_eq_of hrun (if_pos (Bool.and_eq_true_iff.mpr ⟨hruns, hmaster⟩))
  case claimed => exact show execHstOwnClaim s = _ from onTray_eq_of hrun (y.claim_of_free hfree)
  case notClaimed => exact show execHstOwnClaim s = _ from onTray_eq_of hrun (y.claim_refused hheld)
  case ends =>
    obtain ⟨hone, htwo, hzero⟩ := y.endOwnership_cases
    rw [exec_endsOwnership hc s]
    exact ⟨fun howner => onTray_eq_of hrun (hone howner), fun howner => onTray_eq_of hrun (htwo howner),
      fun howner => onTray_eq_same hrun (hzero howner)⟩
  case timeout =>
    exact show execTransferTimeout s = _ from onTray_eq_of hrun
      (if_pos (Bool.and_eq_true_iff.mpr ⟨beq_iff_eq.mpr howner, decide_eq_true htime⟩))
  case malformed => exact show execBarMalformedAccess isRead s = _ from onTray_eq_of hrun rfl
  case events =>
    have hheld : (y.eventOpen && !y.tray.host.nothingHeld) = true := by
      have hsome : (y.tray.host.lostEvents == 0) = false := beq_eq_false_iff_ne.mpr (Nat.ne_of_gt hlost)
      rw [hopen, HostUnit.nothingHeld, hsome, Bool.and_false]
      rfl
    have halarms' : s.t.tray.host.alarmHold = [] := halarms
    have hfifo' : s.t.tray.host.fifo = [] := hfifo
    refine show execEventHoldDrain s = _ from onTray_eq_of hrun ((if_pos hheld).trans ?_)
    simp only [halarms', hfifo', List.length_nil, Block.drainAlarms, Block.drainFifo, List.isEmpty_nil, Bool.not_true, Bool.false_eq_true,
      if_false, if_true]
    exact y.drainLost_of_lost hopen hlost
  case bundle =>
    have hhold' : (s.t.tray.host.expRing e).hold = [u] := hhold
    have hgaps' : (s.t.tray.host.expRing e).gaps = [] := hgaps
    have hheld : (s.t.exportOpen e && !((s.t.tray.host.expRing e).hold.isEmpty && (s.t.tray.host.expRing e).gaps.isEmpty)) = true := by
      rw [hhold', Bool.and_eq_true_iff]
      exact ⟨hopen, rfl⟩
    refine show execExportHoldDrain e s = _ from onTray_eq_of hrun ((if_pos hheld).trans ?_)
    simp only [Block.drainGaps_of_none _ hgaps', hgaps', hhold', List.isEmpty_nil, List.length_singleton, if_true]
    exact y.drainBundles_of_one hhold hplaces
  case message =>
    have hdue : (decide (0 < mod.unsignalled) && us != 0 && ftGe y.ft (ftAdd mod.firstUnsignalled (us * ticksPerUs))) = true := by
      rw [ticks_per_us, htime, decide_eq_true hunsignalled, bne_iff_ne.mpr hus]
      rfl
    exact show execMsixModExpire m s = _ from onTray_eq_of hrun (if_pos hdue)

end Sys2Proof.Machine
